-- ==== Sys2Proof/Word.lean ====
section
/-! DEFINITION. The word types of the ZF-960 and their plainest arithmetic (R1, R2, R21, R24). -/

namespace Sys2Proof

/-- One byte of memory (R2). -/
abbrev Byte := BitVec 8

/-- A 32-bit instruction word, scalar register or lane register (R47). -/
abbrev Word := BitVec 32

/-- A 64-bit value: an even-odd pair or a last-result entry (R48, R52). -/
abbrev DWord := BitVec 64

/-- A set of the 96 lanes of a group; bit i stands for lane i (R24, R25). -/
abbrev Lanes := BitVec 96

/-- The 96 lanes, in ascending order. -/
abbrev allLanes : List Nat := List.range 96

/-- Bits [hi:lo] of a number (R1). -/
abbrev bits (n hi lo : Nat) : Nat := n / 2 ^ lo % 2 ^ (hi + 1 - lo)

end Sys2Proof
end

