-- ==== Sys2Proof/Config.lean ====
section
/-! DEFINITION. The fixed figures of the ZF-960 and the free values: what the manual leaves undefined is an uninterpreted
function here, so that nothing in Lean can evaluate it and a claim about it holds for every value. -/

namespace Sys2Proof.Config

/-- Lanes of a group (R21). -/
abbrev lanes : Nat := 96
/-- Logical cores (R10). -/
abbrev cores : Nat := 352
/-- Clusters (R10). -/
abbrev clusters : Nat := 88
/-- Cores of one die (R10). -/
abbrev coresPerDie : Nat := 88
/-- Owners (R17). -/
abbrev owners : Nat := 64
/-- Active queue slots (R267). -/
abbrev queueSlots : Nat := 32
/-- Host queues (R304). -/
abbrev queues : Nat := 1024
/-- Resident groups of a core (R11). -/
abbrev residencies : Nat := 32
/-- Register lines of a core (R11). -/
abbrev storeLines : Nat := 256
/-- Scratchpad bytes of a core (R65). -/
abbrev spadBytes : Nat := 524288
/-- Granules of an operand buffer (R67). -/
abbrev granules : Nat := 1024
/-- Bytes of a tile in memory (R71). -/
abbrev tileBytes : Nat := 18432
/-- First-tier bytes (R73). -/
abbrev firstTier : Nat := 640000000000
/-- First physical address of the reservoir (R73). -/
abbrev reservoirBase : Nat := 0x10000000000
/-- Reservoir bytes (R73). -/
abbrev reservoirBytes : Nat := 2000000000000
/-- Cycles of a metering period (R300). -/
abbrev period : Nat := 300000
/-- Cycles of a ramp slot (R277). -/
abbrev rampSlot : Nat := 3000
/-- Bytes of an engine chunk (R237). -/
abbrev chunk : Nat := 65536

/-- The n-th free 64-bit value of an owner, or of the module (owner 64): an undefined value of R5, of which nothing is known. (log 7: DESIGN CHOICE) -/
opaque freeWord : Nat → Nat → DWord
/-- The n-th free choice of an owner between two outcomes the manual allows (R124). (log 7: DESIGN CHOICE) -/
opaque freeChoice : Nat → Nat → Bool
/-- SM2 check of a signature over the SM3 digest of a firmware image against the fused key (R20, R414). (log 15: DESIGN CHOICE) -/
opaque sm2Verify : BitVec 256 → BitVec 512 → Bool
/-- SM2 signature with the module's identity key (R415). (log 15: DESIGN CHOICE) -/
opaque sm2Sign : List Byte → BitVec 512
/-- Rounding under a reserved RND code, which an image can carry into the mode word (R57, R79): one of the five modes of R78. (log 16: DESIGN CHOICE) -/
opaque reservedMode : Nat → Fin 5
/-- Rounding of the power estimate to whole milliwatts (counter 49, R314), from its sum of hundredths of watts over a slot. (log 17: DESIGN CHOICE) -/
opaque roundEstimate : Nat → DWord

/-- The row that a 64-byte block of the first tier lies in: the spec names rows and channels and gives no map (R408).
 (log 105: DESIGN CHOICE) -/
opaque hbmRow : Nat → Nat
/-- The channel that a row lies in (R408). (log 105: DESIGN CHOICE) -/
opaque hbmChannel : Nat → Nat
/-- Spare rows of a channel (R408). (log 105: DESIGN CHOICE) -/
opaque rowSpares : Nat

end Sys2Proof.Config
end

