-- ==== Sys2Proof/Machine/Requests.lean ====
section
/-! DEFINITION. The data that parties outside a path hand to the ZF-960: names of paths, poison units, owner, queue and
communicator requests, peer chunks, migration and firmware-update steps. They are arguments of the event rows of the
opcode table (hosts, firmware, peers and the part's own units act through those rows). -/

namespace Sys2Proof.Machine

/-- Names one path: launch sequence number, block index, block group index, path-table index (R28, R33, R34). -/
structure PathRef where
  launch : Nat
  block : Nat
  group : Nat
  path : Nat
deriving DecidableEq, Repr

/-- The causes of a pre-emption (R335, R364, R388, R390, R408). -/
inductive PreemptCause
  | prio | faulted | quiet | contention | throttling | ownerStop | ownerReset | migration | repair
deriving DecidableEq, Repr

/-- The unit an uncorrectable error lies in (R377). -/
inductive PoisonUnit
  /-- the 64-byte block that holds physical address `pa` -/
  | memory (pa : Nat)
  /-- the aligned 4-byte word of a block's scratchpad allocation at a 21-bit address -/
  | scratchpad (launch block addr : Nat)
  /-- register line `line` of a group -/
  | line (launch block group line : Nat)
  /-- the operand file of a group -/
  | operandFile (launch block group : Nat)
  /-- reservation `q` of a core -/
  | reservation (core q : Nat)
  /-- tile `t` of a core -/
  | tile (core t : Nat)
deriving DecidableEq, Repr

/-- A run of 8 KiB pages given to an owner, with its SHARE group (R308). -/
structure PageGrant where
  first : Nat
  count : Nat
  share : Nat
deriving DecidableEq, Repr

/-- The owner record of R299, with SPECVA (R273) and WDOG (R369), and the pages the firmware gives the owner with it:
`grants` are ordinary pages, `rsvPages` the physical pages behind the pinned reserve in order, `specPages` the first-tier
pages of the specialisation cache in order (R273, R353). -/
structure OwnerRequest where
  qblocks : BitVec 64
  clusters : BitVec 88
  issuew : Nat
  issuecap : Nat
  hbmbw : Nat
  resbw : Nat
  engw : Nat
  specmax : Nat
  welltab : Nat
  winbase : Nat
  rsvbase : Nat
  rsvlen : Nat
  rsvlines : Nat
  rsvslots : Nat
  rsvtime : Nat
  specva : Nat
  wdog : Nat
  grants : List PageGrant
  rsvPages : List Nat
  specPages : List Nat
  /-- share groups that the firmware sets with the request: group number and its set of owners (R308) -/
  shares : List (Nat × BitVec 64)
deriving DecidableEq, Repr

/-- A read by the host: of a host window (R303), or of a notify register, by its BAR0 offset (R305). -/
inductive HostRead
  | window (o offset len : Nat)
  | notify (offset : Nat)
deriving DecidableEq, Repr

/-- A queue record request (R304). -/
structure QueueRequest where
  owner : Nat
  ring : Nat
  sizel2 : Nat
  headaddr : Nat
deriving DecidableEq, Repr

/-- A communicator table entry (R312): members P, this device's rank, device number and remote owner of each rank, port set. -/
structure Communicator where
  members : Nat
  rank : Nat
  peers : List (Nat × Nat)
  ports : BitVec 16
deriving DecidableEq, Repr

/-- A collective chunk from a peer (R242, R243, R313): the destination owner and communicator, the index of the sender's
descriptor on it, the sender's rank, its OP, RED, TYPE, COUNT and ROOT, and source bytes from a byte offset on. -/
structure PeerChunk where
  owner : Nat
  comm : Nat
  index : Nat
  rank : Nat
  op : Nat
  red : Nat
  ty : Nat
  count : Nat
  root : Nat
  offset : Nat
  bytes : List Byte
deriving DecidableEq, Repr

/-- The steps of a live migration (R390): on the source, and the arrival on the destination, whose firmware gives the owner pages: old page, new page. -/
inductive MigrationStep
  | start (owner : Nat)
  | flip (owner : Nat)
  | abandon (owner : Nat)
  | arrive (owner : Nat) (pages : List (Nat × Nat))
deriving DecidableEq, Repr

/-- The steps of a live firmware update (R410): an image is offered, or a control core that has finished its request
switches to the standby image; and what the firmware's install path does to the region table: it installs an entry, or frees one (R412). -/
inductive UpdateStep
  | offer (image : List Byte) (version : Nat) (signature : BitVec 512)
  | switchCore (k : Nat)
  | install (k base limit : Nat) (rights : BitVec 2)
  | free (k : Nat)
deriving DecidableEq, Repr

/-- The removal of the module (R411): it is prepared, or the module is pulled from its slot, prepared or not. -/
inductive RemovalStep
  | prepare
  | pull
deriving DecidableEq, Repr

end Sys2Proof.Machine
end

