-- ==== Sys2Proof/Syntax.lean ====
section
/-! DEFINITION. The instructions and events of the ZF-960: one constructor per row of spec/opcode_table.json.

The first word of every instruction carries STALL (st, bits [31:30]); operand fields stand as encoded (specifiers of R126),
because an encoded but unacceptable operand is an instruction that takes the illegal-instruction trap (R136, R341).
A two-word instruction carries the fields of its trailing word too (R121). The event rows are steps of the part itself, of the
host, of the firmware or of peers; their arguments name what they act on. -/

open Sys2Proof.Machine

namespace Sys2Proof

/-- One instruction word (with its trailing word) or one event of the machine. -/
inductive Instr
  /-- PREFIX (R129): Prefix word that sets mask selection, rounding, zeroing, fourth operand, type extension and saturation for the next word of its clause. -/
  | pfx (m : BitVec 3) (r : BitVec 3) (z : BitVec 1) (f : BitVec 8) (e : BitVec 4) (t : BitVec 1)
  /-- ADD (R140): Scalar integer add at width w, wrapping or clamping with SAT. -/
  | add (st : BitVec 2) (d a : BitVec 8) (b : BitVec 7)
  /-- SUB (R140): Scalar integer subtract. -/
  | sub (st : BitVec 2) (d a : BitVec 8) (b : BitVec 7)
  /-- MUL (R140): Scalar integer multiply, low half. -/
  | mul (st : BitVec 2) (d a : BitVec 8) (b : BitVec 7)
  /-- MULH (R140): Scalar integer multiply, high half of the 2w-bit product. -/
  | mulh (st : BitVec 2) (d a : BitVec 8) (b : BitVec 7)
  /-- DIV (R141): Scalar integer divide rounding toward zero, with fixed results for zero divisor and overflow. -/
  | div (st : BitVec 2) (d a : BitVec 8) (b : BitVec 7)
  /-- REM (R141): Scalar integer remainder with the sign of the dividend. -/
  | rem (st : BitVec 2) (d a : BitVec 8) (b : BitVec 7)
  /-- AND (R140): Scalar bitwise AND. -/
  | and (st : BitVec 2) (d a : BitVec 8) (b : BitVec 7)
  /-- OR (R140): Scalar bitwise OR. -/
  | or (st : BitVec 2) (d a : BitVec 8) (b : BitVec 7)
  /-- XOR (R140): Scalar bitwise XOR. -/
  | xor (st : BitVec 2) (d a : BitVec 8) (b : BitVec 7)
  /-- SHL (R140): Scalar shift left by y mod w. -/
  | shl (st : BitVec 2) (d a : BitVec 8) (b : BitVec 7)
  /-- SHR (R140): Scalar logical shift right by y mod w. -/
  | shr (st : BitVec 2) (d a : BitVec 8) (b : BitVec 7)
  /-- SAR (R140): Scalar arithmetic shift right by y mod w. -/
  | sar (st : BitVec 2) (d a : BitVec 8) (b : BitVec 7)
  /-- MIN (R140): Scalar integer minimum under the type's order. -/
  | min (st : BitVec 2) (d a : BitVec 8) (b : BitVec 7)
  /-- MAX (R140): Scalar integer maximum under the type's order. -/
  | max (st : BitVec 2) (d a : BitVec 8) (b : BitVec 7)
  /-- SEL (R143): Scalar select on the destination's prior value as condition. -/
  | sel (st : BitVec 2) (d a : BitVec 8) (b : BitVec 7)
  /-- CMP (R142): Scalar compare writing all-ones or zero to a scalar triple. -/
  | cmp (st : BitVec 2) (c : BitVec 3) (d : BitVec 5) (a : BitVec 8) (b : BitVec 7)
  /-- MOV (R144): Scalar move. -/
  | mov (st : BitVec 2) (d a : BitVec 8)
  /-- NOT (R144): Scalar bitwise NOT. -/
  | not (st : BitVec 2) (d a : BitVec 8)
  /-- ABS (R144): Scalar absolute value. -/
  | abs (st : BitVec 2) (d a : BitVec 8)
  /-- NEG (R144): Scalar negate. -/
  | neg (st : BitVec 2) (d a : BitVec 8)
  /-- CLZ (R144): Scalar count of leading zeros. -/
  | clz (st : BitVec 2) (d a : BitVec 8)
  /-- POPC (R144): Scalar population count. -/
  | popc (st : BitVec 2) (d a : BitVec 8)
  /-- MMOV (R147): Copy a mask triple, ANDing words written to the live mask with presence. -/
  | mmov (st : BitVec 2) (d a : BitVec 8)
  /-- MNOT (R147): Invert a mask triple. -/
  | mnot (st : BitVec 2) (d a : BitVec 8)
  /-- MPOP (R147): Count the one bits of a 96-bit mask triple into one scalar. -/
  | mpop (st : BitVec 2) (d a : BitVec 8)
  /-- MOVK (R145): Two-word move of a 32-bit literal into a scalar. -/
  | movk (st : BitVec 2) (d : BitVec 8) (v : Word)
  /-- MAND (R147): AND of two mask triples. -/
  | mand (st : BitVec 2) (d a : BitVec 8) (b : BitVec 7)
  /-- MOR (R147): OR of two mask triples. -/
  | mor (st : BitVec 2) (d a : BitVec 8) (b : BitVec 7)
  /-- MXOR (R147): XOR of two mask triples. -/
  | mxor (st : BitVec 2) (d a : BitVec 8) (b : BitVec 7)
  /-- MANDN (R147): AND-NOT of two mask triples. -/
  | mandn (st : BitVec 2) (d a : BitVec 8) (b : BitVec 7)
  /-- BRA (R149): Unconditional branch of the path to a clause header. -/
  | bra (st : BitVec 2) (o : BitVec 23)
  /-- BRZ (R149): Branch of the path when all three words of a triple are zero. -/
  | brz (st : BitVec 2) (a : BitVec 8) (o : BitVec 15)
  /-- BRNZ (R149): Branch of the path when any word of a triple is nonzero. -/
  | brnz (st : BitVec 2) (a : BitVec 8) (o : BitVec 15)
  /-- CALL (R151): Group-wide call that writes a frame record, sets the link and slides the window by n lines. -/
  | call (st : BitVec 2) (n : BitVec 3) (o : BitVec 20)
  /-- FORK (R30): Two-word split of the running path by a mask, allocating a join record and token. -/
  | fork (st : BitVec 2) (d a : BitVec 8) (v : Word)
  /-- JOIN (R32): Arrive at a join record, waiting or finishing at once. -/
  | join (st : BitVec 2) (a : BitVec 8)
  /-- TRIP (R156): Write a loop counter and mark a loop for the specialiser. -/
  | trip (st : BitVec 2) (d a : BitVec 8)
  /-- NOP (R157): Issue and do nothing. -/
  | nop (st : BitVec 2)
  /-- RET (R152): Group-wide return that restores mask and link from the frame record and slides the window back. -/
  | ret (st : BitVec 2)
  /-- EXIT (R158): End the lanes of the live mask, removing them from presence. -/
  | exit (st : BitVec 2)
  /-- SLEEP (R157): Put the path to sleep for v cycles. -/
  | sleep (st : BitVec 2) (a : BitVec 8)
  /-- SLEEP_EXPIRE (R157): A sleeping path's deadline passes and the path becomes ready. -/
  | sleepExpire (p : PathRef)
  /-- RDMODE (R160): Read the group's FP mode word. -/
  | rdmode (st : BitVec 2) (d : BitVec 8)
  /-- WRMODE (R160): Write the group's FP mode word, effective for later-issued words. -/
  | wrmode (st : BitVec 2) (a : BitVec 8)
  /-- ADD_VECTOR_INT (R165): Vector integer add per active lane. -/
  | addVectorInt (st : BitVec 2) (d a : BitVec 8) (b : BitVec 7)
  /-- SUB_VECTOR_INT (R165): Vector integer subtract. -/
  | subVectorInt (st : BitVec 2) (d a : BitVec 8) (b : BitVec 7)
  /-- MUL_VECTOR_INT (R165): Vector integer multiply. -/
  | mulVectorInt (st : BitVec 2) (d a : BitVec 8) (b : BitVec 7)
  /-- MULH_VECTOR_INT (R165): Vector integer multiply high. -/
  | mulhVectorInt (st : BitVec 2) (d a : BitVec 8) (b : BitVec 7)
  /-- DIV_VECTOR_INT (R165): Vector integer divide. -/
  | divVectorInt (st : BitVec 2) (d a : BitVec 8) (b : BitVec 7)
  /-- REM_VECTOR_INT (R165): Vector integer remainder. -/
  | remVectorInt (st : BitVec 2) (d a : BitVec 8) (b : BitVec 7)
  /-- AND_VECTOR (R165): Vector bitwise AND. -/
  | andVector (st : BitVec 2) (d a : BitVec 8) (b : BitVec 7)
  /-- OR_VECTOR (R165): Vector bitwise OR. -/
  | orVector (st : BitVec 2) (d a : BitVec 8) (b : BitVec 7)
  /-- XOR_VECTOR (R165): Vector bitwise XOR. -/
  | xorVector (st : BitVec 2) (d a : BitVec 8) (b : BitVec 7)
  /-- SHL_VECTOR (R165): Vector shift left. -/
  | shlVector (st : BitVec 2) (d a : BitVec 8) (b : BitVec 7)
  /-- SHR_VECTOR (R165): Vector logical shift right. -/
  | shrVector (st : BitVec 2) (d a : BitVec 8) (b : BitVec 7)
  /-- SAR_VECTOR (R165): Vector arithmetic shift right. -/
  | sarVector (st : BitVec 2) (d a : BitVec 8) (b : BitVec 7)
  /-- MIN_VECTOR_INT (R165): Vector integer minimum. -/
  | minVectorInt (st : BitVec 2) (d a : BitVec 8) (b : BitVec 7)
  /-- MAX_VECTOR_INT (R165): Vector integer maximum. -/
  | maxVectorInt (st : BitVec 2) (d a : BitVec 8) (b : BitVec 7)
  /-- SEL_VECTOR (R168): Vector per-lane select on the fourth operand. -/
  | selVector (st : BitVec 2) (d a : BitVec 8) (b : BitVec 7)
  /-- CMP_VECTOR_INT (R167): Vector integer compare writing a mask triple of active lanes where the condition holds. -/
  | cmpVectorInt (st : BitVec 2) (c : BitVec 3) (d : BitVec 5) (a : BitVec 8) (b : BitVec 7)
  /-- MOV_VECTOR (R166): Vector integer move. -/
  | movVector (st : BitVec 2) (d a : BitVec 8)
  /-- NOT_VECTOR (R166): Vector bitwise NOT. -/
  | notVector (st : BitVec 2) (d a : BitVec 8)
  /-- ABS_VECTOR_INT (R166): Vector integer absolute value. -/
  | absVectorInt (st : BitVec 2) (d a : BitVec 8)
  /-- NEG_VECTOR_INT (R166): Vector integer negate. -/
  | negVectorInt (st : BitVec 2) (d a : BitVec 8)
  /-- CLZ_VECTOR (R166): Vector count of leading zeros. -/
  | clzVector (st : BitVec 2) (d a : BitVec 8)
  /-- POPC_VECTOR (R166): Vector population count. -/
  | popcVector (st : BitVec 2) (d a : BitVec 8)
  /-- ADD_FLOAT (R169): Vector floating add in binary32 or a narrower format. -/
  | addFloat (st : BitVec 2) (d a : BitVec 8) (b : BitVec 7)
  /-- SUB_FLOAT (R169): Vector floating subtract. -/
  | subFloat (st : BitVec 2) (d a : BitVec 8) (b : BitVec 7)
  /-- MUL_FLOAT (R169): Vector floating multiply. -/
  | mulFloat (st : BitVec 2) (d a : BitVec 8) (b : BitVec 7)
  /-- FMA_FLOAT (R169): Vector fused multiply-add with one rounding. -/
  | fmaFloat (st : BitVec 2) (d a : BitVec 8) (b : BitVec 7)
  /-- DIV_FLOAT (R169): Vector floating divide. -/
  | divFloat (st : BitVec 2) (d a : BitVec 8) (b : BitVec 7)
  /-- SQRT (R169): Vector correctly rounded square root. -/
  | sqrt (st : BitVec 2) (d a : BitVec 8)
  /-- RSQ (R169): Vector correctly rounded reciprocal square root. -/
  | rsq (st : BitVec 2) (d a : BitVec 8)
  /-- RCP (R169): Vector correctly rounded reciprocal. -/
  | rcp (st : BitVec 2) (d a : BitVec 8)
  /-- MIN_FLOAT (R171): Vector floating minimum returning one operand unrounded. -/
  | minFloat (st : BitVec 2) (d a : BitVec 8) (b : BitVec 7)
  /-- MAX_FLOAT (R171): Vector floating maximum returning one operand unrounded. -/
  | maxFloat (st : BitVec 2) (d a : BitVec 8) (b : BitVec 7)
  /-- CMP_FLOAT (R173): Vector floating compare writing a mask triple. -/
  | cmpFloat (st : BitVec 2) (c : BitVec 3) (d : BitVec 5) (a : BitVec 8) (b : BitVec 7)
  /-- CLASS (R174): Classify a floating value into a class bit ANDed with b. -/
  | classify (st : BitVec 2) (d a : BitVec 8) (b : BitVec 7)
  /-- ABS_FLOAT (R172): Clear the sign bit of a floating value. -/
  | absFloat (st : BitVec 2) (d a : BitVec 8)
  /-- NEG_FLOAT (R172): Invert the sign bit of a floating value. -/
  | negFloat (st : BitVec 2) (d a : BitVec 8)
  /-- ADD_F64 (R169): Vector binary64 add. -/
  | addF64 (st : BitVec 2) (d a : BitVec 8) (b : BitVec 7)
  /-- SUB_F64 (R169): Vector binary64 subtract. -/
  | subF64 (st : BitVec 2) (d a : BitVec 8) (b : BitVec 7)
  /-- MUL_F64 (R169): Vector binary64 multiply. -/
  | mulF64 (st : BitVec 2) (d a : BitVec 8) (b : BitVec 7)
  /-- FMA_F64 (R169): Vector binary64 fused multiply-add. -/
  | fmaF64 (st : BitVec 2) (d a : BitVec 8) (b : BitVec 7)
  /-- SHFL (R182): Gather each active lane's value from lane b mod 96 of the group. -/
  | shfl (st : BitVec 2) (d a : BitVec 8) (b : BitVec 7)
  /-- BCAST (R183): Broadcast one lane's value to every active lane. -/
  | bcast (st : BitVec 2) (d a : BitVec 8) (b : BitVec 7)
  /-- MATCH (R185): Match keys across active lanes, writing set size, rank and leader. -/
  | matchKeys (st : BitVec 2) (d a : BitVec 8)
  /-- RED_ADD (R186): Sum reduction over active lanes in the fixed tree. -/
  | redAdd (st : BitVec 2) (d a : BitVec 8)
  /-- RED_MIN (R186): Minimum reduction over active lanes. -/
  | redMin (st : BitVec 2) (d a : BitVec 8)
  /-- RED_MAX (R186): Maximum reduction over active lanes. -/
  | redMax (st : BitVec 2) (d a : BitVec 8)
  /-- SCAN_ADD (R187): Inclusive prefix sum over active lanes. -/
  | scanAdd (st : BitVec 2) (d a : BitVec 8)
  /-- CVT_F64 (R175): Convert to binary64. -/
  | cvtF64 (st : BitVec 2) (d a : BitVec 8) (f : BitVec 5)
  /-- CVT_F32 (R175): Convert to binary32. -/
  | cvtF32 (st : BitVec 2) (d a : BitVec 8) (f : BitVec 5)
  /-- CVT_F16 (R175): Convert to binary16. -/
  | cvtF16 (st : BitVec 2) (d a : BitVec 8) (f : BitVec 5)
  /-- CVT_BF16 (R175): Convert to bfloat16. -/
  | cvtBf16 (st : BitVec 2) (d a : BitVec 8) (f : BitVec 5)
  /-- CVT_E4M3 (R175): Convert to FP8 E4M3. -/
  | cvtE4m3 (st : BitVec 2) (d a : BitVec 8) (f : BitVec 5)
  /-- CVT_E5M2 (R175): Convert to FP8 E5M2. -/
  | cvtE5m2 (st : BitVec 2) (d a : BitVec 8) (f : BitVec 5)
  /-- CVT_L32 (R178): Convert to the logarithmic format L32. -/
  | cvtL32 (st : BitVec 2) (d a : BitVec 8) (f : BitVec 5)
  /-- CVT_INT (R177): Convert to an integer type. -/
  | cvtInt (st : BitVec 2) (d a : BitVec 8) (f : BitVec 5)
  /-- CVT_CODE (R180): Convert a floating value to a ternary, q4 or q8 code under a quantisation parameter word. -/
  | cvtCode (st : BitVec 2) (d a : BitVec 8) (k : BitVec 2) (f : BitVec 5)
  /-- CVTB (R181): Convert binary32 lanes into block-floating elements with a shared exponent. -/
  | cvtb (st : BitVec 2) (d a : BitVec 8) (b : BitVec 7)
  /-- LNSMUL (R188): L32 multiply. -/
  | lnsmul (st : BitVec 2) (d a : BitVec 8) (b : BitVec 7)
  /-- LNSDIV (R188): L32 divide. -/
  | lnsdiv (st : BitVec 2) (d a : BitVec 8) (b : BitVec 7)
  /-- LNSADD (R96): L32 log-domain add. -/
  | lnsadd (st : BitVec 2) (d a : BitVec 8) (b : BitVec 7)
  /-- LNSROOT (R188): L32 root by 2^k. -/
  | lnsroot (st : BitVec 2) (d a : BitVec 8) (b : BitVec 7)
  /-- LNSPOW (R188): L32 power by 2^k. -/
  | lnspow (st : BitVec 2) (d a : BitVec 8) (b : BitVec 7)
  /-- LD (R195): Two-word asynchronous load from device memory or scratchpad per active lane. -/
  | ld (st : BitVec 2) (d a : BitVec 8) (b : BitVec 7) (sb : BitVec 3) (ty : BitVec 5) (scope : BitVec 3) (sp : BitVec 1) (aop : BitVec 4)
  /-- GATHER (R195): Two-word asynchronous load from per-lane addresses. -/
  | gather (st : BitVec 2) (d a : BitVec 8) (b : BitVec 7) (sb : BitVec 3) (ty : BitVec 5) (scope : BitVec 3) (sp : BitVec 1) (aop : BitVec 4)
  /-- ST (R196): Two-word asynchronous store per active lane. -/
  | st (st : BitVec 2) (d a : BitVec 8) (b : BitVec 7) (sb : BitVec 3) (ty : BitVec 5) (scope : BitVec 3) (sp : BitVec 1) (aop : BitVec 4)
  /-- ST_STRONG (R197): Two-word multi-copy atomic store at a scope. -/
  | stStrong (st : BitVec 2) (d a : BitVec 8) (b : BitVec 7) (sb : BitVec 3) (ty : BitVec 5) (scope : BitVec 3) (sp : BitVec 1) (aop : BitVec 4)
  /-- SCATTER (R196): Two-word asynchronous store to per-lane addresses. -/
  | scatter (st : BitVec 2) (d a : BitVec 8) (b : BitVec 7) (sb : BitVec 3) (ty : BitVec 5) (scope : BitVec 3) (sp : BitVec 1) (aop : BitVec 4)
  /-- ATOM (R199): Two-word indivisible read-modify-write per active lane returning the old value. -/
  | atom (st : BitVec 2) (d a : BitVec 8) (b : BitVec 7) (sb : BitVec 3) (ty : BitVec 5) (scope : BitVec 3) (sp : BitVec 1) (aop : BitVec 4)
  /-- LOAD_COMPLETE (R195): A load, gather or atomic's values are all written and its scoreboard counter falls. -/
  | loadComplete (op : Nat) (moments : List Nat)
  /-- STORE_PERFORMED (R196): A store's writes are performed at its die or scope and its counter falls. -/
  | storePerformed (op : Nat)
  /-- FENCE (R202): Hold the path until earlier loads have values and/or earlier writes are performed at a scope. -/
  | fence (st : BitVec 2) (p : BitVec 3) (k : BitVec 2)
  /-- FENCE_FINISH (R202): The conditions a fence waits for hold and the fencing path continues. -/
  | fenceFinish (p : PathRef)
  /-- BAR_INIT (R208): Write a whole barrier object in one update. -/
  | barInit (st : BitVec 2) (d a : BitVec 8) (b : BitVec 7)
  /-- BAR_ARRIVE (R209): Release, return the phase and add one arrival per selected lane, testing completion. -/
  | barArrive (st : BitVec 2) (d a : BitVec 8)
  /-- BAR_ARRIVEC (R209): Elected arrival with an explicit count. -/
  | barArrivec (st : BitVec 2) (d a : BitVec 8) (b : BitVec 7)
  /-- BAR_WAIT (R211): Wait while the barrier phase equals b, then acquire. -/
  | barWait (st : BitVec 2) (a : BitVec 8) (b : BitVec 7)
  /-- BAR_WAIT_FINISH (R211): A waiting bar.wait finishes in the cycle after a test leaves another phase in force. -/
  | barWaitFinish (p : PathRef)
  /-- EXIT_BARRIER_TEST (R205): In the cycle after lanes exit, every lane barrier waited on by the block is tested. -/
  | exitBarrierTest (l b : Nat)
  /-- WAITA (R212): Wait until a scratchpad word meets a condition against b. -/
  | waita (st : BitVec 2) (c : BitVec 3) (a : BitVec 8) (b : BitVec 7)
  /-- WAITA_FINISH (R213): A sleeping waita finishes within 64 cycles after a write makes its word meet the condition. -/
  | waitaFinish (p : PathRef)
  /-- MMA (R224): Two-word matrix multiply-accumulate brought to the rendezvous latch. -/
  | mma (st : BitVec 2) (t : BitVec 5) (qa qb : BitVec 4) (sb : BitVec 3) (clr : BitVec 1) (n pa pb : BitVec 9)
  /-- MMA_START (R227): A released operation starts its passes once the array is free and earlier acc.ld words have written the tile. -/
  | mmaStart (core ran : Nat)
  /-- MMA_COMPLETE (R227): 24 cycles after its last pass the operation completes, the tile holds the result and members' counters fall. -/
  | mmaComplete (core : Nat)
  /-- GANG (R218): Write the group's gang register. -/
  | gang (st : BitVec 2) (a : BitVec 8)
  /-- OPRES (R220): Request an operand-buffer reservation record and granule run. -/
  | opres (st : BitVec 2) (q : BitVec 4) (a : BitVec 8)
  /-- OPRES_GRANT (R220): A waiting reservation request is granted, its granules cleared and STATE set to 1. -/
  | opresGrant (p : PathRef)
  /-- OPREADY (R222): Wait for in-flight requests into a reservation, then set STATE 2. -/
  | opready (st : BitVec 2) (q : BitVec 4)
  /-- OPREADY_FINISH (R222): The last in-flight request into the reservation ends and STATE becomes 2. -/
  | opreadyFinish (p : PathRef)
  /-- OPREL (R223): Wait for pending mma readers, then free a reservation. -/
  | oprel (st : BitVec 2) (q : BitVec 4)
  /-- OPREL_FINISH (R223): No pending mma reads the reservation any more and it is freed. -/
  | oprelFinish (p : PathRef)
  /-- MWAIT (R229): Wait until every mma of the group on a tile has completed. -/
  | mwait (st : BitVec 2) (t : BitVec 5)
  /-- ACC_ALLOC (R230): Request a set of cistern tiles, granted all at once. -/
  | accAlloc (st : BitVec 2) (a : BitVec 8)
  /-- ACC_ALLOC_GRANT (R230): A waiting tile request is granted with zero contents. -/
  | accAllocGrant (p : PathRef)
  /-- ACC_FREE (R231): Wait for pending mma writers, then free held tiles. -/
  | accFree (st : BitVec 2) (a : BitVec 8)
  /-- ACC_ST (R233): Two-word asynchronous store of a tile to memory in raw, f32 or i32 form. -/
  | accSt (st : BitVec 2) (t : BitVec 5) (a : BitVec 8) (b : BitVec 7) (sb : BitVec 3) (sp : BitVec 1) (form : BitVec 2)
  /-- ACC_LD (R233): Two-word asynchronous load of a tile from memory. -/
  | accLd (st : BitVec 2) (t : BitVec 5) (a : BitVec 8) (b : BitVec 7) (sb : BitVec 3) (sp : BitVec 1) (form : BitVec 2)
  /-- ACC_LD_COMPLETE (R227): An acc.ld writes its tile after earlier mma completions and its counter falls. -/
  | accLdComplete (op : Nat)
  /-- CPYK (R236): Release and kick b copy records to the copy engine. -/
  | cpyk (st : BitVec 2) (a : BitVec 8) (b : BitVec 7)
  /-- DZK (R236): Release and kick b decompression job cards. -/
  | dzk (st : BitVec 2) (a : BitVec 8) (b : BitVec 7)
  /-- COLL (R241): Release and kick b collective descriptors. -/
  | coll (st : BitVec 2) (a : BitVec 8) (b : BitVec 7)
  /-- ENGINE_CHUNK_DONE (R237): A 64 KiB chunk lands, PROG advances and a barrier target's PENDING is reduced once visible at SCOPE. -/
  | engineChunkDone (r : Nat) (moments only : List Nat)
  /-- ENGINE_RECORD_COMPLETE (R237): After its last chunk a record writes RESULT and DONEVAL or its final barrier count. -/
  | engineRecordComplete (r : Nat)
  /-- ENGINE_RECORD_FAULT (R380): A record meets a miss, protection fault or poison and becomes an engine origin at the chunk start. -/
  | engineRecordFault (r : Nat)
  /-- COLLECTIVE_CHUNK_RECEIVE (R243): A member receives a collective chunk, checks it against its own descriptor and stops on disagreement. -/
  | collectiveChunkReceive (c : PeerChunk)
  /-- COLLECTIVE_COMPLETE (R242): A member's DST is complete at .sys and RESULT and DONEVAL are written. -/
  | collectiveComplete (r : Nat)
  /-- BLOCK_END (R240): A block whose groups have ended ends when its last kicked record completes, releasing scratchpad, reservations, tiles and slot. -/
  | blockEnd (l b : Nat)
  /-- WELL_ADD (R245): Two-word append of one item per active lane to a well, waiting for room. -/
  | wellAdd (st : BitVec 2) (c : BitVec 8) (n : BitVec 6) (sb : BitVec 3)
  /-- WELL_ADD_ROOM (R245): A well.add waiting for room finds it, translates slots and appends its items. -/
  | wellAddRoom (p : PathRef)
  /-- WELL_TAKE (R247): Two-word hand-out of at most one item per active lane. -/
  | wellTake (st : BitVec 2) (c : BitVec 8) (n : BitVec 6) (sb : BitVec 3) (d : BitVec 7)
  /-- QUIET (R248): Wait for quiescence or a well.add wake, then write the result triple. -/
  | quiet (st : BitVec 2) (d : BitVec 8)
  /-- QUIESCENCE_DECLARED (R43): The dry-well detector declares the launch quiescent and every waiting quiet finishes with all ones. -/
  | quiescenceDeclared (l : Nat)
  /-- TLBW (R249): Install a checked translation entry per active lane. -/
  | tlbw (st : BitVec 2) (a : BitVec 8)
  /-- TLBINV (R250): Remove the owner's translation entries for an address or all. -/
  | tlbinv (st : BitVec 2) (m : BitVec 2) (a : BitVec 8)
  /-- ORIG (R251): Read word n of the lane's origin tag. -/
  | orig (st : BitVec 2) (d : BitVec 8) (n : BitVec 3)
  /-- HRET (R252): Release each active handler lane's origin with retry or skip and leave presence. -/
  | hret (st : BitVec 2) (a : BitVec 8)
  /-- TRAP (R253): Raise a program trap with CODE n in the active lanes. -/
  | trap (st : BitVec 2) (k : BitVec 8)
  /-- CTR (R254): Read a 64-bit counter into a scalar pair. -/
  | ctr (st : BitVec 2) (d : BitVec 8) (n : BitVec 6)
  /-- WSPILL (R255): Spill dirty stack lines and optionally the header areas to the context image. -/
  | wspill (st : BitVec 2) (h : BitVec 1) (a : BitVec 8) (b : BitVec 7)
  /-- PATH_HOLD_RELEASE (R58): A path held for a drain (window refill, tlbw, tlbinv, wspill, mwait, acc.free) continues when that drain ends. -/
  | pathHoldRelease (p : PathRef)
  /-- CLAUSE_WAIT_CLEAR (R63): The scoreboard counters named in a clause's WAIT read zero and the clause issues. -/
  | clauseWaitClear (p : PathRef)
  /-- WINDOW_REFILL (R58): The window pump completes a refill of a stack line from the context image. -/
  | windowRefill (l b g line : Nat)
  /-- WINDOW_SPILL (R58): The window pump completes a spill of a dirty stack line. -/
  | windowSpill (l b g line : Nat)
  /-- GROUP_END (R159): A group with no present lane frees its lines once every scoreboard counter has reached zero. -/
  | groupEnd (l b g : Nat)
  /-- HANDLER_COLLECTOR_LAUNCH (R326): A collector launches as a handler group at 96 lanes or 128 cycles after its first lane. -/
  | handlerCollectorLaunch (o : Nat) (walk : Bool) (depth : Nat)
  /-- ORIGIN_RESUME (R329): An origin path becomes ready within 16 cycles after its last waiting origin is released. -/
  | originResume (p : PathRef)
  /-- NOTIFY_WRITE (R306): A host write to a queue's notify register sets, withdraws or drops TAIL. -/
  | notifyWrite (offset : Nat) (v : Word)
  /-- QUEUE_SLOT_BIND (R307): The mapper binds a pending queue to a free queue slot. -/
  | queueSlotBind
  /-- LAUNCH_HEADER_READ (R268): Stage 3 reads and checks a launch header, wells and dependence word. -/
  | launchHeaderRead (q : Nat)
  /-- DEPENDENCE_MET (R271): A waiting launch's dependence word reaches DEPVAL and it leaves stage 3. -/
  | dependenceMet (l : Nat)
  /-- SPECIALISE (R272): Stage 4 looks up the specialisation cache and builds residual code on a miss. -/
  | specialise (l : Nat)
  /-- BLOCK_ADMIT (R279): The governor admits a block's step into a ramp slot. -/
  | blockAdmit (l b : Nat)
  /-- BLOCK_PLACE (R283): The distributor places a new or returning block on a cluster and carves register stores. -/
  | blockPlace (l b : Nat)
  /-- LAUNCH_COMPLETE (R271): After the last group ends and writes are performed, the time record and completion word are written. -/
  | launchComplete (l : Nat)
  /-- RAMP_SLOT_BOUNDARY (R277): Each 1 µs ramp slot ends, E(n) is formed and the ceiling for the next slot is set. -/
  | rampSlotBoundary (telemetry : Nat)
  /-- GOVERNOR_HOLD (R280): Each cycle the governor holds whole cores while planned draw exceeds the ceiling. -/
  | governorHold
  /-- BALLAST_ISSUE (R281): The governor issues ballast beats when draw would fall below the floor. -/
  | ballastIssue
  /-- GOVERNOR_LIMIT_WRITE (R278): Firmware writes the governor limit register, clamped, effective at the next slot. -/
  | governorLimitWrite (v : Word)
  /-- PREEMPT (R336): A block is pre-empted: paths stop, headers written, matrix work drained, images copied, residency freed. -/
  | preempt (l b : Nat) (cause : PreemptCause)
  /-- FAULTED_BLOCK (R337): A block stalled on handlers for 60,000 cycles becomes faulted and pre-emptible. -/
  | faultedBlock (l b : Nat)
  /-- CONTENTION_PREEMPT (R364): After 3000 cycles as oldest unsatisfied request, younger holders of its tiles or reservations are pre-empted. -/
  | contentionPreempt (core : Nat)
  /-- METERING_PERIOD_BOUNDARY (R300): Every 300,000 cycles all caps reset and pending sampling controls take effect. -/
  | meteringPeriodBoundary
  /-- ISSUE_THROTTLE (R356): An owner's issued core-cycles reach ISSUECAP and it is issue-throttled to the period end. -/
  | issueThrottle (o : Nat)
  /-- RSVTIME_EXHAUSTED (R357): Throttled handler cycles reach RSVTIME and handlers are no longer offered issue. -/
  | rsvtimeExhausted (o : Nat)
  /-- BANDWIDTH_CAP_HOLD (R358): An owner's tier bytes reach its cap and its ordinary accesses are held to the period end. -/
  | bandwidthCapHold (o : Nat)
  /-- THROTTLING_VICTIM (R359): A block of an owner throttled for 60,000 cycles becomes a victim for a waiting block. -/
  | throttlingVictim (l b : Nat)
  /-- WATCHDOG_EXPIRE (R371): A launch's watchdog count reaches its limit and the launch is ended with a report. -/
  | watchdogExpire (l : Nat)
  /-- SAMPLE_WRITE (R317): Every 256 x SPERIOD cycles a core writes a sample record to the owner's ring. -/
  | sampleWrite (core o : Nat)
  /-- SAMPLING_SELECT_WRITE (R316): A host write of SEL0-SEL3 selects an event and clears its counter at the next boundary. -/
  | samplingSelectWrite (page k : Nat) (v : Word)
  /-- CONTROL_REGISTER_WRITE (R316): A host write to a control register with no row of its own (sampling rings, periods, debug window base), taking effect at the next boundary. -/
  | controlRegisterWrite (page offset : Nat) (v : Word)
  /-- HOST_WINDOW_READ (R303): A host read through a window, returning zeros for a page the owner does not hold. -/
  | hostWindowRead (r : HostRead)
  /-- HOST_WINDOW_WRITE (R303): A host write through a window, dropped and reported for a page the owner does not hold. -/
  | hostWindowWrite (o offset : Nat) (bytes : List Byte)
  /-- POISON_MARK (R377): An uncorrectable error places a poison mark on its unit. -/
  | poisonMark (u : PoisonUnit)
  /-- CORRECTED_ERROR (R376): A single-bit error is corrected and logged for repair with no architectural effect. -/
  | correctedError (u : PoisonUnit)
  /-- DEBUG_STOP (R395): A path stops at a breakpoint before a word and a stop record is posted. -/
  | debugStop (p : PathRef) (cause : Nat)
  /-- STOP_RECORD_DEFERRED (R396): A stop record held by a full ring is written when RDIDX frees room. -/
  | stopRecordDeferred (o : Nat)
  /-- DEBUG_CMD_STOP (R398): Debug command OP 1 stops the target paths. -/
  | debugCmdStop (o slot : Nat)
  /-- DEBUG_CMD_RESUME (R399): Debug command OP 2 makes target paths ready, optionally reloading path entries. -/
  | debugCmdResume (o slot : Nat)
  /-- DEBUG_CMD_STEP (R399): Debug command OP 3 lets target paths issue N words. -/
  | debugCmdStep (o slot : Nat)
  /-- DEBUG_CMD_STOP_MODE (R397): Debug command OP 4 sets the group's stop mode. -/
  | debugCmdStopMode (o slot : Nat)
  /-- STEP_DONE (R399): A stepping path's N words are issued and it stops with CAUSE 2. -/
  | stepDone (p : PathRef)
  /-- REPLAY_DIVERGED (R404): A replayed word differs from its log record and stops the path or ends the launch. -/
  | replayDiverged (p : PathRef)
  /-- COLD_START (R405): Verify firmware, train links, read spare map, clear all storage and owners. -/
  | coldStart (inlet : Int) (device : BitVec 12)
  /-- WARM_START (R405): Start that keeps tier contents and spare map, skipping training when the record is valid. -/
  | warmStart (inlet : Int) (device : BitVec 12)
  /-- OWNER_SETUP (R301): Firmware sets up or changes an owner record, refusing results that break reserve limits. -/
  | ownerSetup (o : Nat) (r : OwnerRequest) (handle : DWord)
  /-- QUEUE_SETUP (R304): Firmware sets a queue record for the owner of its queue block. -/
  | queueSetup (q : Nat) (r : QueueRequest) (handle : DWord)
  /-- COMMUNICATOR_FILL (R312): Firmware fills a communicator table entry on the owner's behalf. -/
  | communicatorFill (o k : Nat) (c : Communicator) (handle : DWord)
  /-- OWNER_RESET (R388): Firmware resets an owner: stop, drain notifies, free slots, discard records, clear caches, VALID 0. -/
  | ownerReset (o : Nat) (handle : DWord)
  /-- MEMBER_WITHDRAWN (R389): Peers end collectives of a reset owner's communicators with STATUS 3 within 50 µs. -/
  | memberWithdrawn (device remote : Nat)
  /-- MIGRATION (R390): Live migration of an owner to another module, abandoned after 200 ms without a flip. -/
  | migration (m : MigrationStep) (handle : DWord)
  /-- PEER_CHUNK_RETRY (R390): A sending engine retries a chunk answered retry every 4 µs. -/
  | peerChunkRetry (r : Nat)
  /-- ATTESTATION_REQUEST (R415): Firmware returns an SM2-signed attestation report. -/
  | attestationRequest (nonce : BitVec 256) (o : Word) (handle : DWord)
  /-- FIRMWARE_UPDATE (R410): Verify and install a new firmware image, switching control cores one at a time. -/
  | firmwareUpdate (u : UpdateStep) (handle : DWord)
  /-- MODULE_REMOVAL (R411): Prepare the module for removal: refuse owners, lower ports, light indicator. -/
  | moduleRemoval (m : RemovalStep)
  /-- CORE_SPARE (R408): A failing core is pre-empted and remapped to a spare, or its cluster withdrawn. -/
  | coreSpare (core : Nat) (uncorrectable : Bool) (handle : DWord)
  /-- HBM_ROW_REMAP (R408): A row with repeated corrected errors is remapped during refresh. -/
  | hbmRowRemap (row : Nat)
  /-- HBM_CHANNEL_RETIRE (R408): A failing HBM channel's pages are copied and the channel retired. -/
  | hbmChannelRetire (channel : Nat) (uncorrectable : Bool)
  /-- TITEYX_LANE_SPARE (R408): A Titeyx lane with 64 CRC retries in 1 ms is switched to the spare lane. -/
  | titeyxLaneSpare (port lane : Nat)
  /-- FLIT_CRC_RETRY (R311): A flit failing its CRC is retried on the same port. -/
  | flitCrcRetry (port lane : Nat)
  /-- TITEYX_PORT_FAIL (R391): A failed port's chunks in flight are resent on other ports of PORTS. -/
  | titeyxPortFail (port : Nat)
  /-- NO_PORT_REACHES_MEMBER (R391): After 50 µs without a port reaching a member, pending descriptors end with STATUS 4. -/
  | noPortReachesMember (o comm member since : Nat)
  /-- PCIE_LINK_DOWN (R391): The PCIe link goes down; notifies cease and interrupts are coalesced until retraining. -/
  | pcieLinkDown
  /-- CXL_PORT_OUT_OF_SERVICE (R391): A CXL port down for 1 ms goes out of service and its accesses take DETAIL 6. -/
  | cxlPortOutOfService (port since : Nat)
  /-- MANAGEMENT_FRAME (R413): A frame on the management port is tested against the wake filter while cores are gated. -/
  | managementFrame (frame : List Byte) (handle : DWord)
  /-- CONTROL_CORE_WAKE (R413): Control core 0 is restored within 200 µs after a match and processes the held frames. -/
  | controlCoreWake (handle : DWord)
  /-- ILLEGAL_INSTRUCTION (R136): A word with an unassigned opcode or reserved SUB value reaches issue and raises the precise illegal-instruction trap. -/
  | illegalInstruction (detail : Nat)
  /-- WELL_OP_COMPLETE (R245): A well.add's items become visible at .pkg, or a well.take's destinations are written, and its scoreboard counter falls. -/
  | wellOpComplete (op : Nat)
  /-- TRANSLATION_ENTRY_DROP (R249): The ZF-960 drops a translation cache entry of its own accord, so its next use is a miss. -/
  | translationEntryDrop (o va : Nat)
  /-- DIE_CACHE_EVICTION (R259): A die cache line is evicted and carries its ordinary writes to other dies. -/
  | dieCacheEviction (die line : Nat) (views : List Nat)
  /-- PCIE_LINK_RETRAINED (R391): The PCIe link returns after retraining, and notify writes and the coalesced interrupts resume. -/
  | pcieLinkRetrained
  /-- MSIX_VECTOR_UNMASK (R309): The host unmasks an owner's MSI-X vector, and the message coalesced while it was masked is sent. -/
  | msixVectorUnmask (vector : Nat) (mask : Bool)
  /-- CONTROL_CORE_POWER_GATE (R413): The firmware power-gates control cores, which leaves the management port to the wake filter. -/
  | controlCorePowerGate (cores : BitVec 4)
  /-- WAKE_FILTER_WRITE (R413): A management request writes a wake-filter entry whole and sets its VALID bit. -/
  | wakeFilterWrite (k : Nat) (offset : BitVec 7) (mask value : DWord) (handle : DWord)
deriving DecidableEq, Repr

end Sys2Proof
end

