-- ==== Sys2Proof/Machine/State.lean ====
section
/-! DEFINITION. The state of the ZF-960 as plain data: everything the manual gives the machine, and the agenda that says
which agent moves next. Nothing here is a function. -/

namespace Sys2Proof.Machine

/-- A map from numbers to values, keys strictly rising, no entry equal to zero (what an absent key reads as). -/
abbrev Sparse (w : Nat) := List (Nat × BitVec w)

/-- Byte memory in canonical form: addresses strictly rising, no zero byte listed. -/
abbrev Memory := List Host.Cell

/-- The fields of a prefix word (R129). -/
structure Pfx where
  masksel : Nat
  rnd : Nat
  mz : Bool
  fourth : BitVec 8
  ext : Nat
  sat : Bool
deriving DecidableEq, Repr

/-- The operands of an `mma` at the latch (R224). -/
structure MmaArgs where
  tile : Nat
  qa : Nat
  qb : Nat
  npass : Nat
  apass : Nat
  bpass : Nat
  clr : Bool
  sat : Bool
  sb : Nat
deriving DecidableEq, Repr

/-- An access that a path has made: its space, its bytes, the writes in transit that precede every later access of the path to them (links 1 and 2 of
R260), and the moment at which it was performed. -/
structure Trace where
  sp : Bool
  addr : Nat
  len : Nat
  ids : List Nat
  moment : Nat
deriving DecidableEq, Repr

/-- What a byte held before it changed, the moment of the change, and the write that changed it (none: a write that is visible at once everywhere).
 (log 112: DEDUCED) -/
structure Past where
  moment : Nat
  id : Option Nat
  addr : Nat
  old : Byte
deriving DecidableEq, Repr

/-- An access of a group that has been performed: the first operation number that comes after it, the moment, and the writes in transit that it is,
returned, or comes after (R202, R260). -/
structure Done where
  mark : Nat
  moment : Nat
  ids : List Nat
deriving DecidableEq, Repr

/-- Where a word's log record has its payload (R401): virtual address, bytes, and the lanes whose values it lists. (log 81: DEDUCED) -/
structure LogPlace where
  at_ : Nat
  len : Nat
  mask : Lanes
deriving DecidableEq, Repr

/-- What a waiting path waits for (R29 and the words that hold a path). -/
inductive Wait
  /-- arrived at join record `r` (R32) -/
  | join (r : Nat)
  /-- a clause's WAIT on scoreboard counters (R63) -/
  | clause
  /-- a counter at 63 (R63) -/
  | counter (sb : Nat)
  /-- the rendezvous latch (R219) -/
  | latch (m : MmaArgs)
  /-- `bar.wait` on the object at `addr` while its PHASE is `phase` (R211) -/
  | barrier (addr : Nat) (phase : BitVec 16)
  /-- `waita` until the word at `addr` meets the condition (R212) -/
  | word (addr : Nat) (cond : Nat) (value : Word)
  /-- `quiet`, destination triple `d` (R110) -/
  | quiet (d : Nat)
  /-- a fence: kind, scope, and the watermark below which operations are earlier (R202); `fin` words of the path end with it -/
  | fence (kind scope mark : Nat)
  /-- a word that acts as a release fence first and then goes on with its own effect (R209, R236, R329) -/
  | release (scope mark : Nat)
  /-- the first access after a return from a handler, which acts as an acquire fence at `.pkg` first (R329) -/
  | acquire (mark : Nat)
  | opres (q : Nat) (w0 w1 : Word)
  | opready (q : Nat)
  | oprel (q : Nat)
  | mwait (tile : Nat)
  | accAlloc (mask : Word)
  | accFree (mask : Word)
  /-- room in a well (R245) -/
  | wellRoom (n : Nat)
  /-- window lines that the path's word needs (R58, R60) -/
  | pump (lines : List Nat)
  /-- `wspill` whose writes a tier cap holds: its lines, and the header areas as they stood at issue: offset, bytes (R255, R358) -/
  | wspill (lo n : Nat) (areas : List (Nat × List Byte))
  /-- operations in flight: accesses that used removed translation entries (R250), stores to the frame record (R153), accesses that set lane flags (R84) -/
  | drain (ops : List Nat)
  /-- a handler (R321) -/
  | handler
deriving DecidableEq, Repr

/-- The state of a path (R28, R29); `stopped` of R29 is the path's own field. -/
inductive PathStatus
  | ready
  | waiting (w : Wait)
  | sleeping (deadline : Nat)
deriving DecidableEq, Repr

/-- One path-table entry (R28, R56) with its hidden state. -/
structure Path where
  /-- VALID: the entry holds a live path -/
  valid : Bool
  /-- address of the header of the clause that holds the word in progress or next -/
  pc : Nat
  /-- index of that word in its clause; 0: the clause has not begun (R321) -/
  idx : Nat
  /-- the clause as fetched: header and words (R113) -/
  fetched : List Word
  member : Lanes
  present : Lanes
  /-- `s125`–`s127` -/
  mask : Lanes
  /-- `s108`–`s120`, keys 108 to 120 -/
  priv : Sparse 32
  l0 : Sparse 64
  l1 : Sparse 64
  l0Def : Bool
  l1Def : Bool
  tokens : BitVec 4
  status : PathStatus
  /-- cause of a debug stop (R395); none: not stopped -/
  stopped : Option Nat
  /-- a stop to be taken before the next word (R395) -/
  stopSoon : Option Nat
  /-- words left of a step command (R399) -/
  stepLeft : Option Nat
  /-- the next word is not tested against breakpoints (R395) -/
  skipBreak : Bool
  /-- the prefix that precedes the next word (R129) -/
  pfx : Option Pfx
  /-- earliest cycle of the next word (R122) -/
  nextIssue : Nat
  /-- cycles from which `l0`, `l1` and the lane flags of the path's words exist (R84, R123) -/
  l0At : Nat
  l1At : Nat
  flagsAt : Nat
  /-- lanes of a retried word (R329) -/
  reexec : Option Lanes
  /-- lanes released with retry so far, and whether any origin of the word was retried -/
  retry : Lanes
  retried : Bool
  /-- the reported word has taken full effect: both actions continue at the next word (R329) -/
  tookEffect : Bool
  /-- the release part of the word in progress is done (R209, R236, R329) -/
  released : Bool
  /-- window lines served to the word in progress (R60) -/
  served : List Nat
  servedRegs : Sparse 32
  /-- the marked ones among the lines that it serves from the latch (R60, R377) -/
  servedPoison : List Nat
  /-- writes in transit that precede every later access of the path (links 3 to 6 of R260) -/
  before : List Nat
  /-- its accesses, as far as a later access to the same bytes depends on them -/
  own : List Trace
  /-- the moment before which no later load of the path takes its value: what its fences have waited for (R202) -/
  horizon : Nat
  /-- its first access acts as though an acquire fence at `.pkg` had preceded it: a handler has released it (R329) -/
  acquire : Bool
  /-- its present word has zeroed its inactive lanes (R130) -/
  zeroedWord : Bool
  /-- its present word has issued before: the log counts it once, whatever lanes run again (R400) -/
  counted : Bool
  /-- the log record of its present word (R401) -/
  logged : Option LogPlace
  /-- MODEL's own: the number of the free values that its last-result file shows where it is undefined (R49, R292) -/
  fileFree : Nat
  /-- owner counters as the path read them last, key counter number (R315) -/
  ctrSeen : Sparse 64
  /-- its latest word with beats: the last cycle in which it holds a pipe (R286), whether a beat takes two cycles (R122), and the weight of each cycle
  (R277) -/
  pipeEnd : Nat
  pipeTwo : Bool
  pipeWeight : Nat
  /-- the weight at which the governor plans it (R280) -/
  pipePlan : Nat
  /-- the cycle from which the result of its latest word exists (R123) -/
  lastReady : Nat
  /-- the cycle in which its latest word issued, and the cycle in which that word's stall count is over (R122, R317) -/
  issuedAt : Option Nat
  stallEnd : Nat
deriving DecidableEq, Repr

/-- A path-table entry that holds no live path. -/
def Path.dead : Path where
  valid := false
  pc := 0
  idx := 0
  fetched := []
  member := 0
  present := 0
  mask := 0
  priv := []
  l0 := []
  l1 := []
  l0Def := false
  l1Def := false
  tokens := 0
  status := .ready
  stopped := Option.none
  stopSoon := Option.none
  stepLeft := Option.none
  skipBreak := false
  pfx := Option.none
  nextIssue := 0
  l0At := 0
  l1At := 0
  flagsAt := 0
  reexec := Option.none
  retry := 0
  retried := false
  tookEffect := false
  released := false
  served := []
  servedRegs := []
  servedPoison := []
  before := []
  own := []
  horizon := 0
  acquire := false
  zeroedWord := false
  counted := false
  logged := Option.none
  fileFree := 0
  ctrSeen := []
  pipeEnd := 0
  pipeTwo := false
  pipeWeight := 0
  pipePlan := 0
  lastReady := 0
  issuedAt := Option.none
  stallEnd := 0

/-- A join record (R31, R257); its holders are the live paths whose token set names it. -/
structure JoinRec where
  gen : BitVec 8
  alloc : Bool
  arrived : BitVec 4
deriving DecidableEq, Repr

/-- A register by its lasting name: a stack register (R54), an operand-file register (R50), or a scalar (R51). -/
inductive LaneReg
  | stack (n : Nat)
  | oper (k : Nat)
  | scal (k : Nat)
deriving DecidableEq, Repr

/-- A result that exists from cycle `ready` on (R123, R125, R184), with the value each lane (a scalar: key 0) held before;
`covered`: stall counts cover it (R123). (log 19: DEDUCED) -/
structure Hazard where
  path : Nat
  reg : LaneReg
  old : Sparse 32
  lanes : Lanes
  ready : Nat
  covered : Bool
deriving DecidableEq, Repr

/-- Flags that a word sets and that lanes of other paths see from cycle `ready` on (R83, R184): those each lane held before, those it sets, and whether
they replace all that the lane holds (R84) or join it. (log 19: DEDUCED) -/
structure FlagHazard where
  path : Nat
  lanes : Lanes
  old : Sparse 6
  new : Sparse 6
  whole : Bool
  ready : Nat
deriving DecidableEq, Repr

/-- A beat of `shfl` or `bcast` that is yet to issue, in cycle `at_`: lane `lane` of the destination takes what lane `source` of a register holds then
(R184); none: the lane flags. `high`: it is the high word of the pair; `logAt`: the place of the value in a log (R401). -/
structure Reach where
  path : Nat
  dest : Option LaneReg
  lane : Nat
  src : Option LaneReg
  source : Nat
  high : Bool
  at_ : Nat
  logAt : Option Nat
deriving DecidableEq, Repr

/-- Destination registers of an asynchronous word, undefined until a WAIT has seen the counter at zero (R63). (log 18: DEDUCED) -/
structure Unseen where
  op : Nat
  /-- the path whose word it was: `s108` to `s127` are that path's own (R28) -/
  path : Nat
  sb : Nat
  reg : LaneReg
  lanes : Lanes
deriving DecidableEq, Repr

/-- A stack line held in the register store (R58). -/
structure LineRec where
  n : Nat
  dirty : Bool
  poison : Bool
deriving DecidableEq, Repr

/-- The origin tag of a lane of a handler group (R251) and the origin it stands for. -/
structure LaneTag where
  lane : Nat
  origin : Nat
  detail : Word
  words : List Word
deriving DecidableEq, Repr

/-- A group (R21, R28, R47 to R63). -/
structure Group where
  index : Nat
  core : Nat
  resid : Nat
  allot : Nat
  paths : List Path
  joins : List JoinRec
  /-- `s0`–`s107` -/
  scalars : Sparse 32
  /-- `s121` -/
  depth : Nat
  /-- FP mode word (R79), the word before the last write, and the cycle of that write (R80) -/
  mode : Word
  modePrev : Word
  modeAt : Nat
  /-- counts of `sb0`–`sb5` -/
  sb : List Nat
  gang : DWord
  stopMode : Bool
  /-- lane flags, key lane (R83) -/
  flags : Sparse 6
  /-- operand file, key 96 k + lane -/
  oper : Sparse 32
  operPoison : Bool
  /-- stack registers of the lines held, key 96 n + lane -/
  stack : Sparse 32
  lines : List LineRec
  /-- lines whose image holds their content; every other line refills as zeros (R53) -/
  spilled : List Nat
  unseen : List Unseen
  /-- tiles that an `acc.ld` of the group writes, with its counter, until a WAIT has seen that counter at zero (R63) -/
  unseenTiles : List (Nat × Nat)
  hazards : List Hazard
  flagHazards : List FlagHazard
  reaches : List Reach
  /-- values of its log records that have changed since they were written: address, value (R184, R401) -/
  logFix : List (Nat × Word)
  /-- lanes that hold a well item (R42) -/
  items : Lanes
  tags : List LaneTag
  /-- earlier loads of the group, atomics and finished `waita` among them (link 4 of R260) -/
  reads : List Done
  /-- earlier writes of the group (link 3 of R260) -/
  wrote : List Done
  /-- the moment from which it is on its die (R193) -/
  homeSince : Nat
  cWords : Nat
  cBeats : Nat
  /-- cycles of the latest words that are counted: a read of the counters excludes its own cycle and later (R315) -/
  wordsAt : List Nat
  /-- cycles of the latest words that use no pipe (R286) -/
  plainAt : List Nat
  cResident : Nat
  cNoready : Nat
  cHeld : Nat
  lastIssue : Nat
  lastPath : Nat
  yieldUntil : Nat
  /-- class of the last clause from which it issued a word, for ballast (R281), and whether a word of a clause declared 7 has issued (R277) -/
  lastClass : Nat
  ran7 : Bool
  /-- no path has a present lane (R27) -/
  done : Bool
  /-- its lines are freed (R159) -/
  freed : Bool
deriving DecidableEq, Repr

/-- Lanes that arrived at a lane barrier in a phase (R206). -/
structure Arrival where
  addr : Nat
  phase : BitVec 16
  group : Nat
  lanes : Lanes
deriving DecidableEq, Repr

/-- A block (R33) with its scratchpad allocation (R65). -/
structure Block where
  index : Nat
  /-- cluster on which it is resident; none: not resident -/
  cluster : Option Nat
  /-- image slot (R269) -/
  slot : Nat
  groups : List Group
  /-- scratchpad bytes, key = 21-bit address -/
  spad : Sparse 8
  spadPoison : List Nat
  /-- exit count X, modulo 2^15 (R204) -/
  exits : Nat
  arrivals : List Arrival
  /-- scratchpad places that barrier words or engine records of the block have named as barrier objects (R203) -/
  objects : List Nat
  /-- the latest update of a barrier object: address, cycle, and its rank among the updates of one cycle (R205) -/
  updates : List (Nat × Nat × Nat)
  /-- what scratchpad bytes held before they changed (R258) -/
  past : List Past
  /-- writes in transit that precede what scratchpad bytes hold: address, bytes, writes (R260) -/
  order : List (Nat × Nat × List Nat)
  /-- writes in transit that precede the arrivals and counted bytes of a phase: object, phase, writes (link 5 of R260) -/
  phases : List (Nat × BitVec 16 × List Nat)
  /-- barrier objects whose phase in force counted poisoned bytes, and phases that did (R382) -/
  poisonPhases : List (Nat × BitVec 16)
  /-- the first KIND 9 use: tag and DETAIL (R346) -/
  violation : Option (List Word × Word)
  /-- consecutive cycles in the state of R337 -/
  stall : Nat
  faulted : Bool
  /-- waits for a place in stage 6: the ramp slot in which it was admitted (R279) -/
  admitted : Option Nat
  /-- pump mappings: virtual page, physical page (R360) -/
  images : List (Nat × Nat)
  /-- counts as waiting for R43 while it is away (R44) -/
  quietAway : Bool
  preempted : Bool
  /-- tiles copied to the block image: cluster core, tile (R232) -/
  savedTiles : List (Nat × Nat)
  /-- the owner that pays for the copy back, where it is not the block's own (R365) -/
  payer : Option Nat
  ended : Bool
deriving DecidableEq, Repr

/-- A launch header as read (R268). -/
structure Header where
  image : Nat
  imageid : DWord
  widths : List Nat
  boundary : Nat
  items : Nat
  groups : Nat
  spadKiB : Nat
  stack : Nat
  blocks : Nat
  mode : Word
  prio : Nat
  roles : Bool
  pinned : Bool
  coresident : Bool
  stallchk : Bool
  ctxbase : Nat
  blkbase : Nat
  slots : Nat
  static : Word
  wells : BitVec 64
  prodLines : Nat
  prodGroups : Nat
  prodEntry : Nat
  consLines : Nat
  consGroups : Nat
  consEntry : Nat
  depaddr : Nat
  depval : Word
  doneval : Word
  doneaddr : Nat
  args : List Word
  /-- the header as it lies in memory, for the limits on its zero fields -/
  raw : List Word
deriving DecidableEq, Repr

/-- The stage a launch is in (R267); `refused` and `complete` are its ends. -/
inductive Stage
  | dependence | specialise | ramp | placing | complete | refused
deriving DecidableEq, Repr

/-- What a launch of a handler group carries (R325). -/
structure HandlerInfo where
  walk : Bool
  depth : Nat
  slot : Nat
  core : Nat
deriving DecidableEq, Repr

/-- Where a group stands in a log (R401): its issuing path, the words issued since that path took over, and the log offset from which its next record
is searched. -/
structure ReplayGroup where
  block : Nat
  group : Nat
  path : Nat
  words : Nat
  pos : Nat
deriving DecidableEq, Repr

/-- Recording or replaying of a launch (R402): the log's base, the bytes available, the bytes used. -/
structure Replay where
  replaying : Bool
  log : Nat
  len : Nat
  used : Nat
  full : Bool
  groups : List ReplayGroup
deriving DecidableEq, Repr

/-- A launch (R267 to R271). -/
structure Launch where
  seq : Nat
  owner : Nat
  queue : Option Nat
  header : Header
  stage : Stage
  stamps : List Nat
  cacheHit : Bool
  cacheKey : Option (BitVec 128)
  /-- entry clauses of the producer and consumer role (equal without roles) in the code that runs -/
  entryProd : Nat
  entryCons : Nat
  maxClass : Nat
  /-- number of blocks placed at least once -/
  placed : Nat
  blocks : List Block
  watch : Nat
  /-- shares of counters 16, 17, 18 and 26, and pre-emptions (R319) -/
  issued : Nat
  held : Nat
  ballast : Nat
  tierstall : Nat
  preempts : Nat
  handler : Option HandlerInfo
  replay : Option Replay
  /-- the records of its wells have been read: it names them (R246) -/
  wellsHeld : Bool
deriving DecidableEq, Repr

/-- A translation cache entry (R249): page size in bytes, WR, and whether it is permanent (R273, R353). -/
structure TlbEntry where
  va : Nat
  pa : Nat
  size : Nat
  wr : Bool
  permanent : Bool
deriving DecidableEq, Repr

/-- A well held by the ZF-960 (R246). -/
structure WellState where
  n : Nat
  base : Nat
  capl2 : Nat
  head : Word
  tail : Word
  /-- the takes of the latest cycle that has any: the cycle and the path of each (R41) -/
  taken : List (Nat × PathRef)
deriving DecidableEq, Repr

/-- A specialisation cache entry (R272, R276): key, place, code words, and the residual address of each entry clause. -/
structure CacheEntry where
  key : BitVec 128
  base : Nat
  words : Nat
  entryProd : Nat
  entryCons : Nat
  maxClass : Nat
  lastUse : Nat
deriving DecidableEq, Repr

/-- Sampling and debug controls of an owner (R316, R392). -/
structure Controls where
  sel : List Nat
  speriod : Nat
  sring : Nat
  srsize : Nat
  tring : Nat
  trsize : Nat
  dwin : Nat
deriving DecidableEq, Repr

/-- An owner (R299) and what the ZF-960 keeps for it. -/
structure Owner where
  valid : Bool
  stopped : Bool
  record : OwnerRequest
  tlb : List TlbEntry
  comms : List (Nat × Communicator)
  /-- communicators with a member that has withdrawn, until their entry is rewritten (R389) -/
  withdrawn : List Nat
  cache : List CacheEntry
  wells : List WellState
  controls : Controls
  pending : Controls
  /-- SEL fields written since the last boundary: their counters clear at the next one (R316) -/
  selWritten : List Nat
  /-- issued core-cycles, handler cycles while throttled, first-tier and reservoir bytes in this period -/
  periodIssued : Nat
  periodHandler : Nat
  periodHbm : Nat
  periodRes : Nat
  /-- engine time in this period, in chunks served (R18, R239) -/
  periodEngine : Nat
  throttled : Bool
  throttledFor : Nat
  rsvSpent : Bool
  capHeld : Bool
  /-- cumulative counters 16 to 35 (R314) -/
  counters : Sparse 64
  /-- the counters as they stood after earlier cycles, as far back as a read may trail (R315): cycle, counters -/
  trail : List (Nat × Sparse 64)
  /-- the last cycle counted as issued on each core, so that a core-cycle counts once (R300); the same for handler groups alone (R314) -/
  issueCores : List (Nat × Nat)
  handlerCores : List (Nat × Nat)
  /-- queues with a DETAIL 12 report and pages with a window report in this period (R306, R387) -/
  reportedQueues : List Nat
  reportedPages : List Nat
  /-- stop records that wait for room (R396) -/
  deferredStops : List (List Word)
  /-- step of the owner's live migration: the cycle of its start (R390) -/
  migrating : Option Nat
  /-- the moment from which a write of the replay MODE counts: one that a launch has taken applies to no other (R402) -/
  replayTaken : Nat
  /-- MODEL's own: the number of the owner's next free value -/
  free : Nat
deriving DecidableEq, Repr

/-- A host queue (R304). -/
structure Queue where
  n : Nat
  owner : Nat
  ring : Nat
  sizel2 : Nat
  headaddr : Nat
  tail : Word
  head : Word
  bound : Bool
  readHere : Nat
  pendingSince : Nat
  /-- cycle of the notify that announced entry x: x, cycle -/
  announced : List (Nat × Nat)
  /-- a header read that has begun: its launch sequence number, and the cycle in which it began (T1) -/
  reading : Option (Nat × Nat)
deriving DecidableEq, Repr

/-- A reservation record that is taken (R68) with its stored elements and side data (R69, R221). -/
structure Reservation where
  core : Nat
  q : Nat
  w0 : Word
  w1 : Word
  launch : Nat
  block : Nat
  /-- element codes, key 64-row index r × K + k -/
  elems : Sparse 16
  /-- side data, key offset from the reservation start -/
  side : Sparse 8
  badByte : Bool
  poison : Bool
deriving DecidableEq, Repr

/-- A tile that is held (R70). -/
structure Tile where
  core : Nat
  t : Nat
  launch : Nat
  block : Nat
  /-- elements, key 64 i + j -/
  data : Sparse 36
  poison : Bool
deriving DecidableEq, Repr

/-- A member of a released matrix operation (R226). -/
structure MmaMember where
  group : Nat
  path : Nat
  args : MmaArgs
deriving DecidableEq, Repr

/-- A released matrix operation on a core (R226, R227). (log 57: DEDUCED) -/
structure MmaOp where
  id : Nat
  core : Nat
  launch : Nat
  block : Nat
  members : List MmaMember
  /-- the reservations as they stood at release: what lands during the operation never changes the result (R228) -/
  inputs : List Reservation
  /-- the cycle of its release, and the power class that the clause declares (R280) -/
  released : Nat
  declared : Nat
  started : Option Nat
  /-- array cycles in all, and those that it executes, which its start fixes (R226) -/
  passes : Nat
  ran : Nat
deriving DecidableEq, Repr

/-- The kinds of asynchronous access (R121). -/
inductive OpKind
  | load | store | strong | atomic | accLoad | accStore | wellAdd | wellTake
deriving DecidableEq, Repr

/-- An asynchronous operation in flight. -/
structure Op where
  id : Nat
  kind : OpKind
  path : PathRef
  owner : Nat
  core : Nat
  sb : Nat
  issued : Nat
  sp : Bool
  scope : Nat
  /-- element bytes -/
  width : Nat
  ty : Nat
  /-- operation of an atomic; the first register of the triple of a `well.take` -/
  aop : Nat
  /-- lane, address (physical, or 21-bit scratchpad), value stored, compare value -/
  lanes : List (Nat × Nat × DWord × DWord)
  /-- lanes whose result is fixed at issue: lane, value (R346) -/
  fixed : List (Nat × DWord)
  /-- destination: lane register, or scalar; `mz`: lanes of issued beats that are zeroed (R130) -/
  dest : Option LaneReg
  pair : Bool
  zeroed : Lanes
  uniform : Bool
  /-- tile, or well -/
  tile : Nat
  form : Nat
  /-- operations and matrix operations that come first (R198, R227) -/
  after : List Nat
  /-- writes in transit that precede it (R260), and the moment before which it takes no value (R202) -/
  preds : List Nat
  horizon : Nat
  /-- its log record (R401) -/
  logAt : Option LogPlace
  /-- lanes whose flags are its destination (R84) -/
  toFlags : Lanes
deriving DecidableEq, Repr

/-- A write applied at one die and not yet at every other (R259). -/
structure Transit where
  id : Nat
  addr : Nat
  bytes : List Byte
  /-- views that have applied it -/
  applied : List Nat
  preds : List Nat
  launch : Nat
  block : Nat
  group : Nat
  /-- its lane; 96: a write of the path or the group as a whole, 97: a spill of the window pump -/
  lane : Nat
  die : Nat
  /-- the vector clock it carries -/
  clock : List Nat
  /-- the step of an atomic (R199): the moment of the step, and the writes to its bytes that come after it -/
  atomic : Bool
  moment : Nat
  later : List Nat
deriving DecidableEq, Repr

/-- One place where device memory is applied: compute dies 0 to 3, and view 4, the base die, at which engines, the host and the
launch stages read and write. (log 8: DESIGN CHOICE) -/
structure Die where
  mem : Memory
  /-- what its bytes held before they changed -/
  past : List Past
  /-- the 4-entry vector clock: writes of each compute die applied here (R259) -/
  clock : List Nat
deriving DecidableEq, Repr

/-- State of the LZ4 decoder of a job card (R238). -/
structure LzState where
  pos : Nat
  literals : Nat
  matchLeft : Nat
  matchOffset : Nat
  /-- 0 token, 1 literals, 2 offset, 3 match, 4 end -/
  phase : Nat
  token : Nat
deriving DecidableEq, Repr

/-- The next chunk of a record: its bytes, the source bytes consumed before and after it, the bytes that were read, the output and the decoder after
it, and where its bytes go: physical address or place in scratchpad, offset, length. `bad`: a malformed stream. (log 62: DEDUCED) -/
structure Chunk where
  bytes : List Byte
  inprog : Nat
  readTo : Nat
  out : List Byte
  lz : LzState
  pieces : List (Nat × Nat × Nat)
  bad : Bool
deriving DecidableEq, Repr

/-- The kinds of engine record (R234, R241). -/
inductive RecKind
  | copy | card | coll
deriving DecidableEq, Repr

/-- An engine record in progress. -/
structure EngineRec where
  id : Nat
  kind : RecKind
  owner : Nat
  launch : Nat
  block : Nat
  core : Nat
  /-- scratchpad address of the record, and its 16 words as the engine read them at its start -/
  addr : Nat
  words : List Word
  /-- output bytes delivered, source bytes consumed, output of a card so far, decoder -/
  prog : Nat
  inprog : Nat
  out : List Byte
  lz : LzState
  /-- STATUS of a record that has ended early -/
  status : Option Nat
  /-- STATUS that the record ends with when it runs to its end (R380) -/
  finalStatus : Nat
  /-- the next chunk is delivered in spite of poison or a port out of service (R380) -/
  force : Bool
  /-- an origin waits for a handler (R380) -/
  faulted : Bool
  /-- the destination reservation was released (R239), or the owner was stopped (R354) -/
  dropped : Bool
  halted : Bool
  /-- the moment from which the present chunk reads its source, the chunk once it is read and begins to land, and its bytes that have landed
  (R237, R264) -/
  since : Nat
  chunk : Option Chunk
  landed : List Nat
  /-- output bytes over which a program has written (R384) -/
  spoiled : List Nat
  /-- writes in transit that precede its reads and writes (link 6 of R260) -/
  preds : List Nat
  /-- collective: index on its communicator, source parts received: rank, offset, bytes -/
  index : Nat
  parts : List (Nat × Nat × List Byte)
deriving DecidableEq, Repr

/-- Where an origin comes from. -/
inductive OriginFrom
  /-- one lane of a path's word (R322) -/
  | lane (p : PathRef) (i : Nat)
  /-- a whole path, with the lanes active at the fault -/
  | path (p : PathRef) (lanes : Lanes)
  /-- an engine record (R380) -/
  | engine (r : Nat)
  /-- a read of stage 3 or 4 of a queue's next header or of a launch (R332) -/
  | headerRead (q : Nat)
  | launchRead (l : Nat)
  /-- an image page lookup of a block (R361) -/
  | pumpLookup (l b page : Nat)
deriving DecidableEq, Repr

/-- An origin that waits (R326): in a collector, for another origin, or in a handler lane. -/
inductive OriginState
  | collected
  | behind (id : Nat)
  | handled (launch : Nat)
deriving DecidableEq, Repr

/-- A fault handed to a handler (R320, R326). -/
structure Origin where
  id : Nat
  owner : Nat
  kind : Nat
  detail : Word
  tag : List Word
  source : OriginFrom
  /-- both actions continue at the next word (R329) -/
  completed : Bool
  depth : Nat
  /-- the virtual address of the access; past them all where it has none -/
  addr : Nat
  /-- the marked register lines of its path at the fault, and whether the operand file was one (R386) -/
  marked : Option (List Nat × Bool)
  at_ : Nat
  /-- operations of the path with a lower number are waited for before the fault is reported (R321) -/
  mark : Nat
  state : OriginState
  /-- coalescing unit: a page for KIND 1, a marked unit for KIND 11 (R326, R379) -/
  unit : Option (Nat × Nat)
deriving DecidableEq, Repr

/-- What leaves with an owner that migrates (R390): its record and state, its pages with their entries, their bytes and their marks, by page and offset. -/
structure Departure where
  num : Nat
  owner : Owner
  launches : List Launch
  records : List EngineRec
  collIndex : List (Nat × Nat × Nat)
  origins : List Origin
  queues : List Queue
  pages : List (Nat × Word)
  bytes : List (Nat × Nat × Byte)
  marks : List (Nat × Nat)
deriving DecidableEq, Repr

/-- The load-step governor (R277 to R281). Power is counted in hundredths of a watt, summed over the cycles of a slot. -/
structure Governor where
  slot : Nat
  slotStart : Nat
  sum : Nat
  estimate : Nat
  previous : Nat
  limit : Nat
  limitNext : Option Nat
  lastHeld : Nat
  /-- the latest cycle for which holds were decided, and the cores held -/
  heldAt : Nat
  heldCores : List Nat
  /-- the weight of the beats that the holds of cycle `heldAt` keep back, and of those among them that take two cycles -/
  kept : Nat
  keptTwo : Nat
  admitted : Nat
  admittedPinned : Nat
  /-- weight issued without beats in cycle `drawAt` so far, as drawn and as planned -/
  drawAt : Nat
  draw : Nat
  plan : Nat
  /-- the latest cycle for which ballast was decided, and the launches on whose behalf it issued -/
  ballastAt : Nat
  ballastFor : List Nat
deriving DecidableEq, Repr

/-- A wake-filter entry (R413). -/
structure WakeEntry where
  valid : Bool
  offset : BitVec 7
  mask : DWord
  value : DWord
deriving DecidableEq, Repr

/-- A region-table entry (R412). -/
structure Region where
  valid : Bool
  base : Nat
  limit : Nat
  rights : BitVec 2
  epoch : BitVec 16
deriving DecidableEq, Repr

/-- An attestation report (R415). -/
structure Attestation where
  nonce : BitVec 256
  fwdigest : BitVec 256
  version : Word
  rollback : Word
  start : Word
  owner : Word
  ownerdigest : BitVec 256
  signature : BitVec 512
deriving DecidableEq, Repr

/-- A corrected error as it is logged (R376, R408): its unit, the core of a register store that it lies in, and its cycle. (log 97: DEDUCED) -/
structure Corrected where
  unit : PoisonUnit
  core : Option Nat
  at_ : Nat
deriving DecidableEq, Repr

/-- The status with which the firmware answers a request that it does not carry out: a capability fault or a limit (R301, R412), or a module that stays in
its boot ROM (R414). -/
inductive Answer
  | refused
  | failed
deriving DecidableEq, Repr

/-- The firmware complex (R405 to R415). -/
structure Firmware where
  running : Bool
  /-- the image that runs, with its signature -/
  image : List Byte
  signature : BitVec 512
  version : Nat
  rollback : Nat
  /-- the standby flash bank: image, version, signature -/
  standby : Option (List Byte × Nat × BitVec 512)
  onStandby : BitVec 4
  warm : Bool
  /-- saved training record: version and 5 °C band (R406) -/
  training : Option (Nat × Int)
  trained : Bool
  /-- logical core, physical core, where they differ from the map of R10's identity -/
  spareMap : List (Nat × Nat)
  repairLog : List Nat
  sparesUsed : List Nat
  inRepair : Option Nat
  /-- corrected errors logged for repair (R376) -/
  corrected : List Corrected
  /-- rows that have a spare row in their place, once for each spare -/
  remappedRows : List Nat
  retiredChannels : List Nat
  /-- pages of retired channels, and the pages that hold their contents now -/
  backing : List (Nat × Nat)
  operatorTold : Bool
  refusing : Bool
  portsLowered : Bool
  indicator : Bool
  /-- the module has left its slot since its last start (R406, R411) -/
  removed : Bool
  gated : BitVec 4
  waking : Bool
  wake : List WakeEntry
  held : List (List Byte)
  processed : List (List Byte)
  droppedFrames : Nat
  /-- the region table, key index; an entry that is not listed was never installed -/
  regions : List (Nat × Region)
  /-- the address that the region-checking unit formed last -/
  address : Option Nat
  reports : List Attestation
  /-- answers to requests that were not carried out, oldest first -/
  answers : List Answer
deriving DecidableEq, Repr

/-- Ports and links (R302, R310, R311, R391). -/
structure Links where
  pcieUp : Bool
  /-- CXL ports in service -/
  cxl : BitVec 4
  /-- Titeyx ports in service, and the lanes switched to spares -/
  titeyx : BitVec 16
  sparedLanes : List (Nat × Nat)
  retries : List (Nat × Nat × Nat)
  /-- MSI-X vectors masked, messages coalesced for later, messages sent (oldest first) -/
  masked : BitVec 256
  coalesced : BitVec 256
  sent : List Nat
  /-- the value of the last host read (R303, R305) -/
  hostRead : List Byte
  /-- the device number that the firmware has set (R311) -/
  deviceNumber : BitVec 12
deriving DecidableEq, Repr

/-- One move of the machine: which agent moves next, after how many cycles. (log 1: DESIGN CHOICE) -/
inductive Move
  /-- a path issues its next word -/
  | issue (dt : Nat) (p : PathRef)
  /-- an event happens -/
  | event (dt : Nat) (e : Instr)
deriving DecidableEq, Repr

/-- The state of the module. (log 111: DESIGN CHOICE) -/
structure State where
  cycle : Nat
  dies : List Die
  transit : List Transit
  poison : List Nat
  ops : List Op
  nextId : Nat
  /-- MODEL's own: the moment, a count of changes of memory -/
  moment : Nat
  /-- reverse ownership entries, key: page number in the tier order of physical address div 8192 (R308) -/
  ownership : Sparse 32
  shares : List (Nat × BitVec 64)
  owners : List Owner
  queues : List Queue
  launches : List Launch
  nextSeq : Nat
  reservations : List Reservation
  tiles : List Tile
  mmas : List MmaOp
  records : List EngineRec
  /-- next index of a collective on each owner's communicators: owner, communicator, index -/
  collIndex : List (Nat × Nat × Nat)
  origins : List Origin
  /-- owners that have left for another module, and have not arrived there (R390) -/
  departed : List Departure
  governor : Governor
  /-- metering period in force -/
  period : Nat
  /-- oldest waiting request of each core and for how long: core, launch, block, group, path, cycles (R364) -/
  contention : List (Nat × PathRef × Nat)
  links : Links
  firmware : Firmware
  /-- the path that issues when the agenda is empty -/
  cur : PathRef
  agenda : List Move
  /-- MODEL's own: the number of the next free value that belongs to no owner -/
  free : Nat
deriving DecidableEq, Repr

/-- Why the machine stops. (log 6: DESIGN CHOICE) -/
inductive Fault
  /-- A word is executed where no path runs: raised by the meanings of the word rows when `cur` names no resident path. Safe:
  a word issues only from a path (R28), so no step of the hardware is replaced. -/
  | noPath
deriving DecidableEq, Repr

/-- Why an instruction has no meaning. -/
inductive Refusal
  /-- Raised by an arm of `exec` whose instruction is not modelled. Safe: nothing can be proved of a run that goes on. -/
  | notModelled (mnemonic : String)
deriving DecidableEq, Repr

/-- Controls of an owner that has set none. (log 11: DESIGN CHOICE) -/
def Controls.unset : Controls := ⟨[0, 0, 0, 0], 0, 0, 0, 0, 0, 0⟩

/-- An owner record that was never set. -/
def absentRecord : OwnerRequest :=
  ⟨0, 0, 0, 0, 0, 0, 0, 0, 0, 0, 0, 0, 0, 0, 0, 0, 0, [], [], [], []⟩

/-- An absent owner (R20, R299). (log 10, 11: DEDUCED, DESIGN CHOICE) -/
def Owner.absent : Owner where
  valid := false
  stopped := false
  record := absentRecord
  tlb := []
  comms := []
  withdrawn := []
  cache := []
  wells := []
  controls := Controls.unset
  pending := Controls.unset
  selWritten := []
  periodIssued := 0
  periodHandler := 0
  periodHbm := 0
  periodRes := 0
  periodEngine := 0
  throttled := false
  throttledFor := 0
  rsvSpent := false
  capHeld := false
  counters := []
  trail := []
  issueCores := []
  handlerCores := []
  reportedQueues := []
  reportedPages := []
  deferredStops := []
  migrating := none
  replayTaken := 0
  free := 0

/-- The governor after a start: default limit 150 W/µs (R278); an idle package draws 400 W (R277). (log 11: DESIGN CHOICE) -/
def Governor.start : Governor :=
  ⟨0, 0, 0, 40000 * 3000, 40000 * 3000, 150, none, 351, 0, [], 0, 0, 0, 0, 0, 0, 0, 0, []⟩

/-- The firmware complex after a cold start (R405, R413). One region, which the boot ROM installs, is described in the table (R412). (log 11, 12, 14: DESIGN CHOICE, DEDUCED) -/
def Firmware.start : Firmware where
  running := true
  image := []
  signature := 0
  version := 0
  rollback := 0
  standby := none
  onStandby := 0
  warm := false
  training := none
  trained := true
  spareMap := []
  repairLog := []
  sparesUsed := []
  inRepair := none
  corrected := []
  remappedRows := []
  retiredChannels := []
  backing := []
  operatorTold := false
  refusing := false
  portsLowered := false
  indicator := false
  removed := false
  gated := 0
  waking := false
  wake := List.replicate 8 ⟨false, 0, 0, 0⟩
  held := []
  processed := []
  droppedFrames := 0
  regions := [(0, ⟨true, 0, 2 ^ 32 - 1, 3, 0⟩)]
  address := none
  reports := []
  answers := []

/-- Links trained, every port in service (R405); MSI-X vectors start masked, as the PCIe family's mask bits do. (log 11, 13: DESIGN CHOICE, PRESUMED) -/
def Links.start : Links := ⟨true, 0xF, 0xFFFF, [], [], BitVec.allOnes 256, 0, [], [], 0⟩

/-- The module after a cold start: both tiers clear, every owner absent, every queue slot free, CYCLE 0 (R20, R405). (log 9, 10, 11: DEDUCED, DESIGN CHOICE) -/
def State.reset : State where
  cycle := 0
  dies := List.replicate 5 ⟨[], [], [0, 0, 0, 0]⟩
  transit := []
  poison := []
  ops := []
  nextId := 0
  moment := 0
  ownership := []
  shares := []
  owners := List.replicate 64 Owner.absent
  queues := []
  launches := []
  nextSeq := 0
  reservations := []
  tiles := []
  mmas := []
  records := []
  collIndex := []
  origins := []
  departed := []
  governor := Governor.start
  period := 0
  contention := []
  links := Links.start
  firmware := Firmware.start
  cur := ⟨0, 0, 0, 0⟩
  agenda := []
  free := 0

end Sys2Proof.Machine
end

