-- ==== Sys2Proof/Machine/Store.lean ====
section
/-! DEFINITION. Sparse maps and byte memory in canonical form, and little-endian words over them (R2). -/

namespace Sys2Proof.Machine

/-- The value at a key; an absent key reads as zero. (log 9: DEDUCED) -/
def Sparse.get {w : Nat} : Sparse w → Nat → BitVec w
  | [], _ => 0
  | (k, v) :: r, n => if n = k then v else Sparse.get r n

/-- Insert or replace the entry at a key, in its place. -/
def Sparse.insert {w : Nat} : Sparse w → Nat → BitVec w → Sparse w
  | [], n, x => [(n, x)]
  | (k, v) :: r, n, x => if n = k then (n, x) :: r else if n < k then (n, x) :: (k, v) :: r else (k, v) :: Sparse.insert r n x

/-- The value `x` at a key; a zero is not listed. -/
def Sparse.put {w : Nat} (m : Sparse w) (n : Nat) (x : BitVec w) : Sparse w :=
  if x = 0 then m.filter fun e => e.1 != n else m.insert n x

/-- Every key is at least `b`, keys strictly rise and no value is zero. -/
def Sparse.wfFrom {w : Nat} : Nat → Sparse w → Bool
  | _, [] => true
  | b, (k, v) :: r => decide (b ≤ k) && v != 0 && Sparse.wfFrom (k + 1) r

/-- The canonical form of a sparse map. -/
def Sparse.wf {w : Nat} (m : Sparse w) : Bool := Sparse.wfFrom 0 m

/-- The canonical form of a memory: addresses strictly rising, nothing listed that reads as an unlisted address does. -/
def Memory.wf (m : Memory) : Bool := Sparse.wf (w := 8) m

/-- The entries with keys in `[lo, hi)`. -/
def Sparse.slice {w : Nat} (m : Sparse w) (lo hi : Nat) : Sparse w :=
  m.filter fun e => decide (lo ≤ e.1) && decide (e.1 < hi)

/-- Zero at every key in `[lo, hi)`. -/
def Sparse.clear {w : Nat} (m : Sparse w) (lo hi : Nat) : Sparse w :=
  m.filter fun e => !(decide (lo ≤ e.1) && decide (e.1 < hi))

/-- Write a list of entries in order. -/
def Sparse.puts {w : Nat} (m : Sparse w) (es : List (Nat × BitVec w)) : Sparse w :=
  es.foldl (fun m e => m.put e.1 e.2) m

/-- `n` bytes from `addr` on. (log 9: DEDUCED) -/
def Memory.read (m : Memory) (addr n : Nat) : List Byte :=
  (List.range n).map fun i => Sparse.get (w := 8) m (addr + i)

/-- Write bytes from `addr` on. -/
def Memory.write : Memory → Nat → List Byte → Memory
  | m, _, [] => m
  | m, a, b :: r => Memory.write (Sparse.put (w := 8) m a b) (a + 1) r

/-- The number a little-endian byte string stands for (R2). -/
def leNat : List Byte → Nat
  | [] => 0
  | b :: r => b.toNat + 256 * leNat r

/-- The first `n` bytes of a number, little-endian (R2). -/
def leBytes : Nat → Nat → List Byte
  | 0, _ => []
  | n + 1, v => BitVec.ofNat 8 v :: leBytes n (v / 256)

/-- A list of 32-bit words as bytes (R2). -/
def wordBytes (ws : List Word) : List Byte := ws.flatMap fun x => leBytes 4 x.toNat

/-- The 32-bit words of a byte string (R2). -/
def bytesWords : Nat → List Byte → List Word
  | 0, _ => []
  | n + 1, bs => BitVec.ofNat 32 (leNat (bs.take 4)) :: bytesWords n (bs.drop 4)

/-- Lane `i` of a lane set. -/
abbrev laneOn (m : Lanes) (i : Nat) : Bool := m.getLsbD i

/-- The lanes of a set, ascending. -/
def laneList (m : Lanes) : List Nat := allLanes.filter (laneOn m)

/-- The set of a list of lanes. -/
def laneSet (ls : List Nat) : Lanes := ls.foldl (fun m i => m ||| BitVec.ofNat 96 (2 ^ i)) 0

/-- The lowest lane of a set. -/
def lowest (m : Lanes) : Option Nat := (laneList m).head?

/-- The three mask words of a lane set (R21). -/
def maskWord (m : Lanes) (j : Nat) : Word := BitVec.ofNat 32 (m.toNat / 2 ^ (32 * j))

/-- The lane set of three mask words (R21). -/
def ofMaskWords (a b c : Word) : Lanes := BitVec.ofNat 96 (a.toNat + 2 ^ 32 * b.toNat + 2 ^ 64 * c.toNat)

/-- The lanes of the beats whose mask word is nonzero (R22). -/
def beatLanes (m : Lanes) : Lanes :=
  ofMaskWords (if maskWord m 0 = 0 then 0 else BitVec.allOnes 32) (if maskWord m 1 = 0 then 0 else BitVec.allOnes 32)
    (if maskWord m 2 = 0 then 0 else BitVec.allOnes 32)

/-- The number of issued beats of a mask (R22). -/
def beatCount (m : Lanes) : Nat :=
  (List.range 3).countP fun j => maskWord m j != 0

/-- The number of one bits of a lane set. -/
def laneCount (m : Lanes) : Nat := (laneList m).length

/-- Element `n` of a list replaced by `f` of it. -/
def modifyNth {α : Type} (l : List α) (n : Nat) (f : α → α) : List α := l.modify n f

end Sys2Proof.Machine
end

