-- ==== Sys2Proof/Machine/Encoding.lean ====
section
/-! DEFINITION. Operand specifiers (R126), the fields each word accepts (R133, R138, R146, R164, R191, R207, R215, R216) and the
encoding causes of the illegal-instruction trap (R341). -/

namespace Sys2Proof.Machine

/-! ### Specifiers -/

/-- A 7-bit specifier as the 8-bit specifier of the same operand (R126, R127). -/
def wide7 (b : BitVec 7) : Nat :=
  let v := b.toNat
  if v < 0x60 then v
  else if v < 0x6A then v + 0x60
  else if v < 0x7B then v + 0x66
  else if v < 0x7D then v + 0x6F
  else v + 0x70

def isW (v : Nat) : Bool := decide (v < 0x40)
def isS (v : Nat) : Bool := decide (0x40 ≤ v) && decide (v < 0xC0)
def isO (v : Nat) : Bool := decide (0xC0 ≤ v) && decide (v < 0xC8)
def isL (v : Nat) : Bool := decide (v = 0xC8) || decide (v = 0xC9)
def isSpecial (v : Nat) : Bool := decide (0xCA ≤ v) && decide (v < 0xD0)
def isConst (v : Nat) : Bool := decide (0xD0 ≤ v) && decide (v < 0xF0)

/-- Names a per-lane register, the last-result file or a per-lane special (R116). -/
def isPerLane (v : Nat) : Bool := isW v || isO v || isL v || isSpecial v

/-- Which operands a field accepts. -/
inductive Accept
  /-- every readable specifier -/
  | any
  /-- scalar registers and inline constants (R138, R207, R216) -/
  | scalar
  /-- scalar registers -/
  | sreg
  /-- `w` and `o` registers -/
  | lane
  /-- `w` and `o` registers and the lane flags: a per-lane destination (R84, R191) -/
  | perLane
  /-- `w`, `o` and `s` registers -/
  | reg
  /-- registers and inline constants: ITEM of `well.add` (R216) -/
  | item
deriving DecidableEq, Repr

def Accept.ok : Accept → Nat → Bool
  | .any, _ => true
  | .scalar, v => isS v || isConst v
  | .sreg, v => isS v
  | .lane, v => isW v || isO v
  | .perLane, v => isW v || isO v || v == 0xCB
  | .reg, v => isW v || isO v || isS v
  | .item, v => isW v || isO v || isS v || isConst v

/-- An operand field: its specifier (8-bit numbering), the registers it names, whether they start at an even register, what it
accepts, whether it is a destination, and whether it is a 7-bit field. -/
structure Field where
  v : Nat
  n : Nat
  even : Bool
  acc : Accept
  dest : Bool
  seven : Bool
deriving DecidableEq, Repr

/-- The DETAIL causes of one operand field (R341, codes 3 to 6). (log 21: DEDUCED) -/
def Field.causes (f : Field) : List Nat :=
  if 0xF0 ≤ f.v then [3]
  else if !f.acc.ok f.v || (f.dest && !(isW f.v || isO f.v || isS f.v || f.v == 0xCB)) || (f.even && isSpecial f.v) then [4]
  else
    (if f.even && !isConst f.v && !isL f.v && f.v % 2 == 1 then [5] else []) ++
    (if isS f.v then
      (if f.v - 0x40 + f.n > (if f.seven then 32 else 128) then [5]
       else if f.dest && decide (f.v - 0x40 ≤ 124) && decide (122 ≤ f.v - 0x40 + f.n) then [6] else [])
     else if (isW f.v && decide (64 < f.v + f.n)) || (isO f.v && decide (0xC8 < f.v + f.n)) then [5] else [])

/-- An 8-bit source field of `n` registers. (log 21: DEDUCED) -/
def srcField (acc : Accept) (n : Nat) (a : BitVec 8) : Field := ⟨a.toNat, n, n == 2 || n == 4, acc, false, false⟩
/-- A 7-bit source field. -/
def srcField7 (acc : Accept) (n : Nat) (b : BitVec 7) : Field := ⟨wide7 b, n, n == 2, acc, false, true⟩
/-- A destination field. -/
def dstField (acc : Accept) (n : Nat) (d : BitVec 8) : Field := ⟨d.toNat, n, n == 2, acc, true, false⟩

/-! ### Types -/

/-- Width in bits of a type code (R132); codes without a width of their own count as 32. -/
def codeWidth (c : Nat) : Nat :=
  if c = 1 ∨ c = 5 ∨ c = 13 ∨ c = 14 then 8
  else if c = 2 ∨ c = 6 ∨ c = 9 ∨ c = 10 then 16
  else if c = 4 ∨ c = 8 ∨ c = 12 then 64
  else 32

/-- Registers an operand of a type takes: 2 for 64-bit types (R162). -/
def regsOf (c : Nat) : Nat := if codeWidth c = 64 then 2 else 1

/-- The EXT field that precedes a word. -/
def extOf : Option Pfx → Nat
  | none => 0
  | some p => p.ext

/-- The type code in force: the default for EXT 0 (R132, R162). -/
def typeOf (dflt : Nat) (p : Option Pfx) : Nat := if extOf p = 0 then dflt else extOf p

/-- Width of a scalar arithmetic word (R139). -/
def scalarRegs (p : Option Pfx) : Nat := if extOf p = 4 ∨ extOf p = 8 then 2 else 1

/-! ### What each word accepts in its prefix (R133, R164) -/

/-- Prefix fields a word accepts; `ext` none: EXT must be zero; `four`: registers of the FOURTH operand, none: not accepted. -/
structure PfxAccept where
  masksel : Bool := false
  mz : Bool := false
  rnd : Bool := false
  sat : Bool := false
  four : Option Nat := none
  ext : Option (List Nat) := none
deriving DecidableEq, Repr

def intCodes : List Nat := [1, 2, 3, 4, 5, 6, 7, 8]
def floatCodes : List Nat := [9, 10, 12, 13, 14]
def narrowFloatCodes : List Nat := [9, 10, 13, 14]
def treeCodes : List Nat := [3, 4, 7, 8, 9, 10, 11, 12]

/-- Acceptance of a scalar arithmetic word. (log 22: DEDUCED) -/
def scalarAccept : PfxAccept := { sat := true, ext := some [3, 4, 7, 8] }

/-- Acceptance of a vector word. (log 22: DEDUCED) -/
def vectorAccept (rnd sat : Bool) (ext : List Nat) (four : Option Nat := none) : PfxAccept :=
  { masksel := true, mz := true, rnd, sat, four, ext := some ext }

/-- The causes that lie in a prefix (R136, R137, R343). (log 22: DEDUCED) -/
def PfxAccept.causes (c : PfxAccept) : Option Pfx → List Nat
  | none => []
  | some p =>
    (if decide (5 ≤ p.masksel) || decide (6 ≤ p.rnd) || (!c.masksel && decide (p.masksel ≠ 0)) || (!c.mz && p.mz)
        || (!c.rnd && decide (p.rnd ≠ 0)) || (!c.sat && p.sat) || (c.ext.isNone && decide (p.ext ≠ 0))
        || (match c.four with
            | none => decide (p.fourth ≠ 0)
            | some n => !(srcField .any n p.fourth).causes.isEmpty)
      then [9] else []) ++
    (match c.ext with
     | none => []
     | some l => if p.ext = 0 ∨ p.ext ∈ l then [] else [8])

/-! ### Fields of the words -/

/-- The class of words that share operand fields and prefix acceptance. -/
inductive Shape
  /-- not a word that can be checked on its own: prefix and events -/
  | none
  | fields (fs : List Field) (codes : List Nat) (acc : PfxAccept)
deriving DecidableEq, Repr

def zeroB (b : BitVec 7) : List Nat := if b = 0 then [] else [10]

def shapeScalar3 (p : Option Pfx) (d a : BitVec 8) (b : BitVec 7) : Shape :=
  .fields [dstField .sreg (scalarRegs p) d, srcField .scalar (scalarRegs p) a, srcField7 .scalar (scalarRegs p) b] [] scalarAccept

def shapeScalar2 (p : Option Pfx) (d a : BitVec 8) : Shape :=
  .fields [dstField .sreg (scalarRegs p) d, srcField .scalar (scalarRegs p) a] [] scalarAccept

def shapeMask3 (d a : BitVec 8) (b : BitVec 7) : Shape :=
  .fields [dstField .sreg 3 d, srcField .scalar 3 a, srcField7 .scalar 3 b] [] {}

def shapeMask2 (n : Nat) (d a : BitVec 8) : Shape := .fields [dstField .sreg n d, srcField .scalar 3 a] [] {}

/-- A vector three-operand word whose operands all have the word's type. -/
def shapeVec3 (dflt : Nat) (acc : PfxAccept) (p : Option Pfx) (d a : BitVec 8) (b : BitVec 7) : Shape :=
  let n := regsOf (typeOf dflt p)
  .fields [dstField .any n d, srcField .any n a, srcField7 .any n b] [] acc

def shapeVec2 (dflt : Nat) (acc : PfxAccept) (p : Option Pfx) (d a : BitVec 8) : Shape :=
  let n := regsOf (typeOf dflt p)
  .fields [dstField .any n d, srcField .any n a] [] acc

/-- A vector word with 32-bit b. -/
def shapeVecB (dflt : Nat) (acc : PfxAccept) (p : Option Pfx) (d a : BitVec 8) (b : BitVec 7) : Shape :=
  let n := regsOf (typeOf dflt p)
  .fields [dstField .any n d, srcField .any n a, srcField7 .any 1 b] [] acc

/-- A compare: D of 30 or 31, COND 7, COND 6 outside floating types (R341). -/
def compareCodes (float : Bool) (c : BitVec 3) (d : BitVec 5) : List Nat :=
  (if 30 ≤ d.toNat then [5] else []) ++ (if c.toNat = 7 ∨ (c.toNat = 6 ∧ !float) then [7] else [])

def shapeVecCmp (dflt : Nat) (float : Bool) (acc : PfxAccept) (p : Option Pfx) (c : BitVec 3) (d : BitVec 5) (a : BitVec 8)
    (b : BitVec 7) : Shape :=
  let n := regsOf (typeOf dflt p)
  .fields [srcField .any n a, srcField7 .any n b] (compareCodes float c d) acc

/-- A conversion: source type code in `f`; `srcs` says which codes pair with the destination (R175). -/
def shapeCvt (dst : Nat) (acc : PfxAccept) (srcs : Nat → Bool) (d a : BitVec 8) (f : BitVec 5) : Shape :=
  .fields [dstField .any dst d, srcField .any (regsOf f.toNat) a]
    (if 19 ≤ f.toNat then [7] else if f.toNat = 0 ∨ !srcs f.toNat then [8] else []) acc

def cvtAccept : PfxAccept := vectorAccept true true [] (some 1)
def lnsAccept : PfxAccept := vectorAccept true true []

/-- SB 6 or 7 (R341). -/
def sbCodes (sb : BitVec 3) : List Nat := if 6 ≤ sb.toNat then [7] else []

/-- Type code of an access word: 0 means `.n32` (R193). -/
def accessType (ty : BitVec 5) : Nat := if ty.toNat = 0 then 7 else ty.toNat

/-- Extension-word causes of the access words (R193, R345); `atom`, `strong` say which word. -/
def accessCodes (atom strong : Bool) (sb : BitVec 3) (ty : BitVec 5) (scope : BitVec 3) (aop : BitVec 4) : List Nat :=
  let t := accessType ty
  sbCodes sb ++ (if 16 ≤ ty.toNat ∨ scope.toNat = 7 ∨ 8 ≤ aop.toNat then [7] else []) ++
  (if (decide (scope.toNat = 0)) = strong ∨ (aop.toNat ≠ 0 ∧ !atom) then [8] else []) ++
  (if atom ∧ ¬(t = 3 ∨ t = 4 ∨ t = 7 ∨ t = 8 ∨ ((t = 11 ∨ t = 12) ∧ (aop.toNat = 0 ∨ aop.toNat = 6 ∨ aop.toNat = 7))) then [8] else []) ++
  (if strong ∧ ¬atom ∧ codeWidth t < 32 then [8] else [])

/-- `ld`, `st`, `st.strong`, `atom`. (log 24: DEDUCED) -/
def shapeAccess (dst : Field) (atom strong : Bool) (acc : PfxAccept) (a : BitVec 8) (b : BitVec 7) (sb : BitVec 3) (ty : BitVec 5)
    (scope : BitVec 3) (sp : BitVec 1) (aop : BitVec 4) : Shape :=
  .fields [dst, srcField .scalar (if sp = 1 then 1 else 2) a, srcField7 .any 1 b] (accessCodes atom strong sb ty scope aop) acc

/-- `gather`, `scatter`. (log 24: DEDUCED) -/
def shapeLaneAccess (dst : Field) (acc : PfxAccept) (a : BitVec 8) (b : BitVec 7) (sb : BitVec 3) (ty : BitVec 5)
    (scope : BitVec 3) (sp : BitVec 1) (aop : BitVec 4) : Shape :=
  .fields [dst, srcField .lane (if sp = 1 then 1 else 2) a, srcField7 .any 1 b] (accessCodes false false sb ty scope aop) acc

/-- Registers of an access word's type. -/
def accessRegs (ty : BitVec 5) : Nat := regsOf (accessType ty)

def maskOnly : PfxAccept := { masksel := true }

/-- The operand fields, field-value causes and prefix acceptance of each word. (log 118: DESIGN CHOICE) -/
def shapeOf (p : Option Pfx) : Instr → Shape
  | .add _ d a b | .sub _ d a b | .mul _ d a b | .mulh _ d a b | .div _ d a b | .rem _ d a b | .and _ d a b | .or _ d a b
  | .xor _ d a b | .shl _ d a b | .shr _ d a b | .sar _ d a b | .min _ d a b | .max _ d a b | .sel _ d a b => shapeScalar3 p d a b
  | .cmp _ c d a b =>
    .fields [srcField .scalar (scalarRegs p) a, srcField7 .scalar (scalarRegs p) b] (compareCodes false c d) scalarAccept
  | .mov _ d a | .not _ d a | .abs _ d a | .neg _ d a | .clz _ d a | .popc _ d a => shapeScalar2 p d a
  | .mmov _ d a | .mnot _ d a => shapeMask2 3 d a
  | .mpop _ d a => shapeMask2 1 d a
  | .movk _ d _ => .fields [dstField .sreg 1 d] [] {}
  | .mand _ d a b | .mor _ d a b | .mxor _ d a b | .mandn _ d a b => shapeMask3 d a b
  | .bra _ _ | .call _ _ _ | .nop _ | .ret _ | .exit _ => .fields [] [] {}
  | .brz _ a _ | .brnz _ a _ => .fields [srcField .scalar 3 a] [] {}
  | .fork _ d a _ => .fields [dstField .sreg 1 d, srcField .scalar 3 a] [] {}
  | .join _ a | .sleep _ a | .wrmode _ a => .fields [srcField .scalar 1 a] [] {}
  | .trip _ d a => .fields [dstField .sreg 1 d, srcField .scalar 1 a] [] {}
  | .rdmode _ d => .fields [dstField .sreg 1 d] [] {}
  | .addVectorInt _ d a b | .subVectorInt _ d a b | .mulVectorInt _ d a b | .mulhVectorInt _ d a b | .divVectorInt _ d a b
  | .remVectorInt _ d a b | .andVector _ d a b | .orVector _ d a b | .xorVector _ d a b | .shlVector _ d a b | .shrVector _ d a b
  | .sarVector _ d a b | .minVectorInt _ d a b | .maxVectorInt _ d a b => shapeVec3 3 (vectorAccept false true intCodes) p d a b
  | .selVector _ d a b => shapeVec3 3 (vectorAccept false false intCodes (some (regsOf (typeOf 3 p)))) p d a b
  | .cmpVectorInt _ c d a b => shapeVecCmp 3 false (vectorAccept false false intCodes) p c d a b
  | .movVector _ d a | .notVector _ d a | .absVectorInt _ d a | .negVectorInt _ d a | .clzVector _ d a | .popcVector _ d a =>
    shapeVec2 3 (vectorAccept false true intCodes) p d a
  | .addFloat _ d a b | .subFloat _ d a b | .mulFloat _ d a b => shapeVec3 11 (vectorAccept true true narrowFloatCodes) p d a b
  | .fmaFloat _ d a b => shapeVec3 11 (vectorAccept true true narrowFloatCodes (some 1)) p d a b
  | .divFloat _ d a b | .minFloat _ d a b | .maxFloat _ d a b => shapeVec3 11 (vectorAccept true true floatCodes) p d a b
  | .sqrt _ d a | .rsq _ d a | .rcp _ d a | .absFloat _ d a | .negFloat _ d a =>
    shapeVec2 11 (vectorAccept true true floatCodes) p d a
  | .cmpFloat _ c d a b => shapeVecCmp 11 true (vectorAccept false false floatCodes) p c d a b
  | .classify _ d a b =>
    .fields [dstField .any 1 d, srcField .any (regsOf (typeOf 11 p)) a, srcField7 .any 1 b] [] (vectorAccept true true floatCodes)
  | .addF64 _ d a b | .subF64 _ d a b | .mulF64 _ d a b =>
    .fields [dstField .any 2 d, srcField .any 2 a, srcField7 .any 2 b] [] (vectorAccept true true [])
  | .fmaF64 _ d a b => .fields [dstField .any 2 d, srcField .any 2 a, srcField7 .any 2 b] [] (vectorAccept true true [] (some 2))
  | .shfl _ d a b | .bcast _ d a b => shapeVecB 7 (vectorAccept false false [7, 8]) p d a b
  | .matchKeys _ d a =>
    .fields [dstField .any 1 d, srcField .any (regsOf (typeOf 7 p)) a] [] (vectorAccept false false [1, 2, 3, 4, 5, 6, 7, 8, 9, 10, 11, 12])
  | .redAdd _ d a | .redMin _ d a | .redMax _ d a | .scanAdd _ d a => shapeVec2 11 (vectorAccept true true treeCodes) p d a
  | .cvtF64 _ d a f => shapeCvt 2 cvtAccept (fun _ => true) d a f
  | .cvtF32 _ d a f | .cvtF16 _ d a f | .cvtBf16 _ d a f | .cvtE4m3 _ d a f | .cvtE5m2 _ d a f => shapeCvt 1 cvtAccept (fun _ => true) d a f
  | .cvtL32 _ d a f => shapeCvt 1 cvtAccept (fun c => decide (c ≤ 15)) d a f
  | .cvtInt _ d a f =>
    shapeCvt (regsOf (typeOf 3 p)) (vectorAccept true true intCodes (some 1)) (fun c => decide (c ≤ 15)) d a f
  | .cvtCode _ d a k f =>
    .fields [dstField .any 1 d, srcField .any (regsOf f.toNat) a]
      (if k = 3 ∨ 19 ≤ f.toNat then [7] else if f.toNat < 9 ∨ 14 < f.toNat then [8] else []) cvtAccept
  | .cvtb _ d a b => .fields [dstField .any 1 d, srcField .any 1 a, srcField7 .any 1 b] [] (vectorAccept true false [10, 13, 14])
  | .lnsmul _ d a b | .lnsdiv _ d a b | .lnsadd _ d a b | .lnsroot _ d a b | .lnspow _ d a b =>
    .fields [dstField .any 1 d, srcField .any 1 a, srcField7 .any 1 b] [] lnsAccept
  | .ld _ d a b sb ty scope sp aop =>
    shapeAccess (dstField .any (accessRegs ty) d) false false { masksel := true, mz := true } a b sb ty scope sp aop
  | .gather _ d a b sb ty scope sp aop =>
    shapeLaneAccess (dstField .perLane (accessRegs ty) d) { masksel := true, mz := true } a b sb ty scope sp aop
  | .st _ d a b sb ty scope sp aop => shapeAccess (srcField .any (accessRegs ty) d) false false maskOnly a b sb ty scope sp aop
  | .stStrong _ d a b sb ty scope sp aop => shapeAccess (srcField .any (accessRegs ty) d) false true maskOnly a b sb ty scope sp aop
  | .scatter _ d a b sb ty scope sp aop => shapeLaneAccess (srcField .any (accessRegs ty) d) maskOnly a b sb ty scope sp aop
  | .atom _ d a b sb ty scope sp aop =>
    shapeAccess (dstField .any (accessRegs ty) d) true true { masksel := true, mz := true, four := some (accessRegs ty) }
      a b sb ty scope sp aop
  | .fence _ p k => .fields [] (if p.toNat = 0 ∨ p.toNat = 7 ∨ k.toNat = 3 then [7] else []) maskOnly
  | .barInit _ c a b => .fields [srcField .scalar 1 c, srcField .scalar 1 a, srcField7 .scalar 1 b] [] maskOnly
  | .barArrive _ d a => .fields [dstField .sreg 1 d, srcField .scalar 1 a] [] maskOnly
  | .barArrivec _ d a b => .fields [dstField .sreg 1 d, srcField .scalar 1 a, srcField7 .scalar 1 b] [] maskOnly
  | .barWait _ a b => .fields [srcField .scalar 1 a, srcField7 .scalar 1 b] [] maskOnly
  | .waita _ c a b => .fields [srcField .scalar 1 a, srcField7 .scalar 1 b] (if 6 ≤ c.toNat then [7] else []) maskOnly
  | .mma _ _ _ _ sb _ _ _ _ => .fields [] (sbCodes sb) { sat := true }
  | .gang _ a | .opres _ _ a => .fields [srcField .scalar 2 a] [] {}
  | .opready _ _ | .oprel _ _ | .mwait _ _ | .trap _ _ => .fields [] [] {}
  | .accAlloc _ a | .accFree _ a => .fields [srcField .scalar 1 a] [] {}
  | .accSt _ _ a b sb sp form | .accLd _ _ a b sb sp form =>
    .fields [srcField .scalar (if sp = 1 then 1 else 2) a, srcField7 .any 1 b] (sbCodes sb ++ (if form = 3 then [7] else [])) {}
  | .cpyk _ a b | .dzk _ a b | .coll _ a b => .fields [srcField .scalar 1 a, srcField7 .scalar 1 b] [] {}
  | .wellAdd _ c _ sb => .fields [srcField .item 2 c] (sbCodes sb) maskOnly
  | .wellTake _ c _ sb d =>
    .fields [dstField .lane 2 c]
      (sbCodes sb ++ (if 125 < d.toNat then [5] else if 119 ≤ d.toNat ∧ d.toNat ≤ 124 then [6] else [])) maskOnly
  | .quiet _ d => .fields [dstField .sreg 3 d] [] {}
  | .tlbw _ a => .fields [srcField .reg 4 a] [] {}
  | .tlbinv _ m a => .fields [srcField .scalar 2 a] (if 2 ≤ m.toNat then [7] else []) {}
  | .orig _ d _ => .fields [dstField .reg 1 d] [] {}
  | .hret _ a => .fields [srcField .any 1 a] [] {}
  | .ctr _ d _ => .fields [dstField .sreg 2 d] [] {}
  | .wspill _ _ a b => .fields [srcField .scalar 1 a, srcField7 .scalar 1 b] [] {}
  | _ => .none

/-- The lowest of a list of DETAIL codes (R341). (log 23: DEDUCED) -/
def lowestDetail : List Nat → Option Nat
  | [] => none
  | c :: r => some (r.foldl min c)

/-- Every encoding cause of a word under a prefix. (log 23: DEDUCED) -/
def encCauses (p : Option Pfx) (i : Instr) : List Nat :=
  match shapeOf p i with
  | .none => []
  | .fields fs codes acc => fs.flatMap Field.causes ++ codes ++ acc.causes p

/-- The DETAIL of the illegal-instruction trap that the encoding of a word raises, if any (R341). -/
def encDetail (p : Option Pfx) (i : Instr) : Option Nat := lowestDetail (encCauses p i)

/-- The specifiers a word names, with FOURTH where the word takes it from the prefix (R116, R131). -/
def specifiers (p : Option Pfx) (i : Instr) : List Nat :=
  match shapeOf p i with
  | .none => []
  | .fields fs _ acc => fs.map (·.v) ++ (match p, acc.four with
    | some q, some _ => [q.fourth.toNat]
    | _, _ => [])

/-! ### Kinds (R114) and power classes (R117) -/

/-- The kinds of word (R114). -/
inductive Kind
  | scalar | control | vector | memory | matrix | engine | system
deriving DecidableEq, Repr

/-- The kind of a word, from its opcode and SUB value; none for prefixes and for unassigned encodings (R114). -/
def wordKind (w : Word) : Option Kind :=
  let op := bits w.toNat 29 23
  let sub := bits w.toNat 22 19
  let b := bits w.toNat 6 0
  if op ≤ 0x0F ∨ op = 0x11 ∨ (0x12 ≤ op ∧ op ≤ 0x15) ∨ op = 0x1C then some .scalar
  else if op = 0x10 then (if b ≤ 8 then some .scalar else none)
  else if 0x16 ≤ op ∧ op ≤ 0x1B then some .control
  else if op = 0x1D then (if sub = 0 ∨ sub = 3 then some .scalar else if sub = 1 ∨ sub = 2 then some .control else none)
  else if op = 0x1E then (if sub ≤ 1 then some .scalar else none)
  else if op = 0x30 then (if b ≤ 5 then some .vector else none)
  else if op = 0x3D then (if b = 2 ∨ b = 3 then some .vector else none)
  else if (0x20 ≤ op ∧ op ≤ 0x48) ∨ (0x50 ≤ op ∧ op ≤ 0x5E) then some .vector
  else if (0x60 ≤ op ∧ op ≤ 0x65) ∨ (0x70 ≤ op ∧ op ≤ 0x75) then some .memory
  else if op = 0x78 ∨ op = 0x7A ∨ op = 0x7B then some .matrix
  else if op = 0x79 then (if sub ≤ 6 then some .matrix else none)
  else if op = 0x7C then (if sub ≤ 2 then some .engine else none)
  else if op = 0x7D then (if sub ≤ 2 then some .engine else none)
  else if op = 0x7E then (if sub = 3 ∨ sub = 4 then some .control else if sub ≤ 6 then some .system else none)
  else none

/-- A word that has a trailing word (R121). -/
def hasTrailing (w : Word) : Bool :=
  let op := bits w.toNat 29 23
  decide (op = 0x11) || decide (op = 0x1A) || (decide (0x60 ≤ op) && decide (op ≤ 0x65)) || decide (op = 0x78) || decide (op = 0x7A)
    || decide (op = 0x7B) || (decide (op = 0x7D) && decide (bits w.toNat 22 19 ≤ 1))

/-- A prefix word (R129). -/
def isPrefixWord (w : Word) : Bool := decide (bits w.toNat 29 23 = 0x7F)

/-- What CLASS permits (R114). -/
def classPermits (cls : Nat) : Kind → Bool
  | .scalar | .control => true
  | .vector => decide (cls ≠ 4)
  | .memory => decide (cls = 1)
  | .matrix => decide (cls = 2)
  | .engine => decide (cls = 3)
  | .system => decide (cls = 5)

/-- The power class of a word under EXT `x` (R117, R216). -/
def powerClass (w : Word) (x : Nat) : Nat :=
  let op := bits w.toNat 29 23
  match wordKind w with
  | none | some .scalar | some .control => 0
  | some .memory | some .engine | some .system => 1
  | some .matrix => if op = 0x78 then 6 else 5
  | some .vector =>
    if 0x50 ≤ op then 2
    else if op = 0x22 ∨ op = 0x23 then 2
    else if op ≤ 0x30 ∨ (0x42 ≤ op ∧ op ≤ 0x44) then 1
    else if 0x3E ≤ op ∧ op ≤ 0x41 then 4
    else
      let t := if x = 0 then 11 else x
      if t ≤ 8 then 1 else if t = 11 then 3 else if t = 12 then 4 else 2

end Sys2Proof.Machine
end

