-- ==== Sys2Proof/WellFormed.lean ====
section
/-! DEFINITION. Well-formed instructions: a word whose encoding raises no illegal-instruction trap under its prefix (R136, R341), a
prefix whose own fields are assigned (R129), or an event. -/

open Sys2Proof.Machine

namespace Sys2Proof

/-- A word that no encoding cause of R341 applies to, under the prefix `p` that precedes it. -/
def Instr.WellFormed (p : Option Pfx) (i : Instr) : Prop := encDetail p i = none

/-- The check of well-formedness. -/
def Instr.wellFormed (p : Option Pfx) (i : Instr) : Bool := (encDetail p i).isNone

/-- Has words of its own: is not an event. -/
def Instr.isWord (i : Instr) : Bool :=
  match i with
  | .pfx .. => true
  | i => shapeOf none i != .none

end Sys2Proof
end

