-- ==== Sys2Proof/Decode.lean ====
section
/-! DEFINITION. The decoder: 32-bit words to instructions (R112 to R135), total, rejecting by name; after it the encoder. -/

open Sys2Proof.Machine

namespace Sys2Proof

/-- Why a word is no instruction (R136). A rejected field carries the instruction that the other fields spell. -/
inductive Reject
  /-- fewer bytes than the instruction has -/
  | short
  /-- an unassigned opcode -/
  | unassigned
  /-- a reserved SUB value -/
  | reservedSub
  /-- B[6:5] nonzero in opcodes 0x50 to 0x57 -/
  | reservedField (i : Instr)
  /-- a must-be-zero field nonzero (a prefix: bits [31:30] or [2:0]) -/
  | mustBeZero (i : Instr)
deriving DecidableEq, Repr

/-- Accept when every must-be-zero field is zero. -/
def zeros (zs : List Nat) (i : Instr) : Except Reject Instr := if zs.all (· == 0) then .ok i else .error (.mustBeZero i)

/-- Accept when the reserved field is zero. -/
def reserved (r : Nat) (i : Instr) : Except Reject Instr := if r = 0 then .ok i else .error (.reservedField i)

/-- The instruction of a word `w` whose following word, should it have a trailing word, is `x` (R119, R121, R134, R135). -/
def decodeWord (w x : Word) : Except Reject Instr :=
  match (w.extractLsb' 23 7).toNat with
  | 0x00 => .ok (.add (w.extractLsb' 30 2) (w.extractLsb' 15 8) (w.extractLsb' 7 8) (w.extractLsb' 0 7))
  | 0x01 => .ok (.sub (w.extractLsb' 30 2) (w.extractLsb' 15 8) (w.extractLsb' 7 8) (w.extractLsb' 0 7))
  | 0x02 => .ok (.mul (w.extractLsb' 30 2) (w.extractLsb' 15 8) (w.extractLsb' 7 8) (w.extractLsb' 0 7))
  | 0x03 => .ok (.mulh (w.extractLsb' 30 2) (w.extractLsb' 15 8) (w.extractLsb' 7 8) (w.extractLsb' 0 7))
  | 0x04 => .ok (.div (w.extractLsb' 30 2) (w.extractLsb' 15 8) (w.extractLsb' 7 8) (w.extractLsb' 0 7))
  | 0x05 => .ok (.rem (w.extractLsb' 30 2) (w.extractLsb' 15 8) (w.extractLsb' 7 8) (w.extractLsb' 0 7))
  | 0x06 => .ok (.and (w.extractLsb' 30 2) (w.extractLsb' 15 8) (w.extractLsb' 7 8) (w.extractLsb' 0 7))
  | 0x07 => .ok (.or (w.extractLsb' 30 2) (w.extractLsb' 15 8) (w.extractLsb' 7 8) (w.extractLsb' 0 7))
  | 0x08 => .ok (.xor (w.extractLsb' 30 2) (w.extractLsb' 15 8) (w.extractLsb' 7 8) (w.extractLsb' 0 7))
  | 0x09 => .ok (.shl (w.extractLsb' 30 2) (w.extractLsb' 15 8) (w.extractLsb' 7 8) (w.extractLsb' 0 7))
  | 0x0A => .ok (.shr (w.extractLsb' 30 2) (w.extractLsb' 15 8) (w.extractLsb' 7 8) (w.extractLsb' 0 7))
  | 0x0B => .ok (.sar (w.extractLsb' 30 2) (w.extractLsb' 15 8) (w.extractLsb' 7 8) (w.extractLsb' 0 7))
  | 0x0C => .ok (.min (w.extractLsb' 30 2) (w.extractLsb' 15 8) (w.extractLsb' 7 8) (w.extractLsb' 0 7))
  | 0x0D => .ok (.max (w.extractLsb' 30 2) (w.extractLsb' 15 8) (w.extractLsb' 7 8) (w.extractLsb' 0 7))
  | 0x0E => .ok (.sel (w.extractLsb' 30 2) (w.extractLsb' 15 8) (w.extractLsb' 7 8) (w.extractLsb' 0 7))
  | 0x0F => .ok (.cmp (w.extractLsb' 30 2) (w.extractLsb' 20 3) (w.extractLsb' 15 5) (w.extractLsb' 7 8) (w.extractLsb' 0 7))
  | 0x10 =>
    match (w.extractLsb' 0 7).toNat with
    | 0 => .ok (.mov (w.extractLsb' 30 2) (w.extractLsb' 15 8) (w.extractLsb' 7 8))
    | 1 => .ok (.not (w.extractLsb' 30 2) (w.extractLsb' 15 8) (w.extractLsb' 7 8))
    | 2 => .ok (.abs (w.extractLsb' 30 2) (w.extractLsb' 15 8) (w.extractLsb' 7 8))
    | 3 => .ok (.neg (w.extractLsb' 30 2) (w.extractLsb' 15 8) (w.extractLsb' 7 8))
    | 4 => .ok (.clz (w.extractLsb' 30 2) (w.extractLsb' 15 8) (w.extractLsb' 7 8))
    | 5 => .ok (.popc (w.extractLsb' 30 2) (w.extractLsb' 15 8) (w.extractLsb' 7 8))
    | 6 => .ok (.mmov (w.extractLsb' 30 2) (w.extractLsb' 15 8) (w.extractLsb' 7 8))
    | 7 => .ok (.mnot (w.extractLsb' 30 2) (w.extractLsb' 15 8) (w.extractLsb' 7 8))
    | 8 => .ok (.mpop (w.extractLsb' 30 2) (w.extractLsb' 15 8) (w.extractLsb' 7 8))
    | _ => .error .reservedSub
  | 0x11 => zeros [(w.extractLsb' 0 15).toNat] (.movk (w.extractLsb' 30 2) (w.extractLsb' 15 8) x)
  | 0x12 => .ok (.mand (w.extractLsb' 30 2) (w.extractLsb' 15 8) (w.extractLsb' 7 8) (w.extractLsb' 0 7))
  | 0x13 => .ok (.mor (w.extractLsb' 30 2) (w.extractLsb' 15 8) (w.extractLsb' 7 8) (w.extractLsb' 0 7))
  | 0x14 => .ok (.mxor (w.extractLsb' 30 2) (w.extractLsb' 15 8) (w.extractLsb' 7 8) (w.extractLsb' 0 7))
  | 0x15 => .ok (.mandn (w.extractLsb' 30 2) (w.extractLsb' 15 8) (w.extractLsb' 7 8) (w.extractLsb' 0 7))
  | 0x16 => .ok (.bra (w.extractLsb' 30 2) (w.extractLsb' 0 23))
  | 0x17 => .ok (.brz (w.extractLsb' 30 2) (w.extractLsb' 15 8) (w.extractLsb' 0 15))
  | 0x18 => .ok (.brnz (w.extractLsb' 30 2) (w.extractLsb' 15 8) (w.extractLsb' 0 15))
  | 0x19 => .ok (.call (w.extractLsb' 30 2) (w.extractLsb' 20 3) (w.extractLsb' 0 20))
  | 0x1A => zeros [(w.extractLsb' 0 7).toNat] (.fork (w.extractLsb' 30 2) (w.extractLsb' 15 8) (w.extractLsb' 7 8) x)
  | 0x1B => zeros [(w.extractLsb' 15 8).toNat, (w.extractLsb' 0 7).toNat] (.join (w.extractLsb' 30 2) (w.extractLsb' 7 8))
  | 0x1C => zeros [(w.extractLsb' 0 7).toNat] (.trip (w.extractLsb' 30 2) (w.extractLsb' 15 8) (w.extractLsb' 7 8))
  | 0x1D =>
    match (w.extractLsb' 19 4).toNat with
    | 0 => zeros [(w.extractLsb' 0 19).toNat] (.nop (w.extractLsb' 30 2))
    | 1 => zeros [(w.extractLsb' 0 19).toNat] (.ret (w.extractLsb' 30 2))
    | 2 => zeros [(w.extractLsb' 0 19).toNat] (.exit (w.extractLsb' 30 2))
    | 3 => zeros [(w.extractLsb' 15 4).toNat, (w.extractLsb' 0 7).toNat] (.sleep (w.extractLsb' 30 2) (w.extractLsb' 7 8))
    | _ => .error .reservedSub
  | 0x1E =>
    match (w.extractLsb' 19 4).toNat with
    | 0 => zeros [(w.extractLsb' 0 11).toNat] (.rdmode (w.extractLsb' 30 2) (w.extractLsb' 11 8))
    | 1 => zeros [(w.extractLsb' 15 4).toNat, (w.extractLsb' 0 7).toNat] (.wrmode (w.extractLsb' 30 2) (w.extractLsb' 7 8))
    | _ => .error .reservedSub
  | 0x20 => .ok (.addVectorInt (w.extractLsb' 30 2) (w.extractLsb' 15 8) (w.extractLsb' 7 8) (w.extractLsb' 0 7))
  | 0x21 => .ok (.subVectorInt (w.extractLsb' 30 2) (w.extractLsb' 15 8) (w.extractLsb' 7 8) (w.extractLsb' 0 7))
  | 0x22 => .ok (.mulVectorInt (w.extractLsb' 30 2) (w.extractLsb' 15 8) (w.extractLsb' 7 8) (w.extractLsb' 0 7))
  | 0x23 => .ok (.mulhVectorInt (w.extractLsb' 30 2) (w.extractLsb' 15 8) (w.extractLsb' 7 8) (w.extractLsb' 0 7))
  | 0x24 => .ok (.divVectorInt (w.extractLsb' 30 2) (w.extractLsb' 15 8) (w.extractLsb' 7 8) (w.extractLsb' 0 7))
  | 0x25 => .ok (.remVectorInt (w.extractLsb' 30 2) (w.extractLsb' 15 8) (w.extractLsb' 7 8) (w.extractLsb' 0 7))
  | 0x26 => .ok (.andVector (w.extractLsb' 30 2) (w.extractLsb' 15 8) (w.extractLsb' 7 8) (w.extractLsb' 0 7))
  | 0x27 => .ok (.orVector (w.extractLsb' 30 2) (w.extractLsb' 15 8) (w.extractLsb' 7 8) (w.extractLsb' 0 7))
  | 0x28 => .ok (.xorVector (w.extractLsb' 30 2) (w.extractLsb' 15 8) (w.extractLsb' 7 8) (w.extractLsb' 0 7))
  | 0x29 => .ok (.shlVector (w.extractLsb' 30 2) (w.extractLsb' 15 8) (w.extractLsb' 7 8) (w.extractLsb' 0 7))
  | 0x2A => .ok (.shrVector (w.extractLsb' 30 2) (w.extractLsb' 15 8) (w.extractLsb' 7 8) (w.extractLsb' 0 7))
  | 0x2B => .ok (.sarVector (w.extractLsb' 30 2) (w.extractLsb' 15 8) (w.extractLsb' 7 8) (w.extractLsb' 0 7))
  | 0x2C => .ok (.minVectorInt (w.extractLsb' 30 2) (w.extractLsb' 15 8) (w.extractLsb' 7 8) (w.extractLsb' 0 7))
  | 0x2D => .ok (.maxVectorInt (w.extractLsb' 30 2) (w.extractLsb' 15 8) (w.extractLsb' 7 8) (w.extractLsb' 0 7))
  | 0x2E => .ok (.selVector (w.extractLsb' 30 2) (w.extractLsb' 15 8) (w.extractLsb' 7 8) (w.extractLsb' 0 7))
  | 0x2F => .ok (.cmpVectorInt (w.extractLsb' 30 2) (w.extractLsb' 20 3) (w.extractLsb' 15 5) (w.extractLsb' 7 8) (w.extractLsb' 0 7))
  | 0x30 =>
    match (w.extractLsb' 0 7).toNat with
    | 0 => .ok (.movVector (w.extractLsb' 30 2) (w.extractLsb' 15 8) (w.extractLsb' 7 8))
    | 1 => .ok (.notVector (w.extractLsb' 30 2) (w.extractLsb' 15 8) (w.extractLsb' 7 8))
    | 2 => .ok (.absVectorInt (w.extractLsb' 30 2) (w.extractLsb' 15 8) (w.extractLsb' 7 8))
    | 3 => .ok (.negVectorInt (w.extractLsb' 30 2) (w.extractLsb' 15 8) (w.extractLsb' 7 8))
    | 4 => .ok (.clzVector (w.extractLsb' 30 2) (w.extractLsb' 15 8) (w.extractLsb' 7 8))
    | 5 => .ok (.popcVector (w.extractLsb' 30 2) (w.extractLsb' 15 8) (w.extractLsb' 7 8))
    | _ => .error .reservedSub
  | 0x31 => .ok (.addFloat (w.extractLsb' 30 2) (w.extractLsb' 15 8) (w.extractLsb' 7 8) (w.extractLsb' 0 7))
  | 0x32 => .ok (.subFloat (w.extractLsb' 30 2) (w.extractLsb' 15 8) (w.extractLsb' 7 8) (w.extractLsb' 0 7))
  | 0x33 => .ok (.mulFloat (w.extractLsb' 30 2) (w.extractLsb' 15 8) (w.extractLsb' 7 8) (w.extractLsb' 0 7))
  | 0x34 => .ok (.fmaFloat (w.extractLsb' 30 2) (w.extractLsb' 15 8) (w.extractLsb' 7 8) (w.extractLsb' 0 7))
  | 0x35 => .ok (.divFloat (w.extractLsb' 30 2) (w.extractLsb' 15 8) (w.extractLsb' 7 8) (w.extractLsb' 0 7))
  | 0x36 => zeros [(w.extractLsb' 0 7).toNat] (.sqrt (w.extractLsb' 30 2) (w.extractLsb' 15 8) (w.extractLsb' 7 8))
  | 0x37 => zeros [(w.extractLsb' 0 7).toNat] (.rsq (w.extractLsb' 30 2) (w.extractLsb' 15 8) (w.extractLsb' 7 8))
  | 0x38 => zeros [(w.extractLsb' 0 7).toNat] (.rcp (w.extractLsb' 30 2) (w.extractLsb' 15 8) (w.extractLsb' 7 8))
  | 0x39 => .ok (.minFloat (w.extractLsb' 30 2) (w.extractLsb' 15 8) (w.extractLsb' 7 8) (w.extractLsb' 0 7))
  | 0x3A => .ok (.maxFloat (w.extractLsb' 30 2) (w.extractLsb' 15 8) (w.extractLsb' 7 8) (w.extractLsb' 0 7))
  | 0x3B => .ok (.cmpFloat (w.extractLsb' 30 2) (w.extractLsb' 20 3) (w.extractLsb' 15 5) (w.extractLsb' 7 8) (w.extractLsb' 0 7))
  | 0x3C => .ok (.classify (w.extractLsb' 30 2) (w.extractLsb' 15 8) (w.extractLsb' 7 8) (w.extractLsb' 0 7))
  | 0x3D =>
    match (w.extractLsb' 0 7).toNat with
    | 2 => .ok (.absFloat (w.extractLsb' 30 2) (w.extractLsb' 15 8) (w.extractLsb' 7 8))
    | 3 => .ok (.negFloat (w.extractLsb' 30 2) (w.extractLsb' 15 8) (w.extractLsb' 7 8))
    | _ => .error .reservedSub
  | 0x3E => .ok (.addF64 (w.extractLsb' 30 2) (w.extractLsb' 15 8) (w.extractLsb' 7 8) (w.extractLsb' 0 7))
  | 0x3F => .ok (.subF64 (w.extractLsb' 30 2) (w.extractLsb' 15 8) (w.extractLsb' 7 8) (w.extractLsb' 0 7))
  | 0x40 => .ok (.mulF64 (w.extractLsb' 30 2) (w.extractLsb' 15 8) (w.extractLsb' 7 8) (w.extractLsb' 0 7))
  | 0x41 => .ok (.fmaF64 (w.extractLsb' 30 2) (w.extractLsb' 15 8) (w.extractLsb' 7 8) (w.extractLsb' 0 7))
  | 0x42 => .ok (.shfl (w.extractLsb' 30 2) (w.extractLsb' 15 8) (w.extractLsb' 7 8) (w.extractLsb' 0 7))
  | 0x43 => .ok (.bcast (w.extractLsb' 30 2) (w.extractLsb' 15 8) (w.extractLsb' 7 8) (w.extractLsb' 0 7))
  | 0x44 => zeros [(w.extractLsb' 0 7).toNat] (.matchKeys (w.extractLsb' 30 2) (w.extractLsb' 15 8) (w.extractLsb' 7 8))
  | 0x45 => zeros [(w.extractLsb' 0 7).toNat] (.redAdd (w.extractLsb' 30 2) (w.extractLsb' 15 8) (w.extractLsb' 7 8))
  | 0x46 => zeros [(w.extractLsb' 0 7).toNat] (.redMin (w.extractLsb' 30 2) (w.extractLsb' 15 8) (w.extractLsb' 7 8))
  | 0x47 => zeros [(w.extractLsb' 0 7).toNat] (.redMax (w.extractLsb' 30 2) (w.extractLsb' 15 8) (w.extractLsb' 7 8))
  | 0x48 => zeros [(w.extractLsb' 0 7).toNat] (.scanAdd (w.extractLsb' 30 2) (w.extractLsb' 15 8) (w.extractLsb' 7 8))
  | 0x50 => reserved (w.extractLsb' 5 2).toNat (.cvtF64 (w.extractLsb' 30 2) (w.extractLsb' 15 8) (w.extractLsb' 7 8) (w.extractLsb' 0 5))
  | 0x51 => reserved (w.extractLsb' 5 2).toNat (.cvtF32 (w.extractLsb' 30 2) (w.extractLsb' 15 8) (w.extractLsb' 7 8) (w.extractLsb' 0 5))
  | 0x52 => reserved (w.extractLsb' 5 2).toNat (.cvtF16 (w.extractLsb' 30 2) (w.extractLsb' 15 8) (w.extractLsb' 7 8) (w.extractLsb' 0 5))
  | 0x53 => reserved (w.extractLsb' 5 2).toNat (.cvtBf16 (w.extractLsb' 30 2) (w.extractLsb' 15 8) (w.extractLsb' 7 8) (w.extractLsb' 0 5))
  | 0x54 => reserved (w.extractLsb' 5 2).toNat (.cvtE4m3 (w.extractLsb' 30 2) (w.extractLsb' 15 8) (w.extractLsb' 7 8) (w.extractLsb' 0 5))
  | 0x55 => reserved (w.extractLsb' 5 2).toNat (.cvtE5m2 (w.extractLsb' 30 2) (w.extractLsb' 15 8) (w.extractLsb' 7 8) (w.extractLsb' 0 5))
  | 0x56 => reserved (w.extractLsb' 5 2).toNat (.cvtL32 (w.extractLsb' 30 2) (w.extractLsb' 15 8) (w.extractLsb' 7 8) (w.extractLsb' 0 5))
  | 0x57 => reserved (w.extractLsb' 5 2).toNat (.cvtInt (w.extractLsb' 30 2) (w.extractLsb' 15 8) (w.extractLsb' 7 8) (w.extractLsb' 0 5))
  | 0x58 => .ok (.cvtCode (w.extractLsb' 30 2) (w.extractLsb' 15 8) (w.extractLsb' 7 8) (w.extractLsb' 5 2) (w.extractLsb' 0 5))
  | 0x59 => .ok (.cvtb (w.extractLsb' 30 2) (w.extractLsb' 15 8) (w.extractLsb' 7 8) (w.extractLsb' 0 7))
  | 0x5A => .ok (.lnsmul (w.extractLsb' 30 2) (w.extractLsb' 15 8) (w.extractLsb' 7 8) (w.extractLsb' 0 7))
  | 0x5B => .ok (.lnsdiv (w.extractLsb' 30 2) (w.extractLsb' 15 8) (w.extractLsb' 7 8) (w.extractLsb' 0 7))
  | 0x5C => .ok (.lnsadd (w.extractLsb' 30 2) (w.extractLsb' 15 8) (w.extractLsb' 7 8) (w.extractLsb' 0 7))
  | 0x5D => .ok (.lnsroot (w.extractLsb' 30 2) (w.extractLsb' 15 8) (w.extractLsb' 7 8) (w.extractLsb' 0 7))
  | 0x5E => .ok (.lnspow (w.extractLsb' 30 2) (w.extractLsb' 15 8) (w.extractLsb' 7 8) (w.extractLsb' 0 7))
  | 0x60 => zeros [(x.extractLsb' 0 16).toNat] (.ld (w.extractLsb' 30 2) (w.extractLsb' 15 8) (w.extractLsb' 7 8) (w.extractLsb' 0 7) (x.extractLsb' 29 3) (x.extractLsb' 24 5) (x.extractLsb' 21 3) (x.extractLsb' 20 1) (x.extractLsb' 16 4))
  | 0x61 => zeros [(x.extractLsb' 0 16).toNat] (.st (w.extractLsb' 30 2) (w.extractLsb' 15 8) (w.extractLsb' 7 8) (w.extractLsb' 0 7) (x.extractLsb' 29 3) (x.extractLsb' 24 5) (x.extractLsb' 21 3) (x.extractLsb' 20 1) (x.extractLsb' 16 4))
  | 0x62 => zeros [(x.extractLsb' 0 16).toNat] (.stStrong (w.extractLsb' 30 2) (w.extractLsb' 15 8) (w.extractLsb' 7 8) (w.extractLsb' 0 7) (x.extractLsb' 29 3) (x.extractLsb' 24 5) (x.extractLsb' 21 3) (x.extractLsb' 20 1) (x.extractLsb' 16 4))
  | 0x63 => zeros [(x.extractLsb' 0 16).toNat] (.gather (w.extractLsb' 30 2) (w.extractLsb' 15 8) (w.extractLsb' 7 8) (w.extractLsb' 0 7) (x.extractLsb' 29 3) (x.extractLsb' 24 5) (x.extractLsb' 21 3) (x.extractLsb' 20 1) (x.extractLsb' 16 4))
  | 0x64 => zeros [(x.extractLsb' 0 16).toNat] (.scatter (w.extractLsb' 30 2) (w.extractLsb' 15 8) (w.extractLsb' 7 8) (w.extractLsb' 0 7) (x.extractLsb' 29 3) (x.extractLsb' 24 5) (x.extractLsb' 21 3) (x.extractLsb' 20 1) (x.extractLsb' 16 4))
  | 0x65 => zeros [(x.extractLsb' 0 16).toNat] (.atom (w.extractLsb' 30 2) (w.extractLsb' 15 8) (w.extractLsb' 7 8) (w.extractLsb' 0 7) (x.extractLsb' 29 3) (x.extractLsb' 24 5) (x.extractLsb' 21 3) (x.extractLsb' 20 1) (x.extractLsb' 16 4))
  | 0x70 => zeros [(w.extractLsb' 0 18).toNat] (.fence (w.extractLsb' 30 2) (w.extractLsb' 20 3) (w.extractLsb' 18 2))
  | 0x71 => .ok (.barInit (w.extractLsb' 30 2) (w.extractLsb' 15 8) (w.extractLsb' 7 8) (w.extractLsb' 0 7))
  | 0x72 => zeros [(w.extractLsb' 0 7).toNat] (.barArrive (w.extractLsb' 30 2) (w.extractLsb' 15 8) (w.extractLsb' 7 8))
  | 0x73 => .ok (.barArrivec (w.extractLsb' 30 2) (w.extractLsb' 15 8) (w.extractLsb' 7 8) (w.extractLsb' 0 7))
  | 0x74 => zeros [(w.extractLsb' 15 8).toNat] (.barWait (w.extractLsb' 30 2) (w.extractLsb' 7 8) (w.extractLsb' 0 7))
  | 0x75 => zeros [(w.extractLsb' 18 5).toNat] (.waita (w.extractLsb' 30 2) (w.extractLsb' 15 3) (w.extractLsb' 7 8) (w.extractLsb' 0 7))
  | 0x78 => zeros [(w.extractLsb' 20 3).toNat, (w.extractLsb' 11 4).toNat, (w.extractLsb' 4 3).toNat, (x.extractLsb' 0 1).toNat] (.mma (w.extractLsb' 30 2) (w.extractLsb' 15 5) (w.extractLsb' 7 4) (w.extractLsb' 0 4) (x.extractLsb' 29 3) (x.extractLsb' 28 1) (x.extractLsb' 19 9) (x.extractLsb' 10 9) (x.extractLsb' 1 9))
  | 0x79 =>
    match (w.extractLsb' 19 4).toNat with
    | 0 => zeros [(w.extractLsb' 15 4).toNat, (w.extractLsb' 0 7).toNat] (.gang (w.extractLsb' 30 2) (w.extractLsb' 7 8))
    | 1 => zeros [(w.extractLsb' 0 7).toNat] (.opres (w.extractLsb' 30 2) (w.extractLsb' 15 4) (w.extractLsb' 7 8))
    | 2 => zeros [(w.extractLsb' 0 15).toNat] (.opready (w.extractLsb' 30 2) (w.extractLsb' 15 4))
    | 3 => zeros [(w.extractLsb' 0 15).toNat] (.oprel (w.extractLsb' 30 2) (w.extractLsb' 15 4))
    | 4 => zeros [(w.extractLsb' 0 14).toNat] (.mwait (w.extractLsb' 30 2) (w.extractLsb' 14 5))
    | 5 => zeros [(w.extractLsb' 15 4).toNat, (w.extractLsb' 0 7).toNat] (.accAlloc (w.extractLsb' 30 2) (w.extractLsb' 7 8))
    | 6 => zeros [(w.extractLsb' 15 4).toNat, (w.extractLsb' 0 7).toNat] (.accFree (w.extractLsb' 30 2) (w.extractLsb' 7 8))
    | _ => .error .reservedSub
  | 0x7A => zeros [(w.extractLsb' 20 3).toNat, (x.extractLsb' 0 26).toNat] (.accSt (w.extractLsb' 30 2) (w.extractLsb' 15 5) (w.extractLsb' 7 8) (w.extractLsb' 0 7) (x.extractLsb' 29 3) (x.extractLsb' 28 1) (x.extractLsb' 26 2))
  | 0x7B => zeros [(w.extractLsb' 20 3).toNat, (x.extractLsb' 0 26).toNat] (.accLd (w.extractLsb' 30 2) (w.extractLsb' 15 5) (w.extractLsb' 7 8) (w.extractLsb' 0 7) (x.extractLsb' 29 3) (x.extractLsb' 28 1) (x.extractLsb' 26 2))
  | 0x7C =>
    match (w.extractLsb' 19 4).toNat with
    | 0 => zeros [(w.extractLsb' 15 4).toNat] (.cpyk (w.extractLsb' 30 2) (w.extractLsb' 7 8) (w.extractLsb' 0 7))
    | 1 => zeros [(w.extractLsb' 15 4).toNat] (.dzk (w.extractLsb' 30 2) (w.extractLsb' 7 8) (w.extractLsb' 0 7))
    | 2 => zeros [(w.extractLsb' 15 4).toNat] (.coll (w.extractLsb' 30 2) (w.extractLsb' 7 8) (w.extractLsb' 0 7))
    | _ => .error .reservedSub
  | 0x7D =>
    match (w.extractLsb' 19 4).toNat with
    | 0 => zeros [(w.extractLsb' 0 5).toNat, (x.extractLsb' 0 29).toNat] (.wellAdd (w.extractLsb' 30 2) (w.extractLsb' 11 8) (w.extractLsb' 5 6) (x.extractLsb' 29 3))
    | 1 => zeros [(w.extractLsb' 0 5).toNat, (x.extractLsb' 0 22).toNat] (.wellTake (w.extractLsb' 30 2) (w.extractLsb' 11 8) (w.extractLsb' 5 6) (x.extractLsb' 29 3) (x.extractLsb' 22 7))
    | 2 => zeros [(w.extractLsb' 0 11).toNat] (.quiet (w.extractLsb' 30 2) (w.extractLsb' 11 8))
    | _ => .error .reservedSub
  | 0x7E =>
    match (w.extractLsb' 19 4).toNat with
    | 0 => zeros [(w.extractLsb' 15 4).toNat, (w.extractLsb' 0 7).toNat] (.tlbw (w.extractLsb' 30 2) (w.extractLsb' 7 8))
    | 1 => zeros [(w.extractLsb' 15 2).toNat, (w.extractLsb' 0 7).toNat] (.tlbinv (w.extractLsb' 30 2) (w.extractLsb' 17 2) (w.extractLsb' 7 8))
    | 2 => zeros [(w.extractLsb' 3 8).toNat] (.orig (w.extractLsb' 30 2) (w.extractLsb' 11 8) (w.extractLsb' 0 3))
    | 3 => zeros [(w.extractLsb' 15 4).toNat, (w.extractLsb' 0 7).toNat] (.hret (w.extractLsb' 30 2) (w.extractLsb' 7 8))
    | 4 => zeros [(w.extractLsb' 8 11).toNat] (.trap (w.extractLsb' 30 2) (w.extractLsb' 0 8))
    | 5 => zeros [(w.extractLsb' 6 5).toNat] (.ctr (w.extractLsb' 30 2) (w.extractLsb' 11 8) (w.extractLsb' 0 6))
    | 6 => zeros [(w.extractLsb' 15 3).toNat] (.wspill (w.extractLsb' 30 2) (w.extractLsb' 18 1) (w.extractLsb' 7 8) (w.extractLsb' 0 7))
    | _ => .error .reservedSub
  | 0x7F => zeros [(w.extractLsb' 30 2).toNat, (w.extractLsb' 0 3).toNat] (.pfx (w.extractLsb' 20 3) (w.extractLsb' 17 3) (w.extractLsb' 16 1) (w.extractLsb' 8 8) (w.extractLsb' 4 4) (w.extractLsb' 3 1))
  | _ => .error .unassigned

/-- The DETAIL of the illegal-instruction trap of a rejected word under a prefix (R341): the lowest cause. -/
def Reject.detail (p : Option Pfx) : Reject → Nat
  | .short => 1
  | .unassigned => 1
  | .reservedSub => 2
  | .reservedField i => (encCauses p i).foldl Nat.min 7
  | .mustBeZero i => (encCauses p i).foldl Nat.min (match i with
    | .pfx .. => 9
    | _ => 10)

/-- The fields of a decoded prefix (R129). -/
def prefixFields : Instr → Option Pfx
  | .pfx m r z f e t => some ⟨m.toNat, r.toNat, z == 1, f, e.toNat, t == 1⟩
  | _ => none

/-- Decode from bytes, little-endian words, the first at the lowest address (R2); the bytes left over are returned. -/
def decode (bs : List Byte) : Except Reject (Instr × List Byte) :=
  if bs.length < 4 then .error .short
  else
    let w : Word := BitVec.ofNat 32 (leNat (bs.take 4))
    if hasTrailing w then
      if bs.length < 8 then .error .short
      else (decodeWord w (BitVec.ofNat 32 (leNat ((bs.drop 4).take 4)))).map fun i => (i, bs.drop 8)
    else (decodeWord w 0).map fun i => (i, bs.drop 4)

/-- The instruction read from the opcode table's numbering of its bits: `nbits` of them, every later bit zero. -/
def decodeTableWord (nbits w : Nat) : Option Instr :=
  match decode (leBytes 8 (w % 2 ^ nbits)) with
  | .ok (i, _) => some i
  | .error _ => none

/-- The words of an instruction; an event has none. -/
def encode : Instr → List Word
  | .pfx m r z f e t => [0#2 ++ 0x7F#7 ++ m ++ r ++ z ++ f ++ e ++ t ++ 0#3]
  | .add st d a b => [st ++ 0x00#7 ++ d ++ a ++ b]
  | .sub st d a b => [st ++ 0x01#7 ++ d ++ a ++ b]
  | .mul st d a b => [st ++ 0x02#7 ++ d ++ a ++ b]
  | .mulh st d a b => [st ++ 0x03#7 ++ d ++ a ++ b]
  | .div st d a b => [st ++ 0x04#7 ++ d ++ a ++ b]
  | .rem st d a b => [st ++ 0x05#7 ++ d ++ a ++ b]
  | .and st d a b => [st ++ 0x06#7 ++ d ++ a ++ b]
  | .or st d a b => [st ++ 0x07#7 ++ d ++ a ++ b]
  | .xor st d a b => [st ++ 0x08#7 ++ d ++ a ++ b]
  | .shl st d a b => [st ++ 0x09#7 ++ d ++ a ++ b]
  | .shr st d a b => [st ++ 0x0A#7 ++ d ++ a ++ b]
  | .sar st d a b => [st ++ 0x0B#7 ++ d ++ a ++ b]
  | .min st d a b => [st ++ 0x0C#7 ++ d ++ a ++ b]
  | .max st d a b => [st ++ 0x0D#7 ++ d ++ a ++ b]
  | .sel st d a b => [st ++ 0x0E#7 ++ d ++ a ++ b]
  | .cmp st c d a b => [st ++ 0x0F#7 ++ c ++ d ++ a ++ b]
  | .mov st d a => [st ++ 0x10#7 ++ d ++ a ++ 0#7]
  | .not st d a => [st ++ 0x10#7 ++ d ++ a ++ 1#7]
  | .abs st d a => [st ++ 0x10#7 ++ d ++ a ++ 2#7]
  | .neg st d a => [st ++ 0x10#7 ++ d ++ a ++ 3#7]
  | .clz st d a => [st ++ 0x10#7 ++ d ++ a ++ 4#7]
  | .popc st d a => [st ++ 0x10#7 ++ d ++ a ++ 5#7]
  | .mmov st d a => [st ++ 0x10#7 ++ d ++ a ++ 6#7]
  | .mnot st d a => [st ++ 0x10#7 ++ d ++ a ++ 7#7]
  | .mpop st d a => [st ++ 0x10#7 ++ d ++ a ++ 8#7]
  | .movk st d v => [st ++ 0x11#7 ++ d ++ 0#15, v]
  | .mand st d a b => [st ++ 0x12#7 ++ d ++ a ++ b]
  | .mor st d a b => [st ++ 0x13#7 ++ d ++ a ++ b]
  | .mxor st d a b => [st ++ 0x14#7 ++ d ++ a ++ b]
  | .mandn st d a b => [st ++ 0x15#7 ++ d ++ a ++ b]
  | .bra st o => [st ++ 0x16#7 ++ o]
  | .brz st a o => [st ++ 0x17#7 ++ a ++ o]
  | .brnz st a o => [st ++ 0x18#7 ++ a ++ o]
  | .call st n o => [st ++ 0x19#7 ++ n ++ o]
  | .fork st d a v => [st ++ 0x1A#7 ++ d ++ a ++ 0#7, v]
  | .join st a => [st ++ 0x1B#7 ++ 0#8 ++ a ++ 0#7]
  | .trip st d a => [st ++ 0x1C#7 ++ d ++ a ++ 0#7]
  | .nop st => [st ++ 0x1D#7 ++ 0#4 ++ 0#19]
  | .ret st => [st ++ 0x1D#7 ++ 1#4 ++ 0#19]
  | .exit st => [st ++ 0x1D#7 ++ 2#4 ++ 0#19]
  | .sleep st a => [st ++ 0x1D#7 ++ 3#4 ++ 0#4 ++ a ++ 0#7]
  | .rdmode st d => [st ++ 0x1E#7 ++ 0#4 ++ d ++ 0#11]
  | .wrmode st a => [st ++ 0x1E#7 ++ 1#4 ++ 0#4 ++ a ++ 0#7]
  | .addVectorInt st d a b => [st ++ 0x20#7 ++ d ++ a ++ b]
  | .subVectorInt st d a b => [st ++ 0x21#7 ++ d ++ a ++ b]
  | .mulVectorInt st d a b => [st ++ 0x22#7 ++ d ++ a ++ b]
  | .mulhVectorInt st d a b => [st ++ 0x23#7 ++ d ++ a ++ b]
  | .divVectorInt st d a b => [st ++ 0x24#7 ++ d ++ a ++ b]
  | .remVectorInt st d a b => [st ++ 0x25#7 ++ d ++ a ++ b]
  | .andVector st d a b => [st ++ 0x26#7 ++ d ++ a ++ b]
  | .orVector st d a b => [st ++ 0x27#7 ++ d ++ a ++ b]
  | .xorVector st d a b => [st ++ 0x28#7 ++ d ++ a ++ b]
  | .shlVector st d a b => [st ++ 0x29#7 ++ d ++ a ++ b]
  | .shrVector st d a b => [st ++ 0x2A#7 ++ d ++ a ++ b]
  | .sarVector st d a b => [st ++ 0x2B#7 ++ d ++ a ++ b]
  | .minVectorInt st d a b => [st ++ 0x2C#7 ++ d ++ a ++ b]
  | .maxVectorInt st d a b => [st ++ 0x2D#7 ++ d ++ a ++ b]
  | .selVector st d a b => [st ++ 0x2E#7 ++ d ++ a ++ b]
  | .cmpVectorInt st c d a b => [st ++ 0x2F#7 ++ c ++ d ++ a ++ b]
  | .movVector st d a => [st ++ 0x30#7 ++ d ++ a ++ 0#7]
  | .notVector st d a => [st ++ 0x30#7 ++ d ++ a ++ 1#7]
  | .absVectorInt st d a => [st ++ 0x30#7 ++ d ++ a ++ 2#7]
  | .negVectorInt st d a => [st ++ 0x30#7 ++ d ++ a ++ 3#7]
  | .clzVector st d a => [st ++ 0x30#7 ++ d ++ a ++ 4#7]
  | .popcVector st d a => [st ++ 0x30#7 ++ d ++ a ++ 5#7]
  | .addFloat st d a b => [st ++ 0x31#7 ++ d ++ a ++ b]
  | .subFloat st d a b => [st ++ 0x32#7 ++ d ++ a ++ b]
  | .mulFloat st d a b => [st ++ 0x33#7 ++ d ++ a ++ b]
  | .fmaFloat st d a b => [st ++ 0x34#7 ++ d ++ a ++ b]
  | .divFloat st d a b => [st ++ 0x35#7 ++ d ++ a ++ b]
  | .sqrt st d a => [st ++ 0x36#7 ++ d ++ a ++ 0#7]
  | .rsq st d a => [st ++ 0x37#7 ++ d ++ a ++ 0#7]
  | .rcp st d a => [st ++ 0x38#7 ++ d ++ a ++ 0#7]
  | .minFloat st d a b => [st ++ 0x39#7 ++ d ++ a ++ b]
  | .maxFloat st d a b => [st ++ 0x3A#7 ++ d ++ a ++ b]
  | .cmpFloat st c d a b => [st ++ 0x3B#7 ++ c ++ d ++ a ++ b]
  | .classify st d a b => [st ++ 0x3C#7 ++ d ++ a ++ b]
  | .absFloat st d a => [st ++ 0x3D#7 ++ d ++ a ++ 2#7]
  | .negFloat st d a => [st ++ 0x3D#7 ++ d ++ a ++ 3#7]
  | .addF64 st d a b => [st ++ 0x3E#7 ++ d ++ a ++ b]
  | .subF64 st d a b => [st ++ 0x3F#7 ++ d ++ a ++ b]
  | .mulF64 st d a b => [st ++ 0x40#7 ++ d ++ a ++ b]
  | .fmaF64 st d a b => [st ++ 0x41#7 ++ d ++ a ++ b]
  | .shfl st d a b => [st ++ 0x42#7 ++ d ++ a ++ b]
  | .bcast st d a b => [st ++ 0x43#7 ++ d ++ a ++ b]
  | .matchKeys st d a => [st ++ 0x44#7 ++ d ++ a ++ 0#7]
  | .redAdd st d a => [st ++ 0x45#7 ++ d ++ a ++ 0#7]
  | .redMin st d a => [st ++ 0x46#7 ++ d ++ a ++ 0#7]
  | .redMax st d a => [st ++ 0x47#7 ++ d ++ a ++ 0#7]
  | .scanAdd st d a => [st ++ 0x48#7 ++ d ++ a ++ 0#7]
  | .cvtF64 st d a f => [st ++ 0x50#7 ++ d ++ a ++ 0#2 ++ f]
  | .cvtF32 st d a f => [st ++ 0x51#7 ++ d ++ a ++ 0#2 ++ f]
  | .cvtF16 st d a f => [st ++ 0x52#7 ++ d ++ a ++ 0#2 ++ f]
  | .cvtBf16 st d a f => [st ++ 0x53#7 ++ d ++ a ++ 0#2 ++ f]
  | .cvtE4m3 st d a f => [st ++ 0x54#7 ++ d ++ a ++ 0#2 ++ f]
  | .cvtE5m2 st d a f => [st ++ 0x55#7 ++ d ++ a ++ 0#2 ++ f]
  | .cvtL32 st d a f => [st ++ 0x56#7 ++ d ++ a ++ 0#2 ++ f]
  | .cvtInt st d a f => [st ++ 0x57#7 ++ d ++ a ++ 0#2 ++ f]
  | .cvtCode st d a k f => [st ++ 0x58#7 ++ d ++ a ++ k ++ f]
  | .cvtb st d a b => [st ++ 0x59#7 ++ d ++ a ++ b]
  | .lnsmul st d a b => [st ++ 0x5A#7 ++ d ++ a ++ b]
  | .lnsdiv st d a b => [st ++ 0x5B#7 ++ d ++ a ++ b]
  | .lnsadd st d a b => [st ++ 0x5C#7 ++ d ++ a ++ b]
  | .lnsroot st d a b => [st ++ 0x5D#7 ++ d ++ a ++ b]
  | .lnspow st d a b => [st ++ 0x5E#7 ++ d ++ a ++ b]
  | .ld st d a b sb ty scope sp aop => [st ++ 0x60#7 ++ d ++ a ++ b, sb ++ ty ++ scope ++ sp ++ aop ++ 0#16]
  | .gather st d a b sb ty scope sp aop => [st ++ 0x63#7 ++ d ++ a ++ b, sb ++ ty ++ scope ++ sp ++ aop ++ 0#16]
  | .st st d a b sb ty scope sp aop => [st ++ 0x61#7 ++ d ++ a ++ b, sb ++ ty ++ scope ++ sp ++ aop ++ 0#16]
  | .stStrong st d a b sb ty scope sp aop => [st ++ 0x62#7 ++ d ++ a ++ b, sb ++ ty ++ scope ++ sp ++ aop ++ 0#16]
  | .scatter st d a b sb ty scope sp aop => [st ++ 0x64#7 ++ d ++ a ++ b, sb ++ ty ++ scope ++ sp ++ aop ++ 0#16]
  | .atom st d a b sb ty scope sp aop => [st ++ 0x65#7 ++ d ++ a ++ b, sb ++ ty ++ scope ++ sp ++ aop ++ 0#16]
  | .fence st p k => [st ++ 0x70#7 ++ p ++ k ++ 0#18]
  | .barInit st d a b => [st ++ 0x71#7 ++ d ++ a ++ b]
  | .barArrive st d a => [st ++ 0x72#7 ++ d ++ a ++ 0#7]
  | .barArrivec st d a b => [st ++ 0x73#7 ++ d ++ a ++ b]
  | .barWait st a b => [st ++ 0x74#7 ++ 0#8 ++ a ++ b]
  | .waita st c a b => [st ++ 0x75#7 ++ 0#5 ++ c ++ a ++ b]
  | .mma st t qa qb sb clr n pa pb => [st ++ 0x78#7 ++ 0#3 ++ t ++ 0#4 ++ qa ++ 0#3 ++ qb, sb ++ clr ++ n ++ pa ++ pb ++ 0#1]
  | .gang st a => [st ++ 0x79#7 ++ 0#4 ++ 0#4 ++ a ++ 0#7]
  | .opres st q a => [st ++ 0x79#7 ++ 1#4 ++ q ++ a ++ 0#7]
  | .opready st q => [st ++ 0x79#7 ++ 2#4 ++ q ++ 0#15]
  | .oprel st q => [st ++ 0x79#7 ++ 3#4 ++ q ++ 0#15]
  | .mwait st t => [st ++ 0x79#7 ++ 4#4 ++ t ++ 0#14]
  | .accAlloc st a => [st ++ 0x79#7 ++ 5#4 ++ 0#4 ++ a ++ 0#7]
  | .accFree st a => [st ++ 0x79#7 ++ 6#4 ++ 0#4 ++ a ++ 0#7]
  | .accSt st t a b sb sp form => [st ++ 0x7A#7 ++ 0#3 ++ t ++ a ++ b, sb ++ sp ++ form ++ 0#26]
  | .accLd st t a b sb sp form => [st ++ 0x7B#7 ++ 0#3 ++ t ++ a ++ b, sb ++ sp ++ form ++ 0#26]
  | .cpyk st a b => [st ++ 0x7C#7 ++ 0#4 ++ 0#4 ++ a ++ b]
  | .dzk st a b => [st ++ 0x7C#7 ++ 1#4 ++ 0#4 ++ a ++ b]
  | .coll st a b => [st ++ 0x7C#7 ++ 2#4 ++ 0#4 ++ a ++ b]
  | .wellAdd st c n sb => [st ++ 0x7D#7 ++ 0#4 ++ c ++ n ++ 0#5, sb ++ 0#29]
  | .wellTake st c n sb d => [st ++ 0x7D#7 ++ 1#4 ++ c ++ n ++ 0#5, sb ++ d ++ 0#22]
  | .quiet st d => [st ++ 0x7D#7 ++ 2#4 ++ d ++ 0#11]
  | .tlbw st a => [st ++ 0x7E#7 ++ 0#4 ++ 0#4 ++ a ++ 0#7]
  | .tlbinv st m a => [st ++ 0x7E#7 ++ 1#4 ++ m ++ 0#2 ++ a ++ 0#7]
  | .orig st d n => [st ++ 0x7E#7 ++ 2#4 ++ d ++ 0#8 ++ n]
  | .hret st a => [st ++ 0x7E#7 ++ 3#4 ++ 0#4 ++ a ++ 0#7]
  | .trap st k => [st ++ 0x7E#7 ++ 4#4 ++ 0#11 ++ k]
  | .ctr st d n => [st ++ 0x7E#7 ++ 5#4 ++ d ++ 0#5 ++ n]
  | .wspill st h a b => [st ++ 0x7E#7 ++ 6#4 ++ h ++ 0#3 ++ a ++ b]
  | _ => []

/-- The bytes of an instruction. -/
def encodeBytes (i : Instr) : List Byte := wordBytes (encode i)

end Sys2Proof
end

