-- ==== Sys2Proof/Machine/Access.lean ====
section
/-! DEFINITION. Finding and updating the parts of the state, and the accesses to device memory: translation (R73, R249),
reads at a view, ordinary and strong writes and their carriage between dies (R258 to R263). -/

namespace Sys2Proof.Machine

/-! ### Owners, launches, blocks, groups, paths -/

def State.owner (s : State) (o : Nat) : Owner := s.owners.getD o Owner.absent

def State.updOwner (s : State) (o : Nat) (f : Owner → Owner) : State :=
  { s with owners := s.owners.modify o f }

def State.launch? (s : State) (l : Nat) : Option Launch := s.launches.find? fun x => x.seq == l

def State.updLaunch (s : State) (l : Nat) (f : Launch → Launch) : State :=
  { s with launches := s.launches.map fun x => if x.seq = l then f x else x }

def Launch.block? (x : Launch) (b : Nat) : Option Block := x.blocks.find? fun y => y.index == b

def Launch.updBlock (x : Launch) (b : Nat) (f : Block → Block) : Launch :=
  { x with blocks := x.blocks.map fun y => if y.index = b then f y else y }

def State.block? (s : State) (l b : Nat) : Option Block := (s.launch? l).bind fun x => x.block? b

def State.updBlock (s : State) (l b : Nat) (f : Block → Block) : State :=
  s.updLaunch l fun x => x.updBlock b f

def Block.group? (y : Block) (g : Nat) : Option Group := y.groups.find? fun z => z.index == g

def Block.updGroup (y : Block) (g : Nat) (f : Group → Group) : Block :=
  { y with groups := y.groups.map fun z => if z.index = g then f z else z }

def State.group? (s : State) (l b g : Nat) : Option Group := (s.block? l b).bind fun y => y.group? g

def State.updGroup (s : State) (l b g : Nat) (f : Group → Group) : State :=
  s.updBlock l b fun y => y.updGroup g f

def Group.updPath (z : Group) (n : Nat) (f : Path → Path) : Group := { z with paths := z.paths.modify n f }

def State.path? (s : State) (r : PathRef) : Option Path := (s.group? r.launch r.block r.group).bind fun z => z.paths[r.path]?

def State.updPathGroup (s : State) (r : PathRef) (f : Group → Group) : State := s.updGroup r.launch r.block r.group f

def State.updPath (s : State) (r : PathRef) (f : Path → Path) : State := s.updPathGroup r fun z => z.updPath r.path f

/-- Waits that stop a path: its earlier results are complete (R29, R123). -/
def Wait.stops : Wait → Bool
  | .join _ | .clause | .latch _ | .barrier _ _ | .word _ _ _ | .quiet _ | .handler => true
  | _ => false

/-- The results of a path are complete (R123). -/
def Group.settled (z : Group) (k : Nat) : Group :=
  { z with hazards := z.hazards.map fun h => if h.path = k then { h with covered := false } else h }

/-- A path takes a status; a wait that stops it leaves its results complete (R29, R123). -/
def State.setStatus (s : State) (r : PathRef) (st : PathStatus) : State :=
  s.updPathGroup r fun z =>
    (match st with
      | .waiting w => if w.stops then z.settled r.path else z
      | _ => z).updPath r.path fun p => { p with status := st }

/-- What surrounds a path: its launch, block, group and table entry. -/
structure Ctx where
  ref : PathRef
  launch : Launch
  block : Block
  group : Group
  path : Path
deriving DecidableEq, Repr

def State.ctx? (s : State) (r : PathRef) : Option Ctx :=
  match s.launch? r.launch with
  | none => none
  | some x =>
    match x.block? r.block with
    | none => none
    | some y =>
      match y.group? r.group with
      | none => none
      | some z =>
        match z.paths[r.path]? with
        | none => none
        | some p => if p.valid then some ⟨r, x, y, z, p⟩ else none

/-- The context of the current path while its block is resident. -/
def State.running? (s : State) : Option Ctx :=
  match s.ctx? s.cur with
  | none => none
  | some c => if c.block.cluster.isSome then some c else none

/-- The die of a logical core (R10). -/
abbrev dieOf (core : Nat) : Nat := core / Config.coresPerDie

/-- Consume `n` free values; the first one's number is returned. (log 7: DESIGN CHOICE) -/
def State.takeFree (s : State) (n : Nat) : State := { s with free := s.free + n }

/-- Consume `n` free values of an owner (R5). (log 7: DESIGN CHOICE) -/
def State.takeFreeOf (s : State) (o n : Nat) : State := s.updOwner o fun w => { w with free := w.free + n }

/-- The free value of an owner that stands `k` after its next one. (log 7: DESIGN CHOICE) -/
def State.freeOf (s : State) (o k : Nat) : DWord := Config.freeWord o ((s.owner o).free + k)

/-- The free choice `k` of an owner, sixteen for each of its free values from the next one on. (log 7: DESIGN CHOICE) -/
def State.choiceOf (s : State) (o k : Nat) : Bool := Config.freeChoice o (16 * (s.owner o).free + k)

/-- Every resident group of a core, with its launch and block index. -/
def State.groupsOn (s : State) (core : Nat) : List (Launch × Block × Group) :=
  s.launches.flatMap fun x => x.blocks.flatMap fun y =>
    if y.cluster = some (core / 4) then
      (y.groups.filter fun z => z.core == core && !z.freed).map fun z => (x, y, z)
    else []

/-! ### Counters and charges -/

/-- Add to a cumulative owner counter (R314). -/
def Owner.bump (o : Owner) (n : Nat) (v : Nat) : Owner :=
  { o with counters := o.counters.put n (o.counters.get n + BitVec.ofNat 64 v) }

/-- Count an event `n` times in an owner's selected counters EV0 to EV3 (R316). -/
def Owner.event (o : Owner) (code n : Nat) : Owner :=
  (List.range 4).foldl (fun o k => if o.controls.sel.getD k 0 = code ∧ code ≠ 0 then o.bump (32 + k) n else o) o

/-- Whether an owner's bytes of this period have reached a bandwidth cap (R358). -/
def Owner.bandwidthReached (o : Owner) : Bool :=
  (decide (o.record.hbmbw ≠ 0) && decide (o.record.hbmbw * 100000 ≤ o.periodHbm)) ||
  (decide (o.record.resbw ≠ 0) && decide (o.record.resbw * 100000 ≤ o.periodRes))

/-- The owner as it stands once its bytes are counted: a cap that is reached holds its further accesses (R358). -/
def Owner.capTest (o : Owner) : Owner := { o with capHeld := o.capHeld || o.bandwidthReached }

/-- Charge `n` bytes at physical address `pa` to an owner (R300, counters 19 and 20). (log 47: DESIGN CHOICE) -/
def State.charge (s : State) (o pa n : Nat) : State :=
  s.updOwner o fun x => Owner.capTest
    (if pa < Config.reservoirBase then { x.bump 19 n with periodHbm := x.periodHbm + n }
    else { x.bump 20 n with periodRes := x.periodRes + n })

/-! ### Translation -/

/-- Whether a physical address lies in a tier (R73). -/
def inTier (pa : Nat) : Bool :=
  decide (pa < Config.firstTier) ||
    (decide (Config.reservoirBase ≤ pa) && decide (pa < Config.reservoirBase + Config.reservoirBytes))

/-- The reservoir port of a physical address, if it is one (R310). -/
def portOf (pa : Nat) : Option Nat :=
  if pa < Config.reservoirBase then none else some ((pa - Config.reservoirBase) / 4096 % 4)

/-- Whether an address's reservoir port, if any, is in service (R391). -/
def State.portUp (s : State) (pa : Nat) : Bool :=
  match portOf pa with
  | none => true
  | some k => s.links.cxl.getLsbD k

def Owner.entry? (o : Owner) (va : Nat) : Option TlbEntry :=
  o.tlb.find? fun e => decide (e.va ≤ va) && decide (va < e.va + e.size)

/-- The outcome of a lookup: a physical address, a miss (KIND 1) or a protection fault (KIND 2). -/
def Owner.translate (o : Owner) (va : Nat) (write : Bool) : Except Nat Nat :=
  match o.entry? va with
  | none => .error 1
  | some e => if write && !e.wr then .error 2 else .ok (e.pa + (va - e.va))

/-- Whether `[va, va + n)` meets the pinned reserve (R353). -/
def Owner.inReserve (o : Owner) (va n : Nat) : Bool :=
  decide (0 < o.record.rsvlen) && decide (va < o.record.rsvbase + 8192 * o.record.rsvlen) && decide (o.record.rsvbase < va + n)

/-- Whether `[va, va + n)` meets the specialisation cache (R273). -/
def Owner.inCache (o : Owner) (va n : Nat) : Bool :=
  decide (0 < o.record.specmax) && decide (va < o.record.specva + 1048576 * o.record.specmax) && decide (o.record.specva < va + n)

/-! ### Memory at a view -/

/-- What a byte that holds `now` held at a moment: what the first change at or after that moment found there (R258). (log 112: DEDUCED) -/
def pastByte (past : List Past) (m addr : Nat) (now : Byte) : Byte :=
  (past.find? fun e => e.addr == addr && decide (m ≤ e.moment)).elim now (·.old)

/-- A view of device memory; one that is not there is empty. -/
def State.view (s : State) (v : Nat) : Die := s.dies.getD v ⟨[], [], []⟩

/-- Bytes at a physical address, as a view has applied them. (log 8: DESIGN CHOICE) -/
def State.readPhys (s : State) (view pa n : Nat) : List Byte := Memory.read (s.view view).mem pa n

/-- Bytes at a physical address, as a view had applied them at a moment. (log 112: DEDUCED) -/
def State.readAt (s : State) (view m pa n : Nat) : List Byte :=
  (s.readPhys view pa n).zipIdx.map fun e => pastByte (s.view view).past m (pa + e.2) e.1

/-- Change bytes of a view, at a moment. -/
def Die.write (d : Die) (m : Nat) (id : Option Nat) (pa : Nat) (bs : List Byte) : Die :=
  { d with
    mem := d.mem.write pa bs
    past := d.past ++ bs.zipIdx.map fun e => ⟨m, id, pa + e.2, Sparse.get (w := 8) d.mem (pa + e.2)⟩ }

def State.writeView (s : State) (view pa : Nat) (bs : List Byte) : State :=
  { s with dies := s.dies.modify view fun d => d.write s.moment none pa bs, moment := s.moment + 1 }

/-- Write at every view. -/
def State.writeAll (s : State) (pa : Nat) (bs : List Byte) : State :=
  { s with dies := s.dies.map fun d => d.write s.moment none pa bs, moment := s.moment + 1 }

/-- Count a write of die `die` in a view's vector clock (R259). -/
def Die.tick (d : Die) (die : Nat) : Die := { d with clock := d.clock.modify die (· + 1) }

/-- Whether a view's byte already holds a write that comes after the step of an atomic: then the step's own value is not seen there (R199). (log 113: DEDUCED) -/
def Die.covers (d : Die) (t : Transit) (addr : Nat) : Bool :=
  d.past.any fun e => e.addr == addr && match e.id with
    | none => decide (t.moment ≤ e.moment)
    | some i => decide (t.id < i) || t.later.contains i

/-- A view applies a write in transit, at a moment. (log 113: DEDUCED) -/
def Die.land (d : Die) (m : Nat) (t : Transit) : Die :=
  (if t.atomic then t.bytes.zipIdx.foldl (fun e b => if d.covers t (t.addr + b.2) then e else e.write m (some t.id) (t.addr + b.2) [b.1]) d
    else d.write m (some t.id) t.addr t.bytes).tick t.die

/-- Apply a write in transit at one view that has not applied it, at a moment. (log 41: DEDUCED) -/
def State.applyAt (s : State) (m : Nat) (t : Transit) (view : Nat) : State :=
  if t.applied.contains view then s
  else
    { s with
      dies := s.dies.modify view fun d => d.land m t
      transit := s.transit.map fun u => if u.id = t.id then { u with applied := u.applied ++ [view] } else u }

/-- Forget the writes that every view has applied. -/
def State.settle (s : State) : State :=
  { s with transit := s.transit.filter fun t => !((List.range 5).all fun v => t.applied.contains v) }

/-- The writes of a list that are still in transit, with those that precede them. -/
def State.closed (s : State) (ids : List Nat) : List Nat :=
  let ts := s.transit.filter fun t => ids.contains t.id
  ((ts.map (·.id) ++ ts.flatMap (·.preds)).filter fun i => s.transit.any fun t => t.id == i).dedup

/-- The selected writes in transit and those that precede them, each applied at the views of `vs` that have not applied it, in order of their
numbers, all in one moment (R259). (log 8: DESIGN CHOICE) -/
def State.carryTo (s : State) (vs : List Nat) (sel : Transit → Bool) : State :=
  let ids := s.closed ((s.transit.filter sel).map (·.id))
  let todo := s.transit.filter fun t => ids.contains t.id
  { (todo.foldl (fun s' t => vs.foldl (fun s' v => s'.applyAt s.moment ((s'.transit.find? fun u => u.id == t.id).getD t) v) s') s).settle with
    moment := s.moment + 1 }

/-- Carry the selected writes to every die (R259). -/
def State.carry (s : State) (sel : Transit → Bool) : State := s.carryTo [0, 1, 2, 3, 4] sel

/-- The views a scope names for a path on die `die`: its own die below `.pkg`, every view from `.pkg` on (R193). -/
def scopeViews (scope die : Nat) : List Nat := if scope ≤ 4 then [die] else [0, 1, 2, 3, 4]

/-- A new write enters transit and is applied at once at the views of `vs`, each after every write that precedes it (R259, R262). -/
def State.launchWrite (s : State) (vs : List Nat) (t : Transit) : State :=
  let s := if t.preds.isEmpty then s else s.carryTo vs fun u => t.preds.contains u.id
  let t := { t with id := s.nextId, clock := (s.view t.die).clock, moment := s.moment }
  let s1 : State := { s with nextId := s.nextId + 1, transit := s.transit ++ [t], moment := s.moment + 1 }
  (vs.foldl (fun s' v => s'.applyAt s.moment ((s'.transit.find? fun u => u.id == t.id).getD t) v) s1).settle

/-- A write by a lane of a path (96: by the path itself, 97: a spill), with nothing in it yet. -/
def blankWrite (p : PathRef) (lane die pa : Nat) (bs : List Byte) (preds : List Nat) : Transit :=
  ⟨0, pa, bs, [], preds, p.launch, p.block, p.group, lane, die, [], false, 0, []⟩

/-- A multi-copy atomic write at a scope: every view of the scope at once (R197, R259, R262). (log 41: DEDUCED) -/
def State.writeStrong (s : State) (scope : Nat) (p : PathRef) (lane die pa : Nat) (bs : List Byte) (preds : List Nat) : State :=
  s.launchWrite (scopeViews scope die) (blankWrite p lane die pa bs preds)

/-- An ordinary write by a lane, applied at its own die (R196, R259). (log 41: DEDUCED) -/
def State.writeOrdinary (s : State) (p : PathRef) (lane die pa : Nat) (bs : List Byte) (preds : List Nat) : State :=
  s.launchWrite [die] (blankWrite p lane die pa bs preds)

/-- Writes in transit that touch bytes. -/
def State.overlapping (s : State) (pa n : Nat) : List Transit :=
  s.transit.filter fun t => decide (pa < t.addr + t.bytes.length) && decide (t.addr < pa + n)

/-- The writes in transit that a read of `n` bytes at a view and a moment sees, with those that precede them (link 2 of R260). (log 41: DEDUCED) -/
def State.readFrom (s : State) (view m pa n : Nat) : List Nat :=
  ((s.overlapping pa n).filter fun t => t.applied.contains view &&
    !((s.view view).past.any fun e => e.id == some t.id && decide (m ≤ e.moment))).flatMap fun t => t.id :: t.preds

/-- What an atomic step meets (R199): steps of other atomics on its bytes are applied at its die first; the other writes to them that its die has not
applied come after it. (log 113: DEDUCED) -/
def State.atomicMeets (s : State) (die pa n : Nat) : State :=
  let ids := ((s.overlapping pa n).filter fun t => t.atomic && !t.applied.contains die).map (·.id)
  if ids.isEmpty then s else s.carryTo [die] fun t => ids.contains t.id

/-- The write of an atomic step, at a scope (R199). (log 113: DEDUCED) -/
def State.writeAtomic (s : State) (scope : Nat) (p : PathRef) (lane die pa : Nat) (bs : List Byte) (preds : List Nat) : State :=
  let ts := s.overlapping pa bs.length
  s.launchWrite (scopeViews scope die)
    { blankWrite p lane die pa bs (s.closed (preds ++ (ts.filter fun t => t.applied.contains die).map (·.id))) with
      atomic := true
      later := (ts.filter fun t => !t.applied.contains die).map (·.id) }

/-! ### What an access of a path comes after (R260) -/

/-- Remember an access: it takes the place of earlier ones to its bytes. -/
def Path.traceAccess (p : Path) (e : Trace) : Path :=
  let inside (f : Trace) : Bool := f.sp == e.sp && decide (e.addr ≤ f.addr) && decide (f.addr + f.len ≤ e.addr + e.len)
  { p with own := (p.own.filter fun f => !inside f) ++ [{ e with ids := (e.ids ++ (p.own.filter inside).flatMap (·.ids)).dedup }] }

def Path.tracesOf (p : Path) (sp : Bool) (addr n : Nat) : List Trace :=
  p.own.filter fun e => e.sp == sp && decide (addr < e.addr + e.len) && decide (e.addr < addr + n)

/-- Later accesses of the path come after these writes, and are performed after a moment. -/
def Path.after (p : Path) (moment : Nat) (ids : List Nat) : Path :=
  { p with
    before := (p.before ++ ids).dedup
    horizon := max p.horizon moment
    own := p.own.filter fun e => !e.ids.isEmpty || decide (moment < e.moment) }

/-- The moment from which a view holds those writes of a list that touch bytes which `here` picks (R258). -/
def Die.heldFrom (d : Die) (ids : List Nat) (here : Nat → Bool) : Nat :=
  ((d.past.filter fun e => e.id.elim false ids.contains && here e.addr).map fun e => e.moment + 1).foldl max 0

/-! ### Poison of device memory -/

/-- The 64-byte block of an address (R377). -/
abbrev poisonBlock (pa : Nat) : Nat := pa / 64 * 64

def State.poisoned (s : State) (pa n : Nat) : Bool :=
  (List.range n).any fun i => s.poison.contains (poisonBlock (pa + i))

def State.markPoison (s : State) (pa : Nat) : State :=
  if s.poison.contains (poisonBlock pa) then s else { s with poison := s.poison ++ [poisonBlock pa] }

/-- Clear the marks of the blocks that a set of byte ranges covers whole (R377). (log 45: DEDUCED) -/
def State.clearPoison (s : State) (ranges : List (Nat × Nat)) : State :=
  { s with poison := s.poison.filter fun b =>
      !((List.range 64).all fun i => ranges.any fun r => decide (r.1 ≤ b + i) && decide (b + i < r.1 + r.2)) }

/-! ### Accesses of the hardware on an owner's behalf, at the base die -/

/-- Bytes at virtual addresses, page by page through an address map. -/
def State.readMap (s : State) (view : Nat) (f : Nat → Option Nat) (va n : Nat) : Option (List Byte) :=
  (List.range n).mapM fun i => (f (va + i)).map fun pa => Sparse.get (w := 8) (s.view view).mem pa

/-- The physical address of a virtual one for a read on an owner's behalf. -/
def State.vaRead (s : State) (o va : Nat) : Option Nat := ((s.owner o).translate va false).toOption

/-- Bytes an owner's virtual address holds, seen from the base die; none where a page has no entry. (log 74: UNVERIFIED) -/
def State.readVirt (s : State) (o va n : Nat) : Option (List Byte) := s.readMap 4 (s.vaRead o) va n

/-- The physical address of a virtual one for a write on an owner's behalf. -/
def State.vaWrite (s : State) (o va : Nat) : Option Nat := ((s.owner o).translate va true).toOption

/-- A strong write at `.sys` to an owner's virtual address; dropped where the page has no writable entry. (log 92: DEDUCED) -/
def State.writeVirt (s : State) (o va : Nat) (bs : List Byte) : State :=
  (List.range bs.length).foldl (fun s i =>
    match s.vaWrite o (va + i) with
    | none => s
    | some pa => (s.writeAll pa [bs.getD i 0]).charge o pa 1) s

/-- Bytes of a write that is charged already take other values, at every view; dropped where the page has no writable entry. -/
def State.amendVirt (s : State) (o va : Nat) (bs : List Byte) : State :=
  (List.range bs.length).foldl (fun s i => (s.vaWrite o (va + i)).elim s fun pa => s.writeAll pa [bs.getD i 0]) s

/-- The specialiser writes into the specialisation cache, whose entries are read-only for the owner's programs alone (R273): a write at every view, charged to
the owner. -/
def State.writeCache (s : State) (o va : Nat) (bs : List Byte) : State :=
  (List.range bs.length).foldl (fun s i =>
    match s.vaRead o (va + i) with
    | none => s
    | some pa => (s.writeAll pa [bs.getD i 0]).charge o pa 1) s

/-- Whether a write of `n` bytes on an owner's behalf reaches memory whole. -/
def State.canWrite (s : State) (o va n : Nat) : Bool := (List.range n).all fun i => (s.vaWrite o (va + i)).isSome

/-- A byte range cut at 8 KiB page boundaries: address, offset from the start, length. -/
def pagePieces : Nat → Nat → Nat → Nat → List (Nat × Nat × Nat)
  | 0, _, _, _ => []
  | k + 1, va, off, n =>
    if n = 0 then []
    else
      let m := min n (8192 - va % 8192)
      (va, off, m) :: pagePieces k (va + m) (off + m) (n - m)

/-- Charge a read of `n` bytes at an owner's virtual address (R300). -/
def State.chargeVirt (s : State) (o va n : Nat) : State :=
  (pagePieces (n / 8192 + 2) va 0 n).foldl (fun s p => match s.vaRead o p.1 with
    | some pa => s.charge o pa p.2.2
    | none => s) s

/-- The 32-bit word at an owner's virtual address. -/
def State.wordVirt (s : State) (o va : Nat) : Option Word :=
  (s.readVirt o va 4).map fun bs => BitVec.ofNat 32 (leNat bs)

end Sys2Proof.Machine
end

