-- ==== Sys2Proof/Machine/Log.lean ====
section
/-! DEFINITION. The replay log (R400 to R404): appending records while a launch is recorded, and finding them while it is replayed. The log
of a launch lies in its owner's memory; each group's records are consumed in their own order. -/

namespace Sys2Proof.Machine

/-- Residual address of the reported word: a prefix stands for its word too (R137). -/
def Path.wordAddr (p : Path) : Nat := (p.pc + 4 * p.idx) % 2 ^ 64

/-- Where a group stands in a launch's log. -/
def Replay.group (r : Replay) (b g : Nat) : ReplayGroup :=
  (r.groups.find? fun e => e.block == b && e.group == g).getD ⟨b, g, 0, 0, 0⟩

def Replay.setGroup (r : Replay) (e : ReplayGroup) : Replay :=
  { r with groups := e :: r.groups.filter fun f => !(f.block == e.block && f.group == e.group) }

def State.updReplay (s : State) (l : Nat) (f : Replay → Replay) : State :=
  s.updLaunch l fun x => { x with replay := x.replay.map f }

/-- Bytes padded with zeros to a multiple of 16 (R401). -/
def pad16 (bs : List Byte) : List Byte := bs ++ List.replicate ((16 - bs.length % 16) % 16) 0

/-- The header of a log record (R401). -/
def logHeader (ty : Nat) (p : PathRef) (addr n : Nat) : List Word :=
  [BitVec.ofNat 32 (ty * 2 ^ 28 + p.path * 2 ^ 26 + p.group * 2 ^ 19), BitVec.ofNat 32 p.block, BitVec.ofNat 32 addr, BitVec.ofNat 32 n]

/-- The debug window base of an owner; 0: none (R392). -/
def State.window (s : State) (o : Nat) : Nat := (s.owner o).controls.dwin

/-- Append a record of a recorded launch; the address of its payload, or none where nothing is recorded. A record that would pass LEN ends the
recording and sets FULL (R402). -/
def State.logRecord (s : State) (ty : Nat) (p : PathRef) (addr : Nat) (payload : List Byte) : State × Option Nat :=
  match s.launch? p.launch with
  | none => (s, none)
  | some x =>
    match x.replay with
    | none => (s, none)
    | some r =>
      if r.replaying || r.full then (s, none)
      else
        let size := 16 + (pad16 payload).length
        if r.len < r.used + size then
          let s := s.updReplay p.launch fun r => { r with full := true }
          let w := s.window x.owner
          (if w = 0 then s else s.writeVirt x.owner (w + 0x1C0 + 0x28) (leBytes 4 1), none)
        else
          let s := s.writeVirt x.owner (r.log + r.used) (wordBytes (logHeader ty p addr payload.length) ++ pad16 payload)
          (s.updReplay p.launch fun r => { r with used := r.used + size }, some (r.log + r.used + 16))

/-- Bytes of a record's payload, from an offset on, take their values: the record was charged when it was written (R402). -/
def State.logPut (s : State) (o : Nat) (l : Option LogPlace) (off : Nat) (bs : List Byte) : State :=
  l.elim s fun l => s.amendVirt o (l.at_ + off) bs

/-- The place of a lane's value in a record of TYPE 1 whose values take `n` bytes each (R401). -/
def LogPlace.lane (l : LogPlace) (n i : Nat) : Option Nat :=
  if laneOn l.mask i then some (l.at_ + 12 + n * (laneList l.mask).idxOf i) else none

/-- Values of lanes in a record of TYPE 1, `n` bytes each. -/
def State.logLanes (s : State) (o : Nat) (l : Option LogPlace) (n : Nat) (vals : List (Nat × DWord)) : State :=
  vals.foldl (fun s e => ((l.bind fun l => l.lane n e.1)).elim s fun a => s.amendVirt o a (leBytes n e.2.toNat)) s

/-- The values of a group's records that have changed are written (R184, R401). -/
def State.flushLog (s : State) (r : PathRef) : State :=
  match s.group? r.launch r.block r.group, s.launch? r.launch with
  | some z, some x =>
    if z.logFix.isEmpty || x.replay.isNone then s
    else
      (z.logFix.foldl (fun s e => s.amendVirt x.owner e.1 (leBytes 4 e.2.toNat)) s).updPathGroup r fun z => { z with logFix := [] }
  | _, _ => s

/-- The word at a log offset. -/
def State.logWord (s : State) (o : Nat) (r : Replay) (pos k : Nat) : Nat := ((s.wordVirt o (r.log + pos + 4 * k)).getD 0).toNat

/-- The next record of a group at or after an offset: its offset. -/
def State.logFind (s : State) (o : Nat) (r : Replay) (b g : Nat) : Nat → Nat → Option Nat
  | 0, _ => none
  | k + 1, pos =>
    if r.used < pos + 16 then none
    else if s.logWord o r pos 1 = b ∧ bits (s.logWord o r pos 0) 25 19 = g then some pos
    else s.logFind o r b g k (pos + 16 + (s.logWord o r pos 3 + 15) / 16 * 16)

/-- The next record of a group of a replayed launch. -/
def State.nextRecord (s : State) (x : Launch) (r : Replay) (b g : Nat) : Option Nat :=
  s.logFind x.owner r b g (r.used / 16 + 1) (r.group b g).pos

/-- The switch of a replayed group that is due, if its next record is one: its offset (R403). -/
def State.dueSwitch (s : State) (x : Launch) (r : Replay) (b g : Nat) : Option Nat :=
  (s.nextRecord x r b g).filter fun pos =>
    s.logWord x.owner r pos 0 / 2 ^ 28 == 2 && s.logWord x.owner r pos 5 == (r.group b g).words

/-- The path that a replayed group issues from next: the one of the switch that is due, if one is (R403). -/
def State.replayPath (s : State) (x : Launch) (r : Replay) (b g : Nat) : Nat :=
  (s.dueSwitch x r b g).elim (r.group b g).path fun pos => s.logWord x.owner r pos 4

/-- Whether a path has the turn of its group: in a replay the log says which path issues; a word that runs again is in no log (R400, R403). -/
def State.hasTurn (s : State) (c : Ctx) : Bool :=
  c.launch.replay.elim true fun r => !r.replaying || c.path.counted || s.replayPath c.launch r c.ref.block c.ref.group == c.ref.path

/-- A change of the group's issuing path is a record of TYPE 2 (R401); nothing where the path has the turn already. -/
def State.logTurn (s : State) (p : PathRef) (addr : Nat) : State :=
  match s.launch? p.launch with
  | none => s
  | some x =>
    match x.replay with
    | none => s
    | some r =>
      let e := r.group p.block p.group
      if p.path = e.path then s
      else
        let pos := if r.replaying then (s.dueSwitch x r p.block p.group).elim e.pos fun q => q + 32 else e.pos
        let s := (s.logRecord 2 p addr (wordBytes [BitVec.ofNat 32 p.path, BitVec.ofNat 32 e.words])).1
        s.updReplay p.launch fun r => r.setGroup { e with path := p.path, words := 0, pos := pos }

/-- Account for a word that issues from a path. (log 81: DEDUCED) -/
def State.logSwitch (s : State) (p : PathRef) (addr : Nat) : State :=
  (s.logTurn p addr).updReplay p.launch fun r =>
    let e := r.group p.block p.group
    r.setGroup { e with words := e.words + 1 }

/-- Whether the word of a path at an address is another one than the log of its replayed launch has next (R404): the switch to the path that is due
names another word, or the record that the word needs, of the type `ty`, is not its own. -/
def State.diverges (s : State) (p : PathRef) (ty : Option Nat) (addr : Nat) : Bool :=
  match s.launch? p.launch with
  | none => false
  | some x =>
    match x.replay with
    | none => false
    | some r =>
      if !r.replaying then false
      else
        let due := s.dueSwitch x r p.block p.group
        let other (pos : Nat) : Bool := s.logWord x.owner r pos 2 != addr % 2 ^ 32
        due.any other || ty.any fun ty =>
          match s.logFind x.owner r p.block p.group (r.used / 16 + 1) (due.elim (r.group p.block p.group).pos (· + 32)) with
          | none => true
          | some pos =>
            let w := s.logWord x.owner r pos 0
            w / 2 ^ 28 != ty || bits w 27 26 != p.path || other pos

/-- Consume the next record of a replayed group: its payload's place. -/
def State.logConsume (s : State) (p : PathRef) : State × Option LogPlace :=
  match s.launch? p.launch with
  | none => (s, none)
  | some x =>
    match x.replay with
    | none => (s, none)
    | some r =>
      match s.nextRecord x r p.block p.group with
      | none => (s, none)
      | some pos =>
        let n := s.logWord x.owner r pos 3
        (s.updReplay p.launch fun r => r.setGroup { r.group p.block p.group with pos := pos + 16 + (n + 15) / 16 * 16 },
          some ⟨r.log + pos + 16, n, 0⟩)

/-- The record of a word that takes values from outside its group (R401, R403), made or consumed once, whichever of its lanes run again (R400): where it
stands when the launch is recorded, its payload when the launch is replayed. `m`: the lanes that it lists. -/
def State.logInput (s : State) (c : Ctx) (ty : Nat) (m : Lanes) (payload : List Byte) : State × Option LogPlace × Option (List Byte) :=
  match c.launch.replay with
  | none => (s, none, none)
  | some r =>
    let keep (s : State) (l : LogPlace) : State := s.updPath c.ref fun p => { p with logged := some l }
    let s := if c.path.counted then s else s.logTurn c.ref c.path.wordAddr
    let here := match c.path.logged with
      | some l => (s, some l)
      | none =>
        if r.replaying then
          match s.logConsume c.ref with
          | (s, some l) => (keep s l, some l)
          | (s, none) => (s, none)
        else
          match s.logRecord ty c.ref c.path.wordAddr payload with
          | (s, some a) => (keep s ⟨a, payload.length, m⟩, some ⟨a, payload.length, m⟩)
          | (s, none) => (s, none)
    if r.replaying then (here.1, none, here.2.bind fun l => here.1.readVirt c.launch.owner l.at_ l.len) else (here.1, here.2, none)

/-- The bytes of a lane triple (R21). -/
def tripleBytes (m : Lanes) : List Byte := wordBytes [maskWord m 0, maskWord m 1, maskWord m 2]

/-- A payload of TYPE 1: the active-lane triple, then the values, `n` bytes each (R401). -/
def lanePayload (m : Lanes) (n : Nat) (vals : List (Nat × DWord)) : List Byte :=
  tripleBytes m ++ vals.flatMap fun e => leBytes n e.2.toNat

/-- The lanes and values of a payload of TYPE 1. -/
def payloadLanes (bs : List Byte) (n : Nat) : List (Nat × DWord) :=
  let w (j : Nat) : Word := BitVec.ofNat 32 (leNat ((bs.drop (4 * j)).take 4))
  (laneList (ofMaskWords (w 0) (w 1) (w 2))).zipIdx.map fun e => (e.1, BitVec.ofNat 64 (leNat ((bs.drop (12 + n * e.2)).take n)))

/-- The values that a word of TYPE 1 writes in its active lanes, as they are or as they were logged, and their record. -/
def State.exchange (s : State) (c : Ctx) (n : Nat) (vals : List (Nat × DWord)) : State × Option LogPlace × List (Nat × DWord) :=
  match s.logInput c 1 (laneSet (vals.map (·.1))) (lanePayload (laneSet (vals.map (·.1))) n vals) with
  | (s, l, some bs) => (s, l, payloadLanes bs n)
  | (s, l, none) => (s, l, vals)

/-- The bytes that a word of TYPE 1 writes once for its path, as they are or as they were logged. -/
def State.exchangeBytes (s : State) (c : Ctx) (m : Lanes) (bs : List Byte) : State × Option LogPlace × List Byte :=
  match s.logInput c 1 m (tripleBytes m ++ bs) with
  | (s, l, some b) => (s, l, b.drop 12)
  | (s, l, none) => (s, l, bs)

/-- Whether the launch replays a log: then its loads make no access (R403). -/
def Ctx.replaying (c : Ctx) : Bool := c.launch.replay.elim false (·.replaying)

end Sys2Proof.Machine
end

