-- ==== Sys2Proof/Machine/Image.lean ====
section
/-! DEFINITION. Context images and block images in memory (R55 to R57, R61, R72, R257, R269): where they lie, their layout, writing the
header areas, and reading them back on return (R336). -/

namespace Sys2Proof.Machine

/-! ### Where images lie (R269) -/

/-- Bytes rounded up to a multiple of 8 KiB. -/
def pageUp (n : Nat) : Nat := (n + 8191) / 8192 * 8192

def Header.ctxSize (h : Header) : Nat := pageUp (0xB000 + 3072 * h.stack)
def Header.blkSize (h : Header) : Nat := pageUp (4 * 1024 * h.spadKiB + 2359296)

/-- Base of the context image of group `g` of the block in slot `slot`. -/
def Header.ctxOf (h : Header) (slot g : Nat) : Nat := h.ctxbase + (slot * h.groups + g) * h.ctxSize

/-- Base of the block image of slot `slot`. -/
def Header.blkOf (h : Header) (slot : Nat) : Nat := h.blkbase + slot * h.blkSize

/-- Offset of a tile slot in the block image (R72). -/
def Header.tileOff (h : Header) (core tile : Nat) : Nat := 4 * 1024 * h.spadKiB + (core * 32 + tile) * Config.tileBytes

/-! ### Access through pump mappings (R360) and, for handler groups, the reserve's entries (R353, R372) -/

/-- Physical address of a byte of a block's images: through its pump mappings, which last until its last group ends, else through the owner's entries.
 (log 52: DEDUCED) -/
def State.imagePa (s : State) (x : Launch) (y : Block) (va : Nat) : Option Nat :=
  match y.images.find? fun e => e.1 == va / 8192 * 8192 with
  | some e => some (e.2 + va % 8192)
  | none => s.vaRead x.owner va

/-- A write of a group into its image, of `n` bytes, joins what a release of the group orders (link 3 of R260), and later loads of its paths see it
(R62). -/
def State.noteImage (s : State) (l b g id pa n : Nat) : State :=
  s.updGroup l b g fun z =>
    { z with
      wrote := z.wrote ++ [⟨s.nextId, s.moment, s.closed [id]⟩]
      paths := z.paths.map fun p => if p.valid then p.traceAccess ⟨false, pa, n, s.closed [id], s.moment⟩ else p }

/-- The writes in transit of a block that touch bytes: a later write of its images comes after them (R258, R260, R290). -/
def State.imageBefore (s : State) (l b pa n : Nat) : List Nat :=
  s.closed (((s.overlapping pa n).filter fun t => t.launch == l && t.block == b).map (·.id))

/-- Write image bytes as writes of the group that are applied at its die (R290); `lane`: 96, or 97 for a spill of the window pump. -/
def State.imageWrite (s : State) (x : Launch) (y : Block) (g core va : Nat) (bs : List Byte) (lane : Nat := 96) : State :=
  (pagePieces (bs.length / 8192 + 2) va 0 bs.length).foldl (fun s pc =>
    match s.imagePa x y pc.1 with
    | none => s
    | some pa =>
      (((s.writeOrdinary ⟨x.seq, y.index, g, 0⟩ lane (dieOf core) pa ((bs.drop pc.2.1).take pc.2.2)
        (s.imageBefore x.seq y.index pa pc.2.2)).noteImage x.seq y.index g s.nextId pa pc.2.2).charge x.owner pa pc.2.2).clearPoison
          [(pa, pc.2.2)]) s

/-- Image bytes take values of which nothing is known: no access is made (R58). -/
def State.imageSpoil (s : State) (x : Launch) (y : Block) (va : Nat) (bs : List Byte) : State :=
  (pagePieces (bs.length / 8192 + 2) va 0 bs.length).foldl (fun s pc =>
    match s.imagePa x y pc.1 with
    | none => s
    | some pa => s.writeAll pa ((bs.drop pc.2.1).take pc.2.2)) s

/-- Image bytes as a die has applied them. -/
def State.imageRead (s : State) (x : Launch) (y : Block) (core va n : Nat) : List Byte :=
  (s.readMap (dieOf core) (s.imagePa x y) va n).getD (List.replicate n 0)

/-- Charge the image bytes of a range to an owner. (log 47: DESIGN CHOICE) -/
def State.chargeImage (s : State) (x : Launch) (y : Block) (payer va n : Nat) : State :=
  (pagePieces (n / 8192 + 2) va 0 n).foldl (fun s pc => match s.imagePa x y pc.1 with
    | some pa => s.charge payer pa pc.2.2
    | none => s) s

/-! ### The header areas (R55, R56, R57, R257) -/

/-- STATE of a path entry (R56). -/
def Path.stateCode (p : Path) : Nat :=
  if p.stopped.isSome then 3
  else match p.status with
    | .ready => 0
    | .waiting _ => 1
    | .sleeping _ => 2

def maskWords (m : Lanes) : List Word := [maskWord m 0, maskWord m 1, maskWord m 2]

def dwordWords (v : DWord) : List Word := [v.setWidth 32, (v >>> 32).setWidth 32]

/-- The words of a path entry, reserved ones zero (R5); a dead entry is all zero (R56, R61). -/
def Path.entryWords (p : Path) (k : Nat) : List Word :=
  if p.valid then
    dwordWords (BitVec.ofNat 64 p.pc) ++ maskWords p.member ++ maskWords p.present ++
    (List.range 13).map (fun i => p.priv.get (108 + i)) ++ [BitVec.ofNat 32 k] ++ maskWords p.mask ++
    [BitVec.ofNat 32 (2 ^ 31 + p.stateCode * 256 + p.tokens.toNat)] ++ List.replicate 6 0
  else List.replicate 32 0

/-- Live paths that hold the token of a join record. -/
def Group.holders (z : Group) (r : Nat) : List Nat :=
  (List.range 4).filter fun k => match z.paths[k]? with
    | some p => p.valid && p.tokens.getLsbD r
    | none => false

/-- The words of a join record (R257). -/
def Group.joinWords (z : Group) (r : Nat) : List Word :=
  let j := z.joins.getD r ⟨0, false, 0⟩
  [BitVec.ofNat 32 ((if j.alloc then 256 else 0) + j.gen.toNat),
   BitVec.ofNat 32 ((z.holders r).foldl (fun n k => n + 2 ^ k) 0), BitVec.ofNat 32 j.arrived.toNat, 0]

/-- Bit set of the numbers of a list. -/
def setBits (l : List Nat) : Nat := l.foldl (fun n k => n ||| 2 ^ k) 0

/-- The group state words of R57 from 0x0400 on. -/
def State.groupStateWords (s : State) (x : Launch) (y : Block) (z : Group) : List Word :=
  let cnt (k : Nat) := z.sb.getD k 0
  [z.mode, BitVec.ofNat 32 (cnt 0 + cnt 1 * 2 ^ 8 + cnt 2 * 2 ^ 16 + cnt 3 * 2 ^ 24),
   BitVec.ofNat 32 (cnt 4 + cnt 5 * 2 ^ 8), 0] ++ dwordWords z.gang ++
  [BitVec.ofNat 32 (setBits ((s.reservations.filter fun r => r.core == z.core && r.launch == x.seq && r.block == y.index).map (·.q))),
   BitVec.ofNat 32 (setBits ((s.tiles.filter fun r => r.core == z.core && r.launch == x.seq && r.block == y.index).map (·.t))),
   if z.stopMode then 1 else 0] ++ List.replicate 23 0

/-- The last-result file of a path, undefined as far as it is (R49): the free values from its number on, which stay as long as no word of the path
issues (R292); zero where the entry is dead (R61). -/
def Path.lastFile (p : Path) (owner : Nat) : List Byte :=
  let one (known : Bool) (k : Nat) (f : Sparse 64) :=
    allLanes.flatMap fun i => leBytes 8 (if known then f.get i else Config.freeWord owner (p.fileFree + 96 * k + i)).toNat
  if p.valid then one p.l0Def 0 p.l0 ++ one p.l1Def 1 p.l1 else List.replicate 1536 0

/-- Value of `s121`, `s122`, `s124` and the shared scalars as the image holds them. -/
def Group.scalarWords (z : Group) (x : Launch) (y : Block) : List Word :=
  (List.range 108).map (fun k => z.scalars.get k) ++
  [BitVec.ofNat 32 z.depth, BitVec.ofNat 32 y.index, BitVec.ofNat 32 x.seq, 0]

/-- The header areas as (offset, bytes), reserved bytes zero (R5, R55). -/
def State.headerAreas (s : State) (x : Launch) (y : Block) (z : Group) : List (Nat × List Byte) :=
  ((List.range 4).map fun k => (128 * k, wordBytes ((z.paths.getD k Path.dead).entryWords k))) ++
  [(0x200, (List.range 4).flatMap fun r => wordBytes (z.joinWords r)),
   (0x240, wordBytes (z.scalarWords x y)),
   (0x400, wordBytes (s.groupStateWords x y z)),
   (0x480, (allLanes.map fun i => (z.flags.get i).setWidth 8) ++ List.replicate 800 0)] ++
  ((List.range 4).map fun k => (0x800 + 1536 * k, (z.paths.getD k Path.dead).lastFile x.owner)) ++
  [(0x2000, (List.range 8).flatMap fun k => allLanes.flatMap fun i => leBytes 4 (z.oper.get (96 * k + i)).toNat)]

/-- One lane of a register of path `k` with a value in its place, for its bytes alone. -/
def Group.showing (z : Group) (k : Nat) (r : LaneReg) (lane : Nat) (v : Word) : Group :=
  match r with
  | .stack n => { z with stack := z.stack.put (96 * n + lane) v }
  | .oper n => { z with oper := z.oper.put (96 * n + lane) v }
  | .scal n =>
    if n < 108 then { z with scalars := z.scalars.put n v }
    else z.updPath k fun p =>
      if n < 121 then { p with priv := p.priv.put n v }
      else
        let w (j : Nat) : Word := if n = 125 + j then v else maskWord p.mask j
        { p with mask := ofMaskWords (w 0) (w 1) (w 2) }

/-- A group as its image shows it: destinations of asynchronous words in flight hold undefined values (R63). -/
def State.shown (s : State) (x : Launch) (z : Group) : Group :=
  ((z.unseen.filter fun u => s.ops.any fun o => o.id == u.op).zipIdx).foldl (fun z e =>
    (laneList e.1.lanes).foldl (fun z i => z.showing e.1.path e.1.reg i ((s.freeOf x.owner (96 * e.2 + i)).setWidth 32)) z) z

/-- Write areas of a group's context image: offset and bytes. -/
def State.writeAreas (s : State) (x : Launch) (y : Block) (z : Group) (areas : List (Nat × List Byte)) : State :=
  areas.foldl (fun s e => s.imageWrite x y z.index z.core (x.header.ctxOf y.slot z.index + e.1) e.2) s

/-- Write a group's header areas into its context image (R61). (log 53: DEDUCED) -/
def State.writeHeaderAreas (s : State) (x : Launch) (y : Block) (z : Group) : State :=
  (s.writeAreas x y z (s.headerAreas x y (s.shown x z))).takeFreeOf x.owner (96 * z.unseen.length)

/-- A path that moves while its block is away keeps its image: PC and the word that holds STATE (R44, R56). -/
def State.savePath (s : State) (r : PathRef) : State :=
  match s.launch? r.launch, s.block? r.launch r.block, s.group? r.launch r.block r.group, s.path? r with
  | some x, some y, some z, some p =>
    if y.cluster.isSome || !p.valid then s
    else
      let base := x.header.ctxOf y.slot z.index + 128 * r.path
      (s.imageWrite x y z.index z.core base (leBytes 8 p.pc)).imageWrite x y z.index z.core (base + 0x64)
        (wordBytes ((p.entryWords r.path).drop 25 |>.take 1))
  | _, _, _, _ => s

/-! ### Lines (R54, R58) -/

/-- Image offset of a stack line. -/
def lineOff (n : Nat) : Nat := 0xB000 + 3072 * n

/-- A line's content from the register store: slot k, lane i at 384 k + 4 i. -/
def Group.lineBytes (z : Group) (n : Nat) : List Byte :=
  (List.range 8).flatMap fun k => allLanes.flatMap fun i => leBytes 4 (z.stack.get (96 * (8 * n + k) + i)).toNat

/-- The register entries of a line from its image bytes. -/
def lineEntries (n : Nat) (bs : List Byte) : List (Nat × BitVec 32) :=
  (bytesWords 768 bs).zipIdx.map fun e => (96 * 8 * n + e.2, e.1)

/-- Spill a line: its content goes to the image and it is clean (R58); a poisoned line marks its image blocks (R386). -/
def State.spillLine (s : State) (x : Launch) (y : Block) (z : Group) (n : Nat) : State :=
  let va := x.header.ctxOf y.slot z.index + lineOff n
  let s := (s.imageWrite x y z.index z.core va ((s.shown x z).lineBytes n) 97).takeFreeOf x.owner (96 * z.unseen.length)
  let poisoned := (z.lines.find? fun l => l.n == n).elim false (·.poison)
  let s := if poisoned then
      (List.range 48).foldl (fun s k => match s.imagePa x y (va + 64 * k) with
        | some pa => s.markPoison pa
        | none => s) s
    else s
  let s := s.updOwner x.owner fun o => (o.bump 21 3072).event 7 1
  s.updGroup x.seq y.index z.index fun z =>
    { z with lines := z.lines.map fun l => if l.n = n then { l with dirty := false } else l
             spilled := if z.spilled.contains n then z.spilled else z.spilled ++ [n] }

/-- Spill the dirty lines of a group that a test selects, lowest first. (log 53: DEDUCED) -/
def State.spillLines (s : State) (x : Launch) (y : Block) (z : Group) (f : Nat → Bool) : State :=
  ((List.range x.header.stack).filter fun n => f n && z.lines.any fun l => l.n == n && l.dirty).foldl (fun s n => s.spillLine x y z n) s

/-- Give up a line held in the store. -/
def Group.dropLine (z : Group) (n : Nat) : Group :=
  { z with lines := z.lines.filter (·.n != n)
           stack := z.stack.clear (768 * n) (768 * n + 768) }

/-! ### Reading back (R336) -/

/-- The bits of a mode word that exist (R79, R160). -/
def modeBits (m : Word) : Word := m &&& 0x3F0F

/-- A word read back: the value it was saved with, or a free value where something wrote over it while the group was away. (log 54: DEDUCED) -/
def backWord (free : DWord) (held mem : Word) : Word := if mem = held then held else free.setWidth 32

/-- The four counts of a word of R57. -/
def countsOf (w : Word) (n : Nat) : List Nat := (List.range n).map fun k => bits w.toNat (8 * k + 5) (8 * k)

/-- Read a group's registers back from its context image. What the entry keeps as structure (membership, presence, validity, tokens and
join records) stays as held. (log 54: DEDUCED) -/
def State.readHeaderAreas (s : State) (x : Launch) (y : Block) (z : Group) : Group :=
  let base := x.header.ctxOf y.slot z.index
  let rd (off : Nat) (held : Word) : Word :=
    backWord (s.freeOf x.owner off) held (BitVec.ofNat 32 (leNat (s.imageRead x y z.core (base + off) 4)))
  let rd64 (off : Nat) (held : DWord) : DWord :=
    rd (off + 4) ((held >>> 32).setWidth 32) ++ rd off (held.setWidth 32)
  let state (k : Nat) : Word := (s.groupStateWords x y z).getD k 0
  let path (k : Nat) (p : Path) : Path :=
    if !p.valid then p
    else
      let file (m : Nat) (f : Sparse 64) : Sparse 64 :=
        Sparse.puts [] (allLanes.map fun i => (i, rd64 (0x800 + 1536 * k + 768 * m + 8 * i) (f.get i)))
      { p with
        pc := (rd64 (128 * k) (BitVec.ofNat 64 p.pc)).toNat
        priv := Sparse.puts [] ((List.range 13).map fun i => (108 + i, rd (128 * k + 0x20 + 4 * i) (p.priv.get (108 + i))))
        mask := ofMaskWords (rd (128 * k + 0x58) (maskWord p.mask 0)) (rd (128 * k + 0x5C) (maskWord p.mask 1))
          (rd (128 * k + 0x60) (maskWord p.mask 2)) &&& p.present
        l0 := file 0 p.l0
        l1 := file 1 p.l1 }
  { z with
    paths := z.paths.zipIdx.map fun e => path e.2 e.1
    scalars := Sparse.puts [] ((List.range 108).map fun k => (k, rd (0x240 + 4 * k) (z.scalars.get k)))
    mode := modeBits (rd 0x400 z.mode)
    sb := countsOf (rd 0x404 (state 1)) 4 ++ countsOf (rd 0x408 (state 2)) 2
    gang := rd64 0x410 z.gang
    stopMode := (rd 0x420 (state 8)).getLsbD 0
    flags := Sparse.puts [] (allLanes.map fun i =>
      let w := rd (0x480 + i / 4 * 4) (BitVec.ofNat 32 (leNat ((List.range 4).map fun j => (z.flags.get (i / 4 * 4 + j)).setWidth 8)))
      (i, (w >>> (8 * (i % 4))).setWidth 6))
    oper := Sparse.puts [] ((List.range 768).map fun k => (k, rd (0x2000 + 4 * k) (z.oper.get k))) }

/-! ### The block image (R72) -/

/-- Copy a block's scratchpad to its image; a marked word marks its image block (R377). -/
def State.spadOut (s : State) (x : Launch) (y : Block) (core : Nat) : State :=
  let bytes := 1024 * x.header.spadKiB
  let s := (List.range 4).foldl (fun s k =>
    s.imageWrite x y 0 core (x.header.blkOf y.slot + k * bytes)
      ((List.range bytes).map fun o => y.spad.get (k * Config.spadBytes + o))) s
  y.spadPoison.foldl (fun s a =>
    (s.imagePa x y (x.header.blkOf y.slot + a / Config.spadBytes * bytes + a % Config.spadBytes)).elim s s.markPoison) s

/-- A tile as its 18,432 bytes (R71). -/
def tileBytesOf (t : Sparse 36) : List Byte :=
  leBytes Config.tileBytes (t.foldl (fun n e => n + e.2.toNat * 2 ^ (36 * e.1)) 0)

/-- Bits [36n + 35 : 36n] of a byte string (R71). -/
def tileElement (bs : List Byte) (n : Nat) : BitVec 36 :=
  BitVec.ofNat 36 (leNat ((bs.drop (36 * n / 8)).take 6) / 2 ^ (36 * n % 8))

/-- The 4096 elements of a tile's bytes. -/
def tileOfBytes (bs : List Byte) : Sparse 36 := Sparse.puts [] ((List.range 4096).map fun n => (n, tileElement bs n))

end Sys2Proof.Machine
end

