-- ==== Sys2Proof/Machine/Float.lean ====
section
/-! DEFINITION. Floating arithmetic to the last bit: the formats of R76, one rounding under the five modes of R78, subnormals and
flushing (R81), flags (R83), saturation (R85) and NaN rules (R77). Values are exact dyadic numbers until the one rounding. -/

namespace Sys2Proof.Machine

/-! ### Formats, modes, flags -/

/-- The floating formats (R76). -/
inductive Fmt
  | f64 | f32 | f16 | bf16 | e4m3 | e5m2 | acc36
deriving DecidableEq, Repr

/-- Exponent width. -/
def Fmt.eb : Fmt → Nat
  | .f64 => 11 | .f32 => 8 | .f16 => 5 | .bf16 => 8 | .e4m3 => 4 | .e5m2 => 5 | .acc36 => 8
/-- Fraction width. -/
def Fmt.fb : Fmt → Nat
  | .f64 => 52 | .f32 => 23 | .f16 => 10 | .bf16 => 7 | .e4m3 => 3 | .e5m2 => 2 | .acc36 => 27
/-- Exponent bias. -/
def Fmt.bias : Fmt → Nat
  | .f64 => 1023 | .f32 => 127 | .f16 => 15 | .bf16 => 127 | .e4m3 => 7 | .e5m2 => 15 | .acc36 => 127
/-- Width in bits. -/
def Fmt.width (f : Fmt) : Nat := 1 + f.eb + f.fb
/-- Formats that FTZ flushes (R81): 32 bits and narrower. -/
def Fmt.flushes : Fmt → Bool
  | .f64 | .acc36 => false
  | _ => true

/-- The format of a floating type code (R132). -/
def fmtOfCode : Nat → Option Fmt
  | 9 => some .f16 | 10 => some .bf16 | 11 => some .f32 | 12 => some .f64 | 13 => some .e4m3 | 14 => some .e5m2
  | _ => none

/-- Rounding modes (R78). -/
inductive Rnd
  | rne | rtz | rup | rdn | rna
deriving DecidableEq, Repr

/-- The mode of a code (R78); a reserved code rounds in one of the five ways, which one is free. (log 16: DESIGN CHOICE) -/
def Rnd.ofCode : Nat → Rnd
  | 1 => .rne | 2 => .rtz | 3 => .rup | 4 => .rdn | 5 => .rna
  | c =>
    match (Config.reservedMode c).val with
    | 0 => .rne | 1 => .rtz | 2 => .rup | 3 => .rdn | _ => .rna

/-- What a floating word is executed under. -/
structure FpMode where
  rnd : Rnd
  ftz : Bool
  sat : Bool
deriving DecidableEq, Repr

/-- Round to nearest even, gradual underflow, no saturation (R200, R242). -/
def FpMode.plain : FpMode := ⟨.rne, false, false⟩

/-- Lane flags in the bit order of `xf` (R83). -/
abbrev Flags := BitVec 6
def flagIV : Flags := 1
def flagDZ : Flags := 2
def flagOF : Flags := 4
def flagUF : Flags := 8
def flagNX : Flags := 16
def flagDN : Flags := 32

/-- A result and the flags it sets. -/
structure FRes where
  v : Nat
  fl : Flags
deriving DecidableEq, Repr

def FRes.flag (r : FRes) (f : Flags) : FRes := { r with fl := r.fl ||| f }

/-! ### Values -/

/-- A magnitude: `m × 2^e`, or, when `st`, strictly between `m × 2^e` and `(m + 1) × 2^e`. -/
structure Mag where
  m : Nat
  e : Int
  st : Bool := false
deriving DecidableEq, Repr

/-- A floating value. -/
inductive FVal
  | nan (s : Bool) (frac : Nat) (signalling : Bool)
  | inf (s : Bool)
  | fin (s : Bool) (m : Mag)
deriving DecidableEq, Repr

def FVal.isNan : FVal → Bool
  | .nan .. => true
  | _ => false

def FVal.isSignalling : FVal → Bool
  | .nan _ _ sg => sg
  | _ => false

def FVal.neg : FVal → FVal
  | .nan s f g => .nan s f g
  | .inf s => .inf !s
  | .fin s m => .fin (!s) m

/-- Sign, exponent field and fraction field of an encoding. -/
def Fmt.sign (f : Fmt) (b : Nat) : Bool := b.testBit (f.eb + f.fb)
def Fmt.field (f : Fmt) (b : Nat) : Nat := b / 2 ^ f.fb % 2 ^ f.eb
def Fmt.frac (f : Fmt) (b : Nat) : Nat := b % 2 ^ f.fb

/-- A subnormal encoding (R76). -/
def Fmt.subnormal (f : Fmt) (b : Nat) : Bool := f.field b == 0 && f.frac b != 0

/-- The value of an encoding (R76). -/
def Fmt.read (f : Fmt) (b : Nat) : FVal :=
  let s := f.sign b
  let x := f.field b
  let m := f.frac b
  if x = 2 ^ f.eb - 1 ∧ f ≠ .e4m3 then (if m = 0 then .inf s else .nan s m (!m.testBit (f.fb - 1)))
  else if x = 2 ^ f.eb - 1 ∧ m = 7 then .nan s m false
  else if x = 0 then .fin s ⟨m, 1 - (f.bias : Int) - f.fb, false⟩
  else .fin s ⟨2 ^ f.fb + m, (x : Int) - f.bias - f.fb, false⟩

/-- An encoding from its fields. -/
def Fmt.pack (f : Fmt) (s : Bool) (x m : Nat) : Nat := (if s then 2 ^ (f.eb + f.fb) else 0) + x * 2 ^ f.fb + m

def Fmt.zero (f : Fmt) (s : Bool) : Nat := f.pack s 0 0

/-- The default NaN (R77). -/
def Fmt.defaultNan (f : Fmt) : Nat := if f = .e4m3 then 0x7F else f.pack false (2 ^ f.eb - 1) (2 ^ (f.fb - 1))

/-- The largest finite encoding (R76). -/
def Fmt.largest (f : Fmt) (s : Bool) : Nat :=
  if f = .e4m3 then f.pack s 15 6 else f.pack s (2 ^ f.eb - 2) (2 ^ f.fb - 1)

/-- Infinity; E4M3 has none: its NaN, or ±448 with SAT (R78, R85). -/
def Fmt.infinity (f : Fmt) (sat s : Bool) : Nat :=
  if f = .e4m3 then (if sat then f.largest s else f.pack s 15 7) else f.pack s (2 ^ f.eb - 1) 0

/-- An operand NaN delivered quieted in a format: highest fraction bits that fit (R77). -/
def Fmt.quieted (f : Fmt) (s : Bool) (frac srcFb : Nat) : Nat :=
  if f = .e4m3 then f.pack s 15 7
  else
    let k := if srcFb ≤ f.fb then frac * 2 ^ (f.fb - srcFb) else frac / 2 ^ (srcFb - f.fb)
    f.pack s (2 ^ f.eb - 1) (k ||| 2 ^ (f.fb - 1))

/-- A NaN result: +0 under SAT (R85). (log 31: DEDUCED) -/
def Fmt.nanResult (f : Fmt) (sat : Bool) (n : Nat) : Nat := if sat then f.zero false else n

/-! ### Rounding -/

/-- Number of bits of a natural number. -/
def bitLen (n : Nat) : Nat := if n = 0 then 0 else Nat.log2 n + 1

/-- Round `m × 2^-k` (`k` bits dropped, more following when `st`) to an integer under a mode, for a value of sign `s`; the second
component says inexact. -/
def roundBits (r : Rnd) (s : Bool) (m k : Nat) (st : Bool) : Nat × Bool :=
  let q := m / 2 ^ k
  let rem := m % 2 ^ k
  let half := 2 ^ k / 2
  if rem = 0 ∧ !st then (q, false)
  else
    let up : Bool := match r with
      | .rtz => false
      | .rup => !s
      | .rdn => s
      | .rna => k ≠ 0 && decide (half ≤ rem)
      | .rne => k ≠ 0 && (decide (half < rem) || (rem == half && (st || q % 2 == 1)))
    (if up then q + 1 else q, true)

/-- Round a magnitude to a multiple of `2^q`. (log 30: DEDUCED) -/
def Mag.roundAt (x : Mag) (r : Rnd) (s : Bool) (q : Int) : Nat × Bool :=
  if q ≤ x.e then
    -- at least one more bit is kept below the quantum when the value is not exact
    roundBits r s (x.m * 2 ^ (x.e - q).toNat) 0 x.st
  else roundBits r s x.m (q - x.e).toNat x.st

/-- The finite result of a nonzero magnitude rounded once to a format (R77, R78, R81, R85). (log 30: DEDUCED) -/
def Fmt.round (f : Fmt) (md : FpMode) (s : Bool) (x : Mag) : FRes :=
  let top : Int := (bitLen x.m : Int) - 1 + x.e
  let emin : Int := 1 - (f.bias : Int)
  let qn : Int := top - f.fb
  let q := max qn (emin - f.fb)
  let (n, inexact) := x.roundAt md.rnd s q
  -- tiny after rounding with an unbounded exponent
  let tiny := decide (top < emin) && !(decide ((x.roundAt md.rnd s qn).1 = 2 ^ (f.fb + 1)) && decide (top + 1 = emin))
  if tiny ∧ md.ftz ∧ f.flushes then ⟨f.zero s, flagUF ||| flagNX⟩
  else
    let (n, q) := if n = 2 ^ (f.fb + 1) then (2 ^ f.fb, q + 1) else (n, q)
    let nx := if inexact then flagNX else 0
    let uf := if tiny ∧ inexact then flagUF else 0
    if n < 2 ^ f.fb then ⟨f.pack s 0 n, nx ||| uf⟩
    else
      let x := (q + f.fb + f.bias).toNat
      if 2 ^ f.eb - 1 < x ∨ (x = 2 ^ f.eb - 1 ∧ (f ≠ .e4m3 ∨ n - 2 ^ f.fb = 7)) then
        let toInf := match md.rnd with
          | .rne | .rna => true
          | .rtz => false
          | .rup => !s
          | .rdn => s
        ⟨if md.sat ∨ !toInf then f.largest s else f.infinity false s, flagOF ||| flagNX⟩
      else ⟨f.pack s x (n - 2 ^ f.fb), nx ||| uf⟩

/-- Deliver a finite value: zero keeps its sign. -/
def Fmt.deliver (f : Fmt) (md : FpMode) (s : Bool) (x : Mag) : FRes :=
  if x.m = 0 ∧ !x.st then ⟨f.zero s, 0⟩ else f.round md s x

/-! ### Operands -/

/-- An operand as read: flushed under FTZ, with DN for a subnormal (R81, R83). -/
def Fmt.operand (f : Fmt) (md : FpMode) (b : Nat) : FVal × Flags :=
  if f.subnormal b then ((if md.ftz ∧ f.flushes then .fin (f.sign b) ⟨0, 0, false⟩ else f.read b), flagDN) else (f.read b, 0)

/-- The first NaN of a list of operands, quieted (R77). -/
def firstNan (f : Fmt) (srcFb : Nat) : List FVal → Option Nat
  | [] => none
  | .nan s fr _ :: _ => some (f.quieted s fr srcFb)
  | _ :: r => firstNan f srcFb r

/-- IV when any operand is a signalling NaN (R77). -/
def ivOf (l : List FVal) : Flags := if l.any FVal.isSignalling then flagIV else 0

/-- The outcome of an invalid operation without NaN operand (R77, R85). -/
def Fmt.invalid (f : Fmt) (md : FpMode) : FRes := ⟨f.nanResult md.sat f.defaultNan, flagIV⟩

/-! ### Exact sums -/

/-- A signed exact number `n × 2^e`. -/
structure Dyadic where
  n : Int
  e : Int
deriving DecidableEq, Repr

def Dyadic.of (s : Bool) (m : Mag) : Dyadic := ⟨if s then -(m.m : Int) else m.m, m.e⟩

def Dyadic.add (a b : Dyadic) : Dyadic :=
  if a.n = 0 then b else if b.n = 0 then a
  else
    let e := min a.e b.e
    ⟨a.n * 2 ^ (a.e - e).toNat + b.n * 2 ^ (b.e - e).toNat, e⟩

def Dyadic.mul (a b : Dyadic) : Dyadic := ⟨a.n * b.n, a.e + b.e⟩

/-- Round an exact number; an exact zero takes sign `z`. -/
def Fmt.ofDyadic (f : Fmt) (md : FpMode) (z : Bool) (d : Dyadic) : FRes :=
  if d.n = 0 then ⟨f.zero z, 0⟩ else f.round md (decide (d.n < 0)) ⟨d.n.natAbs, d.e, false⟩

/-- Sign of an exact zero sum of two terms (R170). -/
def zeroSumSign (r : Rnd) (s t : Bool) : Bool := if s = t then s else r == .rdn

/-! ### Arithmetic -/

/-- The sum of two values without NaN. -/
def Fmt.sum (f : Fmt) (md : FpMode) : FVal → FVal → FRes
  | .inf s, .inf t => if s = t then ⟨f.infinity md.sat s, 0⟩ else f.invalid md
  | .inf s, _ => ⟨f.infinity md.sat s, 0⟩
  | _, .inf t => ⟨f.infinity md.sat t, 0⟩
  | .fin s x, .fin t y => f.ofDyadic md (zeroSumSign md.rnd s t) ((Dyadic.of s x).add (Dyadic.of t y))
  | _, _ => f.invalid md

/-- Handle NaN operands (R77), else go on. -/
def Fmt.withNan (f : Fmt) (md : FpMode) (fl : Flags) (ops : List FVal) (k : Unit → FRes) : FRes :=
  match firstNan f f.fb ops with
  | some n => ⟨f.nanResult md.sat n, fl ||| ivOf ops⟩
  | none => (k ()).flag fl

/-- a + b (R169). -/
def Fmt.add (f : Fmt) (md : FpMode) (a b : Nat) : FRes :=
  let (x, fa) := f.operand md a
  let (y, fb) := f.operand md b
  f.withNan md (fa ||| fb) [x, y] fun _ => f.sum md x y

/-- a − b (R169). -/
def Fmt.sub (f : Fmt) (md : FpMode) (a b : Nat) : FRes :=
  let (x, fa) := f.operand md a
  let (y, fb) := f.operand md b
  f.withNan md (fa ||| fb) [x, y] fun _ => f.sum md x y.neg

/-- a × b (R169, R170). -/
def Fmt.mul (f : Fmt) (md : FpMode) (a b : Nat) : FRes :=
  let (x, fa) := f.operand md a
  let (y, fb) := f.operand md b
  f.withNan md (fa ||| fb) [x, y] fun _ =>
    match x, y with
    | .inf s, .inf t => ⟨f.infinity md.sat (s != t), 0⟩
    | .inf s, .fin t m => if m.m = 0 then f.invalid md else ⟨f.infinity md.sat (s != t), 0⟩
    | .fin s m, .inf t => if m.m = 0 then f.invalid md else ⟨f.infinity md.sat (s != t), 0⟩
    | .fin s m, .fin t n => f.deliver md (s != t) ⟨m.m * n.m, m.e + n.e, false⟩
    | _, _ => f.invalid md

/-- a × b + c, rounded once (R169, R170). -/
def Fmt.fma (f : Fmt) (md : FpMode) (a b c : Nat) : FRes :=
  let (x, fa) := f.operand md a
  let (y, fb) := f.operand md b
  let (z, fc) := f.operand md c
  let fl := fa ||| fb ||| fc
  let product : Option (FVal) := match x, y with
    | .inf s, .inf t => some (.inf (s != t))
    | .inf s, .fin t m => if m.m = 0 then none else some (.inf (s != t))
    | .fin s m, .inf t => if m.m = 0 then none else some (.inf (s != t))
    | .fin s m, .fin t n => some (.fin (s != t) ⟨m.m * n.m, m.e + n.e, false⟩)
    | _, _ => some x
  match firstNan f f.fb [x, y, z] with
  | some n => ⟨f.nanResult md.sat n, fl ||| ivOf [x, y, z] ||| (if product.isNone then flagIV else 0)⟩
  | none =>
    match product with
    | none => (f.invalid md).flag fl
    | some v => (f.sum md v z).flag fl

/-- The quotient of two nonzero magnitudes, with enough bits for one rounding. -/
def Mag.div (x y : Mag) : Mag :=
  let k := 64 + bitLen y.m
  let n := x.m * 2 ^ k
  ⟨n / y.m, x.e - y.e - k, n % y.m != 0⟩

/-- a ÷ b (R169, R170). -/
def Fmt.div (f : Fmt) (md : FpMode) (a b : Nat) : FRes :=
  let (x, fa) := f.operand md a
  let (y, fb) := f.operand md b
  f.withNan md (fa ||| fb) [x, y] fun _ =>
    match x, y with
    | .inf _, .inf _ => f.invalid md
    | .inf s, .fin t _ => ⟨f.infinity md.sat (s != t), 0⟩
    | .fin s _, .inf t => ⟨f.zero (s != t), 0⟩
    | .fin s m, .fin t n =>
      if n.m = 0 then (if m.m = 0 then f.invalid md else ⟨f.infinity md.sat (s != t), flagDZ⟩)
      else if m.m = 0 then ⟨f.zero (s != t), 0⟩
      else f.round md (s != t) (m.div n)
    | _, _ => f.invalid md

/-- Newton's iteration from above. -/
def isqrtFrom (n : Nat) : Nat → Nat → Nat
  | 0, x => x
  | k + 1, x =>
    let y := (x + n / x) / 2
    if y < x then isqrtFrom n k y else x

/-- The integer square root. -/
def isqrt (n : Nat) : Nat := if n = 0 then 0 else isqrtFrom n (bitLen n + 8) (2 ^ ((bitLen n + 1) / 2))

/-- The magnitude with an even exponent. -/
def Mag.even (x : Mag) : Mag := if x.e % 2 = 0 then x else ⟨x.m * 2, x.e - 1, x.st⟩

def Mag.sqrt (x : Mag) : Mag :=
  let y := x.even
  let n := y.m * 2 ^ 128
  let r := isqrt n
  ⟨r, y.e / 2 - 64, r * r != n⟩

def Mag.rsqrt (x : Mag) : Mag :=
  let y := x.even
  let k := 64 + bitLen y.m
  let n := 2 ^ (2 * k)
  let r := isqrt (n / y.m)
  ⟨r, -(y.e / 2) - k, r * r * y.m != n⟩

/-- √a (R169, R170). -/
def Fmt.sqrt (f : Fmt) (md : FpMode) (a : Nat) : FRes :=
  let (x, fa) := f.operand md a
  f.withNan md fa [x] fun _ =>
    match x with
    | .inf false => ⟨f.infinity md.sat false, 0⟩
    | .fin s m => if m.m = 0 then ⟨f.zero s, 0⟩ else if s then f.invalid md else f.round md false m.sqrt
    | _ => f.invalid md

/-- 1 ÷ √a (R169, R170). -/
def Fmt.rsq (f : Fmt) (md : FpMode) (a : Nat) : FRes :=
  let (x, fa) := f.operand md a
  f.withNan md fa [x] fun _ =>
    match x with
    | .inf false => ⟨f.zero false, 0⟩
    | .fin s m =>
      if m.m = 0 then ⟨f.infinity md.sat s, flagDZ⟩ else if s then f.invalid md else f.round md false m.rsqrt
    | _ => f.invalid md

/-- 1 ÷ a (R169, R170). -/
def Fmt.rcp (f : Fmt) (md : FpMode) (a : Nat) : FRes :=
  let (x, fa) := f.operand md a
  f.withNan md fa [x] fun _ =>
    match x with
    | .inf s => ⟨f.zero s, 0⟩
    | .fin s m =>
      if m.m = 0 then ⟨f.infinity md.sat s, flagDZ⟩ else f.round md s (Mag.div ⟨1, 0, false⟩ m)
    | _ => f.invalid md

/-! ### Order -/

/-- Exact order of two values that are no NaN: negative, zero or positive difference; zeros are equal. -/
def FVal.compare : FVal → FVal → Ordering
  | .inf s, .inf t => if s = t then .eq else if s then .lt else .gt
  | .inf s, _ => if s then .lt else .gt
  | _, .inf t => if t then .gt else .lt
  | .fin s x, .fin t y =>
    let d := (Dyadic.of s x).add (Dyadic.of (!t) y)
    if d.n < 0 then .lt else if d.n = 0 then .eq else .gt
  | _, _ => .eq

/-- Whether a value has its sign set. -/
def FVal.signed : FVal → Bool
  | .nan s _ _ => s
  | .inf s => s
  | .fin s _ => s

/-- a < b with −0 below +0 (R171). -/
def FVal.below (x y : FVal) : Bool :=
  match x.compare y with
  | .lt => true
  | .gt => false
  | .eq => x.signed && !y.signed

/-- The encoding of an operand as read: a flushed one is zero (R171). -/
def Fmt.asRead (f : Fmt) (md : FpMode) (b : Nat) : Nat :=
  if f.subnormal b ∧ md.ftz ∧ f.flushes then f.zero (f.sign b) else b % 2 ^ f.width

/-- Minimum or maximum: one operand, unrounded (R171). -/
def Fmt.minmax (f : Fmt) (md : FpMode) (wantMax : Bool) (a b : Nat) : FRes :=
  let (x, fa) := f.operand md a
  let (y, fb) := f.operand md b
  let fl := fa ||| fb ||| ivOf [x, y]
  if x.isNan ∧ y.isNan then ⟨(firstNan f f.fb [x, y]).getD 0, fl⟩
  else if x.isNan then ⟨f.asRead md b, fl⟩
  else if y.isNan then ⟨f.asRead md a, fl⟩
  else if (if wantMax then x.below y else y.below x) then ⟨f.asRead md b, fl⟩
  else ⟨f.asRead md a, fl⟩

/-- The condition of a floating compare (R173) and its flags. -/
def Fmt.cmp (f : Fmt) (md : FpMode) (cond a b : Nat) : Bool × Flags :=
  let (x, fa) := f.operand md a
  let (y, fb) := f.operand md b
  let un := x.isNan || y.isNan
  let iv := if un ∧ 2 ≤ cond ∧ cond ≤ 5 then flagIV else ivOf [x, y]
  let c := x.compare y
  let holds := match cond with
    | 0 => !un && c == .eq
    | 1 => un || c != .eq
    | 2 => !un && c == .lt
    | 3 => !un && c != .gt
    | 4 => !un && c == .gt
    | 5 => !un && c != .lt
    | _ => un
  (holds, fa ||| fb ||| iv)

/-- The class number of an encoding (R174). -/
def Fmt.classOf (f : Fmt) (b : Nat) : Nat :=
  match f.read b with
  | .nan _ _ sg => if sg then 0 else 1
  | .inf s => if s then 2 else 9
  | .fin s m =>
    if m.m = 0 then (if s then 5 else 6)
    else if f.subnormal b then (if s then 4 else 7)
    else (if s then 3 else 8)

/-- Sign bit cleared or inverted (R172). -/
def Fmt.absBits (f : Fmt) (b : Nat) : Nat := b % 2 ^ (f.eb + f.fb)
def Fmt.negBits (f : Fmt) (b : Nat) : Nat := f.pack (!f.sign b) 0 0 + b % 2 ^ (f.eb + f.fb)

/-! ### Delivering a value as read (R100, R187) -/

/-- A value read as an operand and delivered as a result of the word: a NaN quieted, a subnormal flushed under FTZ. -/
def Fmt.throughWord (f : Fmt) (md : FpMode) (b : Nat) : FRes :=
  let (x, fl) := f.operand md b
  match x with
  | .nan s fr _ => ⟨f.nanResult md.sat (f.quieted s fr f.fb), fl ||| ivOf [x]⟩
  | _ => ⟨f.asRead md b, fl⟩

/-! ### Conversions (R176, R177) -/

/-- A value converted to a floating format (R176); `srcFb` is the source's fraction width, for a NaN. -/
def Fmt.ofVal (f : Fmt) (md : FpMode) (srcFb : Nat) (x : FVal) : FRes :=
  match x with
  | .nan s fr _ => ⟨f.nanResult md.sat (f.quieted s fr srcFb), ivOf [x]⟩
  | .inf s => ⟨f.infinity md.sat s, 0⟩
  | .fin s m => f.deliver md s m

/-- The range of an integer type. -/
def intLow (signed : Bool) (w : Nat) : Int := if signed then -(2 ^ (w - 1) : Int) else 0
def intHigh (signed : Bool) (w : Nat) : Int := if signed then 2 ^ (w - 1) - 1 else 2 ^ w - 1

/-- An integer as a `w`-bit pattern. -/
def wrapInt (w : Nat) (n : Int) : Nat := (n % (2 ^ w : Int)).toNat

def clampInt (signed : Bool) (w : Nat) (n : Int) : Int := max (intLow signed w) (min n (intHigh signed w))

/-- The number a `w`-bit pattern stands for. -/
def intOf (signed : Bool) (w : Nat) (b : Nat) : Int :=
  let x := b % 2 ^ w
  if signed ∧ 2 ^ (w - 1) ≤ x then (x : Int) - 2 ^ w else x

/-- A value converted to an integer type (R177). -/
def intOfVal (md : FpMode) (signed : Bool) (w : Nat) : FVal → FRes
  | .nan .. => ⟨0, flagIV⟩
  | .inf s => ⟨wrapInt w (if s then intLow signed w else intHigh signed w), if md.sat then 0 else flagIV⟩
  | .fin s m =>
    let (n, inexact) := m.roundAt md.rnd s 0
    let n : Int := if s then -(n : Int) else n
    if intLow signed w ≤ n ∧ n ≤ intHigh signed w then ⟨wrapInt w n, if inexact then flagNX else 0⟩
    else ⟨wrapInt w (clampInt signed w n), if md.sat then 0 else flagIV⟩

/-- An integer converted to a floating format. -/
def Fmt.ofInt (f : Fmt) (md : FpMode) (n : Int) : FRes := f.ofDyadic md false ⟨n, 0⟩

end Sys2Proof.Machine
end

