-- ==== Sys2Proof/Machine/Log32.lean ====
section
/-! DEFINITION. The logarithmic format L32 (R94 to R96, R178, R188, R189). Logarithms and powers are bounded by integer intervals
that are narrowed until the interval decides the rounding; a logarithm of a natural number is exact at every precision. -/

namespace Sys2Proof.Machine

/-- The largest and smallest L. -/
def lMax : Int := 2 ^ 29 - 1
def lMin : Int := -(2 ^ 29)

/-- Sign, zero mark and L of an L32 value (R94). -/
def lSign (b : Nat) : Bool := b.testBit 31
def lZero (b : Nat) : Bool := b.testBit 30
def lLog (b : Nat) : Int := intOf true 30 b

def lPack (s z : Bool) (l : Int) : Nat := (if s then 2 ^ 31 else 0) + (if z then 2 ^ 30 else 0) + wrapInt 30 l

/-- The zero of a sign. -/
def lZeroOf (s : Bool) : Nat := lPack s true 0

/-- A rounded log brought into range (R95). -/
def lBound (s : Bool) (n : Int) (fl : Flags) : FRes :=
  if lMax < n then ⟨lPack s false lMax, fl ||| flagOF ||| flagNX⟩
  else if n < lMin then ⟨lZeroOf s, fl ||| flagUF ||| flagNX⟩
  else ⟨lPack s false n, fl⟩

/-! ### Binary logarithms -/

/-- Digits of log2 of a number in `[lo, hi] / 2^p`, both in `[2^p, 2^(p+1))`: `k` bits, if the interval decides them. -/
def logDigits (p : Nat) : Nat → Nat → Nat → Nat → Option Nat
  | 0, _, _, acc => some acc
  | k + 1, lo, hi, acc =>
    let lo' := lo * lo / 2 ^ p
    let hi' := (hi * hi + 2 ^ p - 1) / 2 ^ p
    if 2 ^ (p + 1) ≤ lo' then logDigits p k (lo' / 2) ((hi' + 1) / 2) (2 * acc + 1)
    else if hi' < 2 ^ (p + 1) then logDigits p k lo' hi' (2 * acc)
    else none

/-- The first precision that decides. -/
def firstSome {α : Type} (f : Nat → Option α) : List Nat → Option α
  | [] => none
  | p :: r =>
    match f p with
    | some x => some x
    | none => firstSome f r

/-- ⌊2^23 × log2 m⌋ by definition. -/
def log23Exact (m : Nat) : Nat := Nat.log2 (m ^ 2 ^ 23)

/-- ⌊2^23 × log2 m⌋ for m > 0: digit by digit, and by definition where no precision of the list decides. -/
def log23 (m : Nat) : Nat :=
  let n := Nat.log2 m
  if m = 2 ^ n then n * 2 ^ 23
  else
    match firstSome (fun p => logDigits p 23 (m * 2 ^ p / 2 ^ n) (m * 2 ^ p / 2 ^ n + 1) 0) [128, 256, 512] with
    | some d => n * 2 ^ 23 + d
    | none => log23Exact m

/-- Round an irrational number given by ⌊2 x⌋ to an integer under a mode. -/
def roundIrrational (r : Rnd) (twice : Int) : Int :=
  let f := twice / 2
  match r with
  | .rne | .rna => f + twice % 2
  | .rtz => if f < 0 then f + 1 else f
  | .rup => f + 1
  | .rdn => f

/-- A nonzero magnitude `m × 2^e` (exact) as an L32 value (R178, R95). -/
def lOfMag (r : Rnd) (s : Bool) (x : Mag) : FRes :=
  let n := Nat.log2 x.m
  if x.m = 2 ^ n then lBound s (((n : Int) + x.e) * 2 ^ 22) 0
  else lBound s (roundIrrational r ((log23 x.m : Int) + x.e * 2 ^ 23)) flagNX

/-- A floating or integer value as an L32 value (R178). -/
def lOfVal (r : Rnd) : FVal → FRes
  | .nan .. => ⟨lZeroOf false, flagIV⟩
  | .inf s => ⟨lPack s false lMax, flagOF ||| flagNX⟩
  | .fin s m => if m.m = 0 then ⟨lZeroOf s, 0⟩ else lOfMag r s m

/-! ### Binary powers -/

/-- Bounds, at precision `p`, of 2^(f / 2^k) for the low `k` bits of `f`; `lo`, `hi` bound 2^(2^-1), 2^(2^-2), … in turn. -/
def powBits (p f : Nat) : Nat → Nat → Nat → Nat → Nat → Nat × Nat
  | 0, _, _, al, ah => (al, ah)
  | k + 1, lo, hi, al, ah =>
    let lo' := isqrt (lo * 2 ^ p)
    let hi' := isqrt (hi * 2 ^ p) + 1
    if f.testBit k then powBits p f k lo' hi' (al * lo' / 2 ^ p) ((ah * hi' + 2 ^ p - 1) / 2 ^ p)
    else powBits p f k lo' hi' al ah

/-- Bounds of 2^(f / 2^22) in units of 2^-p. -/
def pow22 (p f : Nat) : Nat × Nat := powBits p f 22 (2 ^ (p + 1)) (2 ^ (p + 1)) (2 ^ p) (2 ^ p)

/-- The magnitude of an L32 value with Z = 0: exact for a whole log, else truncated to 140 bits after the point (R94). -/
def lMag (l : Int) : Mag :=
  let i := l / 2 ^ 22
  let f := (l % 2 ^ 22).toNat
  if f = 0 then ⟨1, i, false⟩
  else
    let one (p : Nat) : Option Nat := let b := pow22 p f; let a := b.1 / 2 ^ (p - 140); if a = b.2 / 2 ^ (p - 140) then some a else none
    ⟨(firstSome one [176, 288, 544]).getD 0, i - 140, true⟩

/-- The value of an L32 encoding. -/
def lVal (b : Nat) : FVal := if lZero b then .fin (lSign b) ⟨0, 0, false⟩ else .fin (lSign b) (lMag (lLog b))

/-! ### The words (R188) -/

/-- `lnsmul` -/
def lMul (a b : Nat) : FRes :=
  let s := lSign a != lSign b
  if lZero a ∨ lZero b then ⟨lZeroOf s, 0⟩ else lBound s (lLog a + lLog b) 0

/-- `lnsdiv` -/
def lDiv (a b : Nat) : FRes :=
  let s := lSign a != lSign b
  if lZero b then ⟨lPack s false lMax, flagDZ⟩
  else if lZero a then ⟨lZeroOf s, 0⟩ else lBound s (lLog a - lLog b) 0

/-- `lnsroot`: the log divided by 2^k, rounded under the mode. -/
def lRoot (r : Rnd) (a k : Nat) : FRes :=
  let s := lSign a
  if lZero a then ⟨lZeroOf s, 0⟩
  else if s ∧ 1 ≤ k then ⟨lZeroOf false, flagIV⟩
  else
    let neg := decide (lLog a < 0)
    let (n, nx) := roundBits r neg (lLog a).natAbs (min k 40) false
    lBound s (if neg then -(n : Int) else n) (if nx then flagNX else 0)

/-- `lnspow`: the log times 2^k. -/
def lPow (a k : Nat) : FRes :=
  let s := if k = 0 then lSign a else false
  if lZero a then ⟨lZeroOf s, 0⟩ else lBound s (lLog a * 2 ^ min k 40) 0

/-- Nearest integer to 2^22 × log2(1 ± 2^(d / 2^22)) for −25 × 2^22 < d < 0, from bounds at precision `p` (R96, R189). -/
def lStep (plus : Bool) (d : Int) (p : Nat) : Option Int :=
  let sh := (-(d / 2 ^ 22)).toNat
  let (lo, hi) := pow22 p (d % 2 ^ 22).toNat
  let (lo, hi) := (lo / 2 ^ sh, hi / 2 ^ sh + 1)
  let (lo, hi) := if plus then (2 ^ p + lo, 2 ^ p + hi) else (2 ^ p - hi, 2 ^ p - lo)
  let z := p + 1 - bitLen lo
  if bitLen lo = bitLen hi ∧ lo ≠ 0 then
    (logDigits p 23 (lo * 2 ^ z) (hi * 2 ^ z) 0).map fun t => ((t : Int) - z * 2 ^ 23 + 1) / 2
  else none

/-- `lnsadd` (R96). (log 32, 124: DEDUCED, DESIGN CHOICE) -/
def lAdd (a b : Nat) : FRes :=
  if lZero a then ⟨b, 0⟩
  else if lZero b then ⟨a, 0⟩
  else
    let (x, y) := if lLog b ≤ lLog a then (a, b) else (b, a)
    let d := lLog y - lLog x
    let plus := lSign x == lSign y
    if d = 0 then (if plus then lBound (lSign x) (lLog x + 2 ^ 22) 0 else ⟨lZeroOf false, 0⟩)
    else if d = -(2 ^ 22) ∧ !plus then lBound (lSign x) (lLog x - 2 ^ 22) 0
    else if d ≤ -(25 * 2 ^ 22) then ⟨x, flagNX⟩
    else lBound (lSign x) (lLog x + (firstSome (lStep plus d) [128, 256, 512]).getD 0) flagNX

end Sys2Proof.Machine
end

