-- ==== Sys2Proof/Machine/Quant.lean ====
section
/-! DEFINITION. Quantised and block-floating numbers: the code conversions (R179, R180), block alignment (R89, R90, R181), packed
ternary digits (R88), the exponent stream (R91), planes (R92) and the sums of the matrix array (R93, R97, R98). -/

namespace Sys2Proof.Machine

/-! ### Codes (R179, R180) -/

/-- The code formats. -/
inductive CodeKind
  | t3 | q4 | q8
deriving DecidableEq, Repr

/-- SCALE of a parameter word, read at its value. -/
def paramScale (p : Nat) : FVal := Fmt.f16.read (p % 2 ^ 16)

/-- The zero point of a parameter word; none for `.t3`. -/
def paramZero : CodeKind → Nat → Nat
  | .t3, _ => 0
  | .q4, p => p / 2 ^ 16 % 16
  | .q8, p => p / 2 ^ 16 % 256

def codeLow : CodeKind → Int
  | .t3 => -1 | _ => 0
def codeHigh : CodeKind → Int
  | .t3 => 1 | .q4 => 15 | .q8 => 255

/-- A floating value to a code (R180). -/
def toCode (k : CodeKind) (f : Fmt) (md : FpMode) (a p : Nat) : FRes :=
  let (v, dn) := f.operand md a
  let z := paramZero k p
  match v, paramScale p with
  | .inf s, .fin t m =>
    if m.m = 0 then ⟨z, dn ||| flagIV⟩ else ⟨wrapInt 32 (if s != t then codeLow k else codeHigh k), flagNX⟩
  | .fin s x, .fin t m =>
    if m.m = 0 then ⟨z, dn ||| flagIV⟩
    else
      let q := x.div m
      let (n, _) := q.roundAt md.rnd (s != t) 0
      let n : Int := if s != t then -(n : Int) else n
      let c := max (codeLow k) (min (n + z) (codeHigh k))
      let back := (Dyadic.of t m).mul ⟨c - z, 0⟩
      let diff := back.add (Dyadic.of (!s) x)
      ⟨wrapInt 32 c, dn ||| (if diff.n = 0 then 0 else flagNX)⟩
  | _, _ => ⟨z, dn ||| flagIV⟩

/-- The number a code stands for, less the zero point (R180). -/
def codeDiff (k : CodeKind) (c p : Nat) : Int :=
  match k with
  | .t3 => intOf true 32 c
  | .q4 => (c % 16 : Int) - paramZero .q4 p
  | .q8 => (c % 256 : Int) - paramZero .q8 p

/-- A code to a floating format (R180). (log 33: DEDUCED) -/
def Fmt.fromCode (f : Fmt) (md : FpMode) (k : CodeKind) (c p : Nat) : FRes :=
  let d := codeDiff k c p
  let neg := decide (d < 0)
  match paramScale p with
  | .nan s fr g => f.ofVal md 10 (.nan s fr g)
  | .inf s => if d = 0 then f.invalid md else ⟨f.infinity md.sat (s != neg), 0⟩
  | .fin s m => f.deliver md (s != neg) ⟨m.m * d.natAbs, m.e, false⟩

/-! ### Block alignment (R90, R181) -/

/-- e(v): the unbiased exponent, a subnormal taking the smallest normal one (R90). -/
def exponent32 (x : Mag) : Int := max (-126) ((bitLen x.m : Int) - 1 + x.e)

/-- A lane's value for `cvtb`: sign, magnitude, flags (R181). -/
def cvtbRead (md : FpMode) (a : Nat) : Bool × Mag × Flags :=
  match Fmt.f32.operand md a with
  | (.fin s m, fl) => (s, m, fl)
  | (_, fl) => (false, ⟨0, 0, false⟩, fl ||| flagIV)

/-- The block exponent after realignment; `fuel` covers the exponents up to 127. -/
def alignExp (r : Rnd) (f : Nat) (vs : List Mag) : Nat → Int → Int
  | 0, x => x
  | k + 1, x =>
    if x = 127 ∨ vs.all (fun v => decide ((v.roundAt r false (x - f)).1 < 2 ^ (f + 1))) then x else alignExp r f vs k (x + 1)

/-- The elements of one block: `f` is 3 or 7, FLOOR and PREV as in the parameter word (R181); in a block of zeros every sign is 0 (R90). -/
def cvtbBlock (md : FpMode) (f floor prev : Nat) (as : List Nat) : List FRes :=
  let vs := as.map (cvtbRead md)
  let nz := (vs.map (·.2.1)).filter fun v => v.m != 0
  let x : Int :=
    if nz.isEmpty then (if prev = 0 then 0 else (prev : Int) - 127)
    else
      alignExp md.rnd f (vs.map (·.2.1)) 260
        (nz.foldl (fun x v => max x (exponent32 v)) (if floor = 0 then -126 else (floor : Int) - 127))
  vs.map fun (s, v, fl) =>
    let mag := (v.roundAt md.rnd false (x - f)).1
    let tooBig := decide (2 ^ (f + 1) ≤ mag)
    let mag' := if tooBig then 2 ^ (f + 1) - 1 else mag
    let back : Dyadic := (Dyadic.of false ⟨mag, x - f, false⟩).add (Dyadic.of true v)
    let fl := fl ||| (if tooBig then flagOF ||| flagNX else if back.n = 0 then 0 else flagNX)
    ⟨wrapInt 8 (x + 127) * 2 ^ 24 + (if s && !nz.isEmpty then 2 ^ (if f = 3 then 7 else 15) else 0) + mag', fl⟩

/-! ### Memory forms of matrix operands -/

/-- The five digits of a packed ternary byte, as values −1, 0, 1; none for a reserved byte (R88). -/
def ternaryDigits (b : Nat) : Option (List Int) :=
  if 243 ≤ b then none
  else some [(b % 3 : Int) - 1, (b / 3 % 3 : Int) - 1, (b / 9 % 3 : Int) - 1, (b / 27 % 3 : Int) - 1, (b / 81 % 3 : Int) - 1]

/-- Nibbles of a byte string, low nibble first (R91). -/
def nibbles (bs : List Byte) : List Nat := bs.flatMap fun b => [b.toNat % 16, b.toNat / 16]

/-- The exponents of `n` blocks from the stream of codes; none for a malformed block (R91). `prev` is none after one. -/
def exponents : Nat → List Nat → Option Int → List (Option Int)
  | 0, _, _ => []
  | n + 1, ns, prev =>
    match ns with
    | [] => none :: exponents n [] none
    | 8 :: lo :: hi :: r =>
      let b := lo + 16 * hi
      let x : Option Int := if b = 0 ∨ b = 255 then none else some ((b : Int) - 127)
      x :: exponents n r x
    | 8 :: _ => none :: exponents n [] none
    | c :: r =>
      let x := prev.map fun p => p + (if c < 8 then (c : Int) else (c : Int) - 16)
      x :: exponents n r x

/-! ### Sums of the matrix array -/

/-- Rounded toward zero to 48 significant bits (R98). -/
def trunc48 (d : Dyadic) : Dyadic :=
  let k := bitLen d.n.natAbs - 48
  if k = 0 then d
  else ⟨(if d.n < 0 then -1 else 1) * ((d.n.natAbs / 2 ^ k : Nat) : Int), d.e + k⟩

/-- One level of the tree: neighbours summed (R98). -/
def treeLevel : List Dyadic → List Dyadic
  | a :: b :: r => trunc48 (a.add b) :: treeLevel r
  | l => l

/-- The root of the tree of 64 leaves (R98). -/
def treeRoot (leaves : List Dyadic) : Dyadic :=
  (treeLevel (treeLevel (treeLevel (treeLevel (treeLevel (treeLevel leaves)))))).headD ⟨0, 0⟩

/-- A pass's root added to an accumulator element in the acc36 interpretation (R93); a root of exact zero is +0.
 (log 128: DESIGN CHOICE) -/
def acc36Add (sat : Bool) (acc : Nat) (root : Dyadic) : Nat :=
  let f := Fmt.acc36
  match f.read acc with
  | .nan s fr _ => f.quieted s fr f.fb
  | .inf s => f.infinity false s
  | .fin s m =>
    (f.ofDyadic ⟨.rne, false, sat⟩ false ((Dyadic.of s m).add root)).v

/-- A pass's root added in the integer interpretation: wrapped, or clamped with SAT (R93). -/
def accIntAdd (sat : Bool) (acc : Nat) (root : Dyadic) : Nat :=
  let n := intOf true 36 acc + root.n * 2 ^ root.e.toNat
  wrapInt 36 (if sat then clampInt true 36 n else n)

/-- acc36 to binary32 under RNE (R233). -/
def acc36ToF32 (b : Nat) : Nat := (Fmt.f32.ofVal FpMode.plain 27 (Fmt.acc36.read b)).v

/-- A 36-bit integer clamped to `.i32` (R233). -/
def accToI32 (b : Nat) : Nat := wrapInt 32 (clampInt true 32 (intOf true 36 b))

end Sys2Proof.Machine
end

