-- ==== Sys2Proof/Machine/Async.lean ====
section
/-! DEFINITION. Asynchronous operations: scoreboard counters (R63, R64), barrier objects (R203 to R205), scratchpad bytes, and the
performing of loads, stores, strong stores, atomics, tile transfers and well operations (R194 to R200, R214, R233, R245, R247). -/

namespace Sys2Proof.Machine

/-! ### Registers by their lasting names -/

/-- A word of the live mask, ANDed with presence (R25). -/
def Path.setMaskWord (p : Path) (j : Nat) (v : Word) : Path :=
  let w (k : Nat) : Word := if k = j then v &&& maskWord p.present k else maskWord p.mask k
  { p with mask := ofMaskWords (w 0) (w 1) (w 2) }

/-- Write scalar `r` as path `k` names it (R28, R51). (log 35: DEDUCED) -/
def Group.writeScalar (z : Group) (k r : Nat) (v : Word) : Group :=
  if r < 108 then { z with scalars := z.scalars.put r v }
  else if r < 121 then z.updPath k fun p => { p with priv := p.priv.put r v }
  else if 125 ≤ r then z.updPath k fun p => p.setMaskWord (r - 125) v
  else z

/-- Scalar `r` as path `k` of a group reads it (R28, R34, R51). (log 35: DEDUCED) -/
def readScalar (launch block : Nat) (z : Group) (k r : Nat) : Word :=
  let p := z.paths.getD k Path.dead
  if r < 108 then z.scalars.get r
  else if r < 121 then p.priv.get r
  else if r = 121 then BitVec.ofNat 32 z.depth
  else if r = 122 then BitVec.ofNat 32 block
  else if r = 123 then BitVec.ofNat 32 k
  else if r = 124 then BitVec.ofNat 32 launch
  else maskWord p.mask (r - 125)

/-- Mark a stack line held in the store as dirty (R58). -/
def Group.dirtyLine (z : Group) (n : Nat) : Group :=
  { z with lines := z.lines.map fun l => if l.n = n then { l with dirty := true } else l }

/-- Write one lane of a register (a scalar: its only value). -/
def Group.putReg (z : Group) (k : Nat) (r : LaneReg) (lane : Nat) (v : Word) : Group :=
  match r with
  | .stack n => { z with stack := z.stack.put (96 * n + lane) v }.dirtyLine (n / 8)
  | .oper n => { z with oper := z.oper.put (96 * n + lane) v }
  | .scal n => z.writeScalar k n v

/-- One lane of a register. -/
def Group.getReg (z : Group) (launch block k : Nat) (r : LaneReg) (lane : Nat) : Word :=
  match r with
  | .stack n => z.stack.get (96 * n + lane)
  | .oper n => z.oper.get (96 * n + lane)
  | .scal n => readScalar launch block z k n

/-- The register that holds the high word of a pair. -/
def LaneReg.next : LaneReg → LaneReg
  | .stack n => .stack (n + 1)
  | .oper n => .oper (n + 1)
  | .scal n => .scal (n + 1)

/-- Whether the paths of a group share a register: `s108` to `s127` are each path's own (R28). -/
def LaneReg.shared (r : LaneReg) : Bool :=
  match r with
  | .scal n => decide (n < 108)
  | _ => true

/-- A result of a shared scalar that exists sooner than another path's: it is what the register held before that one (R125). -/
def produceUnder (k : Nat) (r : LaneReg) (v : Word) (ready : Nat) (covered : Bool) : List Hazard → List Hazard
  | [] => []
  | h :: hs =>
    if h.path ≠ k ∧ h.reg = r ∧ (ready < h.ready ∨ (h.ready = ready ∧ k < h.path)) then
      ⟨k, r, h.old, 1, ready, covered⟩ :: { h with old := Sparse.put [] 0 v } :: hs
    else h :: produceUnder k r v ready covered hs

/-- A lane of a register, or of the lane flags, takes a value. -/
def Group.putDest (z : Group) (k : Nat) (r : Option LaneReg) (lane : Nat) (v : Word) : Group :=
  r.elim { z with flags := z.flags.put lane (v.setWidth 6) } fun r => z.putReg k r lane v

/-- Lanes of `shfl` and `bcast` whose beats are yet to issue take a result that exists by then (R184): of a register, or of the lane flags. The value in
the log of a recorded launch changes with it (R401). -/
def Group.reachInto (z : Group) (k : Nat) (r : Option LaneReg) (val : Reach → Option Word) (ready : Nat) : Group :=
  (z.reaches.filter fun e => e.src == r && e.path != k && decide (ready ≤ e.at_)).foldl (fun z e =>
    match val e with
    | none => z
    | some v =>
      let z := z.putDest e.path e.dest e.lane v
      let z := { z with logFix := z.logFix ++ (e.logAt.map fun a => (a, v)).toList }
      if e.dest.isNone then z
      else z.updPath e.path fun p =>
        let o := p.l0.get e.lane
        { p with l0 := p.l0.put e.lane (if e.high then v ++ o.setWidth 32 else (o >>> 32).setWidth 32 ++ v) }) z

/-- A result placed in a register, for the lanes given, with the cycle from which it is readable. A shared scalar keeps the write that completes
later, and on equal cycles the one of the higher path index (R125). (log 19: DEDUCED) -/
def Group.produce (z : Group) (launch block k : Nat) (r : LaneReg) (vals : List (Nat × Word)) (ready : Nat) (covered : Bool) : Group :=
  let later := r.shared && z.hazards.any fun h => h.path != k && h.reg == r && (decide (ready < h.ready) || (decide (h.ready = ready) && decide (k < h.path)))
  match r, later with
  | .scal _, true => { z with hazards := produceUnder k r (vals.head?.elim 0 (·.2)) ready covered z.hazards }
  | _, _ =>
    let old := Sparse.puts [] (vals.map fun e => (e.1, z.getReg launch block k r e.1))
    let z := vals.foldl (fun z e => z.putReg k r e.1 e.2) z
    ({ z with hazards := z.hazards ++ [⟨k, r, old, laneSet (vals.map (·.1)), ready, covered⟩] } : Group).reachInto k (some r) (fun e => (vals.find? fun v => v.1 == e.source).map fun v => v.2) ready

/-- The flags of a lane as a beat of path `mine` that issues in cycle `at_` sees them: of another path's words, those that are done by then (R83, R184).
 -/
def Group.flagsSeen (z : Group) (mine lane at_ : Nat) : BitVec 6 :=
  match (z.flagHazards.filter fun h => h.path != mine && laneOn h.lanes lane).dropWhile fun h => decide (h.ready ≤ at_) with
  | [] => z.flags.get lane
  | h :: r => (h :: r).foldl (fun v h => if at_ < h.ready then v else if h.whole then h.new.get lane else v ||| h.new.get lane) (h.old.get lane)

/-- The lane flags take values as a result of path `k`'s word (R83, R84): in place of all that a lane holds, or joined to it. -/
def Group.putFlags (z : Group) (k : Nat) (whole : Bool) (vals : List (Nat × BitVec 6)) (ready : Nat) : Group :=
  let old : Sparse 6 := Sparse.puts [] (vals.map fun e => (e.1, z.flags.get e.1))
  let now (e : Nat × BitVec 6) : BitVec 6 := if whole then e.2 else z.flags.get e.1 ||| e.2
  let z : Group := { z with
    flags := z.flags.puts (vals.map fun e => (e.1, now e))
    flagHazards := z.flagHazards ++ [(⟨k, laneSet (vals.map (·.1)), old, Sparse.puts [] vals, whole, ready⟩ : FlagHazard)] }
  (z.updPath k fun p => { p with flagsAt := max p.flagsAt ready }).reachInto k none
    (fun e => (vals.find? fun v => v.1 == e.source).map fun _ => (z.flagsSeen e.path e.source e.at_).setWidth 32) ready

/-- Where a scalar lies in the context image (R55, R56). -/
def scalarOff (k r : Nat) : Nat :=
  if r < 108 then 0x240 + 4 * r
  else if r < 121 then 128 * k + 0x20 + 4 * (r - 108)
  else 128 * k + 0x58 + 4 * (r - 125)

/-- An asynchronous result placed in its register (R214): in the register store or the operand file or the scalars, where a shared scalar keeps the
higher path's of two that complete in one cycle (R125); a window register whose line is not held goes to the image line, where the next refill finds
it; while the block is away, operand-file and scalar results go to the image too. A line that was never written gets zeros around the result.
 (log 127: DESIGN CHOICE) -/
def State.placeReg (s : State) (ref : PathRef) (r : LaneReg) (lane : Nat) (v : Word) : State :=
  match s.launch? ref.launch with
  | none => s
  | some x =>
    match x.block? ref.block with
    | none => s
    | some y =>
      match y.group? ref.group with
      | none => s
      | some z =>
        if z.freed || z.done then s
        else
          let base := x.header.ctxOf y.slot z.index
          match r with
          | .stack n =>
            if z.lines.any fun l => l.n == n / 8 then
              s.updPathGroup ref fun z => (z.putReg ref.path r lane v).reachInto ref.path (some r) (fun e => if e.source = lane then some v else none) s.cycle
            else
              let s := if z.spilled.contains (n / 8) then s
                else s.imageWrite x y z.index z.core (base + lineOff (n / 8)) (List.replicate 3072 0)
              let s := s.imageWrite x y z.index z.core (base + lineOff (n / 8) + 384 * (n % 8) + 4 * lane) (leBytes 4 v.toNat)
              s.updPathGroup ref fun z => if z.spilled.contains (n / 8) then z else { z with spilled := z.spilled ++ [n / 8] }
          | .oper n =>
            let s := s.updPathGroup ref fun z => (z.putReg ref.path r lane v).reachInto ref.path (some r) (fun e => if e.source = lane then some v else none) s.cycle
            if y.cluster.isSome then s
            else s.imageWrite x y z.index z.core (base + 0x2000 + 384 * n + 4 * lane) (leBytes 4 v.toNat)
          | .scal n =>
            let s := s.updPathGroup ref fun z =>
              if r.shared then z.produce ref.launch ref.block ref.path r [(0, v)] s.cycle false else z.putReg ref.path r lane v
            if y.cluster.isSome then s
            else
              match (s.group? ref.launch ref.block ref.group) with
              | none => s
              | some z' =>
                s.imageWrite x y z.index z.core (base + scalarOff ref.path n)
                  (leBytes 4 (readScalar ref.launch ref.block z' ref.path n).toNat)

/-- The same, with what it changes in the group's log (R184, R401). (log 89: DEDUCED) -/
def State.placeResult (s : State) (ref : PathRef) (r : LaneReg) (lane : Nat) (v : Word) : State := (s.placeReg ref r lane v).flushLog ref

/-- Bits [5:0] of an asynchronous result join what the lane's later words have set of its flags (R84); in the image too while the block is away (R214). -/
def State.placeFlags (s : State) (ref : PathRef) (lane : Nat) (v : BitVec 6) : State :=
  match s.launch? ref.launch with
  | none => s
  | some x =>
    match x.block? ref.block with
    | none => s
    | some y =>
      match y.group? ref.group with
      | none => s
      | some z =>
        if z.freed || z.done then s
        else
          let s := s.updPathGroup ref fun z => { z with flags := z.flags.put lane (z.flags.get lane ||| v) }
          if y.cluster.isSome then s
          else s.imageWrite x y z.index z.core (x.header.ctxOf y.slot z.index + 0x480 + lane) [(z.flags.get lane ||| v).setWidth 8]

/-! ### Scoreboard counters (R63, R64) -/

def Group.sbCount (z : Group) (k : Nat) : Nat := z.sb.getD k 0

def Group.sbSet (z : Group) (k n : Nat) : Group := { z with sb := z.sb.set k n }

/-- An asynchronous word that names counter `k` issues. -/
def Group.sbRise (z : Group) (k : Nat) : Group := z.sbSet k (z.sbCount k + 1)

/-- A counter falls; while the block is away the count in the image falls (R64). A store of the group that names no counter has number 6. -/
def State.sbFall (s : State) (ref : PathRef) (k : Nat) : State :=
  let s := s.updPathGroup ref fun z => z.sbSet k (z.sbCount k - 1)
  match s.launch? ref.launch with
  | none => s
  | some x =>
    match x.block? ref.block with
    | none => s
    | some y =>
      match y.group? ref.group with
      | none => s
      | some z =>
        if y.cluster.isSome || z.freed || z.done || decide (6 ≤ k) then s
        else s.imageWrite x y z.index z.core (x.header.ctxOf y.slot z.index + 0x404 + k) [BitVec.ofNat 8 (z.sbCount k)]

/-! ### Scratchpad bytes (R65, R214) -/

/-- A core of a block's cluster: the one it is on, or the one it left. -/
def Block.homeCore (y : Block) (core : Nat) : Nat := (y.groups.head?).elim core (·.core)

/-- Bytes of a block's scratchpad allocation, or of its image copy while the block is away. -/
def State.spadRead (s : State) (l b core addr n : Nat) : List Byte :=
  match s.launch? l with
  | none => List.replicate n 0
  | some x =>
    match x.block? b with
    | none => List.replicate n 0
    | some y =>
      if y.cluster.isSome then Memory.read y.spad addr n
      else
        s.imageRead x y (y.homeCore core)
          (x.header.blkOf y.slot + addr / Config.spadBytes * (1024 * x.header.spadKiB) + addr % Config.spadBytes) n

/-- The same bytes as they were at a moment (R258). (log 112: DEDUCED) -/
def State.spadReadAt (s : State) (l b core m addr n : Nat) : List Byte :=
  let bs := s.spadRead l b core addr n
  match s.block? l b with
  | none => bs
  | some y => if y.cluster.isSome then bs.zipIdx.map fun e => pastByte y.past m (addr + e.2) e.1 else bs

/-- Write bytes of a block's scratchpad allocation, or of its image copy; a 4-byte word written whole loses its poison (R377). `ids`: the writes in
transit that precede this one (R260). (log 45: DEDUCED) -/
def State.spadWrite (s : State) (l b core addr : Nat) (bs : List Byte) (ids : List Nat := []) : State :=
  match s.launch? l with
  | none => s
  | some x =>
    match x.block? b with
    | none => s
    | some y =>
      if y.cluster.isSome then
        ({ s with moment := s.moment + 1 } : State).updBlock l b fun y =>
          { y with
            spad := Memory.write y.spad addr bs
            past := y.past ++ bs.zipIdx.map fun e => ⟨s.moment, none, addr + e.2, Sparse.get (w := 8) y.spad (addr + e.2)⟩
            order := (y.order.filter fun e => !(decide (addr ≤ e.1) && decide (e.1 + e.2.1 ≤ addr + bs.length))) ++
              if ids.isEmpty then [] else [(addr, bs.length, ids)]
            spadPoison := y.spadPoison.filter fun a => !(decide (addr ≤ a) && decide (a + 4 ≤ addr + bs.length)) }
      else
        s.imageWrite x y 0 (y.homeCore core)
          (x.header.blkOf y.slot + addr / Config.spadBytes * (1024 * x.header.spadKiB) + addr % Config.spadBytes) bs

/-- Where a scratchpad address lies in the block image (R72). -/
def spadImage (x : Launch) (y : Block) (addr : Nat) : Nat :=
  x.header.blkOf y.slot + addr / Config.spadBytes * (1024 * x.header.spadKiB) + addr % Config.spadBytes

/-- Whether the scratchpad word that holds a byte is marked; while the block is away, its image block (R377, R386). -/
def State.spadPoisoned (s : State) (l b addr : Nat) : Bool :=
  match s.launch? l, s.block? l b with
  | some x, some y =>
    if y.cluster.isSome then y.spadPoison.contains (addr / 4 * 4) else (s.imagePa x y (spadImage x y addr)).elim false fun pa => s.poisoned pa 1
  | _, _ => false

/-- Clear the marks of the scratchpad words, or of the image blocks while the block is away, that a write covers whole (R377). -/
def State.clearSpad (s : State) (l b addr n : Nat) : State :=
  match s.launch? l, s.block? l b with
  | some x, some y =>
    if y.cluster.isSome then
      s.updBlock l b fun y => { y with spadPoison := y.spadPoison.filter fun a => !(decide (addr ≤ a) && decide (a + 4 ≤ addr + n)) }
    else
      s.clearPoison ((pagePieces (n / 8192 + 2) (spadImage x y addr) 0 n).filterMap fun p => (s.imagePa x y p.1).map fun pa => (pa, p.2.2))
  | _, _ => s

/-- The writes in transit that precede what scratchpad bytes hold (R260). -/
def Block.orderOf (y : Block) (addr n : Nat) : List Nat :=
  (y.order.filter fun e => decide (addr < e.1 + e.2.1) && decide (e.1 < addr + n)).flatMap (·.2.2)

def State.spadWord (s : State) (l b core addr : Nat) : Word := BitVec.ofNat 32 (leNat (s.spadRead l b core addr 4))

/-! ### Barrier objects (R203 to R205) -/

structure BarObj where
  expect : Nat
  arrived : Nat
  data : Bool
  exitbase : Nat
  phase : BitVec 16
  bytes : Word
  pending : Word
deriving DecidableEq, Repr

def BarObj.ofWords (w0 w1 w2 w3 : Word) : BarObj :=
  ⟨w0.toNat / 65536, w0.toNat % 65536, w1.getLsbD 31, bits w1.toNat 30 16, w1.setWidth 16, w2, w3⟩

def BarObj.words (o : BarObj) : List Word :=
  [BitVec.ofNat 32 (o.expect * 65536 + o.arrived),
   BitVec.ofNat 32 ((if o.data then 2 ^ 31 else 0) + o.exitbase * 65536 + o.phase.toNat), o.bytes, o.pending]

def State.barRead (s : State) (l b core addr : Nat) : BarObj :=
  BarObj.ofWords (s.spadWord l b core addr) (s.spadWord l b core (addr + 4)) (s.spadWord l b core (addr + 8)) (s.spadWord l b core (addr + 12))

def State.barWrite (s : State) (l b core addr : Nat) (o : BarObj) : State := s.spadWrite l b core addr (wordBytes o.words)

/-- The need N of a barrier under exit count `x` (R204). -/
def BarObj.need (o : BarObj) (x : Nat) : Int :=
  if o.data then o.expect else (o.expect : Int) - ((x + 2 ^ 15 - o.exitbase % 2 ^ 15) % 2 ^ 15 : Nat)

def BarObj.complete (o : BarObj) (x : Nat) : Bool := decide (o.need x ≤ o.arrived) && decide (o.pending.toInt ≤ 0)

/-- The object after its test: a completed phase leaves the next one in force (R204). -/
def BarObj.test (o : BarObj) (x : Nat) : BarObj :=
  if o.complete x then { o with phase := o.phase + 1, arrived := 0, pending := o.pending + o.bytes } else o

/-- Update a barrier object and test it, forgetting arrivals of phases that ended, and what an earlier phase with the number of the one that begins has
left (R205, R382). (log 39: DESIGN CHOICE) -/
def State.barUpdate (s : State) (l b core addr : Nat) (f : BarObj → BarObj) : State :=
  let x := ((s.block? l b).elim 0 (·.exits))
  let o := (f (s.barRead l b core addr))
  let o' := o.test x
  let s := s.barWrite l b core addr o'
  if o'.phase = o.phase then s
  else s.updBlock l b fun y => { y with
    arrivals := y.arrivals.filter fun a => a.addr != addr
    phases := y.phases.filter fun e => !(e.1 == addr && e.2.1 == o'.phase)
    poisonPhases := y.poisonPhases.filter fun e => !(e.1 == addr && e.2 == o'.phase) }

/-- The rank of a core's update among those of one cycle: by cluster core, then group; an engine's is `engineRank` (R205). -/
def coreRank (core group : Nat) : Nat := core % 4 * 128 + group
abbrev engineRank : Nat := 512

/-- A barrier word or an engine record names a place as a barrier object, and updates it with a rank (R203, R205). (log 39: DESIGN CHOICE) -/
def Block.noteUpdate (y : Block) (addr cycle rank : Nat) : Block :=
  { y with
    objects := if y.objects.contains addr then y.objects else y.objects ++ [addr]
    updates := (addr, cycle, rank) :: y.updates.filter fun e => e.1 != addr }

/-- Whether an update of this rank may still be applied in the present cycle: none that comes after it has been (R205). -/
def State.mayUpdate (s : State) (l b addr rank : Nat) : Bool :=
  (s.block? l b).elim true fun y => !(y.updates.any fun e => e.1 == addr && e.2.1 == s.cycle && decide (rank < e.2.2))

/-- The barrier objects of a block that bytes touch. -/
def State.objectsIn (s : State) (l b addr n : Nat) : List Nat :=
  (s.block? l b).elim [] fun y => y.objects.filter fun a => decide (a < addr + n) && decide (addr < a + 16)

/-- A store to bytes of barrier objects is one update of each, which is tested (R205, R208, R293). (log 39: DESIGN CHOICE) -/
def State.barTouched (s : State) (l b core rank : Nat) (ranges : List (Nat × Nat)) : State :=
  ((ranges.flatMap fun r => s.objectsIn l b r.1 r.2).dedup).foldl (fun s a =>
    (s.updBlock l b fun y => y.noteUpdate a s.cycle rank).barUpdate l b core a id) s

/-- Addresses of the barrier objects on which a live path of a block waits in `bar.wait`. (log 39: DESIGN CHOICE) -/
def Block.waitedBarriers (y : Block) : List Nat :=
  (y.groups.flatMap fun z => z.paths.filterMap fun p => match p.valid, p.status with
    | true, .waiting (.barrier a _) => some a
    | _, _ => none).dedup

/-- Writes in transit come before what follows a `bar.wait` on the present phase of an object (link 5 of R260). -/
def State.notePhase (s : State) (l b core addr : Nat) (ids : List Nat) : State :=
  let live := s.closed ids
  if live.isEmpty then s
  else
    let ph := (s.barRead l b core addr).phase
    s.updBlock l b fun y => { y with phases := y.phases ++ [(addr, ph, live)] }

/-! ### Values of accesses -/

/-- The new value of an atomic step (R199, R200): type code, operation, old value, operand, compare value. -/
def atomicNew (ty aop : Nat) (old v c : DWord) : DWord :=
  let w := codeWidth ty
  let m (n : Nat) : DWord := BitVec.ofNat 64 (n % 2 ^ w)
  let o := old.toNat % 2 ^ w
  let u := v.toNat % 2 ^ w
  let signed := ty == 3 || ty == 4
  match aop with
  | 0 =>
    if ty = 11 then m (Fmt.f32.add FpMode.plain o u).v
    else if ty = 12 then m (Fmt.f64.add FpMode.plain o u).v
    else m (o + u)
  | 1 => m (if intOf signed w u < intOf signed w o then u else o)
  | 2 => m (if intOf signed w o < intOf signed w u then u else o)
  | 3 => m (o &&& u)
  | 4 => m (o ||| u)
  | 5 => m (o ^^^ u)
  | 6 => m u
  | _ => m (if o = c.toNat % 2 ^ w then u else o)

/-! ### Fields of a record (R234, R235, R241) -/

def EngineRec.w (e : EngineRec) (k : Nat) : Nat := (e.words.getD k 0).toNat
def EngineRec.src (e : EngineRec) : Nat := e.w 0 + 2 ^ 32 * e.w 1
def EngineRec.dst (e : EngineRec) : Nat := e.w 2 + 2 ^ 32 * e.w 3
def EngineRec.ctl (e : EngineRec) : Nat := e.w 6
def EngineRec.scope (e : EngineRec) : Nat := bits e.ctl 31 29
def EngineRec.srcSp (e : EngineRec) : Nat := bits e.ctl 28 27
def EngineRec.dstSp (e : EngineRec) : Nat := bits e.ctl 26 25
def EngineRec.dstQ (e : EngineRec) : Nat := bits e.ctl 24 21
/-- The core of the destination reservation. -/
def EngineRec.dstCore (e : EngineRec) : Nat := e.core / 4 * 4 + bits e.ctl 20 19
def EngineRec.toBarrier (e : EngineRec) : Bool := e.kind != .coll && e.ctl.testBit 18
def EngineRec.codec (e : EngineRec) : Nat := bits e.ctl 17 16
def EngineRec.op (e : EngineRec) : Nat := bits e.ctl 31 28
def EngineRec.red (e : EngineRec) : Nat := bits e.ctl 27 26
def EngineRec.ty (e : EngineRec) : Nat := bits e.ctl 25 21
def EngineRec.count (e : EngineRec) : Nat := e.w 4
def EngineRec.comm (e : EngineRec) : Nat := bits (e.w 5) 15 0
def EngineRec.root (e : EngineRec) : Nat := bits (e.w 10) 15 0
/-- Bytes of an element of a collective. -/
def EngineRec.unit (e : EngineRec) : Nat := codeWidth e.ty / 8

/-! ### Stores into the destination of a running job card (R384) -/

/-- Offsets of the output of a running job card that lie at a byte: physical, or in scratchpad of a block. -/
def State.cardOffsets (s : State) (e : EngineRec) (sp : Bool) (l b addr : Nat) : List Nat :=
  if e.kind ≠ .card ∨ e.status.isSome ∨ e.dropped ∨ (e.dstSp = 1) ≠ (sp = true) ∨ 2 ≤ e.dstSp then []
  else
    let vas := if sp then (if e.launch = l ∧ e.block = b then [addr] else [])
      else (s.owner e.owner).tlb.filterMap fun t => if t.pa ≤ addr ∧ addr < t.pa + t.size then some (t.va + (addr - t.pa)) else none
    (vas.filter fun v => decide (e.dst ≤ v) && decide (v < e.dst + e.w 5) && (sp || s.vaRead e.owner v == some addr)).map (· - e.dst)

/-- A program stores bytes: where they lie in the destination of a running job card, the output and the bytes are undefined, everywhere (R384).
 (log 61: DEDUCED) -/
def State.spoilCards (s : State) (o : Op) (addr : Nat) (bs : List Byte) : State × List Byte :=
  let hits (e : EngineRec) (i : Nat) := s.cardOffsets e o.sp o.path.launch o.path.block (addr + i)
  let bad := (List.range bs.length).filter fun i => s.records.any fun e => !(hits e i).isEmpty
  if bad.isEmpty then (s, bs)
  else
    let bs := bs.zipIdx.map fun b => if bad.contains b.2 then (s.freeOf o.owner b.2).setWidth 8 else b.1
    let t : State := { s with records := s.records.map fun e => { e with spoiled := (e.spoiled ++ bad.flatMap (hits e)).dedup } }
    let t := if o.sp then t else bad.foldl (fun t i => t.writeAll (addr + i) [bs.getD i 0]) t
    (t.takeFreeOf o.owner bs.length, bs)

/-! ### Performing an operation -/

/-- Accesses that count as loads for a fence, and those that count as writes (R202). -/
def OpKind.takes : OpKind → Bool
  | .load | .atomic | .accLoad | .wellTake => true
  | _ => false

def OpKind.writes : OpKind → Bool
  | .load | .accLoad | .wellTake => false
  | _ => true

/-- The die at which an operation's accesses are applied: that of its group's core, also after the group has come to another one (R193, R214). -/
def State.opDie (s : State) (o : Op) : Nat := dieOf ((s.group? o.path.launch o.path.block o.path.group).elim o.core (·.core))

/-- Read `n` bytes of an access in its space. -/
def State.opRead (s : State) (o : Op) (addr n : Nat) : List Byte :=
  if o.sp then s.spadRead o.path.launch o.path.block o.core addr n else s.readPhys (s.opDie o) addr n

/-- The bytes of an access as they were at a moment (R258). (log 112: DEDUCED) -/
def State.opReadAt (s : State) (o : Op) (m addr n : Nat) : List Byte :=
  if o.sp then s.spadReadAt o.path.launch o.path.block o.core m addr n else s.readAt (s.opDie o) m addr n

/-- Whether physical bytes lie in an image of the block. -/
def Block.imagePage (y : Block) (pa : Nat) : Bool := y.images.any fun e => e.2 == pa / 8192 * 8192

/-- Spills of the window pump that precede a store of their group to its own image (link 9 of R260, R62). -/
def State.spillsBefore (s : State) (r : PathRef) (pa : Nat) : List Nat :=
  if (s.block? r.launch r.block).elim false (·.imagePage pa) then
    (s.transit.filter fun t => t.lane == 97 && t.launch == r.launch && t.block == r.block && t.group == r.group).map (·.id)
  else []

/-- The writes that precede an operation's access to bytes, settled ones among them (R260). -/
def State.opAfter (s : State) (o : Op) (addr n : Nat) : List Nat :=
  o.preds ++ ((s.path? o.path).elim [] fun p => (p.tracesOf o.sp addr n).flatMap (·.ids)) ++ if o.sp then [] else s.spillsBefore o.path addr

/-- The writes in transit that precede an operation's access to bytes (R260). -/
def State.opPreds (s : State) (o : Op) (addr n : Nat) : List Nat := s.closed (s.opAfter o addr n)

/-- What an access returned, or what it wrote, orders later accesses of its path to the same bytes, and of its group (links 1 to 4 of R260). -/
def State.noteAccess (s : State) (o : Op) (addr n m : Nat) (read wrote : List Nat) : State :=
  s.updPathGroup o.path fun z =>
    ({ z with
      reads := if o.kind.takes then z.reads ++ [⟨o.id + 1, m, s.closed read⟩] else z.reads
      wrote := if o.kind.writes then z.wrote ++ [⟨o.id + 1, m, s.closed wrote⟩] else z.wrote } : Group).updPath o.path.path
      fun p => p.traceAccess ⟨o.sp, addr, n, s.closed (read ++ wrote), m⟩

/-- What an access at a moment returned: the writes in transit that precede it (link 2 of R260). -/
def State.returned (s : State) (o : Op) (m addr n : Nat) : List Nat :=
  if o.sp then (s.block? o.path.launch o.path.block).elim [] fun y => y.orderOf addr n else s.readFrom (s.opDie o) m addr n

/-- Write bytes of an access in its space: ordinary, multi-copy atomic at the scope of the operation, or as the step of an atomic that returned `read`. -/
def State.opWrite (s : State) (o : Op) (lane addr : Nat) (bs : List Byte) (read : List Nat := []) : State :=
  let (s, bs) := s.spoilCards o addr bs
  let preds := s.closed (s.opPreds o addr bs.length ++ read)
  let lane := if o.uniform then 96 else lane
  let s1 :=
    if o.sp then s.spadWrite o.path.launch o.path.block o.core addr bs preds
    else
      let s := s.charge o.owner addr bs.length
      match o.kind with
      | .strong => s.writeStrong o.scope o.path lane (s.opDie o) addr bs preds
      | .atomic => s.writeAtomic o.scope o.path lane (s.opDie o) addr bs preds
      | _ => s.writeOrdinary o.path lane (s.opDie o) addr bs preds
  let wrote := preds ++ if o.sp then [] else [s1.nextId - 1]
  s1.noteAccess o addr bs.length s1.moment (read ++ wrote) wrote

/-- Stored scratchpad bytes may be those of barrier objects. -/
def State.opTouched (s : State) (o : Op) (ranges : List (Nat × Nat)) : State :=
  if o.sp then s.barTouched o.path.launch o.path.block o.core (coreRank o.core o.path.group) ranges else s

/-- Poison of device memory that the bytes written by an operation cover whole is cleared (R377). (log 45: DEDUCED) -/
def State.opClearPoison (s : State) (o : Op) (n : Nat) : State :=
  if o.sp then s else s.clearPoison (o.lanes.map fun e => (e.2.1, n))

/-- The lanes' values written into the destination; zeroed lanes receive zero (R84, R130, R194, R195). (log 43: DEDUCED) -/
def State.opDeliver (s : State) (o : Op) (vals : List (Nat × DWord)) : State :=
  let s := s.logLanes o.owner o.logAt (if o.pair then 8 else 4) vals
  let s := (vals.filter fun e => laneOn o.toFlags e.1).foldl (fun s e => s.placeFlags o.path e.1 (e.2.setWidth 6)) s
  match o.dest with
  | none => s
  | some r =>
    let lanes : List (Nat × DWord) := match r with
      | .scal _ => (vals.take 1).map fun e => (0, e.2)
      | _ => vals ++ (laneList o.zeroed).map fun i => (i, 0)
    lanes.foldl (fun (s : State) (e : Nat × DWord) =>
      let s := s.placeResult o.path r e.1 (e.2.setWidth 32)
      if o.pair then s.placeResult o.path r.next e.1 ((e.2 >>> 32).setWidth 32) else s) s

/-- Values in ascending lane order. -/
def byLane (vals : List (Nat × DWord)) : List (Nat × DWord) := allLanes.flatMap fun i => vals.filter fun e => e.1 == i

/-- What must be applied at its die before an operation takes values there (R261). -/
def State.opCarry (s : State) (o : Op) (ids : List Nat) : State :=
  if o.sp || !(s.transit.any fun t => ids.contains t.id && !t.applied.contains (s.opDie o)) then s
  else s.carryTo [s.opDie o] fun t => ids.contains t.id

/-- The moment at which a lane of a load takes its value: the one asked for, no earlier than what its path's fences and its group's move to its die wait
for, its path's earlier accesses to these bytes, and the moment from which its view holds the writes to them that precede it (R198, R202, R261); and no
later than now. (log 112: DEDUCED) -/
def State.loadMoment (s : State) (o : Op) (addr asked : Nat) : Nat :=
  let home := (s.group? o.path.launch o.path.block o.path.group).elim 0 (·.homeSince)
  let own := ((s.path? o.path).elim [] fun p => (p.tracesOf o.sp addr o.width).map (·.moment)).foldl max 0
  let held := if o.sp then 0
    else (s.view (s.opDie o)).heldFrom (s.opAfter o addr o.width) fun a => decide (addr ≤ a) && decide (a < addr + o.width)
  max (max (max o.horizon home) (max own held)) (min s.moment asked)

/-- A load takes its values (R195), each lane at its own moment: what precedes it is applied at its die first (R261). (log 42, 112: DEDUCED) -/
def State.performLoad (s : State) (o : Op) (moments : List Nat) : State :=
  let preds (a : Nat) := s.opPreds o a o.width
  let s1 := s.opCarry o (o.lanes.flatMap fun e => preds e.2.1)
  let reads := o.lanes.zipIdx.map fun e => (e.1.1, e.1.2.1, s1.loadMoment o e.1.2.1 (moments.getD e.2 s1.moment))
  let vals := reads.map fun e => (e.1, BitVec.ofNat 64 (leNat (s1.opReadAt o e.2.2 e.2.1 o.width)))
  let s2 := if o.sp then s1 else o.lanes.foldl (fun s e => s.charge o.owner e.2.1 o.width) s1
  (reads.foldl (fun s e => s.noteAccess o e.2.1 o.width e.2.2 (preds e.2.1 ++ s1.returned o e.2.2 e.2.1 o.width) []) s2).opDeliver o
    (byLane (vals ++ o.fixed))

/-- The lanes of a store whose value remains: of the lanes that write one address, the highest (R196). -/
def lastLanes : List (Nat × Nat × DWord × DWord) → List (Nat × Nat × DWord × DWord)
  | [] => []
  | e :: r => if r.any fun f => f.2.1 == e.2.1 then lastLanes r else e :: lastLanes r

/-- A store or strong store performs its writes in ascending lane order (R196, R197). (log 42: DEDUCED) -/
def State.performStore (s : State) (o : Op) : State :=
  (((lastLanes o.lanes).foldl (fun s e => s.opWrite o e.1 e.2.1 (leBytes o.width e.2.2.1.toNat)) s).opTouched o
    (o.lanes.map fun e => (e.2.1, o.width))).opClearPoison o o.width

/-- The step of an atomic in one lane, and the old value (R199). -/
def State.atomicStep (s : State) (o : Op) (e : Nat × Nat × DWord × DWord) : State × DWord :=
  let s := if o.sp then s else (s.atomicMeets (s.opDie o) e.2.1 o.width).opCarry o (s.opPreds o e.2.1 o.width)
  let old : DWord := BitVec.ofNat 64 (leNat (s.opRead o e.2.1 o.width))
  let new := atomicNew o.ty o.aop old e.2.2.1 e.2.2.2
  ((s.opWrite o e.1 e.2.1 (leBytes o.width new.toNat) (s.returned o s.moment e.2.1 o.width)).opTouched o [(e.2.1, o.width)], old)

/-- An atomic takes its steps in ascending lane order (R199). -/
def State.performAtomic (s : State) (o : Op) : State :=
  let r := o.lanes.foldl (fun (acc : State × List (Nat × DWord)) e => let t := acc.1.atomicStep o e; (t.1, acc.2 ++ [(e.1, t.2)])) (s, [])
  (r.1.opClearPoison o o.width).opDeliver o (byLane ((r.2.filter fun e => !(o.fixed.any fun f => f.1 == e.1)) ++ o.fixed))

/-- The bytes that `acc.st` writes under a FORM (R71, R233). -/
def tileForm (form : Nat) (t : Sparse 36) : List Byte :=
  if form = 1 then (List.range 4096).flatMap fun n => leBytes 4 (acc36ToF32 (t.get n).toNat)
  else if form = 2 then (List.range 4096).flatMap fun n => leBytes 4 (accToI32 (t.get n).toNat)
  else tileBytesOf t

/-- The elements that `acc.ld` sets from bytes under a FORM (R233). -/
def formTile (form : Nat) (bs : List Byte) : Sparse 36 :=
  if form = 0 then tileOfBytes bs
  else
    Sparse.puts [] ((bytesWords 4096 bs).zipIdx.map fun e =>
      (e.2, if form = 1 then BitVec.ofNat 36 (e.1.toNat * 16) else e.1.signExtend 36))

/-- Bytes of a transfer's pieces, in order: each entry of `lanes` is (offset, address, length, 0). -/
def State.transferRead (s : State) (o : Op) : List Byte := o.lanes.flatMap fun e => s.opRead o e.2.1 e.2.2.1.toNat

/-- `acc.ld` sets its tile, if the block still holds it (R233). -/
def State.performAccLoad (s : State) (o : Op) : State :=
  let preds (e : Nat × Nat × DWord × DWord) := s.opPreds o e.2.1 e.2.2.1.toNat
  let s1 := s.opCarry o (o.lanes.flatMap preds)
  let bs := if o.lanes.isEmpty then o.fixed.flatMap fun e => leBytes 8 e.2.toNat else s1.transferRead o
  let s2 := s1.logPut o.owner o.logAt 12 bs
  let s3 := if o.sp then s2 else o.lanes.foldl (fun s e => s.charge o.owner e.2.1 e.2.2.1.toNat) s2
  let s4 := o.lanes.foldl (fun s e =>
    s.noteAccess o e.2.1 e.2.2.1.toNat s.moment (preds e ++ s1.returned o s1.moment e.2.1 e.2.2.1.toNat) []) s3
  { s4 with tiles := s4.tiles.map fun t =>
      if t.core = o.core ∧ t.t = o.tile ∧ t.launch = o.path.launch ∧ t.block = o.path.block then
        { t with data := formTile o.form bs, poison := false }
      else t }

/-- `acc.st` writes the bytes that it took when it issued, eight to an entry of `fixed` (R233). -/
def State.performAccStore (s : State) (o : Op) : State :=
  let bs := o.fixed.flatMap fun e => leBytes 8 e.2.toNat
  let ranges := o.lanes.map fun e => (e.2.1, e.2.2.1.toNat)
  let s := (o.lanes.foldl (fun s e => s.opWrite o 96 e.2.1 ((bs.drop e.1).take e.2.2.1.toNat)) s).opTouched o ranges
  if o.sp then s else s.clearPoison ranges

/-- Writes in transit of a lane of a group, or of its paths as a whole. -/
def ofLanes (r : PathRef) (lanes : List Nat) (t : Transit) : Bool :=
  t.launch == r.launch && t.block == r.block && t.group == r.group && (t.lane == 96 || lanes.contains t.lane)

/-- `well.add` makes its items visible at every die, after the adding lanes' earlier writes, and advances TAIL (R42, R245). (log 66: DEDUCED) -/
def State.performWellAdd (s : State) (o : Op) : State :=
  let s := s.carry fun t => ofLanes o.path (o.lanes.map (·.1)) t || o.preds.contains t.id
  let s := o.lanes.foldl (fun s e =>
    let (s, bs) := s.spoilCards o e.2.1 (leBytes 8 e.2.2.1.toNat)
    (s.writeAll e.2.1 bs).charge o.owner e.2.1 8) s
  let s := s.clearPoison (o.lanes.map fun e => (e.2.1, 8))
  s.updOwner o.owner fun w =>
    { w with wells := w.wells.map fun x => if x.n = o.tile then { x with tail := x.tail + BitVec.ofNat 32 o.lanes.length } else x }

/-- `well.take` writes its items and the triple of the lanes that received one (R247). -/
def State.performWellTake (s : State) (o : Op) : State :=
  let m := laneSet (o.fixed.map (·.1))
  (List.range 3).foldl (fun s j => s.placeResult o.path (.scal (o.aop + j)) 0 (maskWord m j)) (s.opDeliver o o.fixed)

/-- Remove an operation that has completed. -/
def State.dropOp (s : State) (id : Nat) : State := { s with ops := s.ops.filter fun o => o.id != id }

/-- Whether an access is held at the memory controllers because its owner has used up a bandwidth cap (R358). -/
def State.capHolds (s : State) (o : Op) : Bool :=
  !o.sp && (s.owner o.owner).capHeld && (s.launch? o.path.launch).elim false fun x => x.handler.isNone

/-- Whether the stores of an operation to barrier objects still come in their order within the cycle (R205). -/
def State.inTurn (s : State) (o : Op) : Bool :=
  !o.sp || o.lanes.all fun e =>
    (s.objectsIn o.path.launch o.path.block e.2.1 (if o.kind == .accStore then e.2.2.1.toNat else o.width)).all
      fun a => s.mayUpdate o.path.launch o.path.block a (coreRank o.core o.path.group)

/-- Whether an operation may complete now: the operations and matrix operations that come first are done (R198, R227), no cap holds
it, and its updates of barrier objects are in turn. (log 42: DEDUCED) -/
def State.opReady (s : State) (o : Op) : Bool :=
  !s.capHolds o && !(s.ops.any fun p => o.after.contains p.id) && !(s.mmas.any fun m => o.after.contains m.id) && s.inTurn o

/-- The effect of an operation that completes, before its counter falls; `moments`: when the lanes of a load take their values, none: now. -/
def State.perform (s : State) (o : Op) (moments : List Nat) : State :=
  match o.kind with
  | .load => s.performLoad o moments
  | .store | .strong => s.performStore o
  | .atomic => s.performAtomic o
  | .accLoad => s.performAccLoad o
  | .accStore => s.performAccStore o
  | .wellAdd => s.performWellAdd o
  | .wellTake => s.performWellTake o

/-- The operations of a group issued before a mark. -/
def State.groupOps (s : State) (ref : PathRef) (mark : Nat) : List Op :=
  s.ops.filter fun o => o.path.launch == ref.launch && o.path.block == ref.block && o.path.group == ref.group && decide (o.id < mark)

/-- The writes in transit of a group. -/
def ofGroup (ref : PathRef) (t : Transit) : Bool := t.launch == ref.launch && t.block == ref.block && t.group == ref.group

end Sys2Proof.Machine
end

