-- ==== Sys2Proof/Machine/MatrixCore.lean ====
section
/-! DEFINITION. The arithmetic of the matrix array: the layout of a reservation (R68, R221), delivery into it (R69), its planes (R92), the
checks of a release (R348) the result of a joint `mma` (R97, R98, R226), and the order of requests on a core (R363). -/

namespace Sys2Proof.Machine

/-! ### Fields of a reservation record (R68) -/

def Reservation.base (r : Reservation) : Nat := bits r.w0.toNat 31 22
def Reservation.len (r : Reservation) : Nat := bits r.w0.toNat 21 12
def Reservation.fmt (r : Reservation) : Nat := bits r.w0.toNat 11 8
def Reservation.blkCode (r : Reservation) : Nat := bits r.w0.toNat 7 6
def Reservation.planes (r : Reservation) : Nat := bits r.w0.toNat 3 0
def Reservation.state (r : Reservation) : Nat := bits r.w1.toNat 31 30
def Reservation.scaleOff (r : Reservation) : Nat := 16 * bits r.w1.toNat 29 16
def Reservation.zpOff (r : Reservation) : Nat := 16 * bits r.w1.toNat 13 0
def Reservation.setState (r : Reservation) (n : Nat) : Reservation :=
  { r with w1 := BitVec.ofNat 32 (n * 2 ^ 30 + r.w1.toNat % 2 ^ 30) }

/-- Elements of a group or block. -/
def Reservation.blk (r : Reservation) : Nat := 32 * 2 ^ r.blkCode
/-- Bytes of the reservation. -/
def Reservation.size (r : Reservation) : Nat := (r.len + 1) * 256

/-- A format's full count of planes (R68). -/
def fullPlanes (fmt : Nat) : Nat := [2, 4, 8, 8, 4, 5, 5, 9].getD fmt 0

/-- The side start S (R221). -/
def Reservation.sideStart (r : Reservation) : Nat :=
  if r.fmt = 3 ∨ r.fmt = 4 then r.size
  else if r.fmt = 1 ∨ r.fmt = 2 then min r.scaleOff r.zpOff
  else r.scaleOff

/-- The row length K (R221). -/
def Reservation.k (r : Reservation) : Nat := r.sideStart / (8 * r.planes)

/-- Groups or blocks of the reservation. -/
def Reservation.groups (r : Reservation) : Nat := 64 * r.k / r.blk

/-- A row's bytes in memory form (R221). -/
def Reservation.rowBytes (r : Reservation) : Nat :=
  match r.fmt with
  | 0 => (r.k + 4) / 5
  | 1 | 4 => r.k / 2
  | 7 => 2 * r.k
  | _ => r.k

/-- The record checks of `opres` (R347, DETAIL 4). -/
def Reservation.ok (r : Reservation) : Bool :=
  decide (r.fmt < 8) && decide (r.blkCode < 3) && decide (0 < r.planes) && decide (r.planes ≤ fullPlanes r.fmt) &&
  decide (r.base + r.len ≤ 1023) && decide (bits r.w0.toNat 5 4 = 0) && decide (bits r.w1.toNat 15 14 = 0) &&
  decide (r.sideStart % (8 * r.planes) = 0) && decide (r.k % 64 = 0) && decide (r.k % r.blk = 0) &&
  (match r.fmt with
   | 0 => decide (r.scaleOff + 2 * r.groups ≤ r.size)
   | 1 | 2 => decide (r.scaleOff + 2 * r.groups ≤ r.size) && decide (r.zpOff + r.groups ≤ r.size)
   | 3 | 4 => true
   | _ => decide (r.scaleOff + (r.groups + 1) / 2 ≤ r.size))

/-! ### Delivery (R69, R221) -/

/-- A ternary value as its two planes: magnitude in bit 0, sign in bit 1 (R69). -/
def ternaryCode (t : Int) : BitVec 16 := if t = 0 then 0 else if 0 < t then 1 else 3

/-- The element codes that one byte at offset `o` of the element region sets: key, code; none for a reserved ternary byte, which stores
five zeros (R348). -/
def Reservation.elemsOf (r : Reservation) (elems : Sparse 16) (o : Nat) (b : Byte) : List (Nat × BitVec 16) :=
  let row := o / r.rowBytes
  let c := o % r.rowBytes
  match r.fmt with
  | 0 =>
    let ds := (ternaryDigits b.toNat).getD [0, 0, 0, 0, 0]
    (ds.zipIdx.filter fun e => decide (5 * c + e.2 < r.k)).map fun e => (row * r.k + 5 * c + e.2, ternaryCode e.1)
  | 1 | 4 => [(row * r.k + 2 * c, BitVec.ofNat 16 (b.toNat % 16)), (row * r.k + 2 * c + 1, BitVec.ofNat 16 (b.toNat / 16))]
  | 7 =>
    let key := row * r.k + c / 2
    let old := elems.get key
    [(key, if c % 2 = 0 then BitVec.ofNat 16 (old.toNat / 256 * 256 + b.toNat) else BitVec.ofNat 16 (b.toNat * 256 + old.toNat % 256))]
  | _ => [(row * r.k + c, b.setWidth 16)]

/-- Bytes written into the element region (R221). -/
def Reservation.writeElems (r : Reservation) (off : Nat) (bs : List Byte) : Reservation :=
  bs.zipIdx.foldl (fun r e =>
    { r with elems := r.elems.puts (r.elemsOf r.elems (off + e.2) e.1)
             badByte := r.badByte || (r.fmt == 0 && (ternaryDigits e.1.toNat).isNone) }) r

/-- Bytes written into the side region, at offsets from the reservation start (R221). -/
def Reservation.writeSide (r : Reservation) (off : Nat) (bs : List Byte) : Reservation :=
  { r with side := Memory.write r.side off bs }

/-! ### Factors (R92, R97) -/

/-- Two's complement of the low `p` bits. -/
def lowSigned (p n : Nat) : Int := intOf true p (n % 2 ^ p)

/-- The exponents of the reservation's blocks (R91). -/
def Reservation.exps (r : Reservation) : List (Option Int) :=
  exponents r.groups (nibbles (Memory.read r.side r.scaleOff (r.size - r.scaleOff))) (some 0)

/-- A group's scale, as it is encoded. -/
def Reservation.sigma (r : Reservation) (g : Nat) : FVal := Fmt.f16.read (leNat (Memory.read r.side (r.scaleOff + 2 * g) 2))

/-- The scale of a group as an exact number; infinities and NaNs do not pass the release checks. -/
def fvalDyadic : FVal → Dyadic
  | .fin s m => Dyadic.of s m
  | _ => ⟨0, 0⟩

/-- The factor of row `row`, position `k` (R97), under the planes declared (R92). -/
def Reservation.factor (r : Reservation) (exps : List (Option Int)) (row k : Nat) : Dyadic :=
  let c := (r.elems.get (row * r.k + k)).toNat
  let g := row * (r.k / r.blk) + k / r.blk
  let low := c % 2 ^ r.planes
  match r.fmt with
  | 0 =>
    let t : Int := if c % 2 = 0 then 0 else if r.planes = 2 ∧ 2 ≤ c then -1 else 1
    (Dyadic.mul ⟨t, 0⟩ (fvalDyadic (r.sigma g)))
  | 1 =>
    let z := (r.side.get (r.zpOff + g)).toNat % 16
    (Dyadic.mul ⟨(low : Int) - z, 0⟩ (fvalDyadic (r.sigma g)))
  | 2 =>
    let z := (r.side.get (r.zpOff + g)).toNat
    (Dyadic.mul ⟨(low : Int) - z, 0⟩ (fvalDyadic (r.sigma g)))
  | 3 | 4 => ⟨lowSigned r.planes c, 0⟩
  | f =>
    let bitsM := if f = 7 then 8 else 4
    let s := c.testBit (if f = 7 then 15 else 7)
    let m := c % 2 ^ bitsM
    let cut := bitsM - (r.planes - 1)
    let m := m / 2 ^ cut * 2 ^ cut
    let x := (exps.getD g (some 0)).getD 0
    ⟨if s then -(m : Int) else m, x - (if f = 7 then 7 else 3)⟩

/-! ### Release checks (R348) -/

/-- Whether a format pair is accepted (R225). -/
def pairOk (a b : Nat) : Bool := (decide (a ≤ 4) && decide (b ≤ 4)) || (decide (5 ≤ a) && decide (5 ≤ b))

/-- Passes of a member's `mma` (R224). -/
def passesOf (m : MmaArgs) (qa : Reservation) : Nat := if m.npass = 0 then qa.k / 64 - m.apass else m.npass

/-- Groups of a reservation that a run of passes reads. -/
def Reservation.groupsRead (r : Reservation) (p0 n : Nat) : List Nat :=
  let per := r.k / r.blk
  ((List.range n).flatMap fun p => (List.range 64).flatMap fun row =>
    ((List.range 64).map fun i => row * per + (64 * (p0 + p) + i) / r.blk).dedup).dedup

/-- A malformed block that the passes read. -/
def Reservation.malformed (r : Reservation) (p0 n : Nat) : Bool :=
  if 5 ≤ r.fmt then
    let e := r.exps
    (r.groupsRead p0 n).any fun g => (e.getD g none).isNone
  else false

/-- A scale that encodes an infinity or a NaN, in a group that the passes read. -/
def Reservation.badSigma (r : Reservation) (p0 n : Nat) : Bool :=
  if r.fmt ≤ 2 then
    (r.groupsRead p0 n).any fun g => match r.sigma g with
      | .fin _ _ => false
      | _ => true
  else false

/-- The DETAIL of the lowest-numbered check that a member fails (R348). (log 56: DEDUCED) -/
def memberCheck (res : Nat → Option Reservation) (tileHeld : Bool) (m : MmaArgs) : Option Nat :=
  match res m.qa, res m.qb with
  | some a, some b =>
    if a.state ≤ 1 ∨ b.state ≤ 1 then some 7
    else if !pairOk a.fmt b.fmt then some 8
    else
      let n := passesOf m a
      if a.k / 64 < m.apass + n ∨ b.k / 64 < m.bpass + n then some 9
      else if !tileHeld then some 10
      else if a.badByte ∨ b.badByte then some 11
      else if a.malformed m.apass n || b.malformed m.bpass n then some 12
      else if a.badSigma m.apass n || b.badSigma m.bpass n then some 13
      else none
  | _, _ => some 7

/-! ### The result (R226) -/

/-- One element of the tile after one pass. -/
def passElement (sat : Bool) (a b : Reservation) (ea eb : List (Option Int)) (pa pb i j : Nat) (acc : BitVec 36) : BitVec 36 :=
  let root := treeRoot ((List.range 64).map fun k =>
    (a.factor ea i (64 * pa + k)).mul (b.factor eb j (64 * pb + k)))
  BitVec.ofNat 36
    (if (a.fmt = 3 ∨ a.fmt = 4) ∧ (b.fmt = 3 ∨ b.fmt = 4) then accIntAdd sat acc.toNat root else acc36Add sat acc.toNat root)

/-- One element of the tile after every pass of one member. -/
def memberElement (sat : Bool) (a b : Reservation) (ea eb : List (Option Int)) (m : MmaArgs) (i j : Nat) (acc : BitVec 36) : BitVec 36 :=
  (List.range (passesOf m a)).foldl (fun acc p => passElement sat a b ea eb (m.apass + p) (m.bpass + p) i j acc) acc

/-- The tile after a joint `mma`: CLR and SAT are the first member's (R226). -/
def MmaOp.result (o : MmaOp) (t : Sparse 36) : Sparse 36 :=
  let clr := o.members.head?.elim false (·.args.clr)
  let sat := o.members.head?.elim false (·.args.sat)
  let ms := o.members.filterMap fun m =>
    match o.inputs.find? fun r => r.q == m.args.qa, o.inputs.find? fun r => r.q == m.args.qb with
    | some a, some b => some (m.args, a, b, a.exps, b.exps)
    | _, _ => none
  Sparse.puts [] ((List.range 4096).map fun n =>
    (n, ms.foldl (fun acc e => memberElement sat e.2.1 e.2.2.1 e.2.2.2.1 e.2.2.2.2 e.1 (n / 64) (n % 64) acc)
          (if clr then 0 else t.get n)))

/-- Array cycles of an operation, without zero-skipping (R225, R227). -/
def MmaOp.cycles (o : MmaOp) : Nat :=
  (o.members.map fun m =>
    match o.inputs.find? fun r => r.q == m.args.qa, o.inputs.find? fun r => r.q == m.args.qb with
    | some a, some b => passesOf m.args a * (a.planes * b.planes)
    | _, _ => 0).sum

/-- Whether a pass reads a zero element of operand a: then the array may skip plane pairs of it (R226). -/
def Reservation.zeroIn (r : Reservation) (p : Nat) : Bool :=
  let e := if 5 ≤ r.fmt then r.exps else []
  (List.range 64).any fun i => (List.range 64).any fun k => (r.factor e i (64 * p + k)).n == 0

/-- Array cycles that zero-skipping cannot remove (R226, R227). (log 58: DEDUCED) -/
def MmaOp.least (o : MmaOp) : Nat :=
  (o.members.map fun m =>
    match o.inputs.find? fun r => r.q == m.args.qa, o.inputs.find? fun r => r.q == m.args.qb with
    | some a, some b => ((List.range (passesOf m.args a)).countP fun p => !a.zeroIn (m.args.apass + p)) * (a.planes * b.planes)
    | _, _ => 0).sum

/-- Group index of an operation's first member. -/
def MmaOp.first (o : MmaOp) : Nat := o.members.head?.elim 0 (·.group)

/-- An operation takes its place among the released ones: in order of release, and within a cycle of its core by first member (R227). -/
def insertMma (o : MmaOp) : List MmaOp → List MmaOp
  | [] => [o]
  | m :: r => if m.core = o.core ∧ m.released = o.released ∧ m.started.isNone ∧ o.first < m.first then o :: m :: r else m :: insertMma o r

/-! ### Release of reservations (R223, R239) -/

/-- Whether an engine record in flight delivers into a reservation (R222, R235). -/
def EngineRec.targets (e : EngineRec) (core q : Nat) : Bool :=
  let ctl := (e.words.getD 6 0).toNat
  e.kind != .coll && e.status.isNone && !e.dropped && decide (2 ≤ bits ctl 26 25) && decide (bits ctl 24 21 = q) &&
    decide (e.core / 4 * 4 + bits ctl 20 19 = core)

/-- Free a reservation: records that deliver into it are dropped (R223, R239). -/
def State.freeReservation (s : State) (core q : Nat) : State :=
  { s with
    reservations := s.reservations.filter fun r => !(r.core == core && r.q == q)
    records := s.records.map fun e => if e.targets core q then { e with dropped := true } else e }

/-! ### The order of requests on a core (R220, R230, R363) -/

/-- Lexicographic order of keys. -/
def lexLt : List Nat → List Nat → Bool
  | [], [] => false
  | [], _ => true
  | _, [] => false
  | a :: r, b :: t => decide (a < b) || (decide (a = b) && lexLt r t)

/-- The age of a launch's requests: handler groups first, by sequence; then the T2 stamp, owner and queue (R363). (log 59: DEDUCED) -/
def Launch.ageKey (x : Launch) : List Nat :=
  if x.handler.isSome then [0, x.seq, 0, 0] else [1, x.stamps.getD 2 0, x.owner, x.queue.getD 0]

/-- The key of a path's request: older is smaller. (log 59: DEDUCED) -/
def State.requestKey (s : State) (r : PathRef) : List Nat :=
  ((s.launch? r.launch).elim [] Launch.ageKey) ++ [r.block, r.group, r.path]

/-- What a waiting request asks for: records and granule runs, or tiles. -/
structure Request where
  ref : PathRef
  q : Option Nat
  first : Nat
  count : Nat
  tiles : Word
deriving DecidableEq, Repr

/-- A `opres` request. -/
def opresRequest (r : PathRef) (q : Nat) (w0 : Word) : Request := ⟨r, some q, bits w0.toNat 31 22, bits w0.toNat 21 12 + 1, 0⟩

/-- The requests that wait on a core (R363). -/
def State.requests (s : State) (core : Nat) : List Request :=
  (s.groupsOn core).flatMap fun e => e.2.2.paths.zipIdx.filterMap fun p =>
    let r : PathRef := ⟨e.1.seq, e.2.1.index, e.2.2.index, p.2⟩
    match p.1.valid, p.1.status with
    | true, .waiting (.opres q w0 _) => some (opresRequest r q w0)
    | true, .waiting (.accAlloc m) => some ⟨r, none, 0, 0, m⟩
    | _, _ => none

/-- Whether two requests want the same record, granule or tile. -/
def Request.meets (a b : Request) : Bool :=
  (a.q.isSome && a.q == b.q) ||
  (a.q.isSome && b.q.isSome && decide (a.first < b.first + b.count) && decide (b.first < a.first + a.count)) ||
  (a.tiles &&& b.tiles) != 0

/-- The oldest waiting request of a core. (log 59: DEDUCED) -/
def State.oldestRequest (s : State) (core : Nat) : Option PathRef :=
  (s.requests core).foldl (fun m r => match m with
    | none => some r.ref
    | some o => if lexLt (s.requestKey r.ref) (s.requestKey o) then some r.ref else some o) none

/-- Count anew who is the oldest unsatisfied request of a core (R364). -/
def State.noteOldest (s : State) (core : Nat) : State :=
  match s.oldestRequest core with
  | none => { s with contention := s.contention.filter fun e => e.1 != core }
  | some r =>
    if s.contention.any fun e => e.1 == core && e.2.1 == r then s
    else { s with contention := (core, r, 0) :: s.contention.filter fun e => e.1 != core }

/-- Whether an older waiting request of the core asks for part of this one. -/
def State.olderWants (s : State) (core : Nat) (q : Request) : Bool :=
  (s.requests core).any fun r => r.ref != q.ref && r.meets q && lexLt (s.requestKey r.ref) (s.requestKey q.ref)

/-- Count anew on every core where a request was the oldest. -/
def State.recount (s : State) : State := (s.contention.map (·.1)).foldl State.noteOldest s

/-- Count anew on the four cores of a cluster. -/
def State.noteCluster (s : State) (k : Nat) : State := (List.range 4).foldl (fun s j => s.noteOldest (4 * k + j)) s

end Sys2Proof.Machine
end

