-- ==== Sys2Proof/Machine/Sm3.lean ====
section
/-! DEFINITION. The SM3 digest (R272, R414, R415), which the manual names and does not define: it is the published algorithm of that name.
 -/

namespace Sys2Proof.Machine

/-- Rotation to the left. -/
def rotl (x : Word) (n : Nat) : Word := x.rotateLeft n

/-- The permutation of the compression. -/
def sm3P0 (x : Word) : Word := x ^^^ rotl x 9 ^^^ rotl x 17

/-- The permutation of the message expansion. -/
def sm3P1 (x : Word) : Word := x ^^^ rotl x 15 ^^^ rotl x 23

/-- The chaining value: eight words. -/
structure Sm3 where
  a : Word
  b : Word
  c : Word
  d : Word
  e : Word
  f : Word
  g : Word
  h : Word
deriving DecidableEq, Repr

def Sm3.start : Sm3 :=
  ⟨0x7380166F, 0x4914B2B9, 0x172442D7, 0xDA8A0600, 0xA96F30BC, 0x163138AA, 0xE38DEE4D, 0xB0FB0E4E⟩

/-- The constant of a round. -/
def sm3T (j : Nat) : Word := rotl (if j < 16 then 0x79CC4519 else 0x7A879D8A) (j % 32)

/-- One round, on the message words `w` and `w ^^^ v`. -/
def Sm3.round (x : Sm3) (j : Nat) (w v : Word) : Sm3 :=
  let ss1 := rotl (rotl x.a 12 + x.e + sm3T j) 7
  let ff := if j < 16 then x.a ^^^ x.b ^^^ x.c else (x.a &&& x.b) ||| (x.a &&& x.c) ||| (x.b &&& x.c)
  let gg := if j < 16 then x.e ^^^ x.f ^^^ x.g else (x.e &&& x.f) ||| (~~~x.e &&& x.g)
  let tt1 := ff + x.d + (ss1 ^^^ rotl x.a 12) + (w ^^^ v)
  let tt2 := gg + x.h + ss1 + w
  ⟨tt1, x.a, rotl x.b 9, x.c, sm3P0 tt2, x.e, rotl x.f 19, x.g⟩

/-- The message words that follow a window of sixteen. -/
def sm3Next (w : List Word) : Word :=
  let at_ (k : Nat) : Word := w.getD k 0
  sm3P1 (at_ 0 ^^^ at_ 7 ^^^ rotl (at_ 13) 15) ^^^ rotl (at_ 3) 7 ^^^ at_ 10

/-- The rounds from `j` on, `n` of them, over a sliding window of sixteen message words. -/
def Sm3.rounds : Nat → Nat → List Word → Sm3 → Sm3
  | 0, _, _, x => x
  | n + 1, j, w, x => Sm3.rounds n (j + 1) (w.drop 1 ++ [sm3Next w]) (x.round j (w.getD 0 0) (w.getD 4 0))

/-- The compression of one block of sixteen words. -/
def Sm3.compress (x : Sm3) (w : List Word) : Sm3 :=
  let y := Sm3.rounds 64 0 w x
  ⟨x.a ^^^ y.a, x.b ^^^ y.b, x.c ^^^ y.c, x.d ^^^ y.d, x.e ^^^ y.e, x.f ^^^ y.f, x.g ^^^ y.g, x.h ^^^ y.h⟩

/-- A message with its padding, in big-endian words. -/
def sm3Padded (bs : List Byte) : List Word :=
  let n := bs.length
  let zeros := (119 - n % 64) % 64
  let all := bs ++ [0x80] ++ List.replicate zeros 0 ++ (leBytes 8 (8 * n)).reverse
  (List.range (all.length / 4)).map fun k => BitVec.ofNat 32 (leNat ((all.drop (4 * k)).take 4).reverse)

def Sm3.blocks : Nat → List Word → Sm3 → Sm3
  | 0, _, x => x
  | n + 1, w, x => Sm3.blocks n (w.drop 16) (x.compress (w.take 16))

/-- The SM3 digest of a byte string, its first byte most significant. (log 125: PRESUMED) -/
def sm3 (bs : List Byte) : BitVec 256 :=
  let w := sm3Padded bs
  let x := Sm3.blocks (w.length / 16) w Sm3.start
  x.a ++ x.b ++ x.c ++ x.d ++ x.e ++ x.f ++ x.g ++ x.h

end Sys2Proof.Machine
end

