-- ==== Sys2Proof/Machine/Ops.lean ====
section
/-! DEFINITION. The named operations of the machine: time, progress of a path through its clauses, issue, lanes that leave, joins that
merge, reports and interrupts, taking an exception (R320 to R331) and the return from one (R329), stopping an owner (R354), and
pre-emption (R336). -/

namespace Sys2Proof.Machine

/-! ### Groups and paths -/

/-- A path whose next word can issue (R29). -/
def Path.isReady (p : Path) : Bool := p.valid && p.status == .ready && p.stopped.isNone

/-- A path that waits for a handler, or is stopped, which counts alike (R337, R370, R397). -/
def Path.waitsHandler (p : Path) : Bool := p.valid && (p.status == .waiting .handler || p.stopped.isSome)

def Path.sleeps (p : Path) : Bool := p.valid && match p.status with
  | .sleeping _ => true
  | _ => false

/-- Words of code at a virtual address, as die `die` reads them. -/
def State.codeWords (s : State) (o die va n : Nat) : List Word :=
  bytesWords n ((s.readMap die (s.vaRead o) va (4 * n)).getD (List.replicate (4 * n) 0))

/-- Whether the counters that a clause's WAIT names read zero (R63, R115). -/
def Group.waitClear (z : Group) (h : Nat) : Bool := (List.range 6).all fun k => !h.testBit (7 + k) || z.sbCount k == 0

/-- Whether a path stands before a clause whose counters do not read zero: it waits (R29, R115). -/
def State.unmet (s : State) (x : Launch) (z : Group) (p : Path) : Bool :=
  p.idx == 0 && !z.waitClear (p.fetched.headD ((s.codeWords x.owner (dieOf z.core) p.pc 1).headD 0)).toNat

/-- Whether a group has a ready path (R29). -/
def State.anyReady (s : State) (x : Launch) (z : Group) : Bool := z.paths.any fun p => p.isReady && !s.unmet x z p

/-- Groups of a block that hold a residency. -/
def Block.residents (y : Block) : List Group := if y.cluster.isSome then y.groups.filter fun z => !z.freed else []

/-- The state of R337: no resident group has a ready path, and a path waits for a handler. -/
def State.stuck (s : State) (x : Launch) (y : Block) : Bool :=
  !y.residents.isEmpty && y.residents.all (fun z => !s.anyReady x z) && y.residents.any fun z => z.paths.any Path.waitsHandler

/-! ### Time -/

/-- Paths of a group that wait as `f` says. -/
def Group.countWaits (z : Group) (f : Wait → Bool) : Nat :=
  z.paths.countP fun p => p.valid && match p.status with
    | .waiting w => f w
    | _ => false

def State.tickGroup (s : State) (x : Launch) (dt : Nat) (z : Group) : Group :=
  if z.freed then z
  else { z with cResident := z.cResident + dt, cNoready := if s.anyReady x z then z.cNoready else z.cNoready + dt }

/-- Whether a group waits in `bar.wait` on a data barrier with bytes pending (counter 26). -/
def State.tierWaits (s : State) (x : Launch) (y : Block) (z : Group) : Bool :=
  z.paths.any fun p => p.valid && match p.status with
    | .waiting (.barrier a _) =>
      let o := s.barRead x.seq y.index z.core a
      o.data && decide (0 < o.pending.toInt)
    | _ => false

def Launch.tierWaiters (s : State) (x : Launch) : Nat :=
  (x.blocks.map fun y => y.residents.countP fun z => s.tierWaits x y z).sum

/-- Whether an access of an owner is held by a tier cap: an access word's, an engine record's or a pump refill of its ordinary groups (R358). -/
def State.accessHeld (s : State) (k : Nat) : Bool :=
  (s.owner k).capHeld &&
    ((s.ops.any fun o => o.owner == k && s.capHolds o) || (s.records.any fun r => r.owner == k && r.status.isNone && !r.faulted) ||
     s.launches.any fun x => x.owner == k && x.handler.isNone && x.blocks.any fun y => y.residents.any fun z =>
       decide (0 < z.countWaits fun w => match w with
         | .pump _ | .wspill _ _ _ => true
         | _ => false))

/-- Whether a cycle counts for the hang watchdog (R370), but for words that issue. -/
def State.watched (s : State) (x : Launch) : Bool :=
  let o := s.owner x.owner
  let gs := x.blocks.flatMap Block.residents
  !gs.isEmpty && !o.throttled && !s.accessHeld x.owner && !(x.blocks.any fun y => y.cluster.isNone && y.admitted.isNone && !y.ended) &&
  !((x.stage == .ramp || x.stage == .placing) && x.handler.isNone && decide (x.blocks.length < x.header.blocks)) &&
  !(x.blocks.any fun y => y.groups.any fun z => !z.freed && z.paths.any fun p => p.waitsHandler || p.sleeps) &&
  !(s.records.any fun r => r.launch == x.seq)

/-- Whether the present cycle itself does not count: a word of the launch issued in it, a core of the launch was held, or ballast issued on its
behalf (R370). -/
def State.spared (s : State) (x : Launch) : Bool :=
  let gs := x.blocks.flatMap Block.residents
  (gs.any fun z => z.lastIssue == s.cycle && z.cWords != 0) ||
  (decide (s.governor.heldAt = s.cycle) && gs.any fun z => s.governor.heldCores.contains z.core) ||
  (decide (s.governor.ballastAt = s.cycle) && s.governor.ballastFor.contains x.seq)

def State.tickBlock (s : State) (x : Launch) (dt : Nat) (y : Block) : Block :=
  { y with
    groups := if y.cluster.isSome then y.groups.map (s.tickGroup x dt) else y.groups
    stall := if s.stuck x y then y.stall + dt else 0
    faulted := y.faulted && s.stuck x y }

def Launch.tick (s : State) (dt : Nat) (x : Launch) : Launch :=
  { x with
    blocks := x.blocks.map (s.tickBlock x dt)
    watch := if s.watched x then x.watch + (dt - if s.spared x then 1 else 0) else x.watch
    tierstall := x.tierstall + dt * x.tierWaiters s }

/-- Selectable events 5 and 8 in one cycle, of an owner's groups (R316). -/
def State.eventRate (s : State) (o code : Nat) : Nat :=
  let gs := (s.launches.filter fun x => x.owner == o).flatMap fun x => x.blocks.flatMap Block.residents
  let n (f : Wait → Bool) := (gs.map fun z => z.countWaits f).sum
  if code = 5 then n fun w => match w with
    | .latch _ => true
    | _ => false
  else if code = 8 then n fun w => match w with
    | .opres _ _ _ | .accAlloc _ => true
    | _ => false
  else 0

/-- The 64-bit field at word `k`. -/
def dwordAt (ws : List Word) (k : Nat) : Nat := (ws.getD k 0).toNat + 2 ^ 32 * (ws.getD (k + 1) 0).toNat

/-- The string whose digest is the cache key (R272). -/
def Header.keyString (h : Header) : List Byte :=
  leBytes 8 h.imageid.toNat ++ leBytes 8 (dwordAt h.raw 4) ++ [if h.roles then 1 else 0] ++
  leBytes 4 (if h.roles then h.prodEntry else 0) ++ leBytes 4 (if h.roles then h.consEntry else 0) ++
  (h.args.zipIdx.filter fun e => h.static.getLsbD e.2).flatMap fun e => BitVec.ofNat 8 e.2 :: leBytes 4 e.1.toNat

/-- The cache key: the first 16 bytes of the digest. -/
def Header.key (h : Header) : BitVec 128 := (sm3 h.keyString).extractLsb' 128 128

/-- Whether the specialiser builds the entry of a launch: in stage 4, without an entry, not for a throttled owner, nor while a read of it waits for a
handler (R272, R356, R361). (log 75: DEDUCED) -/
def State.building (s : State) (x : Launch) : Bool :=
  let w := s.owner x.owner
  x.stage == .specialise && w.valid && !w.stopped && w.migrating.isNone && !w.throttled && !(s.origins.any fun g => g.source == .launchRead x.seq) &&
    !(w.cache.any fun e => e.key == x.header.key)

/-- Array cycles of an operation in `dt` cycles from the present one on: those after its start, one for each pass it executes (R227). (log 58: DEDUCED) -/
def State.passesIn (s : State) (dt : Nat) (m : MmaOp) : Nat :=
  m.started.elim 0 fun t => min m.ran (s.cycle + dt - 1 - t) - min m.ran (s.cycle - 1 - t)

/-- What `dt` cycles of the present state add to an owner's counters: a cycle of its specialiser counts toward its ISSUECAP too (R366). -/
def Owner.pass (s : State) (dt k : Nat) (o : Owner) : Owner :=
  let o := if s.launches.any fun x => x.owner == k && s.building x then { o.bump 23 dt with periodIssued := o.periodIssued + dt } else o
  let ran := ((s.mmas.filter fun m => (s.launch? m.launch).elim false fun x => x.owner == k).map fun m => s.passesIn dt m).sum
  let o := if o.throttled then { o with throttledFor := o.throttledFor + dt } else o
  let o := if o.throttled || s.accessHeld k then o.bump 29 dt else o
  let n := ((s.launches.filter fun x => x.owner == k).map fun x => x.tierWaiters s).sum
  let o := if n = 0 then o else o.bump 26 (dt * n)
  ((o.event 1 ran).event 5 (dt * s.eventRate k 5)).event 8 (dt * s.eventRate k 8)

/-- The counters are remembered for as long as a read of them may trail, 64 cycles (R315). -/
def Owner.remember (s : State) (dt k : Nat) (o : Owner) : Owner :=
  let steps := if (o.pass s 1 k).counters = o.counters then [0]
    else 0 :: ((List.range (min dt 64)).map (· + (dt - min dt 64))).filter (· != 0)
  let l := steps.foldl (fun (l : List (Nat × Sparse 64)) j =>
    let v := (o.pass s j k).counters
    if l.getLast?.elim [] (·.2) = v then l else l ++ [(s.cycle + j, v)]) o.trail
  let back (e : Nat × Sparse 64) : Bool := decide (e.1 + 64 ≤ s.cycle + dt)
  { o with trail := (l.filter back).getLast?.toList ++ l.filter fun e => !back e }

def Owner.tick (s : State) (dt k : Nat) (o : Owner) : Owner := (o.remember s dt k).pass s dt k

/-- Draw of the package in a cycle, issue apart, in hundredths of a watt (R277). -/
def State.baseDraw (s : State) : Nat :=
  let sevens := (s.launches.flatMap fun x => x.blocks.flatMap fun y => (y.residents.filter (·.ran7)).map (·.core)).dedup
  let arrays := ((s.mmas.filter fun m => m.started.isSome).map (·.core)).dedup.filter fun c => !sevens.contains c
  40000 + 240 * (sevens.length + arrays.length)

/-- Paths of resident blocks whose latest word holds a pipe in the present cycle or later. -/
def State.piped (s : State) : List (Nat × Path) :=
  s.launches.flatMap fun x => x.blocks.flatMap fun y => y.residents.flatMap fun z =>
    (z.paths.filter fun p => p.valid && p.pipeEnd != 0 && decide (s.cycle ≤ p.pipeEnd)).map fun p => (z.core, p)

/-- What the holds of the present cycle keep back: all of it, and of beats that take two cycles. -/
def State.kept (s : State) : Nat := if s.governor.heldAt = s.cycle then s.governor.kept else 0
def State.keptTwo (s : State) : Nat := if s.governor.heldAt = s.cycle then s.governor.keptTwo else 0

/-- The draw of beats that have issued, summed over `dt` cycles from the present one on (R277). -/
def State.pipeDraw (s : State) (dt : Nat) : Nat := (s.piped.map fun e => e.2.pipeWeight * min dt (e.2.pipeEnd + 1 - s.cycle)).sum - s.kept

/-! ### Ceiling and floor of the governor (R277, R280, R281) -/

/-- The permitted change of the estimate from slot to slot: LIMIT × 1 µs, as a sum over a slot. -/
def Governor.allowed (g : Governor) : Nat := 100 * g.limit * Config.rampSlot

/-- The excess X(n) that is carried (R280). -/
def Governor.excess (g : Governor) : Nat := g.estimate - g.previous - g.allowed

/-- The ceiling and the floor of the current slot, per cycle times 3000 (R280, R281). -/
def Governor.ceiling (g : Governor) : Nat := g.estimate + g.allowed - g.excess
def Governor.floor (g : Governor) : Nat := g.estimate - g.allowed

/-- Whether a core holds a group of a pinned launch: it is never held (R282). (log 83: DEDUCED) -/
def State.pinnedCore (s : State) (core : Nat) : Bool := (s.groupsOn core).any fun e => e.1.header.pinned && e.1.handler.isNone

/-- Whether a core is held in the present cycle (R280). -/
def State.coreHeld (s : State) (core : Nat) : Bool := decide (s.governor.heldAt = s.cycle) && s.governor.heldCores.contains core

/-- Whether a path's latest word would issue a beat in cycle `t` (R280): not in the second pipe cycle of a beat. -/
def Path.beatDue (p : Path) (t : Nat) : Bool :=
  p.valid && p.pipeEnd != 0 && decide (t ≤ p.pipeEnd) && (!p.pipeTwo || (p.pipeEnd - t) % 2 == 1)

/-- The draw of a cycle that no hold takes away: the base, and the second pipe cycles of beats that have issued (R280). (log 84: DEDUCED) -/
def State.fixedDraw (s : State) : Nat :=
  s.baseDraw + ((s.piped.filter fun e => !e.2.beatDue s.cycle).map (·.2.pipeWeight)).sum - s.keptTwo

/-- The beats that issue in the present cycle, of words that have issued: core and path. -/
def State.dueBeats (s : State) : List (Nat × Path) := s.piped.filter fun e => e.2.beatDue s.cycle && !s.coreHeld e.1

/-- The draw D(t) of the present cycle so far (R277): nothing of the beats that a hold keeps back. (log 84: DEDUCED) -/
def State.draw (s : State) : Nat :=
  s.baseDraw + s.pipeDraw 1 + if s.governor.drawAt = s.cycle then s.governor.draw else 0

/-- The planned draw P(t) of the present cycle so far (R280). (log 84: DEDUCED) -/
def State.planned (s : State) : Nat :=
  s.fixedDraw + (s.dueBeats.map (·.2.pipePlan)).sum + if s.governor.drawAt = s.cycle then s.governor.plan else 0

/-- Whether what is planned at a weight may come on a core in the present cycle: the core is not held, and the planned draw stays within the ceiling;
cores of pinned launches are never held (R280, R282). (log 84: DEDUCED) -/
def State.underCeiling (s : State) (core weight : Nat) : Bool :=
  decide (weight = 0) || (!s.coreHeld core && (s.pinnedCore core || decide ((s.planned + weight) * Config.rampSlot ≤ s.governor.ceiling)))

/-- `dt` cycles pass. (log 109: DESIGN CHOICE) -/
def State.tick (s : State) (dt : Nat) : State :=
  if dt = 0 then s
  else
    { s with
      cycle := s.cycle + dt
      launches := s.launches.map fun x => x.tick s dt
      owners := s.owners.mapIdx fun k o => if o.valid then o.tick s dt k else o
      governor := { s.governor with sum := s.governor.sum + dt * s.baseDraw + s.pipeDraw dt }
      contention := s.contention.map fun e => (e.1, e.2.1, e.2.2 + dt) }

/-! ### Progress through a clause -/

/-- The header of the clause a path is in. -/
def Path.header (p : Path) : Nat := (p.fetched.headD 0).toNat
def Path.count (p : Path) : Nat := bits p.header 3 0
def Path.uniform (p : Path) : Bool := p.header.testBit 17
def Path.ramp (p : Path) : Nat := bits p.header 15 13
def Path.yieldHint (p : Path) : Nat := bits p.header 19 18

/-- What belongs to one word only is forgotten. -/
def Path.clear (p : Path) : Path :=
  { p with pfx := none, reexec := none, retry := 0, retried := false, tookEffect := false, released := false, served := [], servedRegs := [],
                servedPoison := [], zeroedWord := false, counted := false, logged := none }

/-- The path stands before the clause at an address. -/
def Path.goto (p : Path) (target : Nat) : Path := { p.clear with pc := target % 2 ^ 64, idx := 0, fetched := [] }

/-- Address of the next clause in sequence (R113). -/
def Path.nextPc (p : Path) : Nat := (p.pc + 4 * (p.count + 1)) % 2 ^ 64

/-- The path goes on past `n` words; past the last word stands the next clause. -/
def Path.advance (p : Path) (n : Nat) : Path :=
  if p.count < p.idx + n then p.goto p.nextPc else { p.clear with idx := p.idx + n }

/-- Words that the instruction at the path's place takes, its prefix included, read from the clause as fetched. -/
def Path.rawSpan (p : Path) : Nat :=
  let one (k : Nat) : Nat := match p.fetched[k]? with
    | some w => if hasTrailing w then 2 else 1
    | none => 1
  match p.fetched[p.idx]? with
  | some w => if isPrefixWord w then 1 + one (p.idx + 1) else one p.idx
  | none => 1

/-- Words of an instruction under the prefix that precedes it. -/
def Path.spanOf (p : Path) (i : Instr) : Nat := (if p.pfx.isSome then 1 else 0) + (encode i).length

/-! ### Masks (R22, R25) -/

/-- The scalars of an alternate mask triple. -/
def Path.altMask (p : Path) (m : Nat) : Lanes :=
  ofMaskWords (p.priv.get (105 + 3 * m)) (p.priv.get (106 + 3 * m)) (p.priv.get (107 + 3 * m)) &&& p.present

/-- The mask a word uses: MASKSEL's (R25), or in a retry the retried lanes that are present (R329). -/
def Path.selected (p : Path) : Lanes :=
  match p.reexec with
  | some m => m &&& p.present
  | none =>
    match p.pfx with
    | none => p.mask
    | some f => if f.masksel = 0 then p.mask else p.altMask f.masksel

/-- The lane that names a whole-path origin (R116, R322). -/
def Path.namingLane (p : Path) : Nat := ((lowest p.selected).or (lowest p.present)).getD 0

/-! ### Issue (R122, R286, R300, R314) -/

/-- Weight of a power class in hundredths of a watt (R277). -/
def classWeight (c : Nat) : Nat := [5, 15, 25, 39, 39, 20, 0, 39].getD c 0

/-- What a word takes when it issues: its power class, its issued beats, pipe cycles of a beat, STALL, added cycles (R150), whether it is one of
the words that use no pipe (R286), and its latency (R123). -/
structure Issue where
  cls : Nat
  beats : Nat
  perBeat : Nat
  stall : Nat
  extra : Nat
  plain : Bool
  lat : Nat
deriving DecidableEq, Repr

/-- The end cycle of a word that issues in cycle `t` (R122). -/
def Issue.ends (w : Issue) (t : Nat) : Nat := t + (w.beats * w.perBeat - 1)

/-- A word of an owner's group issues on a core: the core-cycle counts once (R300), and once for its handler groups (R314), but for a cycle in which the
core is held. Its free values are used up. -/
def Owner.noteIssue (o : Owner) (core t : Nat) (handler held : Bool) : Owner :=
  let o := { o with free := o.free + 2048 }
  let o := if held || o.issueCores.any fun e => e.1 == core && e.2 == t then o
    else { o.bump 16 1 with
      periodIssued := o.periodIssued + 1
      issueCores := (core, t) :: o.issueCores.filter fun e => e.1 != core }
  if !handler || held || o.handlerCores.any (fun e => e.1 == core && e.2 == t) then o
  else { o.bump 28 1 with
    periodHandler := if o.throttled then o.periodHandler + 1 else o.periodHandler
    handlerCores := (core, t) :: o.handlerCores.filter fun e => e.1 != core }

/-- A prefix word and whether a must-be-zero bit of it is set. -/
def readPrefix (w : Word) : Option Pfx × Bool :=
  match decodeWord w 0 with
  | .ok i => (prefixFields i, false)
  | .error (.mustBeZero i) | .error (.reservedField i) => (prefixFields i, true)
  | .error _ => (none, true)

/-- The class of a clause, from its words and the EXT of the prefix before the first: the highest among its words (R117). -/
def clauseClass : Nat → Nat → List Word → Nat
  | 0, _, _ => 0
  | _, _, [] => 0
  | k + 1, x, w :: r =>
    if isPrefixWord w then clauseClass k ((readPrefix w).1.elim 0 (·.ext)) r
    else max (powerClass w x) (clauseClass k 0 (if hasTrailing w then r.drop 1 else r))

/-- The weight of a pipe cycle of a word, or of a word without beats; in a clause declared 7 at least 0.39 W (R277). -/
def Path.weightOf (p : Path) (w : Issue) : Nat := if p.ramp = 7 then max 39 (classWeight w.cls) else classWeight w.cls

/-- The weight at which the governor plans a word: that of the lower of its class and the declared one (R280). -/
def Path.planOf (p : Path) (w : Issue) : Nat := classWeight (min w.cls p.ramp)

def Path.noteIssue (p : Path) (w : Issue) (t free : Nat) : Path :=
  { p with
    fileFree := free + 1824
    nextIssue := w.ends t + 1 + w.stall + w.extra
    issuedAt := some t
    stallEnd := w.ends t + 1 + w.stall
    pipeEnd := if w.beats = 0 then p.pipeEnd else w.ends t
    pipeTwo := w.perBeat == 2
    pipeWeight := p.weightOf w
    pipePlan := p.planOf w
    lastReady := w.ends t + w.lat
    skipBreak := false
    counted := true
    stepLeft := p.stepLeft.map (· - 1) }

/-- Whether a word of `n` words is the last of its clause. -/
def Path.lastWord (p : Path) (n : Nat) : Bool := decide (p.count < p.idx + n)

def Group.noteIssue (z : Group) (k : Nat) (p : Path) (n : Nat) (w : Issue) (t free : Nat) : Group :=
  let last := p.lastWord n
  { z with
    cWords := z.cWords + 1
    cBeats := z.cBeats + w.beats
    wordsAt := z.wordsAt.filter (fun a => decide (t ≤ a)) ++ [t]
    plainAt := z.plainAt.filter (fun a => decide (t ≤ a)) ++ if w.plain then [t] else []
    lastIssue := t
    lastPath := k
    hazards := z.hazards.filter fun h => decide (t ≤ h.ready)
    flagHazards := z.flagHazards.filter fun h => decide (t ≤ h.ready)
    reaches := z.reaches.filter fun e => decide (t < e.at_)
    ran7 := z.ran7 || p.ramp == 7
    lastClass := clauseClass 16 0 (p.fetched.drop 1)
    yieldUntil := if last ∧ 2 ≤ p.yieldHint then t + (if p.yieldHint = 2 then 8 else 32) + 1 else z.yieldUntil }.updPath k
      fun p => p.noteIssue w t free

/-- A word that uses no pipe draws power in its issue cycle (R277); the beats of the others count as their cycles pass. -/
def State.noteDraw (s : State) (weight plan : Nat) (piped : Bool) : State :=
  if piped then s
  else
    { s with
      governor := { s.governor with
        sum := s.governor.sum + weight
        drawAt := s.cycle
        draw := (if s.governor.drawAt = s.cycle then s.governor.draw else 0) + weight
        plan := (if s.governor.drawAt = s.cycle then s.governor.plan else 0) + plan } }

/-- Whether this cycle is no further core-cycle of the owner: it is counted already, or the core is held (R300). -/
def State.issueCounted (s : State) (c : Ctx) : Bool :=
  s.coreHeld c.group.core || (s.owner c.launch.owner).issueCores.any fun e => e.1 == c.group.core && e.2 == s.cycle

/-- A launch counts a word's core-cycle once (R319), and its watchdog starts anew (R370). -/
def Launch.noteIssue (counted : Bool) (x : Launch) : Launch :=
  { x with watch := 0, issued := if counted then x.issued else x.issued + 1 }

/-- The word of a path issues in the current cycle. -/
def State.noteIssue (s : State) (c : Ctx) (i : Instr) (w : Issue) : State :=
  (((((if c.path.counted then id else fun s : State => s.logSwitch c.ref c.path.wordAddr)
    (s.updPathGroup c.ref fun z => z.noteIssue c.ref.path c.path (c.path.spanOf i) w s.cycle (s.owner c.launch.owner).free)).updLaunch
    c.ref.launch (Launch.noteIssue (s.issueCounted c))).updOwner c.launch.owner
      fun o => o.noteIssue c.group.core s.cycle c.launch.handler.isSome (s.coreHeld c.group.core))).noteDraw (c.path.weightOf w) (c.path.planOf w) (w.beats != 0)

/-- The path goes on past the word. -/
def State.finish (s : State) (c : Ctx) (i : Instr) : State := (s.flushLog c.ref).updPath c.ref fun p => p.advance (c.path.spanOf i)

/-! ### What a fence orders (R202) -/

/-- Earlier loads, gathers, atomics and takes of a group that lack their values (R202). -/
def State.pendingLoads (s : State) (r : PathRef) (mark : Nat) : Bool := (s.groupOps r mark).any fun o => o.kind.takes

/-- Earlier writes of a group that are not performed (R202). -/
def State.pendingWrites (s : State) (r : PathRef) (mark : Nat) : Bool := (s.groupOps r mark).any fun o => o.kind.writes

/-- The kinds of fence: 0 acquire, 1 release, 2 both; 3: the acquire of a `bar.wait` that finished on a poisoned phase (R382). -/
def fenceAcquires (kind : Nat) : Bool := kind != 1
def fenceReleases (kind : Nat) : Bool := kind == 1 || kind == 2

/-- Accesses that were issued before a mark (R202). -/
def earlierThan (mark : Nat) (l : List Done) : List Done := l.filter fun d => decide (d.mark ≤ mark)

/-- The order that a fence issued at a mark makes, for accesses of its group before that alone (R202): a release at `.pkg` or beyond carries the
group's writes, and what they come after, to every die (R259); later accesses of the path come after them (link 3 of R260) and are performed after them;
after an acquire, after what the group has read (link 4), and after those values were taken. -/
def State.fenceEffect (s : State) (r : PathRef) (kind scope mark : Nat) : State :=
  let z := s.group? r.launch r.block r.group
  let wrote := if fenceReleases kind then z.elim [] fun z => earlierThan mark z.wrote else []
  let reads := if fenceAcquires kind then z.elim [] fun z => earlierThan mark z.reads else []
  let ids := wrote.flatMap (·.ids)
  let s := if fenceReleases kind ∧ 5 ≤ scope then s.carry fun t => ids.contains t.id else s
  let everywhere := if 5 ≤ scope then (s.dies.map fun d => d.heldFrom ids fun _ => true).foldl max 0 else 0
  s.updPath r fun p =>
    p.after (((wrote ++ reads).map (·.moment)).foldl max everywhere) (s.closed ((wrote ++ reads).flatMap (·.ids)))

/-- The first access after a return from a handler comes after what the group has read (R329). (log 72: DEDUCED) -/
def State.acquireNow (s : State) (r : PathRef) (mark : Nat) : State :=
  (s.fenceEffect r 0 5 mark).updPath r fun p => { p with acquire := false }

/-- A waiting word is over: its path goes on past it. -/
def State.passWord (s : State) (r : PathRef) : State := s.updPath r fun p => { p.advance p.rawSpan with status := .ready }

/-! ### Quiet paths (R43, R110) and the completion of an operation -/

/-- A waiting `quiet` finishes with `v` in its triple (R110); its log record is filled in. -/
def State.endQuiet (s : State) (r : PathRef) (v : Word) : State :=
  match s.ctx? r with
  | none => s
  | some c =>
    match c.path.status with
    | .waiting (.quiet d) =>
      let s := (List.range 3).foldl (fun s j => s.placeResult r (.scal (d + j)) 0 v) s
      ((s.logPut c.launch.owner c.path.logged 12 (wordBytes [v, v, v])).passWord r).savePath r
    | _ => s

/-- Whether a group waits in `quiet` (R43): every path of it with a present lane does. -/
def Group.inQuiet (z : Group) : Bool :=
  z.paths.all fun p => !p.valid || p.present == 0 || match p.status with
    | .waiting (.quiet _) => p.stopped.isNone
    | _ => false

/-- The paths of a launch whose group waits in `quiet` (R43). -/
def Launch.quietPaths (x : Launch) : List PathRef :=
  x.blocks.flatMap fun y => (y.groups.filter fun z => !z.done && z.inQuiet).flatMap fun z => z.paths.zipIdx.filterMap fun e => match e.1.valid, e.1.status with
    | true, .waiting (.quiet _) => some ⟨x.seq, y.index, z.index, e.2⟩
    | _, _ => none

/-- An append to a well wakes every waiting `quiet` of the owner's launches that name the well (R110, R246). (log 40: DEDUCED) -/
def State.wakeQuiet (s : State) (o n : Nat) : State :=
  ((s.launches.filter fun x => x.owner == o && x.header.wells.getLsbD n).flatMap Launch.quietPaths).foldl (fun s r => s.endQuiet r 0) s

/-- An operation completes: its effect, its counter, and it is gone; an append wakes what waits for one (R110). -/
def State.completeOp (s : State) (o : Op) (moments : List Nat := []) : State :=
  let s := ((s.perform o moments).sbFall o.path o.sb).dropOp o.id
  if o.kind = .wellAdd then s.wakeQuiet o.owner o.tile else s

/-! ### Starting an operation -/

/-- Whether the pump's traffic, the fetching of clauses and frame records of a launch are held by its owner's tier cap (R358). -/
def State.pumpHeld (s : State) (x : Launch) : Bool := x.handler.isNone && (s.owner x.owner).capHeld

/-- A path whose access the tier cap holds tries again in the next cycle (R358). -/
def State.heldByCap (s : State) (r : PathRef) : State := s.updPath r fun p => { p with nextIssue := max p.nextIssue (s.cycle + 1) }

/-- The writes of a `wspill` (R255): dirty lines `lo` on, all where `n` is zero, then the header areas. (log 53: DEDUCED) -/
def State.wspillWrites (s : State) (c : Ctx) (lo n : Nat) (areas : List (Nat × List Byte)) : State :=
  (s.spillLines c.launch c.block c.group fun k => n == 0 || (decide (lo ≤ k) && decide (k < lo + n))).writeAreas c.launch c.block c.group areas

/-- A `wspill` that a tier cap has held performs its writes, and its path goes on (R255, R292). (log 53: DEDUCED) -/
def State.wspillEnds (s : State) (r : PathRef) : State :=
  match s.ctx? r with
  | none => s
  | some c =>
    match c.path.status with
    | .waiting (.wspill lo n areas) => (s.wspillWrites c lo n areas).passWord r
    | _ => s

/-- The earlier operations of the path that an access must follow: those that touch one of its bytes (R198). (log 42: DEDUCED) -/
def State.conflicts (s : State) (c : Ctx) (sp : Bool) (ranges : List (Nat × Nat)) : List Nat :=
  (s.ops.filter fun o => o.path == c.ref && o.sp == sp &&
    o.lanes.any fun e =>
      let n := if o.kind == .accLoad || o.kind == .accStore then e.2.2.1.toNat else o.width
      ranges.any fun r => decide (r.1 < e.2.1 + n) && decide (e.2.1 < r.1 + r.2)).map (·.id)

/-- Mark the destination of an asynchronous word as not yet seen (R63). (log 18: DEDUCED) -/
def Group.markUnseen (z : Group) (op k sb : Nat) (regs : List LaneReg) (m : Lanes) : Group :=
  { z with unseen := z.unseen ++ regs.map fun r => ⟨op, k, sb, r, match r with
    | .scal _ => 1
    | _ => m⟩ }

/-- An asynchronous operation enters flight and its counter rises. -/
def State.startOp (s : State) (c : Ctx) (o : Op) (regs : List LaneReg) (m : Lanes) : State :=
  let s := { s with ops := s.ops ++ [{ o with id := s.nextId }], nextId := s.nextId + 1 }
  let far := if o.sp then o.lanes.countP fun e => e.2.1 / Config.spadBytes % 4 != o.core % 4 else 0
  let s := if far = 0 then s else s.updOwner o.owner fun w => w.event 4 far
  s.updPathGroup c.ref fun z => (z.sbRise o.sb).markUnseen (s.nextId - 1) c.ref.path o.sb regs m

/-- An operation of the path, with nothing in it yet. -/
def State.blankOp (s : State) (c : Ctx) (kind : OpKind) (sb : Nat) : Op where
  id := 0
  kind := kind
  path := c.ref
  owner := c.launch.owner
  core := c.group.core
  sb := sb
  issued := s.cycle
  sp := false
  scope := 0
  width := 0
  ty := 0
  aop := 0
  lanes := []
  fixed := []
  dest := none
  pair := false
  zeroed := 0
  uniform := c.path.uniform
  tile := 0
  form := 0
  after := []
  preds := c.path.before
  horizon := c.path.horizon
  logAt := none
  toFlags := 0

/-! ### Interrupts and rings (R309, R318, R331) -/

/-- Raise an interrupt cause of an owner; coalesced while the vector is masked or the host port is down (R309, R391). -/
def State.interrupt (s : State) (o cause : Nat) : State :=
  let v := 4 * o + cause
  if s.links.masked.getLsbD v || !s.links.pcieUp then
    { s with links := { s.links with coalesced := s.links.coalesced ||| BitVec.ofNat 256 (2 ^ v) } }
  else { s with links := { s.links with sent := s.links.sent ++ [v] } }

/-- Post a record to a ring of an owner; false: the ring is full or unreadable, and the record is dropped (R318); what
lies on a page that cannot be written is not written. (log 47, 132: DESIGN CHOICE) -/
def State.ringPost (s : State) (o base l2 size : Nat) (bs : List Byte) : State × Bool :=
  match s.wordVirt o base, s.wordVirt o (base + 4) with
  | some w, some r =>
    let s := s.chargeVirt o base 8
    if (w - r).toNat = 2 ^ l2 then (s, false)
    else
      let s := s.writeVirt o (base + 64 + size * (w.toNat % 2 ^ l2)) bs
      (s.writeVirt o base (leBytes 4 (w + 1).toNat), true)
  | _, _ => (s, false)

/-- Post a report to the fault ring and raise cause 1 (R331). -/
def State.report (s : State) (o : Nat) (tag : List Word) (detail : Word) (disp : Nat) (imageid : DWord) : State :=
  let rb := (s.owner o).record.rsvbase
  let s := match s.readVirt o (rb + 0x10) 8, s.wordVirt o (rb + 0x18) with
    | some b, some sz =>
      let base := leNat b
      if base = 0 ∨ (s.owner o).record.rsvlen = 0 then s
      else
        (s.ringPost o base (bits sz.toNat 4 0) 64
          (wordBytes (tag ++ [detail, BitVec.ofNat 32 (disp * 2 ^ 30)]) ++ leBytes 8 s.cycle ++ leBytes 8 imageid.toNat ++
            List.replicate 8 0)).1
    | _, _ => s
  s.interrupt o 1

/-- The tag of a report that has no origin lane: KIND, word 3 and word 4 (R331). -/
def plainTag (kind : Nat) (w0 w1 w3 w4 : Word) : List Word := [w0, w1, BitVec.ofNat 32 (kind * 2 ^ 28), w3, w4, 0, 0, 0]

/-! ### Original addresses (R276, R323) -/

/-- The original address of a residual word, and word 1 of its back-map record: INSERT and ITER. -/
def State.backMap (s : State) (x : Launch) (addr : Nat) : Word × Word :=
  if x.handler.isSome then (BitVec.ofNat 32 addr, 0)
  else
    match (s.owner x.owner).cache.find? fun e => decide (e.base ≤ addr) && decide (addr < e.base + 4 * e.words) with
    | none => (BitVec.ofNat 32 addr, 0)
    | some e =>
      let r := e.base + 4 * e.words + 2 * (addr - e.base)
      ((s.wordVirt x.owner r).getD (BitVec.ofNat 32 addr), (s.wordVirt x.owner (r + 4)).getD 0)

/-! ### Lanes that leave, groups that end, and joins (R32, R155, R158) -/

/-- The paths whose arrival at record `r` is complete: every live holder has arrived. -/
def Group.mergeable (z : Group) (r : Nat) : Bool :=
  let j := z.joins.getD r ⟨0, false, 0⟩
  j.alloc && !(z.holders r).isEmpty && (z.holders r).all fun k => j.arrived.getLsbD k

/-- Free the record `r`. -/
def Group.freeJoin (z : Group) (r : Nat) : Group :=
  { z with joins := z.joins.modify r fun j => { j with alloc := false, arrived := 0 } }

/-- The entry `k` leaves the path table. -/
def Group.dropPath (z : Group) (k : Nat) : Group :=
  { z with
    paths := z.paths.set k Path.dead
    joins := z.joins.map fun j => { j with arrived := j.arrived &&& ~~~(BitVec.ofNat 4 (2 ^ k)) } }

/-- A path without a present lane leaves the table (R32, R158). Its lanes, all of them gone, become members of the lowest live path, so that the
memberships of the live paths cover all 96 lanes (R24). (log 114: DESIGN CHOICE) -/
def Group.vacate (z : Group) (k : Nat) : Group :=
  let m := (z.paths.getD k Path.dead).member
  let z := z.dropPath k
  match (List.range 4).find? fun j => (z.paths.getD j Path.dead).valid with
  | none => z
  | some j => z.updPath j fun p => { p with member := p.member ||| m }

/-- Merge the holders of record `r` into the lowest one, in cycle `t` (R32, R49). The merged path's next word keeps its `join`'s STALL, and two cycles
more from the last arrival on (R150). (log 20: DEDUCED) -/
def Group.merge (z : Group) (r t : Nat) : Group :=
  let hs := z.holders r
  match hs with
  | [] => z
  | k :: rest =>
    let ps := hs.map fun i => z.paths.getD i Path.dead
    let z := z.updPath k fun p =>
      { p.advance p.rawSpan with
        member := ps.foldl (fun m q => m ||| q.member) 0
        present := ps.foldl (fun m q => m ||| q.present) 0
        mask := ps.foldl (fun m q => m ||| q.mask) 0
        tokens := ps.foldl (fun m q => m &&& q.tokens) (BitVec.allOnes 4) &&& ~~~(BitVec.ofNat 4 (2 ^ r))
        before := (ps.flatMap (·.before)).dedup
        own := ps.flatMap (·.own)
        horizon := (ps.map (·.horizon)).foldl max 0
        l0Def := false
        l1Def := false
        status := .ready
        nextIssue := max p.nextIssue (t + 1) + 2 }
    (rest.foldl (fun z i => z.dropPath i) z).freeJoin r

/-- Settle the join records: free the records that no path holds, merge those whose holders have all arrived. -/
def Group.settle (z : Group) (t : Nat) : Group :=
  (List.range 8).foldl (fun z _ =>
    (List.range 4).foldl (fun z r =>
      if z.mergeable r then z.merge r t
      else if (z.joins.getD r ⟨0, false, 0⟩).alloc && (z.holders r).isEmpty then z.freeJoin r
      else z) z) z

/-- Note a scratchpad violation: only the first of a block is kept (R331, R346). (log 44: DEDUCED) -/
def State.violate (s : State) (c : Ctx) (tag : List Word) (detail : Nat) : State :=
  s.updBlock c.ref.launch c.ref.block fun y =>
    { y with violation := y.violation.orElse fun _ => some (tag, BitVec.ofNat 32 detail) }

/-- An access that faults: KIND, DETAIL, address, ACCESS (R251, R320), four more for an address that is not a virtual one. -/
structure FaultCase where
  kind : Nat
  detail : Nat
  addr : Nat
  access : Nat
deriving DecidableEq, Repr

/-- The address that words 0 and 1 of a tag hold (R320). -/
def FaultCase.tagAddr (f : FaultCase) : Nat := if f.kind = 1 ∨ f.kind = 2 ∨ f.kind = 8 ∨ f.kind = 11 then f.addr else 0

/-- The virtual address of the access; past them all where it has none: one in scratchpad, or a physical page (R355). -/
def FaultCase.va (f : FaultCase) : Nat := if f.access < 4 then f.addr else 2 ^ 64

/-- The origin tag of a lane of a path at its present word (R251). -/
def State.tagOf (s : State) (c : Ctx) (lane : Nat) (f : FaultCase) : List Word :=
  let rw := c.path.wordAddr
  let (orig, rec1) := s.backMap c.launch rw
  [BitVec.ofNat 32 f.tagAddr, BitVec.ofNat 32 (f.tagAddr / 2 ^ 32),
   BitVec.ofNat 32 (f.kind * 2 ^ 28 + f.access % 4 * 2 ^ 26 + c.ref.path * 2 ^ 24 + c.ref.group * 2 ^ 17 + lane * 2 ^ 10 + c.group.core),
   BitVec.ofNat 32 c.ref.launch, BitVec.ofNat 32 c.ref.block, orig, BitVec.ofNat 32 rw, rec1 &&& 63]

/-- Lanes leave presence (R158): they drop their items and tags, count as exits, and a path without a present lane leaves the table.
A lane that had arrived at a barrier phase still in force is a violation (R206). (log 76: DEDUCED) -/
def State.leave (s : State) (c : Ctx) (gone : Lanes) : State :=
  let late := (c.block.arrivals.filter fun a => a.group == c.ref.group && (a.lanes &&& gone) != 0).filterMap fun a =>
    if (s.barRead c.ref.launch c.ref.block c.group.core a.addr).phase = a.phase then lowest (a.lanes &&& gone) else none
  let s := match late with
    | [] => s
    | l :: _ => s.violate c (s.tagOf c l ⟨9, 3, 0, 3⟩) 3
  let s := s.updBlock c.ref.launch c.ref.block fun y => { y with exits := (y.exits + laneCount gone) % 2 ^ 15 }
  s.updPathGroup c.ref fun z =>
    let z := z.updPath c.ref.path fun p => { p with present := p.present &&& ~~~gone, mask := p.mask &&& ~~~gone }
    let z := { z with items := z.items &&& ~~~gone, tags := z.tags.filter fun t => !laneOn gone t.lane }
    let z := if (z.paths.getD c.ref.path Path.dead).present = 0 then z.vacate c.ref.path else z
    let z := z.settle s.cycle
    { z with done := z.paths.all fun p => p.present == 0 }

/-! ### Pre-emption (R336) -/

/-- The path stops at its word boundary: an arrival at the latch is discarded, and results it waited for are complete. (log 89: DEDUCED) -/
def Path.preempted (p : Path) : Path :=
  match p.status with
  | .waiting (.latch _) | .waiting (.pump _) => { p with status := .ready }
  | _ => p

/-- Whether a block is quiet (R44). -/
def State.blockQuiet (s : State) (x : Launch) (y : Block) : Bool :=
  y.groups.all (fun z => z.done || z.inQuiet) && y.groups.all (fun z => z.items == 0) &&
  !(s.ops.any fun o => o.kind == .wellAdd && o.path.launch == x.seq && o.path.block == y.index)

/-- Whether a pending `mma` of a core still names a reservation. -/
def State.mmaReads (s : State) (core q : Nat) : Bool :=
  s.mmas.any fun m => m.core == core && m.members.any fun e => e.args.qa == q || e.args.qb == q

/-- The end of a matrix operation: the tile holds the result, reservations return to STATE 2, counters fall (R227, R228); the passes that it has not
executed by now, and those that it leaves out, count (R316). -/
def State.mmaEnds (s : State) (m : MmaOp) : State :=
  let t := m.members.head?.elim 0 (·.args.tile)
  let ran := if m.started.isSome then m.ran else m.passes
  let seen := m.started.elim 0 fun k => min ran (s.cycle - 1 - k)
  let s := s.updOwner ((s.launch? m.launch).elim 0 (·.owner)) fun o => (o.event 1 (ran - seen)).event 2 (m.passes - ran)
  let s : State := { s with
    tiles := s.tiles.map fun u =>
      if u.core = m.core ∧ u.t = t ∧ u.launch = m.launch ∧ u.block = m.block then { u with data := m.result u.data } else u
    mmas := s.mmas.filter fun n => n.id != m.id }
  let s : State := { s with reservations := s.reservations.map fun r =>
    if r.core = m.core ∧ (m.inputs.any fun i => i.q == r.q) ∧ !s.mmaReads m.core r.q then r.setState 2 else r }
  m.members.foldl (fun s e => s.sbFall ⟨m.launch, m.block, e.group, e.path⟩ e.args.sb) s

/-- Whether an operation is a tile transfer of a block. -/
def Op.transferOf (o : Op) (l b : Nat) : Bool :=
  (o.kind == .accLoad || o.kind == .accStore) && o.path.launch == l && o.path.block == b

/-- The tile transfers of a block and the operations that come before them. -/
def State.transferOps (s : State) (l b : Nat) : List Nat :=
  (List.range s.ops.length).foldl (fun ids _ => (ids ++ (s.ops.filter fun o => ids.contains o.id).flatMap (·.after)).dedup)
    ((s.ops.filter fun o => o.transferOf l b).map (·.id))

/-- The next of a block's matrix operations and tile transfers completes, each after what it comes after (R227, R233). -/
def State.finishNext (s : State) (l b : Nat) : State :=
  let ids := s.transferOps l b
  match s.ops.find? fun o => ids.contains o.id && !(s.ops.any fun p => o.after.contains p.id) && !(s.mmas.any fun m => o.after.contains m.id) with
  | some o => s.completeOp o
  | none =>
    match s.mmas.find? fun m => m.launch == l && m.block == b with
    | some m => s.mmaEnds m
    | none => s

/-- The pending matrix operations and the tile transfers of a block run to completion (R336 step 3). -/
def State.finishMatrix (s : State) (l b : Nat) : State :=
  (List.range (s.ops.length + s.mmas.length)).foldl (fun s _ => s.finishNext l b) s

/-- Copy the tiles of a block to its image and give them up (R72, R232); a marked tile marks the image blocks. -/
def State.tilesOut (s : State) (x : Launch) (y : Block) : State :=
  let mine := s.tiles.filter fun t => t.launch == x.seq && t.block == y.index
  let s := mine.foldl (fun s t =>
    let va := x.header.blkOf y.slot + x.header.tileOff (t.core % 4) t.t
    let s := s.imageWrite x y 0 t.core va (tileBytesOf t.data)
    if t.poison then
      (List.range 288).foldl (fun s k => match s.imagePa x y (va + 64 * k) with
        | some pa => s.markPoison pa
        | none => s) s
    else s) s
  let s := { s with tiles := s.tiles.filter fun t => !(t.launch == x.seq && t.block == y.index) }
  s.updBlock x.seq y.index fun y => { y with savedTiles := mine.map fun t => (t.core % 4, t.t) }

/-- A block loses its residency (R336). Access words and engine records run on. `payer`: the owner who is charged for the block-image copies
(R365). (log 89: DEDUCED) -/
def State.preemptBlock (s : State) (l b : Nat) (payer : Option Nat := none) : State :=
  match s.launch? l with
  | none => s
  | some x =>
    match x.block? b with
    | none => s
    | some y =>
      if y.cluster.isNone then s
      else
        let core := 4 * y.cluster.getD 0
        let quietNow := s.blockQuiet x y
        let s := (y.groups.flatMap fun z => (List.range 4).map fun k => (⟨l, b, z.index, k⟩ : PathRef)).foldl State.wspillEnds s
        let s := s.updBlock l b fun y => { y with groups := y.groups.map fun z =>
          { z with paths := z.paths.map Path.preempted, hazards := [], flagHazards := [], reaches := [] } }
        let s := s.finishMatrix l b
        match s.launch? l with
        | none => s
        | some x =>
          match x.block? b with
          | none => s
          | some y =>
            let s := (y.groups.filter fun z => !z.freed && !z.done).foldl (fun s z => s.writeHeaderAreas x y z) s
            let s := (s.reservations.filter fun r => r.launch == l && r.block == b).foldl (fun s r => s.freeReservation r.core r.q) s
            let x' := { x with owner := payer.getD x.owner }
            let s := (s.spadOut x' y core).tilesOut x' y
            let s := { s with contention := s.contention.filter fun e => !(e.2.1.launch == l && e.2.1.block == b) }
            let s := s.updBlock l b fun y =>
              { y with cluster := none, preempted := true, admitted := none, spad := [], spadPoison := [], stall := 0, quietAway := quietNow,
                       payer := payer }
            (s.updLaunch l fun x => { x with preempts := x.preempts + 1 }).noteCluster (core / 4)

/-! ### Stopping an owner (R354) -/

/-- Every group of a launch ends as under R159 (GROUP_END frees it once its counters read zero), and no block of it is placed any more. -/
def Launch.kill (x : Launch) : Launch :=
  { x with
    blocks := (x.blocks.filter fun y => !y.groups.isEmpty).map fun y =>
      { y with groups := y.groups.map fun z => { z with done := true, paths := z.paths.map fun _ => Path.dead, items := 0, tags := [] } } }

/-- Stop an owner: handler groups end, blocks are pre-empted, engine records halt, and one report with DISPOSITION 2 is posted. -/
def State.stopOwner (s : State) (o : Nat) (tag : List Word) (detail : Word) (imageid : DWord) : State :=
  if (s.owner o).stopped then s
  else
    let s : State := { s with launches := s.launches.map fun x => if x.owner = o ∧ x.handler.isSome then x.kill else x }
    let blocks := (s.launches.filter fun x => x.owner == o && x.handler.isNone).flatMap fun x =>
      (x.blocks.filter fun y => y.cluster.isSome && !y.ended).map fun y => (x.seq, y.index)
    let s := blocks.foldl (fun s e => s.preemptBlock e.1 e.2) s.recount
    let s := s.updOwner o fun w => { w with stopped := true }
    let s : State := { s with records := s.records.map fun r => if r.owner = o then { r with halted := true } else r }
    (s.report o tag detail 2 imageid).interrupt o 3

/-! ### Taking an exception (R320 to R331) -/

/-- Bytes of the pinned reserve as the hardware reads them: a fault there is a KIND, a DETAIL and an address (R353, R354). -/
def State.reserveRead (s : State) (o va n : Nat) : Except (Nat × Nat × Nat) (List Byte) :=
  match (List.range n).find? fun i => (s.vaRead o (va + i)).isNone with
  | some i => .error (1, 0, va + i)
  | none =>
    match (List.range n).find? fun i => !s.portUp ((s.vaRead o (va + i)).getD 0) with
    | some i => .error (11, 6, va + i)
    | none =>
      match (List.range n).find? fun i => s.poison.contains (poisonBlock ((s.vaRead o (va + i)).getD 0)) with
      | some i => .error (11, 1, va + i)
      | none =>
        match s.readVirt o va n with
        | some bs => .ok bs
        | none => .error (1, 0, va)

/-- The header address in the handler table for a KIND; 0: none (R324). -/
def State.handlerOf (s : State) (o kind : Nat) : Except (Nat × Nat × Nat) Nat :=
  if (s.owner o).record.rsvlen = 0 then .ok 0
  else (s.reserveRead o ((s.owner o).record.rsvbase + (if kind = 1 then 0 else 8)) 8).map leNat

/-- The lowest of a list of numbers that is no lower than `a`; `a` itself where there is none. -/
def firstFrom (a : Nat) (l : List Nat) : Nat := (l.filter fun n => decide (a ≤ n)).foldl (fun m n => if m = a then n else min m n) a

/-- The unit under which an origin is coalesced: an 8 KiB page for a miss; for poison the marked block or scratchpad word that the access meets, the first
from its address on (R326, R379). (log 68: DEDUCED) -/
def State.coalesceUnit (s : State) (o : Nat) (p : PathRef) (kind detail addr : Nat) : Option (Nat × Nat) :=
  if kind = 1 then some (0, addr / 8192)
  else if kind = 11 ∧ detail = 1 then some (1, firstFrom (poisonBlock ((s.vaRead o addr).getD addr)) s.poison / 64)
  else if kind = 11 ∧ detail = 2 then
    some (2, ((p.launch * 2 ^ 32 + p.block) * 2 ^ 21 + firstFrom (addr / 4 * 4) ((s.block? p.launch p.block).elim [] (·.spadPoison))) / 4)
  else none

/-- Whether every asynchronous word of a path with a lower number than `mark` has taken full effect (R321). -/
def State.earlierDone (s : State) (r : PathRef) (mark : Nat) : Bool :=
  !(s.ops.any fun o => o.path == r && decide (o.id < mark)) &&
  !(s.mmas.any fun m => m.launch == r.launch && m.block == r.block && decide (m.id < mark) && m.members.any fun e => e.group == r.group && e.path == r.path)

/-- Whether an origin's fault may be reported: every earlier word of its path is done (R321). -/
def State.reported (s : State) (g : Origin) : Bool :=
  match g.source with
  | .lane r _ | .path r _ => s.earlierDone r g.mark
  | _ => true

/-- Where an origin's word stands among those of its cycle: core, residency slot, path (R326). -/
def State.originKey (s : State) (g : Origin) : List Nat :=
  match g.source with
  | .lane r _ | .path r _ => (s.group? r.launch r.block r.group).elim [] fun z => [z.core, z.resid, r.path]
  | _ => [Config.cores]

/-- An origin takes its place: in order of arrival, and within a cycle in that order (R326). -/
def State.insertOrigin (s : State) (g : Origin) : List Origin → List Origin
  | [] => [g]
  | h :: r => if h.at_ = g.at_ ∧ lexLt (s.originKey g) (s.originKey h) then g :: h :: r else h :: s.insertOrigin g r

/-- The origin that already stands for a unit, if any (R326). -/
def State.front (s : State) (o : Nat) (unit : Option (Nat × Nat)) : Option Origin :=
  s.origins.find? fun g => g.owner == o && unit.isSome && g.unit == unit && match g.state with
    | .behind _ => false
    | _ => true

/-- An origin leaves without an answer: where it stood for its unit in a collector, the first of those behind it takes its place (R326, R375). (log 68: DEDUCED) -/
def State.removeOrigin (s : State) (id : Nat) : State :=
  let rest := s.origins.filter fun g => g.id != id
  match (rest.find? fun g => g.state == .behind id).filter fun _ => s.origins.any fun g => g.id == id && g.state == .collected with
  | none => { s with origins := rest }
  | some h => { s with origins := rest.map fun g => { g with
      state := if g.id = h.id then .collected else if g.state = .behind id then .behind h.id else g.state } }

/-- Add an origin to its collector, or behind the lane that already stands for its unit; of the words of one cycle the lane is that of the first in
their order (R326). (log 68: DEDUCED) -/
def State.collect (s : State) (o kind : Nat) (detail : Word) (tag : List Word) (src : OriginFrom) (completed : Bool) (depth : Nat)
    (unit : Option (Nat × Nat)) (mark : Nat := s.nextId) (addr : Nat := 2 ^ 64) (marked : Option (List Nat × Bool) := none) : State :=
  let front := s.front o unit
  let g : Origin := ⟨s.nextId, o, kind, detail, tag, src, completed, depth, addr, marked, s.cycle, mark, .collected, unit⟩
  let s := if kind = 1 ∧ front.isNone then s.updOwner o fun w => w.bump 27 1 else s
  let add (g : Origin) (origins : List Origin) : State := { s with nextId := s.nextId + 1, origins := s.insertOrigin g origins }
  match front with
  | none => add g s.origins
  | some h =>
    if h.at_ = s.cycle ∧ h.state = .collected ∧ lexLt (s.originKey g) (s.originKey h) then
      add g (s.origins.map fun q => if q.id = h.id ∨ q.state = .behind h.id then { q with state := .behind g.id } else q)
    else add { g with state := .behind h.id } s.origins

/-- The depth at which a fault of a launch is taken (R351). -/
def Launch.faultDepth (x : Launch) : Nat := x.handler.elim 1 fun h => h.depth + 1

/-- The tag of a fault met while the hardware reads the reserve (R354). -/
def reserveTag (e : Nat × Nat × Nat) : List Word :=
  plainTag e.1 (BitVec.ofNat 32 e.2.2) (BitVec.ofNat 32 (e.2.2 / 2 ^ 32)) 0 0

/-- Where a fault goes: it stops the owner, finds no handler, or is collected. -/
inductive Route
  | stop (tag : List Word) (detail : Word)
  | noHandler
  | collect
deriving DecidableEq, Repr

/-- The route of a fault of an owner, taken at a depth, with this tag (R330, R351, R352, R354). (log 70: DEDUCED) -/
def State.routeAt (s : State) (owner depth kind detail addr : Nat) (tag : List Word) : Route :=
  let o := s.owner owner
  if 3 ≤ depth ∨ (2 ≤ depth ∧ (kind = 1 ∨ kind = 2 ∨ kind = 8 ∨ (kind = 11 ∧ detail ≠ 2)) ∧ o.inReserve addr 1) then
    .stop tag (BitVec.ofNat 32 detail)
  else
    match s.handlerOf owner kind with
    | .error e => .stop (reserveTag e) (BitVec.ofNat 32 e.2.1)
    | .ok 0 => .noHandler
    | .ok _ => if o.record.rsvlines < 8 then .stop tag (BitVec.ofNat 32 detail) else .collect

/-- The route of a fault of a launch. (log 69, 70: DEDUCED) -/
def State.route (s : State) (x : Launch) (kind detail addr : Nat) (tag : List Word) : Route :=
  s.routeAt x.owner x.faultDepth kind detail addr tag

/-- The route of an origin that is collected. -/
def State.originRoute (s : State) (g : Origin) : Route := s.routeAt g.owner g.depth g.kind g.detail.toNat g.addr g.tag

/-- The tag of a fault of a lane: where a handler's code in the reserve cannot be fetched, that of a fault met while the reserve is read (R251, R354).
 (log 69: DEDUCED) -/
def State.faultTag (s : State) (c : Ctx) (lane : Nat) (f : FaultCase) : List Word :=
  if c.launch.handler.isSome ∧ c.path.idx = 0 ∧ f.kind ≠ 4 ∧ (s.owner c.launch.owner).inReserve f.va 1 then reserveTag (f.kind, f.detail, f.addr)
  else s.tagOf c lane f

/-- Whether an origin belongs to a path. -/
def Origin.ofPath (g : Origin) (r : PathRef) : Bool :=
  match g.source with
  | .lane p _ => p == r
  | .path p _ => p == r
  | _ => false

/-- A path all of whose origins are released goes on: at the next word when its word took effect, in a retry of the retried lanes, or past
the word (R329). (log 71: DEDUCED) -/
def Path.resume (p : Path) : Path :=
  if p.tookEffect then { p with status := .ready, tookEffect := false }
  else if p.retried then
    { p with
      status := .ready, pfx := none, retry := 0, retried := false, released := false
      reexec := if p.idx = 0 then none else some p.retry
      fetched := if p.idx = 0 then [] else p.fetched }
  else if p.idx = 0 then { p.goto p.nextPc with status := .ready }
  else { p.advance p.rawSpan with status := .ready }

/-- Resume a path that waits for a handler and has no origin left; while its block is away the release is kept (R338). -/
def State.resumePath (s : State) (r : PathRef) : State :=
  match s.path? r, s.block? r.launch r.block with
  | some p, some y =>
    if p.valid ∧ y.cluster.isSome ∧ p.status = .waiting .handler ∧ !(s.origins.any fun g => g.ofPath r) then s.updPath r Path.resume else s
  | _, _ => s

/-- Whether the lanes of a fault leave at once: it finds no handler, no lane of a handler stands for its unit, and every earlier word of the path is
done (R321, R326, R330). -/
def State.leavesNow (s : State) (c : Ctx) (lane : Nat) (f : FaultCase) (mark : Nat) : Bool :=
  s.route c.launch f.kind f.detail f.va (s.faultTag c lane f) == .noHandler && s.earlierDone c.ref mark &&
    (s.front c.launch.owner (s.coalesceUnit c.launch.owner c.ref f.kind f.detail f.addr)).isNone

/-- One origin of a path's word: collected, or its lanes leave for want of a handler, or it stops the owner; what comes of it waits for the path's
earlier words, the operations below `mark` (R321). -/
def State.originOf (s : State) (c : Ctx) (src : OriginFrom) (lane : Nat) (gone : Lanes) (f : FaultCase) (completed : Bool) (mark : Nat) : State :=
  let tag := s.faultTag c lane f
  if s.leavesNow c lane f mark then
    match s.ctx? c.ref with
    | none => s
    | some c' => s.leave { c' with path := { c'.path with pc := c.path.pc, idx := c.path.idx } } (gone &&& c'.path.present)
  else
    let add (unit : Option (Nat × Nat)) : State :=
      s.collect c.launch.owner f.kind (BitVec.ofNat 32 f.detail) tag src completed c.launch.faultDepth unit mark f.va
        (if f.kind = 11 ∧ f.detail = 5 then
          some ((c.group.lines.filter (·.poison)).map (·.n) ++ c.path.servedPoison, c.group.operPoison)
        else none)
    match s.route c.launch f.kind f.detail f.va tag with
    | .stop t d => if s.earlierDone c.ref mark then (add none).stopOwner c.launch.owner t d c.launch.header.imageid else add none
    | _ => add (s.coalesceUnit c.launch.owner c.ref f.kind f.detail f.addr)

/-- The report of a word whose lanes leave for want of a handler (R330). (log 69: DEDUCED) -/
def State.reportNone (s : State) (c : Ctx) (lane : Nat) (f : FaultCase) : State :=
  s.report c.launch.owner (s.faultTag c lane f) (BitVec.ofNat 32 f.detail) 0 c.launch.header.imageid

/-- A path stands at a fault: it waits for its handler, and its results are complete (R123, R321); one that waits for a handler already waits for this
fault too (R386). -/
def State.faulted (s : State) (c : Ctx) (completed : Bool) : State :=
  s.updPathGroup c.ref fun z => (z.settled c.ref.path).updPath c.ref.path fun p =>
    { p with status := .waiting .handler, tookEffect := if c.path.status = .waiting .handler then p.tookEffect else completed }

/-- TAKING AN EXCEPTION in lanes of a word (R322): each lane is its own origin, in ascending lane order. `completed`: the word has taken
full effect, and `s` already stands past it. `c` is the path as it stood at the word; `mark`: operations below it are earlier words'. -/
def State.faultLanes (s : State) (c : Ctx) (fs : List (Nat × FaultCase)) (completed : Bool) (mark : Nat := s.nextId) : State :=
  match fs with
  | [] => s
  | _ :: _ =>
    let s := s.faulted c completed
    let noh := fs.filter fun e => s.leavesNow c e.1 e.2 mark
    let s := fs.foldl (fun s e => s.originOf c (.lane c.ref e.1) e.1 (laneSet [e.1]) e.2 completed mark) s
    let s := match noh with
      | [] => s
      | e :: _ => s.reportNone c e.1 e.2
    s.resumePath c.ref

/-- TAKING AN EXCEPTION of a whole path at its word (R322); where the path waits for a handler already, its word's lanes stay as they are (R386).
 (log 71: DEDUCED) -/
def State.faultPath (s : State) (c : Ctx) (f : FaultCase) (completed : Bool) : State :=
  let s := s.faulted c completed
  let lane := c.path.namingLane
  let mark := s.nextId
  let gone := s.leavesNow c lane f mark
  let s := s.originOf c (.path c.ref (if c.path.status = .waiting .handler then 0 else c.path.selected)) lane (BitVec.allOnes 96) f completed mark
  (if gone then s.reportNone c lane f else s).resumePath c.ref

/-- An illegal-instruction trap at the path's word (R136, R341). -/
def State.illegal (s : State) (c : Ctx) (detail : Nat) : State := s.faultPath c ⟨3, detail, 0, 3⟩ false

/-! ### The return from an exception (R252, R329) -/

/-- The skip action on an engine origin (R380, R389): the record ends, or its chunk is delivered with marks; one that has ended already keeps its STATUS.
 (log 63: DEDUCED) -/
def EngineRec.skip (e : EngineRec) (kind : Nat) (detail : Word) : EngineRec :=
  let coll := e.kind == .coll
  if e.status.isSome then { e with faulted := false }
  else if kind = 11 then
    { e with
      faulted := false
      force := true
      finalStatus := if coll then 5 else if detail = 6 then 7 else max e.finalStatus 3 }
  else { e with faulted := false, status := some (if coll then 7 else if kind = 1 then 4 else 5) }

def State.updRecord (s : State) (id : Nat) (f : EngineRec → EngineRec) : State :=
  { s with records := s.records.map fun e => if e.id = id then f e else e }

/-- Whether a launch counts as running for the state that launches of an owner share, wells from stage 3 on (R246, R272). (log 67: DEDUCED) -/
def Launch.running (x : Launch) : Bool :=
  (x.stage == .dependence && x.wellsHeld) || x.stage == .specialise || x.stage == .ramp || x.stage == .placing || x.blocks.any fun y => y.groups.any fun z => !z.freed

/-- Wells that no running launch of the owner names any more: HEAD and TAIL go back to their records (R246). (log 67: DEDUCED) -/
def State.dropWells (s : State) (o : Nat) : State :=
  let w := s.owner o
  let idle := w.wells.filter fun v => !(s.launches.any fun x => x.owner == o && x.running && x.header.wells.getLsbD v.n)
  let s := idle.foldl (fun s v =>
    s.writeVirt o (w.record.welltab + 32 * v.n + 12) (wordBytes [v.head, v.tail])) s
  s.updOwner o fun w => { w with wells := w.wells.filter fun v => !(idle.any fun i => i.n == v.n) }

/-- Refuse a launch: it places no further block, and one report is posted (R332). -/
def State.refuse (s : State) (l detail : Nat) : State :=
  match s.launch? l with
  | none => s
  | some x =>
    ((s.updLaunch l fun x => { x with stage := .refused }).report x.owner (plainTag 12 0 0 (BitVec.ofNat 32 l) 0) (BitVec.ofNat 32 detail) 1
      x.header.imageid).dropWells x.owner

def State.queue? (s : State) (q : Nat) : Option Queue := s.queues.find? fun x => x.n == q

def State.updQueue (s : State) (q : Nat) (f : Queue → Queue) : State :=
  { s with queues := s.queues.map fun x => if x.n = q then f x else x }

/-- The entry at HEAD of a queue is read: HEAD advances and is written to HEADADDR (R305). (log 92: DEDUCED) -/
def State.advanceHead (s : State) (q : Nat) : State :=
  match s.queue? q with
  | none => s
  | some x =>
    (s.updQueue q fun x => { x with
      head := x.head + 1
      readHere := x.readHere + 1
      reading := none
      announced := x.announced.filter fun e => e.1 != x.head.toNat }).writeVirt x.owner x.headaddr (leBytes 4 (x.head + 1).toNat)

/-- The launch of the entry at HEAD is refused before its header is read: it has a sequence number and a report (R268, R331, R332). (log 75: DEDUCED) -/
def State.skipEntry (s : State) (q detail : Nat) : State :=
  match s.queue? q with
  | none => s
  | some x =>
    let seq := x.reading.elim s.nextSeq (·.1)
    ({ s with nextSeq := if x.reading.isSome then s.nextSeq else seq + 1 }.advanceHead q).report x.owner (plainTag 12 0 0 (BitVec.ofNat 32 seq) 0) (BitVec.ofNat 32 detail) 1 0

/-- Release one origin with an action: the lanes that retry are gathered in the path. A skipped read of a launch refuses it (R332, R361). (log 71: DEDUCED) -/
def State.releaseOne (s : State) (g : Origin) (retry : Bool) : State :=
  let s := { s with origins := s.origins.filter fun h => h.id != g.id }
  let mark (r : PathRef) (m : Lanes) : State :=
    if retry ∧ !g.completed then s.updPath r fun p => { p with retry := p.retry ||| m, retried := true } else s
  match g.source with
  | .lane r i => mark r (laneSet [i])
  | .path r m => mark r m
  | .engine r => s.updRecord r fun e => if retry then { e with faulted := false } else e.skip g.kind g.detail
  | .headerRead q => if retry then s else s.skipEntry q 4
  | .launchRead l => if retry then s else s.refuse l 4
  | .pumpLookup l _ _ => if retry then s else s.refuse l 6

/-- Release an origin and every origin that waits behind it, with the same action (R326, R379). -/
def State.release (s : State) (id : Nat) (retry : Bool) : State :=
  (s.origins.filter fun g => g.id == id || g.state == .behind id).foldl (fun s g => s.releaseOne g retry) s

end Sys2Proof.Machine
end

