-- ==== Sys2Proof/Machine/Operands.lean ====
section
/-! DEFINITION. Operands: what a word reads and when (R116, R123 to R128, R131, R161), inline constants (R127), the checks and holds before a
word issues (R58, R60, R123, R124, R339, R344, R386), and the writing of results (R48, R125, R130, R161). -/

namespace Sys2Proof.Machine

/-! ### Registers a word names -/

/-- The registers of an operand field, by their lasting names. -/
def fieldRegs (depth v n : Nat) : List LaneReg :=
  if isW v then (List.range n).map fun j => .stack (8 * depth + v + j)
  else if isS v then (List.range n).map fun j => .scal (v - 0x40 + j)
  else if isO v then (List.range n).map fun j => .oper (v - 0xC0 + j)
  else []

/-- Words that read their destination as a condition, an addend or an operand when no prefix names a fourth operand (R131, R143). -/
def destIsFourth (p : Option Pfx) : Instr → Bool
  | .sel .. => true
  | .selVector .. | .fmaFloat .. | .fmaF64 .. | .atom .. => p.isNone
  | .cvtF64 _ _ _ f | .cvtF32 _ _ _ f | .cvtF16 _ _ _ f | .cvtBf16 _ _ _ f | .cvtE4m3 _ _ _ f | .cvtE5m2 _ _ _ f
  | .cvtInt _ _ _ f => p.isNone && decide (16 ≤ f.toNat)
  | .cvtCode .. => p.isNone
  | _ => false

/-- `atom.cas` also compares with the value that its destination held (R199). -/
def readsDest (p : Option Pfx) : Instr → Bool
  | .atom _ _ _ _ _ _ _ _ aop => p.isNone || decide (aop.toNat = 7)
  | i => destIsFourth p i

/-- Words whose DST field is a source, read last. -/
def storesDst : Instr → Bool
  | .st .. | .stStrong .. | .scatter .. => true
  | _ => false

/-- The words that read FOURTH of their prefix as an operand. -/
def readsFourth (p : Option Pfx) (i : Instr) : Bool :=
  match p, i with
  | none, _ => false
  | some _, .cvtF64 _ _ _ f | some _, .cvtF32 _ _ _ f | some _, .cvtF16 _ _ _ f | some _, .cvtBf16 _ _ _ f
  | some _, .cvtE4m3 _ _ _ f | some _, .cvtE5m2 _ _ _ f => decide (16 ≤ f.toNat)
  | some _, .cvtInt .. | some _, .cvtL32 .. => false
  | p, i => match shapeOf p i with
    | .fields _ _ acc => acc.four.isSome
    | .none => false

/-- The operands a word reads, in the order A, B, FOURTH, then the destination or the stored data (R344): specifier, registers. (log 19: DEDUCED) -/
def readOrder (p : Option Pfx) (i : Instr) : List (Nat × Nat) :=
  match shapeOf p i with
  | .none => []
  | .fields fs _ acc =>
    let own := fs.map fun f => (f.v, f.n)
    let srcs := (fs.filter fun f => !f.dest).map fun f => (f.v, f.n)
    let four := match p, acc.four with
      | some q, some n => if readsFourth p i then [(q.fourth.toNat, n)] else []
      | _, _ => []
    if storesDst i then own.drop 1 ++ own.take 1 else srcs ++ four ++ (if readsDest p i then own.take 1 else [])

/-- The destination a word writes: specifier, registers. -/
def writeSpecs (p : Option Pfx) (i : Instr) : List (Nat × Nat) :=
  match shapeOf p i with
  | .none => []
  | .fields fs _ _ => (fs.filter (·.dest)).map fun f => (f.v, f.n)

/-! ### How a word occupies a pipe (R22, R122, R286) and its latency (R123) -/

/-- Words that act in the active lanes of a mask, outside uniform clauses: vector words, access words, and the lane-wise group words. -/
def laneWise (i : Instr) : Bool :=
  match i with
  | .ld .. | .gather .. | .st .. | .stStrong .. | .scatter .. | .atom ..
  | .wellAdd .. | .wellTake .. | .tlbw .. | .orig .. | .hret .. | .trap .. => true
  | i => (encode i).head?.elim false fun w => wordKind w == some .vector

/-- Whether the word acts in lanes under the clause it stands in (R116). (log 28: DEDUCED) -/
def actsInLanes (p : Path) (i : Instr) : Bool := laneWise i && !p.uniform

/-- A 64-bit vector word (R122). -/
def wide64 (p : Option Pfx) (i : Instr) : Bool :=
  match i with
  | .cvtF64 .. | .addF64 .. | .subF64 .. | .mulF64 .. | .fmaF64 .. => true
  | .cvtF32 _ _ _ f | .cvtF16 _ _ _ f | .cvtBf16 _ _ _ f | .cvtE4m3 _ _ _ f | .cvtE5m2 _ _ _ f | .cvtL32 _ _ _ f | .cvtCode _ _ _ _ f =>
    codeWidth f.toNat == 64
  | .cvtInt _ _ _ f => codeWidth f.toNat == 64 || extOf p == 4 || extOf p == 8
  | i => (encode i).head?.elim false fun w => wordKind w == some .vector && (extOf p == 4 || extOf p == 8 || extOf p == 12)

/-- How long a result takes (R123). -/
inductive Latency
  /-- stall counts cover it, or it is ready for the next word -/
  | cycles (n : Nat) (covered : Bool)
  /-- interlocked: here it exists from the cycle after the end cycle on -/
  | interlock
deriving DecidableEq, Repr

def latencyOf (p : Option Pfx) : Instr → Latency
  | .mulVectorInt .. | .mulhVectorInt .. | .cvtF64 .. | .cvtF32 .. | .cvtF16 .. | .cvtBf16 .. | .cvtE4m3 .. | .cvtE5m2 .. | .cvtL32 ..
  | .cvtInt .. | .cvtCode .. | .lnsadd .. | .shfl .. | .bcast .. => .cycles 3 true
  | .addFloat .. | .subFloat .. | .mulFloat .. | .fmaFloat .. | .minFloat .. | .maxFloat .. | .absFloat .. | .negFloat .. | .classify .. =>
    .cycles (if typeOf 11 p = 12 then 4 else 3) true
  | .addF64 .. | .subF64 .. | .mulF64 .. | .fmaF64 .. => .cycles 4 true
  | .divVectorInt .. | .remVectorInt .. | .divFloat .. | .sqrt .. | .rsq .. | .rcp .. | .matchKeys .. | .redAdd .. | .redMin .. | .redMax ..
  | .scanAdd .. | .cvtb .. => .interlock
  | _ => .cycles 1 false

/-- The cycle in which a result exists, from the word's end cycle. -/
def Latency.ready (l : Latency) (e : Nat) : Nat :=
  match l with
  | .cycles n _ => e + n
  | .interlock => e + 1

def Latency.covered : Latency → Bool
  | .cycles _ b => b
  | .interlock => false

/-- STALL of a word. -/
def stallOf (i : Instr) : Nat := (encode i).head?.elim 0 fun w => bits w.toNat 31 30

/-- The power class of the word that an instruction is (R117). -/
def powerOf (p : Option Pfx) (i : Instr) : Nat := (encode i).head?.elim 0 fun w => powerClass w (extOf p)

/-- A word that uses no pipe: a scalar, mask or control word other than `hret` and `trap`, or any word of a uniform clause (R286). (log 4: DEDUCED) -/
def usesNoPipe (p : Path) (i : Instr) : Bool :=
  p.uniform || (!laneWise i && (encode i).head?.elim false fun w => wordKind w == some .scalar || wordKind w == some .control)

/-- What an instruction takes when it issues. -/
def issueOf (c : Ctx) (i : Instr) (extra : Nat) : Issue :=
  ⟨powerOf c.path.pfx i, if actsInLanes c.path i then beatCount c.path.selected else 0, if wide64 c.path.pfx i then 2 else 1,
   stallOf i, extra, usesNoPipe c.path i, (latencyOf c.path.pfx i).ready 0⟩

/-! ### Inline constants (R127) -/

/-- How an operation reads an inline constant. -/
inductive NumKind
  | int (w : Nat)
  | flt (f : Fmt)
  | log
deriving DecidableEq, Repr

/-- The reading of a type code (R132). -/
def numKind (c : Nat) : NumKind :=
  match fmtOfCode c with
  | some f => .flt f
  | none => if c = 15 then .log else .int (codeWidth c)

def NumKind.width : NumKind → Nat
  | .int w => w
  | .flt f => f.width
  | .log => 32

/-- The value of an integer constant, by its number from 0xD0. -/
def constInt (n : Nat) : Int :=
  if n < 16 then n
  else [-1, -2, -4, -8, 16, 32, 64, 96, 128, 255].getD (n - 16) 0

/-- The value of a fraction constant. -/
def constFrac (n : Nat) : Dyadic := if n = 26 then ⟨1, -1⟩ else if n = 27 then ⟨-1, -1⟩ else ⟨1, -2⟩

/-- The bits that an operation reads for the inline constant `0xD0 + n`. -/
def constBits (k : NumKind) (n : Nat) : Nat :=
  let w := k.width
  if n = 29 then 2 ^ (w - 1)
  else if n = 30 then 2 ^ (w - 1) - 1
  else if 31 ≤ n then 2 ^ w - 1
  else
    let d : Dyadic := if n < 26 then ⟨constInt n, 0⟩ else constFrac n
    match k with
    | .int w => if n < 26 then wrapInt w (constInt n) else (Fmt.f32.ofDyadic FpMode.plain false d).v % 2 ^ w
    | .flt f => (f.ofDyadic FpMode.plain false d).v
    | .log => (lOfVal .rne (if d.n = 0 then .fin false ⟨0, 0, false⟩ else .fin (decide (d.n < 0)) ⟨d.n.natAbs, d.e, false⟩)).v

/-! ### Reading a register (R58, R60, R63, R124, R125, R184) -/

/-- A free value of the word in progress. (log 7: DESIGN CHOICE) -/
def State.freeAt (s : State) (c : Ctx) (slot lane : Nat) : DWord := s.freeOf c.launch.owner (96 * slot + lane)

/-- A register's stored value: a stack register whose line was served and displaced comes from the latch (R60). -/
def Ctx.stored (c : Ctx) (r : LaneReg) (lane : Nat) : Word :=
  match r with
  | .stack n =>
    if c.path.served.contains (n / 8) ∧ !(c.group.lines.any fun l => l.n == n / 8) then c.path.servedRegs.get (96 * n + lane)
    else c.group.stack.get (96 * n + lane)
  | r => c.group.getReg c.ref.launch c.ref.block c.ref.path r lane

/-- What a destination of one register or a pair holds in a lane: the value that its log record lists until the word writes it (R401). -/
def Ctx.heldIn (c : Ctx) (rs : List LaneReg) (lane : Nat) : DWord :=
  match rs with
  | [r] => (c.stored r lane).setWidth 64
  | r :: q :: _ => c.stored q lane ++ c.stored r lane
  | [] => 0

/-- What a register gives in cycle `at_` to path `mine`, from its latest results, newest first (R123, R124, R125, R184): a result that exists then is
seen; of the path's own results, one that a stall count should have covered is seen or not, freely; another path's that does not exist yet is not
seen. (log 19: DEDUCED) -/
def seenAt (choice : Nat → Bool) (mine key at_ : Nat) (now : Word) : List Hazard → Word
  | [] => now
  | h :: r =>
    if h.ready ≤ at_ then now
    else if h.path = mine ∧ !(h.covered && choice r.length) then now
    else seenAt choice mine key at_ (h.old.get key) r

/-- The value that one lane of a register gives in a beat that issues in cycle `at_`; a scalar gives every lane the value of the word's issue cycle
(R161). A register that an asynchronous word has yet to write is undefined (R63). (log 18, 19: DEDUCED) -/
def State.readReg (s : State) (c : Ctx) (r : LaneReg) (lane slot at_ : Nat) : Word :=
  let (key, t) := match r with
    | .scal _ => (0, s.cycle)
    | _ => (lane, at_)
  if c.group.unseen.any fun u => u.reg == r && (r.shared || u.path == c.ref.path) && (laneOn u.lanes key) then (s.freeAt c slot key).setWidth 32
  else
    seenAt (fun j => s.choiceOf c.launch.owner (16 * (96 * slot + lane) + j)) c.ref.path key t (c.stored r key)
      ((c.group.hazards.filter fun h => h.reg == r && (r.shared || h.path == c.ref.path) && laneOn h.lanes key).reverse)

/-- Private and mask scalars that an asynchronous word has yet to write are undefined wherever a word uses them (R63): the path with free values in their
place. (log 18: DEDUCED) -/
def State.known (s : State) (c : Ctx) : Ctx :=
  let un (r : Nat) : Bool := c.group.unseen.any fun u => u.reg == .scal r && u.path == c.ref.path
  if (List.range 20).all fun i => !un (108 + i) then c
  else
    let word (j : Nat) : Word := if un (125 + j) then (s.freeAt c 16 (125 + j)).setWidth 32 else maskWord c.path.mask j
    let p := { c.path with
      priv := (List.range 13).foldl (fun q i => if un (108 + i) then q.put (108 + i) ((s.freeAt c 16 (108 + i)).setWidth 32) else q) c.path.priv
      mask := ofMaskWords (word 0) (word 1) (word 2) &&& c.path.present }
    { c with path := p, group := c.group.updPath c.ref.path fun _ => p }

/-- The work identifier of a lane (R36, R37, R325). -/
def Ctx.wid (c : Ctx) (lane : Nat) : Nat :=
  if c.launch.handler.isSome then lane
  else
    (c.block.index * 2 ^ (((c.launch.header.widths.take c.launch.header.boundary).sum)) ||| (96 * c.group.index + lane)) % 2 ^ 64

/-- Whether an access in flight sets a lane's flags. -/
def State.flagsDue (s : State) (r : PathRef) (m : Lanes) : List Nat :=
  (s.ops.filter fun o => o.path.launch == r.launch && o.path.block == r.block && o.path.group == r.group && (o.toFlags &&& m) != 0).map (·.id)

/-- The flags of a lane as a beat that issues in cycle `at_` reads them: free where an access in flight of another path sets them (R63, R83, R84). -/
def State.flagsOf (s : State) (c : Ctx) (slot lane at_ : Nat) : BitVec 6 :=
  if s.flagsDue c.ref (laneSet [lane]) = [] then c.group.flagsSeen c.ref.path lane at_ else (s.freeAt c slot lane).setWidth 6

/-- The path that owns a lane (R24, R28). -/
def Ctx.ownerOf (c : Ctx) (lane : Nat) : Nat :=
  if laneOn c.path.member lane then c.ref.path
  else ((List.range 4).find? fun k => match c.group.paths[k]? with
    | some p => p.valid && laneOn p.member lane
    | none => false).getD c.ref.path

/-- The 64 bits that a readable specifier, constants apart, gives a lane: `n` registers, in the beat of cycle `at_`. (log 20: DEDUCED) -/
def State.rawLane (s : State) (c : Ctx) (v n slot at_ lane : Nat) : DWord :=
  match fieldRegs c.group.depth v n with
  | [r] => (s.readReg c r lane slot at_).setWidth 64
  | r :: q :: _ => s.readReg c q lane (slot + 1) at_ ++ s.readReg c r lane slot at_
  | [] =>
    if v = 0xC8 then (if c.path.l0Def then c.path.l0.get lane else s.freeAt c slot lane)
    else if v = 0xC9 then (if c.path.l1Def then c.path.l1.get lane else s.freeAt c slot lane)
    else if v = 0xCA then BitVec.ofNat 64 lane
    else if v = 0xCB then (s.flagsOf c slot lane at_).setWidth 64
    else if v = 0xCC then BitVec.ofNat 64 (lane / 32)
    else if v = 0xCD then BitVec.ofNat 64 (c.ownerOf lane)
    else if v = 0xCE then BitVec.ofNat 64 (c.wid lane % 2 ^ 32)
    else if v = 0xCF then BitVec.ofNat 64 (c.wid lane / 2 ^ 32)
    else 0

/-- The cycle of the beat that holds a lane, for a word that issues now (R22, R122). -/
def beatCycle (t : Nat) (m : Lanes) (per lane : Nat) : Nat :=
  t + per * (List.range (lane / 32)).countP fun j => maskWord m j != 0

/-- An operand of type `k` in one lane of a vector word, as bits of its width. -/
def State.operand (s : State) (c : Ctx) (i : Instr) (v slot : Nat) (k : NumKind) (lane : Nat) : Nat :=
  if isConst v then constBits k (v - 0xD0)
  else
    (s.rawLane c v (if k.width = 64 then 2 else 1) slot
      (beatCycle s.cycle c.path.selected (if wide64 c.path.pfx i then 2 else 1) lane) lane).toNat % 2 ^ k.width

/-- A scalar operand at width `w`. -/
def State.scalarOperand (s : State) (c : Ctx) (v slot w : Nat) : Nat :=
  if isConst v then constBits (.int w) (v - 0xD0)
  else (s.rawLane c v (if w = 64 then 2 else 1) slot s.cycle 0).toNat % 2 ^ w

/-- A `.n32` value of an operand that is read once for the path: a per-lane register gives its lowest active lane (R161). -/
def State.pathOperand (s : State) (c : Ctx) (v slot : Nat) : Nat :=
  if isConst v then constBits (.int 32) (v - 0xD0)
  else (s.rawLane c v 1 slot s.cycle ((lowest c.path.selected).getD 0)).toNat % 2 ^ 32

/-- A mask operand: a triple, or a constant in all three words (R146). -/
def State.maskOperand (s : State) (c : Ctx) (v slot : Nat) : Lanes :=
  let w (j : Nat) : Word :=
    if isConst v then BitVec.ofNat 32 (constBits (.int 32) (v - 0xD0))
    else (s.rawLane c (v + j) 1 (slot + j) s.cycle 0).setWidth 32
  ofMaskWords (w 0) (w 1) (w 2)

/-! ### Before a word issues -/

/-- The elements of a list, each at its first place. -/
def firsts (l : List Nat) : List Nat := l.foldl (fun a x => if a.contains x then a else a ++ [x]) []

/-- Stack lines that operands name, in their order (R60). -/
def linesOf (depth : Nat) (specs : List (Nat × Nat)) : List Nat := firsts ((specs.filter fun e => isW e.1).map fun e => depth + e.1 / 8)

/-- Window lines that a word still needs: each source line held or served, the destination line held (R58, R60). -/
def Ctx.missing (c : Ctx) (i : Instr) : List Nat :=
  let heldLine (n : Nat) := c.group.lines.any fun l => l.n == n
  let srcs := (linesOf c.group.depth (readOrder c.path.pfx i)).filter fun n => !heldLine n && !c.path.served.contains n
  let dsts := (linesOf c.group.depth (writeSpecs c.path.pfx i)).filter fun n => !heldLine n
  firsts (srcs ++ dsts)

/-- Whether a line that the path's word may use is marked: in the store, or where it serves the word from the latch (R60, R377). -/
def Ctx.lineMarked (c : Ctx) (n : Nat) : Bool :=
  match c.group.lines.find? fun l => l.n == n with
  | some l => l.poison
  | none => c.path.servedPoison.contains n

/-- Whether a word names a poisoned register line or operand file (R378, DETAIL 5). -/
def Ctx.poisonedRegs (c : Ctx) (i : Instr) : Bool :=
  let specs := readOrder c.path.pfx i ++ writeSpecs c.path.pfx i
  (linesOf c.group.depth specs).any c.lineMarked ||
    (c.group.operPoison && specs.any fun e => isO e.1)

/-- The cycle from which the interlocked files that a word reads exist (R84, R123). -/
def Ctx.interlock (c : Ctx) (i : Instr) : Nat :=
  ((readOrder c.path.pfx i).map fun e =>
    if e.1 = 0xC8 then c.path.l0At else if e.1 = 0xC9 then c.path.l1At else if e.1 = 0xCB then c.path.flagsAt else 0).foldl max 0

/-- Loads and atomics in flight that set flags of the path's lanes, where a word reads them: the path is held until they have completed (R84). -/
def State.flagOps (s : State) (c : Ctx) (i : Instr) : List Nat :=
  if (readOrder c.path.pfx i).any fun e => e.1 == 0xCB then s.flagsDue c.ref c.path.member else []

/-- Whether, in some lane, the newest of the results `hs` of a register is covered by stall counts and does not exist yet in cycle `t` (R123, R344); the
newest comes first, and `seen` holds the lanes that a newer one has written. -/
def earlyIn (t : Nat) (seen : Lanes) : List Hazard → Bool
  | [] => false
  | h :: r => (h.covered && decide (t < h.ready) && (h.lanes &&& ~~~seen) != 0) || earlyIn t (seen ||| h.lanes) r

/-- The first operand whose stall-covered result a word would read early, as its 8-bit specifier (R344). (log 19: DEDUCED) -/
def State.earlyRead (s : State) (c : Ctx) (i : Instr) : Option Nat :=
  ((readOrder c.path.pfx i).find? fun e => (fieldRegs c.group.depth e.1 e.2).any fun r =>
    earlyIn s.cycle 0 (c.group.hazards.filter fun h => h.path == c.ref.path && h.reg == r).reverse).map (·.1)

/-- What stands between a word and its effect. -/
inductive Gate
  | go
  | held (s : State)
deriving DecidableEq, Repr

/-- The checks and holds that precede a word's own effect, in the order of R339: encoding, window lines, interlocks, the stall check,
poisoned registers. A word in lanes with no active lane reads no operand and meets only the encoding check (R161). (log 6, 26: DESIGN CHOICE, DEDUCED) -/
def State.gate (s : State) (c : Ctx) (i : Instr) : Gate :=
  match encDetail c.path.pfx i with
  | some d => .held (s.illegal c d)
  | none =>
    if actsInLanes c.path i ∧ c.path.selected = 0 then .go
    else if c.missing i ≠ [] then .held (s.setStatus c.ref (.waiting (.pump (c.missing i))))
    else if s.flagOps c i ≠ [] then .held (s.setStatus c.ref (.waiting (.drain (s.flagOps c i))))
    else if s.cycle < c.interlock i then .held (s.updPath c.ref fun p => { p with nextIssue := max p.nextIssue (c.interlock i) })
    else
      match (if c.launch.header.stallchk then s.earlyRead c i else none) with
      | some v => .held (s.faultPath c ⟨7, v, 0, 3⟩ false)
      | none => if c.poisonedRegs i then .held (s.faultPath c ⟨11, 5, 0, 3⟩ false) else .go

/-- The words that access memory, scratchpad or a well. -/
def accesses : Instr → Bool
  | .ld .. | .gather .. | .st .. | .stStrong .. | .scatter .. | .atom .. | .accLd .. | .accSt .. | .wellAdd .. | .wellTake .. | .barInit ..
  | .barArrive .. | .barArrivec .. | .barWait .. | .waita .. | .cpyk .. | .dzk .. | .coll .. | .call .. | .ret .. | .wspill .. => true
  | _ => false

/-- Whether a word is the first access after a return from a handler: it acts as though an acquire fence at `.pkg` had preceded it (R329). -/
def Ctx.acquires (c : Ctx) (i : Instr) : Bool := c.path.acquire && accesses i && !(actsInLanes c.path i && c.path.selected == 0)

/-- The effect of a word, after the acquire that a return from a handler puts before it (R329). -/
def State.afterAcquire (s : State) (c : Ctx) (i : Instr) (eff : Ctx → State → State) : State :=
  if !c.acquires i then eff c s
  else if s.pendingLoads c.ref s.nextId then s.setStatus c.ref (.waiting (.acquire s.nextId))
  else
    let t := s.acquireNow c.ref s.nextId
    match t.running? with
    | none => t
    | some d => eff (t.known d) t

/-- A word of the current path: what stands before it, then its effect. (log 26: DEDUCED) -/
def State.word (s : State) (i : Instr) (eff : Ctx → State → State) : Host.Outcome State Fault Refusal :=
  match s.running? with
  | none => .fault .noPath
  | some c =>
    match s.gate (s.known c) i with
    | .held s' => .next s'
    | .go => .next (s.afterAcquire (s.known c) i eff)

/-- A word that issues, does `body`, and is finished. -/
def State.completes (s : State) (c : Ctx) (i : Instr) (extra : Nat) (body : State → State) : State :=
  (body (s.noteIssue c i (issueOf c i extra))).finish c i

/-! ### Results -/

/-- Write one scalar register as a result of the word. -/
def State.writeScalarReg (s : State) (c : Ctx) (r : Nat) (v : Word) (ready : Nat) (covered : Bool) : State :=
  s.updPathGroup c.ref fun z => z.produce c.ref.launch c.ref.block c.ref.path (.scal r) [(0, v)] ready covered

/-- Write a scalar of width 32 or 64, named by its specifier. -/
def State.writeScalars (s : State) (c : Ctx) (v w : Nat) (x : Nat) (ready : Nat) (covered : Bool) : State :=
  let s := s.writeScalarReg c (v - 0x40) (BitVec.ofNat 32 x) ready covered
  if w = 64 then s.writeScalarReg c (v - 0x40 + 1) (BitVec.ofNat 32 (x / 2 ^ 32)) ready covered else s

/-- Write a mask triple to consecutive scalars (R146, R167). -/
def State.writeTriple (s : State) (c : Ctx) (r : Nat) (m : Lanes) (ready : Nat) : State :=
  (List.range 3).foldl (fun s j => s.writeScalarReg c (r + j) (maskWord m j) ready false) s

/-- The value that the destination of a vector word holds in a lane, as the last-result file records it (R48). -/
def Group.destLane (z : Group) (rs : List LaneReg) (lane : Nat) : DWord :=
  match rs with
  | [r] => (z.getReg 0 0 0 r lane).setWidth 64
  | r :: q :: _ => z.getReg 0 0 0 q lane ++ z.getReg 0 0 0 r lane
  | [] => 0

/-- Advance the last-result file with a per-lane destination (R48). (log 20: DEDUCED) -/
def Path.advanceLast (p : Path) (f : Nat → DWord) (ready : Nat) : Path :=
  { p with l1 := p.l0, l1Def := p.l0Def, l1At := p.l0At, l0 := Sparse.puts [] (allLanes.map fun i => (i, f i)), l0Def := true, l0At := ready }

/-- A word that sets lanes' flags whole comes after the accesses in flight that were to set them (R84). -/
def State.dropFlagOps (s : State) (r : PathRef) (m : Lanes) : State :=
  { s with ops := s.ops.map fun o =>
      if o.path.launch = r.launch ∧ o.path.block = r.block ∧ o.path.group = r.group then { o with toFlags := o.toFlags &&& ~~~m } else o }

/-- The lanes that MZ zeroes: the path's own inactive lanes in issued beats; lanes that another path owns keep their registers (R28, R130).
 (log 115: DESIGN CHOICE) -/
def Path.zeroable (p : Path) : Lanes := beatLanes p.selected &&& ~~~p.selected &&& p.member

/-- Results of a vector word: per-lane, zeroed in inactive lanes of issued beats where `zero` holds, with the last-result file advanced; once
to a scalar, from the lowest active lane; or to the lane flags (R84, R130, R161). (log 25: DEDUCED) -/
def State.writeVector (s : State) (c : Ctx) (i : Instr) (d n : Nat) (zero : Bool) (vals : List (Nat × Nat)) : State :=
  let lat := latencyOf c.path.pfx i
  let ready := lat.ready ((issueOf c i 0).ends s.cycle)
  let rs := fieldRegs c.group.depth d n
  if isS d then
    match vals with
    | [] => s
    | (_, x) :: _ => s.writeScalars c d (32 * n) x ready lat.covered
  else if d = 0xCB then
    (s.dropFlagOps c.ref (laneSet (vals.map (·.1)))).updPathGroup c.ref fun z =>
      z.putFlags c.ref.path true (vals.map fun e => (e.1, BitVec.ofNat 6 e.2)) ready
  else
    let zeros := if zero then (laneList c.path.zeroable).map fun l => (l, 0) else []
    let all := vals ++ zeros
    s.updPathGroup c.ref fun z =>
      let z := rs.zipIdx.foldl (fun z e =>
        z.produce c.ref.launch c.ref.block c.ref.path e.1 (all.map fun x => (x.1, BitVec.ofNat 32 (x.2 / 2 ^ (32 * e.2)))) ready lat.covered) z
      let held (l : Nat) : DWord :=
        if (all.all fun e => e.1 != l) && z.unseen.any (fun u => rs.contains u.reg && laneOn u.lanes l) then
          if rs.length = 2 then s.freeAt c 18 l else ((s.freeAt c 18 l).setWidth 32 : Word).setWidth 64
        else z.destLane rs l
      z.updPath c.ref.path fun p => p.advanceLast held ready

/-- MZ of the prefix (R129). -/
def Ctx.mz (c : Ctx) : Bool := c.path.pfx.elim false (·.mz)
/-- SAT of the prefix (R129). -/
def Ctx.sat (c : Ctx) : Bool := c.path.pfx.elim false (·.sat)

/-- The specifier of the fourth operand: FOURTH with a prefix, else the destination (R131). -/
def Ctx.fourth (c : Ctx) (d : BitVec 8) : Nat := c.path.pfx.elim d.toNat (·.fourth.toNat)

end Sys2Proof.Machine
end

