-- ==== Sys2Proof/Machine/Fetch.lean ====
section
/-! DEFINITION. Fetching a clause (R112, R113, R268), the illegal-clause checks (R114, R116, R136, R340), the WAIT of a clause (R115), and the
instruction at a path's place (R129, R136, R137). -/

namespace Sys2Proof.Machine

/-- One instruction of a clause: its place, its words with its prefix, its prefix, and what it decodes to. -/
structure SWord where
  idx : Nat
  raw : List Word
  pfx : Option Pfx
  instr : Option Instr
deriving DecidableEq, Repr

/-- Cut the words of a clause into instructions. -/
def cutWords : Nat → Nat → List Word → List SWord
  | 0, _, _ => []
  | _, _, [] => []
  | k + 1, i, w :: r =>
    let one (w : Word) (r : List Word) : Option Instr × Nat :=
      ((decodeWord w (r.headD 0)).toOption, if hasTrailing w then 2 else 1)
    if isPrefixWord w then
      match r with
      | [] => [⟨i, [w], none, none⟩]
      | v :: t =>
        let (j, n) := one v t
        ⟨i, (w :: r).take (1 + n), (readPrefix w).1, if isPrefixWord v || (readPrefix w).2 then none else j⟩ ::
          cutWords k (i + 1 + n) ((w :: r).drop (1 + n))
    else
      let (j, n) := one w r
      ⟨i, (w :: r).take n, none, j⟩ :: cutWords k (i + n) ((w :: r).drop n)

/-! ### The instruction at the path's place -/

/-- The instruction at a place of a clause: the prefix that precedes it, and what it decodes to, or the DETAIL of its trap. -/
structure Here where
  pfx : Option Pfx
  word : Except Nat Instr
deriving Repr

/-- The instruction that a prefix precedes: both are checked as one, and every cause in the prefix counts as DETAIL 9 (R137). (log 23: DEDUCED) -/
def prefixed (w v x : Word) : Here :=
  let (p, bad) := readPrefix w
  if isPrefixWord v then ⟨p, .error 9⟩
  else
    match decodeWord v x with
    | .error e => ⟨p, .error (if bad then min 9 (e.detail p) else e.detail p)⟩
    | .ok i => if bad then ⟨p, .error ((encCauses p i).foldl Nat.min 9)⟩ else ⟨p, .ok i⟩

/-- The instruction at word `k` of a clause as fetched. (log 23: DEDUCED) -/
def hereAt (ws : List Word) (k : Nat) : Here :=
  let w := ws.getD k 0
  let v := ws.getD (k + 1) 0
  if isPrefixWord w then prefixed w v (ws.getD (k + 2) 0)
  else
    match decodeWord w v with
    | .error e => ⟨none, .error (e.detail none)⟩
    | .ok i => ⟨none, .ok i⟩

def Path.here (p : Path) : Here := hereAt p.fetched p.idx

/-- The instruction that a place runs: an encoding that is no instruction runs as its trap. -/
def Here.instr (h : Here) : Instr :=
  match h.word with
  | .ok i => i
  | .error d => .illegalInstruction d

/-! ### The checks of a clause (R340) -/

/-- The word of an item that its prefix, if any, precedes. -/
def SWord.main (w : SWord) : Word := if isPrefixWord (w.raw.headD 0) then w.raw.getD 1 0 else w.raw.headD 0

/-- An item that runs past the clause's words. -/
def SWord.cutShort (w : SWord) : Bool :=
  let one (v : Word) : Nat := if hasTrailing v then 2 else 1
  decide (w.raw.length < if isPrefixWord (w.raw.headD 0) then 1 + one w.main else one w.main)

/-- The specifiers that a word names, in an encoding that is no instruction too. -/
def SWord.names (w : SWord) : List Nat :=
  match decodeWord w.main (w.raw.getD (if isPrefixWord (w.raw.headD 0) then 2 else 1) 0) with
  | .ok i | .error (.reservedField i) | .error (.mustBeZero i) => specifiers w.pfx i
  | .error _ => []

/-- The DETAILs that the words of a clause raise. (log 28: DEDUCED) -/
def clauseCauses (h : Nat) (items : List SWord) : List Nat :=
  let cls := bits h 6 4
  let kinds := items.filterMap fun w => wordKind w.main
  (if kinds.any fun k => !classPermits cls k then [5] else []) ++
  (if cls = 5 ∧ 1 < kinds.count .system then [6] else []) ++
  (if items.dropLast.any fun w => wordKind w.main == some .control then [7] else []) ++
  (if items.any SWord.cutShort || items.getLast?.elim false (fun w => isPrefixWord w.main) then [8] else []) ++
  (if h.testBit 17 ∧ items.any fun w => wordKind w.main == some .vector || w.names.any isPerLane then [9] else [])

/-- The DETAIL of the illegal-clause trap of a clause, if any: the lowest that applies. -/
def clauseDetail (h : Nat) (ws : List Word) : Option Nat :=
  lowestDetail
    ((if bits h 3 0 = 0 then [1] else []) ++ (if 6 ≤ bits h 6 4 then [2] else []) ++ (if h / 2 ^ 20 ≠ 0 then [3] else []) ++
      (if h.testBit 16 ∧ !h.testBit 17 then [4] else []) ++ clauseCauses h (cutWords 16 1 ws))

/-! ### Fetching -/

/-- The fault of the first of `n` code bytes at `va` that cannot be fetched: its translation, its port, its poison. (log 73: DEDUCED) -/
def State.fetchFault (s : State) (o va n : Nat) : Option FaultCase :=
  if va % 4 ≠ 0 then some ⟨8, 1, va, 0⟩
  else
    (List.range n).findSome? fun k =>
      match (s.owner o).translate (va + k) false with
      | .error kind => some ⟨kind, 0, va + k, 0⟩
      | .ok pa => if !s.portUp pa then some ⟨11, 6, va + k, 0⟩ else if s.poisoned pa 1 then some ⟨11, 1, va + k, 0⟩ else none

/-- Charge code bytes to the owner (R300). (log 47: DESIGN CHOICE) -/
def State.chargeCode (s : State) (o va n : Nat) : State :=
  match s.vaRead o va with
  | none => s
  | some pa => s.charge o pa n

/-- What fetching the clause at a path's header gives: a fault, or the clause's header and words. (log 73: DEDUCED) -/
def State.fetchClause (s : State) (c : Ctx) : Except FaultCase (List Word) :=
  let o := c.launch.owner
  let die := dieOf c.group.core
  match s.fetchFault o c.path.pc 4 with
  | some f => .error f
  | none =>
    let h := (s.codeWords o die c.path.pc 1).headD 0
    let n := 1 + bits h.toNat 3 0
    match s.fetchFault o c.path.pc (4 * n) with
    | some f => .error f
    | none => .ok (s.codeWords o die c.path.pc n)

/-- A WAIT that has seen its counters at zero makes the destinations of their words readable (R63). (log 18: DEDUCED) -/
def Group.waitSeen (z : Group) (h : Nat) : Group :=
  { z with unseen := z.unseen.filter fun u => !h.testBit (7 + u.sb), unseenTiles := z.unseenTiles.filter fun u => !h.testBit (7 + u.1) }

/-- A path before its clause: it fetches the clause, meets an illegal-clause trap, waits for the clause's counters, or stands at its first
word. A tier cap holds the fetch (R358). (log 3, 73: DEDUCED) -/
def State.beginClause (s : State) (c : Ctx) : State :=
  if c.path.fetched = [] ∧ s.pumpHeld c.launch then s.heldByCap c.ref
  else match (if c.path.fetched = [] then s.fetchClause c else .ok c.path.fetched) with
  | .error f => s.faultPath c f false
  | .ok ws =>
    let s := if c.path.fetched = [] then s.chargeCode c.launch.owner c.path.pc (4 * ws.length) else s
    let h := (ws.headD 0).toNat
    let p := { c.path with fetched := ws }
    let s := s.updPath c.ref fun p => { p with fetched := ws }
    match clauseDetail h ws.tail with
    | some d => s.faultPath { c with path := p } ⟨4, d, 0, 3⟩ false
    | none =>
      if c.group.waitClear h then s.updPathGroup c.ref fun z => (z.waitSeen h).updPath c.ref.path fun p => { p with idx := 1 }
      else s.setStatus c.ref (.waiting .clause)

/-- CLAUSE_WAIT_CLEAR (R115): the counters of a waiting clause read zero, and its path issues it. -/
def execClauseWaitClear (r : PathRef) (s : State) : Host.Outcome State Fault Refusal :=
  match s.ctx? r with
  | none => .next s
  | some c =>
    match c.path.status with
    | .waiting .clause => .next (if c.group.waitClear c.path.header then s.setStatus r .ready else s)
    | _ => .next s

/-! ### Poisoned registers at a word (R377, R386) -/

/-- Stack lines that the word at a path's place names, and whether it names the operand file. -/
def Ctx.linesHere (c : Ctx) : List Nat × Bool :=
  let specs := match c.path.here.word with
    | .ok i => readOrder c.path.here.pfx i ++ writeSpecs c.path.here.pfx i
    | .error _ => []
  (linesOf c.group.depth specs, specs.any fun e => isO e.1)

/-- A marked line is refilled from its image (R386). -/
def Group.refill (z : Group) (n : Nat) : Group := if z.lines.any fun l => l.n == n && l.poison then z.dropLine n else z

/-- A marked line holds zeros, and its mark is cleared: in the store, or for the refill that is to come (R386). -/
def Group.zeroLine (z : Group) (n : Nat) : Group :=
  if z.lines.any fun l => l.n == n then
    { z.dropLine n with lines := z.lines.map fun l => if l.n = n then { l with poison := false, dirty := true } else l }
  else { z with spilled := z.spilled.filter (· != n) }

/-- The latch keeps nothing of a line (R60). -/
def Path.dropServed (p : Path) (ls : List Nat) : Path :=
  { p with served := p.served.filter fun n => !ls.contains n, servedPoison := p.servedPoison.filter fun n => !ls.contains n }

/-- The answer to a word that needs marked register lines (R386): a retry refills them again from the image, a skip refills them with zeros
and clears the marks. The operand file is such a line (R377). -/
def State.answerLines (s : State) (c : Ctx) (ls : List Nat) (o retry : Bool) : State :=
  let off := c.launch.header.ctxOf c.block.slot c.group.index + 0x2000
  let image : Sparse 32 := Sparse.puts [] ((bytesWords 768 (s.imageRead c.launch c.block c.group.core off 3072)).zipIdx.map fun e => (e.2, e.1))
  let still := (List.range 48).any fun k => (s.imagePa c.launch c.block (off + 64 * k)).elim false fun pa => s.poisoned pa 1
  s.updPathGroup c.ref fun z =>
    let z := (ls.foldl (fun z n => if retry then z.refill n else z.zeroLine n) z).updPath c.ref.path fun p => p.dropServed ls
    if o then { z with oper := if retry then image else [], operPoison := retry && still } else z

/-- The marked lines that an origin's word needs, and whether it needs the marked operand file. -/
def State.needsLine (s : State) (g : Origin) : Option (Ctx × List Nat × Bool) :=
  match g.source, g.marked with
  | .path r _, some m =>
    (s.ctx? r).bind fun c =>
      let (ls, o) := c.linesHere
      let ls := m.1.filter ls.contains
      if ls ≠ [] ∨ (m.2 && o) then some (c, ls, m.2 && o) else none
  | _, _ => none

/-- Order after a return: the origin path's first access acts as though an acquire at `.pkg` had preceded it, so what the handler's group has
read, and what its own group has read, comes before (links 4 and 6 of R260, R329). (log 41, 72: DEDUCED) -/
def State.acquireFrom (s : State) (g : Origin) (reads : List Nat) : State :=
  match g.source with
  | .lane r _ | .path r _ => s.updPath r fun p => { p.after s.moment (s.closed reads) with acquire := true }
  | _ => s

/-- Release an origin, and those behind it, by `hret` of a handler group that has read `reads`. (log 72: DEDUCED) -/
def State.answer (s : State) (id : Nat) (retry : Bool) (reads : List Nat) : State :=
  let gs := s.origins.filter fun g => g.id == id || g.state == .behind id
  gs.foldl (fun s g =>
    let s := s.acquireFrom g reads
    match s.needsLine g with
    | some (c, ls, o) => (s.answerLines c ls o retry).releaseOne g true
    | none => s.releaseOne g retry) s

end Sys2Proof.Machine
end

