-- ==== Sys2Proof/Machine/Stops.lean ====
section
/-! DEFINITION. The debug window (R393, R394), and how a path stops (R395 to R397): the causes, the record, and the siblings that stop with it. -/

namespace Sys2Proof.Machine

/-! ### The debug window (R393, R394) -/

/-- A word of an owner's debug window. -/
def State.winWord (s : State) (o off : Nat) : Nat := ((s.wordVirt o (s.window o + off)).getD 0).toNat

/-- Whether a path can stop at all: a debug window is set, its launch is no handler and not the debug kernel, and its block is resident
(R392, R395). -/
def State.debuggable (s : State) (c : Ctx) : Bool :=
  decide (s.window c.launch.owner ≠ 0) && c.launch.handler.isNone && decide (s.winWord c.launch.owner 4 ≠ c.ref.launch)

/-- Residual address of the instruction word that a path issues next: past the clause header and a prefix (R395). (log 98: DEDUCED) -/
def State.nextInstrAddr (s : State) (c : Ctx) : Nat :=
  let k := max 1 c.path.idx
  let w := (c.path.fetched[k]?).getD ((s.codeWords c.launch.owner (dieOf c.group.core) (c.path.pc + 4 * k) 1).headD 0)
  (c.path.pc + 4 * (if isPrefixWord w then k + 1 else k)) % 2 ^ 64

/-- Whether a breakpoint entry matches the next word of a path (R394). (log 98: DEDUCED) -/
def State.entryHits (s : State) (c : Ctx) (k : Nat) : Bool :=
  let o := c.launch.owner
  let (orig, rec1) := s.backMap c.launch (s.nextInstrAddr c)
  let w2 := s.winWord o (0x48 + 16 * k)
  let l := s.winWord o (0x44 + 16 * k)
  let b := s.winWord o (0x4C + 16 * k)
  w2.testBit 31 && decide (s.winWord o (0x40 + 16 * k) = orig.toNat) && (decide (l = 0xFFFFFFFF) || decide (l = c.ref.launch)) &&
    (w2.testBit 30 || decide (w2 % 64 = rec1.toNat % 64)) && (decide (b = 0xFFFFFFFF) || decide (b = c.ref.block))

/-- The lowest breakpoint entry that matches, while breakpoints are armed. -/
def State.breakHit (s : State) (c : Ctx) : Option Nat :=
  if (s.winWord c.launch.owner 0).testBit 0 then (List.range 16).find? fun k => s.entryHits c k else none

/-- Why a ready path stops before its next word: the lowest CAUSE that applies, and the breakpoint entry. Breakpoints are tested before every fault of the
word and of its clause, unless the path has just resumed (R395). (log 98: DEDUCED) -/
def State.stopCause (s : State) (c : Ctx) : Option (Nat × Nat) :=
  if !c.path.isReady || !s.debuggable c then none
  else
    match (if c.path.skipBreak then none else s.breakHit c) with
    | some k => some (1, k)
    | none => if c.path.stepLeft = some 0 then some (2, 0) else c.path.stopSoon.map fun n => (n, 0)

/-! ### Stopping (R395 to R397) -/

/-- The record of a stop (R396). -/
def State.stopRecord (s : State) (c : Ctx) (cause bk : Nat) : List Word :=
  let addr := s.nextInstrAddr c
  let (orig, rec1) := s.backMap c.launch addr
  let image := c.launch.header.ctxOf c.block.slot c.ref.group
  [BitVec.ofNat 32 s.cycle, BitVec.ofNat 32 (s.cycle / 2 ^ 32),
   BitVec.ofNat 32 (cause * 2 ^ 28 + c.ref.path * 2 ^ 24 + c.ref.group * 2 ^ 17 + bk * 2 ^ 10 + c.group.core),
   BitVec.ofNat 32 c.ref.launch, BitVec.ofNat 32 c.ref.block, orig, BitVec.ofNat 32 addr, BitVec.ofNat 32 (rec1.toNat % 128),
   BitVec.ofNat 32 image, BitVec.ofNat 32 (image / 2 ^ 32)] ++ List.replicate 6 0

/-- Post a stop record, behind those that wait for room. -/
def State.postStop (s : State) (o : Nat) (ws : List Word) : State :=
  let later (s : State) : State := s.updOwner o fun w => { w with deferredStops := w.deferredStops ++ [ws] }
  if (s.owner o).deferredStops ≠ [] then later s
  else
    match s.ringPost o (s.window o + 0x200) 5 64 (wordBytes ws) with
    | (t, true) => t
    | (t, false) => later t

/-- One path stops: it enters STATE 3, its group's lines and header areas are written as `wspill 0, 0, 1` writes them, and a record
is posted: who sees it sees them (R396). -/
def State.stopOne (s : State) (r : PathRef) (cause bk : Nat) : State :=
  match s.ctx? r with
  | none => s
  | some c0 =>
    let ws := s.stopRecord c0 cause bk
    let s1 := s.updPath r fun p => { p with stopped := some cause, stopSoon := none, stepLeft := none }
    match s1.ctx? r with
    | none => s1
    | some c =>
      (((s1.spillLines c.launch c.block c.group fun _ => true).writeHeaderAreas c.launch c.block c.group).carry fun t =>
        ofGroup r t && (t.lane == 96 || t.lane == 97)).postStop c.launch.owner ws

/-- The stop of a sibling under the group's stop mode: at once where it is ready, after its wait where it waits (R395, R397). -/
def State.stopSibling (s : State) (r : PathRef) : State :=
  match s.ctx? r with
  | none => s
  | some c =>
    if c.path.stopped.isSome then s
    else if c.path.isReady then
      let (n, bk) := (s.stopCause c).getD (4, 0)
      s.stopOne r n bk
    else s.updPath r fun p => { p with stopSoon := some (p.stopSoon.getD 4) }

/-- A path stops, and with it, in stop mode 1, every path of its group. -/
def State.stopPath (s : State) (r : PathRef) (cause bk : Nat) : State :=
  let s1 := s.stopOne r cause bk
  if (s1.group? r.launch r.block r.group).elim false (·.stopMode) then
    ((List.range 4).filter (· != r.path)).foldl (fun s k => s.stopSibling { r with path := k }) s1
  else s1

/-- A child that a stepping path forks starts stopped before its first word, with CAUSE 2 (R399). -/
def State.stepChild (s : State) (r : PathRef) (stepping : Bool) : State := if stepping then s.stopPath r 2 0 else s

end Sys2Proof.Machine
end

