-- ==== Sys2Proof/Machine/Flags.lean ====
section
/-! DEFINITION. The FP mode word in force (R79, R80), lane flags (R83, R84) and floating-point exception traps (R333); the shared shape of vector
words (R161). -/

namespace Sys2Proof.Machine

/-- The mode word that a word issued in cycle `t` uses: a write counts from the next cycle on (R80). (log 29: DEDUCED) -/
def Group.modeInForce (z : Group) (t : Nat) : Word := if t ≤ z.modeAt then z.modePrev else z.mode

/-- RND, FTZ and TRAPEN of a mode word (R79). -/
def modeRnd (m : Word) : Nat := bits m.toNat 2 0
def modeFtz (m : Word) : Bool := m.getLsbD 3
def modeTrapen (m : Word) : Flags := (m >>> 8).setWidth 6

/-- What a floating word executes under: RND of its prefix, else the mode word's; FTZ; SAT (R79, R85). -/
def Ctx.fpMode (c : Ctx) (t : Nat) : FpMode :=
  let m := c.group.modeInForce t
  let r := c.path.pfx.elim 0 (·.rnd)
  ⟨Rnd.ofCode (if r = 0 then modeRnd m else r), modeFtz m, c.sat⟩

/-- A result in one lane with the flags it sets. -/
structure LaneRes where
  lane : Nat
  v : Nat
  fl : Flags
deriving DecidableEq, Repr

/-- Set the flags of a word's lanes (R83). -/
def Group.setFlags (z : Group) (k : Nat) (rs : List LaneRes) (ready : Nat) : Group :=
  z.putFlags k false (rs.map fun r => (r.lane, r.fl)) ready

/-- Flags of a word that completes, and with a trap enabled the hold until they are known (R84, R333). -/
def State.flagWord (s : State) (c : Ctx) (i : Instr) (rs : List LaneRes) : State :=
  let ready := (latencyOf c.path.pfx i).ready ((issueOf c i 0).ends s.cycle)
  let trapen := modeTrapen (c.group.modeInForce s.cycle)
  let n := rs.countP fun r => r.fl != 0
  let s := s.updPathGroup c.ref fun z => (z.setFlags c.ref.path rs ready).updPath c.ref.path fun p =>
    { p with nextIssue := if trapen = 0 then p.nextIssue else max p.nextIssue ready }
  if n = 0 then s else s.updOwner c.launch.owner fun o => o.event 9 n

/-- The lanes that trap: a flag set whose TRAPEN bit is set (R333). -/
def trapLanes (trapen : Flags) (rs : List LaneRes) : List (Nat × FaultCase) :=
  (rs.filter fun r => (r.fl &&& trapen) != 0).map fun r => (r.lane, ⟨5, (r.fl &&& trapen).toNat, 0, 3⟩)

/-- The results of a vector word in its active lanes. -/
def vectorResults (s : State) (c : Ctx) (f : State → Ctx → Nat → FRes) : List LaneRes :=
  (laneList c.path.selected).map fun l => let r := f s c l; ⟨l, r.v, r.fl⟩

/-- A vector word with destination `d` of `n` registers: results `rs` are read whole before anything is written (R161). Inactive lanes of issued
beats are zeroed where `zero` holds. A word that sets flags (`flags`) may trap (R333). (log 25: DEDUCED) -/
def State.vectorBody (s : State) (c : Ctx) (i : Instr) (d n : Nat) (zero flags : Bool) (rs : List LaneRes) : State :=
  let s1 := s.noteIssue c i (issueOf c i 0)
  if rs.isEmpty then s1.finish c i
  else
    let s2 := s1.writeVector c i d n zero (rs.map fun r => (r.lane, r.v))
    let s3 := if flags then s2.flagWord c i rs else s2
    let s4 := s3.finish c i
    if flags then s4.faultLanes c (trapLanes (modeTrapen (c.group.modeInForce s.cycle)) rs) true else s4

/-- A vector word that computes each active lane by itself. -/
def State.laneWord (s : State) (i : Instr) (d : BitVec 8) (n : Ctx → Nat) (flags : Bool) (f : State → Ctx → Nat → FRes) :
    Host.Outcome State Fault Refusal :=
  s.word i fun c s => s.vectorBody c i d.toNat (n c) c.mz flags (vectorResults s c f)

end Sys2Proof.Machine
end

