-- ==== Sys2Proof/Machine/Scalar.lean ====
section
/-! DEFINITION. Scalar arithmetic, constants and mask words (R138 to R147), the mode word (R160), `trip` and `nop` (R156, R157). -/

namespace Sys2Proof.Machine

/-! ### Integer operations at a width (R140, R141, R144), shared with the vector words (R165, R166) -/

/-- The type of an integer operation. -/
structure IntTy where
  w : Nat
  signed : Bool
deriving DecidableEq, Repr

/-- The integer type of a type code; floating codes move bits and count as unsigned (R132). -/
def intTy (c : Nat) : IntTy := ⟨codeWidth c, decide (1 ≤ c) && decide (c ≤ 4)⟩

/-- An exact result wrapped, or clamped to the type (R140). -/
def IntTy.close (t : IntTy) (sat : Bool) (e : Int) : Nat := wrapInt t.w (if sat then clampInt t.signed t.w e else e)

def intAdd (t : IntTy) (sat : Bool) (x y : Nat) : Nat := t.close sat (intOf t.signed t.w x + intOf t.signed t.w y)
def intSub (t : IntTy) (sat : Bool) (x y : Nat) : Nat := t.close sat (intOf t.signed t.w x - intOf t.signed t.w y)
def intMul (t : IntTy) (sat : Bool) (x y : Nat) : Nat := t.close sat (intOf t.signed t.w x * intOf t.signed t.w y)
/-- The high half of the exact product (R140). -/
def intMulh (t : IntTy) (x y : Nat) : Nat := wrapInt t.w (intOf t.signed t.w x * intOf t.signed t.w y / 2 ^ t.w)
/-- The quotient rounded toward zero, with the fixed results of R141. -/
def intDiv (t : IntTy) (sat : Bool) (x y : Nat) : Nat :=
  let a := intOf t.signed t.w x
  let b := intOf t.signed t.w y
  if b = 0 then 2 ^ t.w - 1 else t.close sat (a.tdiv b)
/-- The remainder, with the sign of x (R141). -/
def intRem (t : IntTy) (x y : Nat) : Nat :=
  let a := intOf t.signed t.w x
  let b := intOf t.signed t.w y
  if b = 0 then wrapInt t.w a else wrapInt t.w (a.tmod b)
def intAnd (x y : Nat) : Nat := x &&& y
def intOr (x y : Nat) : Nat := x ||| y
def intXor (x y : Nat) : Nat := x ^^^ y
def intShl (t : IntTy) (x y : Nat) : Nat := x * 2 ^ (y % t.w) % 2 ^ t.w
def intShr (t : IntTy) (x y : Nat) : Nat := x / 2 ^ (y % t.w)
/-- Shifts in copies of the highest bit, whatever the type. -/
def intSar (t : IntTy) (x y : Nat) : Nat := wrapInt t.w (intOf true t.w x / 2 ^ (y % t.w))
def intMin (t : IntTy) (x y : Nat) : Nat := if intOf t.signed t.w y < intOf t.signed t.w x then y else x
def intMax (t : IntTy) (x y : Nat) : Nat := if intOf t.signed t.w x < intOf t.signed t.w y then y else x
def intNot (t : IntTy) (x : Nat) : Nat := 2 ^ t.w - 1 - x
def intAbs (t : IntTy) (sat : Bool) (x : Nat) : Nat := t.close sat ((intOf t.signed t.w x).natAbs : Int)
def intNeg (t : IntTy) (sat : Bool) (x : Nat) : Nat := t.close sat (-(intOf t.signed t.w x))
def intClz (t : IntTy) (x : Nat) : Nat := t.w - bitLen x
def intPopc (t : IntTy) (x : Nat) : Nat := (List.range t.w).countP fun k => x.testBit k

/-- Whether the condition of a compare holds (R119, R142). -/
def intCond (t : IntTy) (cond x y : Nat) : Bool :=
  let a := intOf t.signed t.w x
  let b := intOf t.signed t.w y
  match cond with
  | 0 => decide (a = b)
  | 1 => decide (a ≠ b)
  | 2 => decide (a < b)
  | 3 => decide (a ≤ b)
  | 4 => decide (b < a)
  | _ => decide (b ≤ a)

/-! ### Scalar words -/

/-- The type of a scalar arithmetic word: EXT 0 is `.n32` (R139). -/
def Ctx.scalarTy (c : Ctx) : IntTy := intTy (typeOf 7 c.path.pfx)

/-- A scalar three-operand word (R140): both operands are read before the destination is written. -/
def State.scalar3 (s : State) (i : Instr) (d a : BitVec 8) (b : BitVec 7) (f : IntTy → Bool → Nat → Nat → Nat) :
    Host.Outcome State Fault Refusal :=
  s.word i fun c s => s.completes c i 0 fun s1 =>
    let t := c.scalarTy
    s1.writeScalars c d.toNat t.w (f t c.sat (s.scalarOperand c a.toNat 0 t.w) (s.scalarOperand c (wide7 b) 2 t.w)) (s.cycle + 1) false

/-- A scalar unary word (R144). -/
def State.scalar2 (s : State) (i : Instr) (d a : BitVec 8) (f : IntTy → Bool → Nat → Nat) : Host.Outcome State Fault Refusal :=
  s.word i fun c s => s.completes c i 0 fun s1 =>
    let t := c.scalarTy
    s1.writeScalars c d.toNat t.w (f t c.sat (s.scalarOperand c a.toNat 0 t.w)) (s.cycle + 1) false

/-- A mask word with two sources (R147). -/
def State.mask3 (s : State) (i : Instr) (d a : BitVec 8) (b : BitVec 7) (f : Lanes → Lanes → Lanes) : Host.Outcome State Fault Refusal :=
  s.word i fun c s => s.completes c i 0 fun s1 =>
    s1.writeTriple c (d.toNat - 0x40) (f (s.maskOperand c a.toNat 0) (s.maskOperand c (wide7 b) 3)) (s.cycle + 1)

/-- A mask word with one source (R147). -/
def State.mask2 (s : State) (i : Instr) (d a : BitVec 8) (f : Lanes → Lanes) : Host.Outcome State Fault Refusal :=
  s.word i fun c s => s.completes c i 0 fun s1 =>
    s1.writeTriple c (d.toNat - 0x40) (f (s.maskOperand c a.toNat 0)) (s.cycle + 1)

/-- `add` (R140). -/
def execAdd (st : BitVec 2) (d a : BitVec 8) (b : BitVec 7) (s : State) : Host.Outcome State Fault Refusal :=
  s.scalar3 (.add st d a b) d a b intAdd
/-- `sub` (R140). -/
def execSub (st : BitVec 2) (d a : BitVec 8) (b : BitVec 7) (s : State) : Host.Outcome State Fault Refusal :=
  s.scalar3 (.sub st d a b) d a b intSub
/-- `mul` (R140). -/
def execMul (st : BitVec 2) (d a : BitVec 8) (b : BitVec 7) (s : State) : Host.Outcome State Fault Refusal :=
  s.scalar3 (.mul st d a b) d a b intMul
/-- `mulh` (R140). -/
def execMulh (st : BitVec 2) (d a : BitVec 8) (b : BitVec 7) (s : State) : Host.Outcome State Fault Refusal :=
  s.scalar3 (.mulh st d a b) d a b fun t _ x y => intMulh t x y
/-- `div` (R141). -/
def execDiv (st : BitVec 2) (d a : BitVec 8) (b : BitVec 7) (s : State) : Host.Outcome State Fault Refusal :=
  s.scalar3 (.div st d a b) d a b intDiv
/-- `rem` (R141). -/
def execRem (st : BitVec 2) (d a : BitVec 8) (b : BitVec 7) (s : State) : Host.Outcome State Fault Refusal :=
  s.scalar3 (.rem st d a b) d a b fun t _ x y => intRem t x y
/-- `and` (R140). -/
def execAnd (st : BitVec 2) (d a : BitVec 8) (b : BitVec 7) (s : State) : Host.Outcome State Fault Refusal :=
  s.scalar3 (.and st d a b) d a b fun _ _ x y => intAnd x y
/-- `or` (R140). -/
def execOr (st : BitVec 2) (d a : BitVec 8) (b : BitVec 7) (s : State) : Host.Outcome State Fault Refusal :=
  s.scalar3 (.or st d a b) d a b fun _ _ x y => intOr x y
/-- `xor` (R140). -/
def execXor (st : BitVec 2) (d a : BitVec 8) (b : BitVec 7) (s : State) : Host.Outcome State Fault Refusal :=
  s.scalar3 (.xor st d a b) d a b fun _ _ x y => intXor x y
/-- `shl` (R140). -/
def execShl (st : BitVec 2) (d a : BitVec 8) (b : BitVec 7) (s : State) : Host.Outcome State Fault Refusal :=
  s.scalar3 (.shl st d a b) d a b fun t _ x y => intShl t x y
/-- `shr` (R140). -/
def execShr (st : BitVec 2) (d a : BitVec 8) (b : BitVec 7) (s : State) : Host.Outcome State Fault Refusal :=
  s.scalar3 (.shr st d a b) d a b fun t _ x y => intShr t x y
/-- `sar` (R140). -/
def execSar (st : BitVec 2) (d a : BitVec 8) (b : BitVec 7) (s : State) : Host.Outcome State Fault Refusal :=
  s.scalar3 (.sar st d a b) d a b fun t _ x y => intSar t x y
/-- `min` (R140). -/
def execMin (st : BitVec 2) (d a : BitVec 8) (b : BitVec 7) (s : State) : Host.Outcome State Fault Refusal :=
  s.scalar3 (.min st d a b) d a b fun t _ x y => intMin t x y
/-- `max` (R140). -/
def execMax (st : BitVec 2) (d a : BitVec 8) (b : BitVec 7) (s : State) : Host.Outcome State Fault Refusal :=
  s.scalar3 (.max st d a b) d a b fun t _ x y => intMax t x y
/-- `sel` (R143): the condition is the destination's value before the write. -/
def execSel (st : BitVec 2) (d a : BitVec 8) (b : BitVec 7) (s : State) : Host.Outcome State Fault Refusal :=
  s.word (.sel st d a b) fun c s => s.completes c (.sel st d a b) 0 fun s1 =>
    let w := c.scalarTy.w
    s1.writeScalars c d.toNat w
      (if s.scalarOperand c d.toNat 4 w ≠ 0 then s.scalarOperand c a.toNat 0 w else s.scalarOperand c (wide7 b) 2 w) (s.cycle + 1) false
/-- `cmp` (R142): all ones or zero in each word of the triple. -/
def execCmp (st : BitVec 2) (cnd : BitVec 3) (d : BitVec 5) (a : BitVec 8) (b : BitVec 7) (s : State) : Host.Outcome State Fault Refusal :=
  s.word (.cmp st cnd d a b) fun c s => s.completes c (.cmp st cnd d a b) 0 fun s1 =>
    let t := c.scalarTy
    s1.writeTriple c d.toNat
      (if intCond t cnd.toNat (s.scalarOperand c a.toNat 0 t.w) (s.scalarOperand c (wide7 b) 2 t.w) then BitVec.allOnes 96 else 0) (s.cycle + 1)
/-- `mov` (R144). -/
def execMov (st : BitVec 2) (d a : BitVec 8) (s : State) : Host.Outcome State Fault Refusal :=
  s.scalar2 (.mov st d a) d a fun _ _ x => x
/-- `not` (R144). -/
def execNot (st : BitVec 2) (d a : BitVec 8) (s : State) : Host.Outcome State Fault Refusal :=
  s.scalar2 (.not st d a) d a fun t _ x => intNot t x
/-- `abs` (R144). -/
def execAbs (st : BitVec 2) (d a : BitVec 8) (s : State) : Host.Outcome State Fault Refusal :=
  s.scalar2 (.abs st d a) d a intAbs
/-- `neg` (R144). -/
def execNeg (st : BitVec 2) (d a : BitVec 8) (s : State) : Host.Outcome State Fault Refusal :=
  s.scalar2 (.neg st d a) d a intNeg
/-- `clz` (R144). -/
def execClz (st : BitVec 2) (d a : BitVec 8) (s : State) : Host.Outcome State Fault Refusal :=
  s.scalar2 (.clz st d a) d a fun t _ x => intClz t x
/-- `popc` (R144). -/
def execPopc (st : BitVec 2) (d a : BitVec 8) (s : State) : Host.Outcome State Fault Refusal :=
  s.scalar2 (.popc st d a) d a fun t _ x => intPopc t x
/-- `mmov` (R147). -/
def execMmov (st : BitVec 2) (d a : BitVec 8) (s : State) : Host.Outcome State Fault Refusal := s.mask2 (.mmov st d a) d a fun x => x
/-- `mnot` (R147). -/
def execMnot (st : BitVec 2) (d a : BitVec 8) (s : State) : Host.Outcome State Fault Refusal := s.mask2 (.mnot st d a) d a fun x => ~~~x
/-- `mpop` (R147). -/
def execMpop (st : BitVec 2) (d a : BitVec 8) (s : State) : Host.Outcome State Fault Refusal :=
  s.word (.mpop st d a) fun c s => s.completes c (.mpop st d a) 0 fun s1 =>
    s1.writeScalars c d.toNat 32 (laneCount (s.maskOperand c a.toNat 0)) (s.cycle + 1) false
/-- `movk` (R145). -/
def execMovk (st : BitVec 2) (d : BitVec 8) (v : Word) (s : State) : Host.Outcome State Fault Refusal :=
  s.word (.movk st d v) fun c s => s.completes c (.movk st d v) 0 fun s1 => s1.writeScalars c d.toNat 32 v.toNat (s.cycle + 1) false
/-- `mand` (R147). -/
def execMand (st : BitVec 2) (d a : BitVec 8) (b : BitVec 7) (s : State) : Host.Outcome State Fault Refusal :=
  s.mask3 (.mand st d a b) d a b fun x y => x &&& y
/-- `mor` (R147). -/
def execMor (st : BitVec 2) (d a : BitVec 8) (b : BitVec 7) (s : State) : Host.Outcome State Fault Refusal :=
  s.mask3 (.mor st d a b) d a b fun x y => x ||| y
/-- `mxor` (R147). -/
def execMxor (st : BitVec 2) (d a : BitVec 8) (b : BitVec 7) (s : State) : Host.Outcome State Fault Refusal :=
  s.mask3 (.mxor st d a b) d a b fun x y => x ^^^ y
/-- `mandn` (R147). -/
def execMandn (st : BitVec 2) (d a : BitVec 8) (b : BitVec 7) (s : State) : Host.Outcome State Fault Refusal :=
  s.mask3 (.mandn st d a b) d a b fun x y => x &&& ~~~y
/-- `trip` (R156): at run time only the write. -/
def execTrip (st : BitVec 2) (d a : BitVec 8) (s : State) : Host.Outcome State Fault Refusal :=
  s.word (.trip st d a) fun c s => s.completes c (.trip st d a) 0 fun s1 =>
    s1.writeScalars c d.toNat 32 (s.scalarOperand c a.toNat 0 32) (s.cycle + 1) false
/-- `nop` (R157). -/
def execNop (st : BitVec 2) (s : State) : Host.Outcome State Fault Refusal :=
  s.word (.nop st) fun c s => s.completes c (.nop st) 0 fun s1 => s1
/-- `rdmode` (R160). -/
def execRdmode (st : BitVec 2) (d : BitVec 8) (s : State) : Host.Outcome State Fault Refusal :=
  s.word (.rdmode st d) fun c s => s.completes c (.rdmode st d) 0 fun s1 =>
    s1.writeScalars c d.toNat 32 (modeBits (c.group.modeInForce s.cycle)).toNat (s.cycle + 1) false
/-- `wrmode` (R160): a reserved RND is a trap (R342); the word is in force from the next cycle on (R80). (log 29: DEDUCED) -/
def execWrmode (st : BitVec 2) (a : BitVec 8) (s : State) : Host.Outcome State Fault Refusal :=
  s.word (.wrmode st a) fun c s =>
    let v : Word := BitVec.ofNat 32 (s.scalarOperand c a.toNat 0 32)
    if modeRnd v = 0 ∨ 6 ≤ modeRnd v then s.illegal c 37
    else
      s.completes c (.wrmode st a) 0 fun s1 => s1.updPathGroup c.ref fun z =>
        { z with mode := modeBits v, modePrev := z.modeInForce s.cycle, modeAt := s.cycle }

end Sys2Proof.Machine
end

