-- ==== Sys2Proof/Machine/Control.lean ====
section
/-! DEFINITION. Control-flow words: branches (R149, R150), calls and returns (R151 to R153), forks and joins (R30 to R32, R154, R155), `sleep`
and `exit` (R157, R158). -/

namespace Sys2Proof.Machine

/-- The target of a word in the clause at the path's header (R120). -/
def Path.target {n : Nat} (p : Path) (ofs : BitVec n) : Nat := (((p.pc : Int) + 4 * ofs.toInt) % 2 ^ 64).toNat

/-- A word that moves the path to a clause, with the cycles it adds (R150). -/
def State.jumps (s : State) (c : Ctx) (i : Instr) (extra target : Nat) : State :=
  (s.noteIssue c i (issueOf c i extra)).updPath c.ref fun p => p.goto target

/-- `bra` (R149). -/
def execBra (st : BitVec 2) (o : BitVec 23) (s : State) : Host.Outcome State Fault Refusal :=
  s.word (.bra st o) fun c s => s.jumps c (.bra st o) 2 (c.path.target o)

/-- A conditional branch: taken, or on to the next clause (R148, R149). -/
def State.branch (s : State) (c : Ctx) (i : Instr) (taken : Bool) (target : Nat) : State :=
  if taken then s.jumps c i 2 target else s.completes c i 0 fun s1 => s1

/-- `brz` (R149). -/
def execBrz (st : BitVec 2) (a : BitVec 8) (o : BitVec 15) (s : State) : Host.Outcome State Fault Refusal :=
  s.word (.brz st a o) fun c s => s.branch c (.brz st a o) (s.maskOperand c a.toNat 0 == 0) (c.path.target o)

/-- `brnz` (R149). -/
def execBrnz (st : BitVec 2) (a : BitVec 8) (o : BitVec 15) (s : State) : Host.Outcome State Fault Refusal :=
  s.word (.brnz st a o) fun c s => s.branch c (.brnz st a o) (s.maskOperand c a.toNat 0 != 0) (c.path.target o)

/-- Live paths of a group. -/
def Group.livePaths (z : Group) : Nat := z.paths.countP (·.valid)

/-- The last-result file of a path after `call` or `ret` (R49). (log 20: DEDUCED) -/
def Path.forgetLast (p : Path) : Path := { p with l0Def := false, l1Def := false }

/-- Virtual address of the frame record for a depth (R55). -/
def Ctx.frame (c : Ctx) (depth : Nat) : Nat := c.launch.header.ctxOf c.block.slot c.group.index + 0x3000 + 32 * depth

/-- The store of the group that writes a frame record (R153), after the path's earlier accesses to it (R198). -/
def State.frameOp (s : State) (c : Ctx) (depth : Nat) (ws : List Word) : Op :=
  let places := (List.range 4).filterMap fun j => (s.imagePa c.launch c.block (c.frame depth + 8 * j)).map fun pa =>
    (j, pa, ws.getD (2 * j + 1) 0 ++ ws.getD (2 * j) 0, (0 : DWord))
  { s.blankOp c .store 6 with
    width := 8
    lanes := places
    uniform := true
    after := s.conflicts c false (places.map fun e => (e.2.1, 8)) }

/-- A frame record is written: at once, or once what comes first is done. -/
def State.storeFrame (s : State) (c : Ctx) (o : Op) : State := if o.after.isEmpty then s.performStore o else s.startOp c o [] 0

/-- `call` (R151): a frame record, the link, and the window slid by n lines. With an all-zero live mask nothing happens.
With a second live path, value code 32 comes before 33. (log 129: DESIGN CHOICE) -/
def execCall (st : BitVec 2) (n : BitVec 3) (o : BitVec 20) (s : State) : Host.Outcome State Fault Refusal :=
  s.word (.call st n o) fun c s =>
    let k := n.toNat + 1
    let d := c.group.depth
    if c.path.mask = 0 then s.completes c (.call st n o) 0 fun s1 => s1
    else if 1 < c.group.livePaths then s.illegal c 32
    else if c.launch.header.stack < d + k + 8 then s.illegal c 33
    else if s.pumpHeld c.launch then s.heldByCap c.ref
    else
      let rec4 : List Word := maskWords c.path.mask ++ [s.readReg c (.scal 120) 0 0 s.cycle, BitVec.ofNat 32 k, 0, 0, 0]
      let s1 := s.storeFrame c (s.frameOp c (d + k) rec4)
      let s2 := s1.noteIssue c (.call st n o) (issueOf c (.call st n o) 2)
      s2.updPathGroup c.ref fun z => { z with depth := d + k }.updPath c.ref.path fun p =>
        { (p.goto (c.path.target o)).forgetLast with priv := p.priv.put 120 (BitVec.ofNat 32 c.path.nextPc) }

/-- The stores of the group that are in flight to the frame record (R153). (log 36: DEDUCED) -/
def State.framePending (s : State) (c : Ctx) : List Nat :=
  ((s.groupOps c.ref s.nextId).filter fun o => !o.sp && (o.kind == .store || o.kind == .strong || o.kind == .atomic || o.kind == .accStore) &&
    o.lanes.any fun e => (List.range 32).any fun j => match s.imagePa c.launch c.block (c.frame c.group.depth + j) with
      | some pa => decide (e.2.1 ≤ pa) && decide (pa < e.2.1 + if o.kind == .accStore then e.2.2.1.toNat else o.width)
      | none => false).map (·.id)

/-- Undefined values in the image lines that `ret` leaves dead (R58). (log 37: DEDUCED) -/
def State.killImageLine (s : State) (c : Ctx) (line : Nat) : State :=
  s.imageSpoil c.launch c.block (c.launch.header.ctxOf c.block.slot c.group.index + lineOff line)
    ((List.range 3072).map fun j => (s.freeOf c.launch.owner (4096 * (line % 8) + j)).setWidth 8)

/-- Whether a line holds what the group wrote: one that it never wrote refills as zeros (R53). -/
def Group.wroteLine (z : Group) (n : Nat) : Bool := z.spilled.contains n || z.lines.any fun l => l.n == n && l.dirty

/-- `ret` (R152): mask and link from the frame record, the window slid back, the lines above dead. With a second live path,
value code 32 comes before 34; a link that stall counts cover still is read as any such result is (R124). (log 36, 37, 129: DEDUCED, DESIGN CHOICE) -/
def execRet (st : BitVec 2) (s : State) : Host.Outcome State Fault Refusal :=
  s.word (.ret st) fun c s =>
    if 1 < c.group.livePaths then s.illegal c 32
    else if s.framePending c ≠ [] then s.setStatus c.ref (.waiting (.drain (s.framePending c)))
    else if s.pumpHeld c.launch then s.heldByCap c.ref
    else
      let d := c.group.depth
      let ws := bytesWords 8 (s.imageRead c.launch c.block c.group.core (c.frame d) 32)
      let n := bits (ws.getD 4 0).toNat 3 0
      if n = 0 ∨ 9 ≤ n ∨ d < n then s.illegal c 34
      else
        let link := (s.readReg c (.scal 120) 0 0 s.cycle).toNat
        let dead := (List.range n).map fun j => d - n + 8 + j
        let s1 := (s.noteIssue c (.ret st) (issueOf c (.ret st) 2)).chargeImage c.launch c.block c.launch.owner (c.frame d) 32
        let s2 := dead.foldl (fun s l => s.killImageLine c l) s1
        (s2.takeFreeOf c.launch.owner 32768).updPathGroup c.ref fun z =>
          let lost := dead.filter z.wroteLine
          let z := dead.foldl Group.dropLine z
          { z with depth := d - n, spilled := (z.spilled.filter fun l => !lost.contains l) ++ lost }.updPath c.ref.path fun p =>
            { (p.goto (c.path.pc / 2 ^ 32 * 2 ^ 32 + link)).forgetLast with
              priv := p.priv.put 120 (ws.getD 3 0)
              mask := ofMaskWords (ws.getD 0 0) (ws.getD 1 0) (ws.getD 2 0) &&& p.present }

/-- The lowest-numbered free join record (R31). -/
def Group.freeRecord (z : Group) : Option Nat := (List.range 4).find? fun r => !(z.joins.getD r ⟨0, true, 0⟩).alloc

/-- The lowest-numbered free path-table entry (R30). -/
def Group.freeEntry (z : Group) : Option Nat := (List.range 4).find? fun k => !(z.paths.getD k { Path.dead with valid := true }).valid

/-- A token (R31). -/
def token (gen : BitVec 8) (r : Nat) : Word := BitVec.ofNat 32 (gen.toNat * 256 + r)

/-- The parent and the child of a fork that splits the live mask `live`: child entry `e`, record `r` (R30, R49, R399). -/
def Group.split (z : Group) (k e r : Nat) (live moving : Lanes) (target next : Nat) : Group :=
  let p := z.paths.getD k Path.dead
  let tok : BitVec 4 := BitVec.ofNat 4 (2 ^ r)
  let parent := { p.goto next with
    member := p.member &&& ~~~moving, present := p.present &&& ~~~moving, mask := live &&& ~~~moving, tokens := p.tokens ||| tok }
  let child := { p.goto target with
    member := moving, present := moving, mask := moving, tokens := p.tokens ||| tok
    stepLeft := none
    issuedAt := none
    stopSoon := none }
  { z with paths := (z.paths.set k parent).set e child }

/-- The child's copies of own scalars that an asynchronous word of the parent has yet to write are copies of undefined values (R30, R63). (log 34: DEDUCED) -/
def Group.spoilCopies (z : Group) (k e : Nat) (free : Nat → DWord) : Group :=
  (z.unseen.filter fun u => u.path == k).foldl (fun z u => match u.reg with
    | .scal n => if 108 ≤ n ∧ n < 121 then z.updPath e fun p => { p with priv := p.priv.put n ((free n).setWidth 32) } else z
    | _ => z) z

/-- `fork` (R30, R154). (log 34: DEDUCED) -/
def execFork (st : BitVec 2) (d a : BitVec 8) (v : Word) (s : State) : Host.Outcome State Fault Refusal :=
  s.word (.fork st d a v) fun c s =>
    match c.group.freeEntry, c.group.freeRecord with
    | none, _ => s.illegal c 35
    | _, none => s.illegal c 36
    | some e, some r =>
      let i : Instr := .fork st d a v
      let moving := c.path.mask &&& s.maskOperand c a.toNat 0
      let splits := moving != 0 && moving != c.path.mask
      let target := c.path.target v
      let gen := (c.group.joins.getD r ⟨0, false, 0⟩).gen + 1
      let toTarget := moving != 0
      let s1 := s.noteIssue c i (issueOf c i (if toTarget then 2 else 0))
      let s2 := s1.updPathGroup c.ref fun z =>
        let z := { z with joins := z.joins.modify r fun _ => ⟨gen, splits, 0⟩ }
        if splits then (z.split c.ref.path e r c.path.mask moving target c.path.nextPc).spoilCopies c.ref.path e (s.freeOf c.launch.owner)
        else z.updPath c.ref.path fun p => p.goto (if toTarget then target else c.path.nextPc)
      let s3 := s2.writeScalarReg c (d.toNat - 0x40) (token gen r) (s.cycle + 1) false
      let s4 := if splits ∧ 108 ≤ d.toNat - 0x40 then
          s3.updPathGroup c.ref fun z => z.produce c.ref.launch c.ref.block e (.scal (d.toNat - 0x40)) [(0, token gen r)] (s.cycle + 1) false
        else s3
      s4.stepChild { c.ref with path := e } (splits && c.path.stepLeft.isSome)

/-- `join` (R32, R155). -/
def execJoin (st : BitVec 2) (a : BitVec 8) (s : State) : Host.Outcome State Fault Refusal :=
  s.word (.join st a) fun c s =>
    let tok := s.scalarOperand c a.toNat 0 32
    let r := tok % 4
    let j := c.group.joins.getD r ⟨0, false, 0⟩
    if j.alloc ∧ j.gen.toNat = bits tok 15 8 ∧ c.path.tokens.getLsbD r then
      (s.noteIssue c (.join st a) (issueOf c (.join st a) 0)).updPathGroup c.ref fun z =>
        let z := ({ z with joins := z.joins.modify r fun j => { j with arrived := j.arrived ||| BitVec.ofNat 4 (2 ^ c.ref.path) } }.updPath
          c.ref.path fun p => { p with status := .waiting (.join r) }).settle s.cycle
        if (z.paths.getD c.ref.path Path.dead).status = .waiting (.join r) then z.settled c.ref.path else z
    else s.completes c (.join st a) 0 fun s1 => s1

/-- `exit` (R158). -/
def execExit (st : BitVec 2) (s : State) : Host.Outcome State Fault Refusal :=
  s.word (.exit st) fun c s =>
    let s1 := s.completes c (.exit st) 0 fun s1 => s1
    if c.path.mask = 0 then s1 else s1.leave c c.path.mask

/-- `sleep` (R157): the deadline is t + v. -/
def execSleep (st : BitVec 2) (a : BitVec 8) (s : State) : Host.Outcome State Fault Refusal :=
  s.word (.sleep st a) fun c s =>
    let v := s.scalarOperand c a.toNat 0 32
    let s1 := s.completes c (.sleep st a) v fun s1 => s1
    if v = 0 then s1 else s1.setStatus c.ref (.sleeping (s.cycle + v))

/-- SLEEP_EXPIRE (R157): a deadline that has passed makes its path ready. -/
def execSleepExpire (r : PathRef) (s : State) : Host.Outcome State Fault Refusal :=
  match s.path? r with
  | some p =>
    match p.valid, p.status with
    | true, .sleeping t => .next (if t ≤ s.cycle then s.setStatus r .ready else s)
    | _, _ => .next s
  | none => .next s

end Sys2Proof.Machine
end

