-- ==== Sys2Proof/Machine/VectorInt.lean ====
section
/-! DEFINITION. Vector integer words (R165 to R168). -/

namespace Sys2Proof.Machine

/-- The type code of a vector integer word: EXT 0 is `.i32` (R135, R162). -/
def Ctx.vecCode (c : Ctx) : Nat := typeOf 3 c.path.pfx

/-- A vector integer word with two operands (R165). -/
def State.vecInt3 (s : State) (i : Instr) (d a : BitVec 8) (b : BitVec 7) (f : IntTy → Bool → Nat → Nat → Nat) :
    Host.Outcome State Fault Refusal :=
  s.laneWord i d (fun c => regsOf c.vecCode) false fun s c l =>
    let k := NumKind.int (codeWidth c.vecCode)
    ⟨f (intTy c.vecCode) c.sat (s.operand c i a.toNat 0 k l) (s.operand c i (wide7 b) 2 k l), 0⟩

/-- A vector integer word with one operand (R166). -/
def State.vecInt2 (s : State) (i : Instr) (d a : BitVec 8) (f : IntTy → Bool → Nat → Nat) : Host.Outcome State Fault Refusal :=
  s.laneWord i d (fun c => regsOf c.vecCode) false fun s c l =>
    ⟨f (intTy c.vecCode) c.sat (s.operand c i a.toNat 0 (.int (codeWidth c.vecCode)) l), 0⟩

/-- A vector compare: the triple of active lanes in which the condition holds; it is written even when no lane is active (R167). -/
def State.vecCmp (s : State) (i : Instr) (d : BitVec 5) (flags : Bool) (f : State → Ctx → Nat → Bool × Flags) :
    Host.Outcome State Fault Refusal :=
  s.word i fun c s =>
    let rs := (laneList c.path.selected).map fun l => (l, f s c l)
    let fs : List LaneRes := rs.map fun e => ⟨e.1, 0, e.2.2⟩
    let ready := (issueOf c i 0).ends s.cycle + 1
    let s1 := (s.noteIssue c i (issueOf c i 0)).writeTriple c d.toNat (laneSet ((rs.filter fun e => e.2.1).map (·.1))) ready
    let s2 := if flags ∧ !rs.isEmpty then s1.flagWord c i fs else s1
    let s3 := s2.finish c i
    if flags then s3.faultLanes c (trapLanes (modeTrapen (c.group.modeInForce s.cycle)) fs) true else s3

/-- `add` (R165). -/
def execAddVectorInt (st : BitVec 2) (d a : BitVec 8) (b : BitVec 7) (s : State) : Host.Outcome State Fault Refusal :=
  s.vecInt3 (.addVectorInt st d a b) d a b intAdd
/-- `sub` (R165). -/
def execSubVectorInt (st : BitVec 2) (d a : BitVec 8) (b : BitVec 7) (s : State) : Host.Outcome State Fault Refusal :=
  s.vecInt3 (.subVectorInt st d a b) d a b intSub
/-- `mul` (R165). -/
def execMulVectorInt (st : BitVec 2) (d a : BitVec 8) (b : BitVec 7) (s : State) : Host.Outcome State Fault Refusal :=
  s.vecInt3 (.mulVectorInt st d a b) d a b intMul
/-- `mulh` (R165). -/
def execMulhVectorInt (st : BitVec 2) (d a : BitVec 8) (b : BitVec 7) (s : State) : Host.Outcome State Fault Refusal :=
  s.vecInt3 (.mulhVectorInt st d a b) d a b fun t _ x y => intMulh t x y
/-- `div` (R165). -/
def execDivVectorInt (st : BitVec 2) (d a : BitVec 8) (b : BitVec 7) (s : State) : Host.Outcome State Fault Refusal :=
  s.vecInt3 (.divVectorInt st d a b) d a b intDiv
/-- `rem` (R165). -/
def execRemVectorInt (st : BitVec 2) (d a : BitVec 8) (b : BitVec 7) (s : State) : Host.Outcome State Fault Refusal :=
  s.vecInt3 (.remVectorInt st d a b) d a b fun t _ x y => intRem t x y
/-- `and` (R165). -/
def execAndVector (st : BitVec 2) (d a : BitVec 8) (b : BitVec 7) (s : State) : Host.Outcome State Fault Refusal :=
  s.vecInt3 (.andVector st d a b) d a b fun _ _ x y => intAnd x y
/-- `or` (R165). -/
def execOrVector (st : BitVec 2) (d a : BitVec 8) (b : BitVec 7) (s : State) : Host.Outcome State Fault Refusal :=
  s.vecInt3 (.orVector st d a b) d a b fun _ _ x y => intOr x y
/-- `xor` (R165). -/
def execXorVector (st : BitVec 2) (d a : BitVec 8) (b : BitVec 7) (s : State) : Host.Outcome State Fault Refusal :=
  s.vecInt3 (.xorVector st d a b) d a b fun _ _ x y => intXor x y
/-- `shl` (R165). -/
def execShlVector (st : BitVec 2) (d a : BitVec 8) (b : BitVec 7) (s : State) : Host.Outcome State Fault Refusal :=
  s.vecInt3 (.shlVector st d a b) d a b fun t _ x y => intShl t x y
/-- `shr` (R165). -/
def execShrVector (st : BitVec 2) (d a : BitVec 8) (b : BitVec 7) (s : State) : Host.Outcome State Fault Refusal :=
  s.vecInt3 (.shrVector st d a b) d a b fun t _ x y => intShr t x y
/-- `sar` (R165). -/
def execSarVector (st : BitVec 2) (d a : BitVec 8) (b : BitVec 7) (s : State) : Host.Outcome State Fault Refusal :=
  s.vecInt3 (.sarVector st d a b) d a b fun t _ x y => intSar t x y
/-- `min` (R165). -/
def execMinVectorInt (st : BitVec 2) (d a : BitVec 8) (b : BitVec 7) (s : State) : Host.Outcome State Fault Refusal :=
  s.vecInt3 (.minVectorInt st d a b) d a b fun t _ x y => intMin t x y
/-- `max` (R165). -/
def execMaxVectorInt (st : BitVec 2) (d a : BitVec 8) (b : BitVec 7) (s : State) : Host.Outcome State Fault Refusal :=
  s.vecInt3 (.maxVectorInt st d a b) d a b fun t _ x y => intMax t x y
/-- `sel` (R168): the condition is the fourth operand as an integer. -/
def execSelVector (st : BitVec 2) (d a : BitVec 8) (b : BitVec 7) (s : State) : Host.Outcome State Fault Refusal :=
  s.laneWord (.selVector st d a b) d (fun c => regsOf c.vecCode) false fun s c l =>
    let k := NumKind.int (codeWidth c.vecCode)
    let i : Instr := .selVector st d a b
    ⟨if s.operand c i (c.fourth d) 4 k l ≠ 0 then s.operand c i a.toNat 0 k l else s.operand c i (wide7 b) 2 k l, 0⟩
/-- `cmp` (R167). -/
def execCmpVectorInt (st : BitVec 2) (cnd : BitVec 3) (d : BitVec 5) (a : BitVec 8) (b : BitVec 7) (s : State) :
    Host.Outcome State Fault Refusal :=
  s.vecCmp (.cmpVectorInt st cnd d a b) d false fun s c l =>
    let k := NumKind.int (codeWidth c.vecCode)
    let i : Instr := .cmpVectorInt st cnd d a b
    (intCond (intTy c.vecCode) cnd.toNat (s.operand c i a.toNat 0 k l) (s.operand c i (wide7 b) 2 k l), 0)
/-- `mov` (R166). -/
def execMovVector (st : BitVec 2) (d a : BitVec 8) (s : State) : Host.Outcome State Fault Refusal :=
  s.vecInt2 (.movVector st d a) d a fun _ _ x => x
/-- `not` (R166). -/
def execNotVector (st : BitVec 2) (d a : BitVec 8) (s : State) : Host.Outcome State Fault Refusal :=
  s.vecInt2 (.notVector st d a) d a fun t _ x => intNot t x
/-- `abs` (R166). -/
def execAbsVectorInt (st : BitVec 2) (d a : BitVec 8) (s : State) : Host.Outcome State Fault Refusal :=
  s.vecInt2 (.absVectorInt st d a) d a intAbs
/-- `neg` (R166). -/
def execNegVectorInt (st : BitVec 2) (d a : BitVec 8) (s : State) : Host.Outcome State Fault Refusal :=
  s.vecInt2 (.negVectorInt st d a) d a intNeg
/-- `clz` (R166). -/
def execClzVector (st : BitVec 2) (d a : BitVec 8) (s : State) : Host.Outcome State Fault Refusal :=
  s.vecInt2 (.clzVector st d a) d a fun t _ x => intClz t x
/-- `popc` (R166). -/
def execPopcVector (st : BitVec 2) (d a : BitVec 8) (s : State) : Host.Outcome State Fault Refusal :=
  s.vecInt2 (.popcVector st d a) d a fun t _ x => intPopc t x

end Sys2Proof.Machine
end

