-- ==== Sys2Proof/Machine/VectorFloat.lean ====
section
/-! DEFINITION. Vector floating words (R169 to R174, R190). -/

namespace Sys2Proof.Machine

/-- The format of a floating word: EXT 0 is `.f32` (R135, R162). -/
def Ctx.fmt (c : Ctx) : Fmt := (fmtOfCode (typeOf 11 c.path.pfx)).getD .f32

def Fmt.regs (f : Fmt) : Nat := if f.width = 64 then 2 else 1

/-- A floating word with two operands in the format `f` gives. -/
def State.vecFlt3 (s : State) (i : Instr) (f : Ctx → Fmt) (d a : BitVec 8) (b : BitVec 7) (op : Fmt → FpMode → Nat → Nat → FRes) :
    Host.Outcome State Fault Refusal :=
  s.laneWord i d (fun c => (f c).regs) true fun s c l =>
    op (f c) (c.fpMode s.cycle) (s.operand c i a.toNat 0 (.flt (f c)) l) (s.operand c i (wide7 b) 2 (.flt (f c)) l)

/-- A floating word with one operand. -/
def State.vecFlt2 (s : State) (i : Instr) (f : Ctx → Fmt) (d a : BitVec 8) (op : Fmt → FpMode → Nat → FRes) :
    Host.Outcome State Fault Refusal :=
  s.laneWord i d (fun c => (f c).regs) true fun s c l => op (f c) (c.fpMode s.cycle) (s.operand c i a.toNat 0 (.flt (f c)) l)

/-- A fused multiply-add: the addend is the fourth operand (R131). -/
def State.vecFma (s : State) (i : Instr) (f : Ctx → Fmt) (d a : BitVec 8) (b : BitVec 7) : Host.Outcome State Fault Refusal :=
  s.laneWord i d (fun c => (f c).regs) true fun s c l =>
    (f c).fma (c.fpMode s.cycle) (s.operand c i a.toNat 0 (.flt (f c)) l) (s.operand c i (wide7 b) 2 (.flt (f c)) l)
      (s.operand c i (c.fourth d) 4 (.flt (f c)) l)

/-- A floating word that sets no flag and takes no rounding (R172). -/
def State.vecBits (s : State) (i : Instr) (d a : BitVec 8) (op : Fmt → Nat → Nat) : Host.Outcome State Fault Refusal :=
  s.laneWord i d (fun c => c.fmt.regs) false fun s c l => ⟨op c.fmt (s.operand c i a.toNat 0 (.flt c.fmt) l), 0⟩

/-- `add` (R169). -/
def execAddFloat (st : BitVec 2) (d a : BitVec 8) (b : BitVec 7) (s : State) : Host.Outcome State Fault Refusal :=
  s.vecFlt3 (.addFloat st d a b) Ctx.fmt d a b Fmt.add
/-- `sub` (R169). -/
def execSubFloat (st : BitVec 2) (d a : BitVec 8) (b : BitVec 7) (s : State) : Host.Outcome State Fault Refusal :=
  s.vecFlt3 (.subFloat st d a b) Ctx.fmt d a b Fmt.sub
/-- `mul` (R169). -/
def execMulFloat (st : BitVec 2) (d a : BitVec 8) (b : BitVec 7) (s : State) : Host.Outcome State Fault Refusal :=
  s.vecFlt3 (.mulFloat st d a b) Ctx.fmt d a b Fmt.mul
/-- `fma` (R169). -/
def execFmaFloat (st : BitVec 2) (d a : BitVec 8) (b : BitVec 7) (s : State) : Host.Outcome State Fault Refusal :=
  s.vecFma (.fmaFloat st d a b) Ctx.fmt d a b
/-- `div` (R169). -/
def execDivFloat (st : BitVec 2) (d a : BitVec 8) (b : BitVec 7) (s : State) : Host.Outcome State Fault Refusal :=
  s.vecFlt3 (.divFloat st d a b) Ctx.fmt d a b Fmt.div
/-- `sqrt` (R169). -/
def execSqrt (st : BitVec 2) (d a : BitVec 8) (s : State) : Host.Outcome State Fault Refusal :=
  s.vecFlt2 (.sqrt st d a) Ctx.fmt d a Fmt.sqrt
/-- `rsq` (R169). -/
def execRsq (st : BitVec 2) (d a : BitVec 8) (s : State) : Host.Outcome State Fault Refusal :=
  s.vecFlt2 (.rsq st d a) Ctx.fmt d a Fmt.rsq
/-- `rcp` (R169). -/
def execRcp (st : BitVec 2) (d a : BitVec 8) (s : State) : Host.Outcome State Fault Refusal :=
  s.vecFlt2 (.rcp st d a) Ctx.fmt d a Fmt.rcp
/-- `min` (R171). -/
def execMinFloat (st : BitVec 2) (d a : BitVec 8) (b : BitVec 7) (s : State) : Host.Outcome State Fault Refusal :=
  s.vecFlt3 (.minFloat st d a b) Ctx.fmt d a b fun f md x y => f.minmax md false x y
/-- `max` (R171). -/
def execMaxFloat (st : BitVec 2) (d a : BitVec 8) (b : BitVec 7) (s : State) : Host.Outcome State Fault Refusal :=
  s.vecFlt3 (.maxFloat st d a b) Ctx.fmt d a b fun f md x y => f.minmax md true x y
/-- `cmp` (R173). -/
def execCmpFloat (st : BitVec 2) (cnd : BitVec 3) (d : BitVec 5) (a : BitVec 8) (b : BitVec 7) (s : State) :
    Host.Outcome State Fault Refusal :=
  s.vecCmp (.cmpFloat st cnd d a b) d true fun s c l =>
    let i : Instr := .cmpFloat st cnd d a b
    c.fmt.cmp (c.fpMode s.cycle) cnd.toNat (s.operand c i a.toNat 0 (.flt c.fmt) l) (s.operand c i (wide7 b) 2 (.flt c.fmt) l)
/-- `class` (R174). -/
def execClassify (st : BitVec 2) (d a : BitVec 8) (b : BitVec 7) (s : State) : Host.Outcome State Fault Refusal :=
  s.laneWord (.classify st d a b) d (fun _ => 1) false fun s c l =>
    let i : Instr := .classify st d a b
    ⟨2 ^ c.fmt.classOf (s.operand c i a.toNat 0 (.flt c.fmt) l) &&& s.operand c i (wide7 b) 2 (.int 32) l, 0⟩
/-- `abs` (R172). -/
def execAbsFloat (st : BitVec 2) (d a : BitVec 8) (s : State) : Host.Outcome State Fault Refusal :=
  s.vecBits (.absFloat st d a) d a Fmt.absBits
/-- `neg` (R172). -/
def execNegFloat (st : BitVec 2) (d a : BitVec 8) (s : State) : Host.Outcome State Fault Refusal :=
  s.vecBits (.negFloat st d a) d a Fmt.negBits
/-- `add.f64` (R169). -/
def execAddF64 (st : BitVec 2) (d a : BitVec 8) (b : BitVec 7) (s : State) : Host.Outcome State Fault Refusal :=
  s.vecFlt3 (.addF64 st d a b) (fun _ => .f64) d a b Fmt.add
/-- `sub.f64` (R169). -/
def execSubF64 (st : BitVec 2) (d a : BitVec 8) (b : BitVec 7) (s : State) : Host.Outcome State Fault Refusal :=
  s.vecFlt3 (.subF64 st d a b) (fun _ => .f64) d a b Fmt.sub
/-- `mul.f64` (R169). -/
def execMulF64 (st : BitVec 2) (d a : BitVec 8) (b : BitVec 7) (s : State) : Host.Outcome State Fault Refusal :=
  s.vecFlt3 (.mulF64 st d a b) (fun _ => .f64) d a b Fmt.mul
/-- `fma.f64` (R169, R190). -/
def execFmaF64 (st : BitVec 2) (d a : BitVec 8) (b : BitVec 7) (s : State) : Host.Outcome State Fault Refusal :=
  s.vecFma (.fmaF64 st d a b) (fun _ => .f64) d a b

end Sys2Proof.Machine
end

