-- ==== Sys2Proof/Machine/Convert.lean ====
section
/-! DEFINITION. Conversions (R175 to R181) and the L32 words (R188, R189). -/

namespace Sys2Proof.Machine

/-- The code format of a source type (R132). -/
def codeKindOf (c : Nat) : Option CodeKind := if c = 16 then some .t3 else if c = 17 then some .q4 else if c = 18 then some .q8 else none

/-- Whether a floating source of a conversion is read as zero when subnormal under FTZ: never for a binary64 source, nor when binary64 is
written (R81, R176). -/
def sourceMode (md : FpMode) (src : Fmt) (to64 : Bool) : FpMode :=
  { md with ftz := md.ftz && src.width != 64 && !to64 }

/-- A conversion to a floating format, from a source of type code `f` (R176, R178, R180). `p` is the parameter word. -/
def cvtToFloat (dst : Fmt) (md : FpMode) (f : Nat) (a p : Nat) : FRes :=
  match fmtOfCode f with
  | some src =>
    let (x, dn) := src.operand (sourceMode md src (dst.width == 64)) a
    (dst.ofVal md src.fb x).flag dn
  | none =>
    match codeKindOf f with
    | some k => dst.fromCode md k a p
    | none => if f = 15 then dst.ofVal md 23 (lVal a) else dst.ofInt md (intOf (intTy f).signed (intTy f).w a)

/-- A conversion to L32 (R178). -/
def cvtToLog (md : FpMode) (f : Nat) (a : Nat) : FRes :=
  match fmtOfCode f with
  | some src =>
    let (x, dn) := src.operand (sourceMode md src false) a
    (lOfVal md.rnd x).flag dn
  | none =>
    if f = 15 then ⟨if lZero a then lZeroOf (lSign a) else a, 0⟩
    else
      let n := intOf (intTy f).signed (intTy f).w a
      lOfVal md.rnd (.fin (decide (n < 0)) ⟨n.natAbs, 0, false⟩)

/-- A conversion to an integer type (R177). -/
def cvtToInt (t : IntTy) (md : FpMode) (f : Nat) (a : Nat) : FRes :=
  match fmtOfCode f with
  | some src =>
    let (x, dn) := src.operand (sourceMode md src false) a
    (intOfVal md t.signed t.w x).flag dn
  | none =>
    if f = 15 then intOfVal md t.signed t.w (lVal a)
    else ⟨t.close md.sat (intOf (intTy f).signed (intTy f).w a), 0⟩

/-- A conversion word whose lanes `op` computes from mode, source bits and parameter word. -/
def State.vecCvt (s : State) (i : Instr) (n : Ctx → Nat) (d a : BitVec 8) (f : BitVec 5) (op : Ctx → FpMode → Nat → Nat → FRes) :
    Host.Outcome State Fault Refusal :=
  s.laneWord i d n true fun s c l =>
    op c (c.fpMode s.cycle) (s.operand c i a.toNat 0 (numKind f.toNat) l)
      (if f.toNat ≤ 15 ∧ !(match i with | .cvtCode .. => true | _ => false) then 0 else s.operand c i (c.fourth d) 4 (.int 32) l)

/-- `cvt.f64` (R175, R176). -/
def execCvtF64 (st : BitVec 2) (d a : BitVec 8) (f : BitVec 5) (s : State) : Host.Outcome State Fault Refusal :=
  s.vecCvt (.cvtF64 st d a f) (fun _ => 2) d a f fun _ md x p => cvtToFloat .f64 md f.toNat x p
/-- `cvt.f32` (R175, R176). -/
def execCvtF32 (st : BitVec 2) (d a : BitVec 8) (f : BitVec 5) (s : State) : Host.Outcome State Fault Refusal :=
  s.vecCvt (.cvtF32 st d a f) (fun _ => 1) d a f fun _ md x p => cvtToFloat .f32 md f.toNat x p
/-- `cvt.f16` (R175, R176). -/
def execCvtF16 (st : BitVec 2) (d a : BitVec 8) (f : BitVec 5) (s : State) : Host.Outcome State Fault Refusal :=
  s.vecCvt (.cvtF16 st d a f) (fun _ => 1) d a f fun _ md x p => cvtToFloat .f16 md f.toNat x p
/-- `cvt.bf16` (R175, R176). -/
def execCvtBf16 (st : BitVec 2) (d a : BitVec 8) (f : BitVec 5) (s : State) : Host.Outcome State Fault Refusal :=
  s.vecCvt (.cvtBf16 st d a f) (fun _ => 1) d a f fun _ md x p => cvtToFloat .bf16 md f.toNat x p
/-- `cvt.e4m3` (R175, R176). -/
def execCvtE4m3 (st : BitVec 2) (d a : BitVec 8) (f : BitVec 5) (s : State) : Host.Outcome State Fault Refusal :=
  s.vecCvt (.cvtE4m3 st d a f) (fun _ => 1) d a f fun _ md x p => cvtToFloat .e4m3 md f.toNat x p
/-- `cvt.e5m2` (R175, R176). -/
def execCvtE5m2 (st : BitVec 2) (d a : BitVec 8) (f : BitVec 5) (s : State) : Host.Outcome State Fault Refusal :=
  s.vecCvt (.cvtE5m2 st d a f) (fun _ => 1) d a f fun _ md x p => cvtToFloat .e5m2 md f.toNat x p
/-- `cvt.l32` (R178). -/
def execCvtL32 (st : BitVec 2) (d a : BitVec 8) (f : BitVec 5) (s : State) : Host.Outcome State Fault Refusal :=
  s.vecCvt (.cvtL32 st d a f) (fun _ => 1) d a f fun _ md x _ => cvtToLog md f.toNat x
/-- `cvt` to an integer type (R177). -/
def execCvtInt (st : BitVec 2) (d a : BitVec 8) (f : BitVec 5) (s : State) : Host.Outcome State Fault Refusal :=
  s.vecCvt (.cvtInt st d a f) (fun c => regsOf c.vecCode) d a f fun c md x _ => cvtToInt (intTy c.vecCode) md f.toNat x
/-- `cvt` to a code (R180). -/
def execCvtCode (st : BitVec 2) (d a : BitVec 8) (k : BitVec 2) (f : BitVec 5) (s : State) : Host.Outcome State Fault Refusal :=
  s.vecCvt (.cvtCode st d a k f) (fun _ => 1) d a f fun _ md x p =>
    match fmtOfCode f.toNat with
    | some src => toCode (if k = 0 then .t3 else if k = 1 then .q4 else .q8) src (sourceMode md src false) x p
    | none => ⟨0, 0⟩

/-- The lanes of one block of `cvtb` with their elements (R181). -/
def cvtbLanes (md : FpMode) (f floor prev : Nat) (read : Nat → Nat) (lanes : List Nat) : List LaneRes :=
  (lanes.zip (cvtbBlock md f floor prev (lanes.map read))).map fun e => ⟨e.1, e.2.v, e.2.fl⟩

/-- `cvtb` (R181): SPAN 0 forms a block per issued beat, SPAN 1 one block; reserved parameters are whole-path traps (R343). -/
def execCvtb (st : BitVec 2) (d a : BitVec 8) (b : BitVec 7) (s : State) : Host.Outcome State Fault Refusal :=
  s.word (.cvtb st d a b) fun c s =>
    let i : Instr := .cvtb st d a b
    let lanes := laneList c.path.selected
    if lanes.isEmpty then s.vectorBody c i d.toNat 1 c.mz true []
    else
      let p := s.pathOperand c (wide7 b) 2
      let span := bits p 1 0
      let prev := bits p 15 8
      let floor := bits p 23 16
      if 2 ≤ span then s.illegal c 38
      else if prev = 255 ∨ floor = 255 then s.illegal c 39
      else
        let f := if extOf c.path.pfx = 10 then 7 else 3
        let run := cvtbLanes (c.fpMode s.cycle) f floor prev fun l => s.operand c i a.toNat 0 (.flt .f32) l
        let rs := if span = 1 then run lanes
          else (List.range 3).flatMap fun j => run (lanes.filter fun l => decide (l / 32 = j))
        s.vectorBody c i d.toNat 1 c.mz true rs

/-- An L32 word (R188): `k` is how operand b is read. -/
def State.vecLog (s : State) (i : Instr) (d a : BitVec 8) (b : BitVec 7) (k : NumKind) (op : FpMode → Nat → Nat → FRes) :
    Host.Outcome State Fault Refusal :=
  s.laneWord i d (fun _ => 1) true fun s c l =>
    op (c.fpMode s.cycle) (s.operand c i a.toNat 0 .log l) (s.operand c i (wide7 b) 2 k l)

/-- `lnsmul` (R188). -/
def execLnsmul (st : BitVec 2) (d a : BitVec 8) (b : BitVec 7) (s : State) : Host.Outcome State Fault Refusal :=
  s.vecLog (.lnsmul st d a b) d a b .log fun _ x y => lMul x y
/-- `lnsdiv` (R188). -/
def execLnsdiv (st : BitVec 2) (d a : BitVec 8) (b : BitVec 7) (s : State) : Host.Outcome State Fault Refusal :=
  s.vecLog (.lnsdiv st d a b) d a b .log fun _ x y => lDiv x y
/-- `lnsadd` (R96, R189). -/
def execLnsadd (st : BitVec 2) (d a : BitVec 8) (b : BitVec 7) (s : State) : Host.Outcome State Fault Refusal :=
  s.vecLog (.lnsadd st d a b) d a b .log fun _ x y => lAdd x y
/-- `lnsroot` (R188). -/
def execLnsroot (st : BitVec 2) (d a : BitVec 8) (b : BitVec 7) (s : State) : Host.Outcome State Fault Refusal :=
  s.vecLog (.lnsroot st d a b) d a b (.int 32) fun md x k => lRoot md.rnd x k
/-- `lnspow` (R188). -/
def execLnspow (st : BitVec 2) (d a : BitVec 8) (b : BitVec 7) (s : State) : Host.Outcome State Fault Refusal :=
  s.vecLog (.lnspow st d a b) d a b (.int 32) fun _ x k => lPow x k

end Sys2Proof.Machine
end

