-- ==== Sys2Proof/Machine/Lanes.lean ====
section
/-! DEFINITION. Words that combine lanes: `shfl`, `bcast`, `match` (R182 to R185), reductions and scans (R100, R186, R187). -/

namespace Sys2Proof.Machine

/-- The type code of a word whose default is `.n32`. -/
def Ctx.bitsCode (c : Ctx) : Nat := typeOf 7 c.path.pfx
/-- The type code of a word whose default is `.f32`. -/
def Ctx.floatCode (c : Ctx) : Nat := typeOf 11 c.path.pfx

/-! ### `shfl` and `bcast` -/

/-- The value that lane `j`'s register holds in the beat of lane `i` (R182, R184). -/
def State.fromLane (s : State) (c : Ctx) (word : Instr) (v j i : Nat) : Nat :=
  let w := codeWidth c.bitsCode
  if isConst v then constBits (.int w) (v - 0xD0)
  else
    (s.rawLane c v (regsOf c.bitsCode) 0
      (beatCycle s.cycle c.path.selected (if wide64 c.path.pfx word then 2 else 1) i) j).toNat % 2 ^ w

/-- The registers of a field, the lane flags among them (none). -/
def flagRegs (depth v n : Nat) : List (Option LaneReg) := if v = 0xCB then [none] else (fieldRegs depth v n).map some

/-- Reads of other paths' lanes whose beats are yet to issue (R184); `l`: the word's log record. -/
def State.reachesOf (s : State) (c : Ctx) (word : Instr) (d v : Nat) (from_ : Nat → Nat) (l : Option LogPlace) : List Reach :=
  if isS d || isS v then []
  else
    let n := regsOf c.bitsCode
    (laneList c.path.selected).flatMap fun i =>
      let t := beatCycle s.cycle c.path.selected (if wide64 c.path.pfx word then 2 else 1) i
      if t ≤ s.cycle || laneOn c.path.member (from_ i) then []
      else
        (((flagRegs c.group.depth d n).zip (flagRegs c.group.depth v n)).zipIdx).map fun e =>
          ⟨c.ref.path, e.1.1, i, e.1.2, from_ i, e.2 == 1, t, (l.bind fun l => l.lane (4 * n) i).map (· + 4 * e.2)⟩

/-- A word that reads lanes of the group: where a lane of another path is read, its values are logged inputs (R401), and but for a replay a beat that is
yet to issue takes what the lane holds then (R184). (log 19: DEDUCED) -/
def State.gatherLanes (s : State) (c : Ctx) (word : Instr) (d v : Nat) (from_ : Nat → Nat) : State :=
  let lanes := laneList c.path.selected
  let vals : List (Nat × DWord) := lanes.map fun i => (i, BitVec.ofNat 64 (s.fromLane c word v (from_ i) i))
  let foreign := lanes.any fun i => !laneOn c.path.member (from_ i)
  let ex := if foreign then s.exchange c (4 * regsOf c.bitsCode) vals else (s, none, vals)
  let s1 := ex.1.vectorBody c word d (regsOf c.bitsCode) c.mz false (ex.2.2.map fun e => ⟨e.1, e.2.toNat, 0⟩)
  if !foreign || c.replaying then s1
  else s1.updPathGroup c.ref fun z => { z with reaches := z.reaches ++ s.reachesOf c word d v from_ ex.2.1 }

/-- `shfl` (R182). -/
def execShfl (st : BitVec 2) (d a : BitVec 8) (b : BitVec 7) (s : State) : Host.Outcome State Fault Refusal :=
  let i : Instr := .shfl st d a b
  s.word i fun c s => s.gatherLanes c i d.toNat a.toNat fun l => s.operand c i (wide7 b) 2 (.int 32) l % 96

/-- `bcast` (R183). -/
def execBcast (st : BitVec 2) (d a : BitVec 8) (b : BitVec 7) (s : State) : Host.Outcome State Fault Refusal :=
  let i : Instr := .bcast st d a b
  s.word i fun c s => s.gatherLanes c i d.toNat a.toNat fun _ => s.pathOperand c (wide7 b) 2 % 96

/-! ### `match` -/

/-- A key of `match`; none: a NaN, which matches no other lane (R185). -/
inductive MatchKey
  | bits (n : Nat)
  | zero
  | nan
deriving DecidableEq, Repr

def matchKey (code b : Nat) : MatchKey :=
  match fmtOfCode code with
  | none => .bits b
  | some f =>
    match f.read b with
    | .nan _ _ _ => .nan
    | .fin _ m => if m.m = 0 then .zero else .bits b
    | .inf _ => .bits b

/-- Size, rank and leader of a lane's set, packed (R185). -/
def matchResult (keys : List (Nat × MatchKey)) (i : Nat) (k : MatchKey) : Nat :=
  let m := (keys.filter fun e => e.1 == i || (k != .nan && e.2 == k)).map (·.1)
  m.length * 2 ^ 16 + (m.countP fun j => decide (j < i)) * 2 ^ 8 + m.headD i

/-- `match` (R185): inactive lanes of issued beats receive zero whatever MZ holds. -/
def execMatchKeys (st : BitVec 2) (d a : BitVec 8) (s : State) : Host.Outcome State Fault Refusal :=
  let i : Instr := .matchKeys st d a
  s.word i fun c s =>
    let keys := (laneList c.path.selected).map fun l => (l, matchKey c.bitsCode (s.operand c i a.toNat 0 (numKind c.bitsCode) l))
    s.vectorBody c i d.toNat 1 true false (keys.map fun e => ⟨e.1, matchResult keys e.1 e.2, 0⟩)

/-! ### Reductions and scans -/

/-- A node of the reduction tree with its flags; none: an absent input (R100). -/
abbrev RedNode := Option FRes

/-- Combine two inputs of a node: one absent input passes the other unchanged. A subnormal partial sum is an operand of the node that reads it, and
sets DN there (R83, R100). (log 116: DESIGN CHOICE) -/
def redNode (op : Nat → Nat → FRes) : RedNode → RedNode → RedNode
  | some x, some y => some ((op x.v y.v).flag (x.fl ||| y.fl))
  | some x, none => some x
  | none, y => y

/-- One level of the tree: positions 2j and 2j + 1. -/
def redLevel (op : Nat → Nat → FRes) : List RedNode → List RedNode
  | x :: y :: r => redNode op x y :: redLevel op r
  | l => l

/-- The root of the tree of 128 leaf positions (R100). -/
def redRoot (op : Nat → Nat → FRes) (leaves : List RedNode) : RedNode :=
  ((List.range 7).foldl (fun l _ => redLevel op l) (leaves ++ List.replicate (128 - leaves.length) none)).headD none

/-- The 96 leaves: active lanes' values read as operands. -/
def redLeaves (f : Fmt) (md : FpMode) (vals : List (Nat × Nat)) : List RedNode :=
  allLanes.map fun i => (vals.find? fun e => e.1 == i).map fun e => f.throughWord { md with sat := false } e.2

/-- The result of a reduction for every active lane; SAT acts on integers alone (R164, R186). (log 31, 116: DEDUCED, DESIGN CHOICE) -/
def reduce (code : Nat) (md : FpMode) (iop : IntTy → Bool → List Int → Nat) (fop : Fmt → FpMode → Nat → Nat → FRes)
    (vals : List (Nat × Nat)) : List LaneRes :=
  match fmtOfCode code with
  | none =>
    let t := intTy code
    let r := iop t md.sat (vals.map fun e => intOf t.signed t.w e.2)
    vals.map fun e => ⟨e.1, r, 0⟩
  | some f =>
    match redRoot (fop f { md with sat := false }) (redLeaves f md vals) with
    | none => []
    | some r => vals.map fun e => ⟨e.1, r.v, r.fl⟩

/-- A reduction word. -/
def State.reduction (s : State) (i : Instr) (d a : BitVec 8) (f : Nat → FpMode → List (Nat × Nat) → List LaneRes) :
    Host.Outcome State Fault Refusal :=
  s.word i fun c s =>
    let k := numKind c.floatCode
    let vals := (laneList c.path.selected).map fun l => (l, s.operand c i a.toNat 0 k l)
    s.vectorBody c i d.toNat (regsOf c.floatCode) c.mz (fmtOfCode c.floatCode).isSome (f c.floatCode (c.fpMode s.cycle) vals)

/-- `red.add` (R186). -/
def execRedAdd (st : BitVec 2) (d a : BitVec 8) (s : State) : Host.Outcome State Fault Refusal :=
  s.reduction (.redAdd st d a) d a fun code md => reduce code md (fun t sat l => t.close sat l.sum) Fmt.add

/-- `red.min` (R186). -/
def execRedMin (st : BitVec 2) (d a : BitVec 8) (s : State) : Host.Outcome State Fault Refusal :=
  s.reduction (.redMin st d a) d a fun code md =>
    reduce code md (fun t _ l => wrapInt t.w (l.foldl min (l.headD 0))) fun f md => f.minmax md false

/-- `red.max` (R186). -/
def execRedMax (st : BitVec 2) (d a : BitVec 8) (s : State) : Host.Outcome State Fault Refusal :=
  s.reduction (.redMax st d a) d a fun code md =>
    reduce code md (fun t _ l => wrapInt t.w (l.foldl max (l.headD 0))) fun f md => f.minmax md true

/-- A floating scan: a left fold in ascending lane order; SAT acts on integers alone (R164, R187). A subnormal running value is an operand of the next
step, and sets DN there (R83). (log 31, 116: DEDUCED, DESIGN CHOICE) -/
def scanFloat (f : Fmt) (md : FpMode) : Option FRes → List (Nat × Nat) → List LaneRes
  | _, [] => []
  | none, (l, x) :: r =>
    let y := f.throughWord { md with sat := false } x
    ⟨l, y.v, y.fl⟩ :: scanFloat f md (some y) r
  | some run, (l, x) :: r =>
    let y := (f.add { md with sat := false } run.v x).flag run.fl
    ⟨l, y.v, y.fl⟩ :: scanFloat f md (some y) r

/-- An integer scan: exact prefix sums, each wrapped or clamped (R187). -/
def scanInt (t : IntTy) (sat : Bool) : Int → List (Nat × Nat) → List LaneRes
  | _, [] => []
  | run, (l, x) :: r =>
    let n := run + intOf t.signed t.w x
    ⟨l, t.close sat n, 0⟩ :: scanInt t sat n r

/-- `scan.add` (R187). -/
def execScanAdd (st : BitVec 2) (d a : BitVec 8) (s : State) : Host.Outcome State Fault Refusal :=
  s.reduction (.scanAdd st d a) d a fun code md vals =>
    match fmtOfCode code with
    | none => scanInt (intTy code) md.sat 0 vals
    | some f => scanFloat f md none vals

end Sys2Proof.Machine
end

