-- ==== Sys2Proof/Machine/MemoryWords.lean ====
section
/-! DEFINITION. The access words `ld`, `gather`, `st`, `st.strong`, `scatter` and `atom` (R191 to R200, R345, R346), and the events that complete
them. -/

namespace Sys2Proof.Machine

/-! ### Addresses and their checks -/

/-- An access as its words give it. -/
structure AccessWord where
  i : Instr
  kind : OpKind
  dst : Nat
  a : Nat
  b : Nat
  perLane : Bool
  sb : Nat
  ty : Nat
  scope : Nat
  sp : Bool
  aop : Nat
deriving DecidableEq, Repr

/-- Bytes of an element. -/
def AccessWord.width (w : AccessWord) : Nat := codeWidth w.ty / 8

/-- A lane's address, before any check (R192). (log 24: DEDUCED) -/
def State.laneAddress (s : State) (c : Ctx) (w : AccessWord) (lane : Nat) : Nat :=
  let k := if w.sp then 32 else 64
  let base := if w.perLane then s.operand c w.i w.a 0 (.int k) lane else s.scalarOperand c w.a 0 k
  wrapInt k ((base : Int) + intOf true 32 (s.operand c w.i w.b 2 (.int 32) lane))

/-- The ACCESS code of a tag: 0 read, 1 write, 2 atomic (R251). -/
def OpKind.access : OpKind → Nat
  | .load | .accLoad | .wellTake => 0
  | .atomic => 2
  | _ => 1

def OpKind.reads : OpKind → Bool
  | .load | .atomic => true
  | _ => false

/-- What an access of `n` bytes at an address meets: a fault, a scratchpad violation, or the place it goes to. -/
inductive Place
  | fault (f : FaultCase)
  | beyond (addr : Nat)
  | at_ (addr : Nat)
deriving DecidableEq, Repr

/-- Bytes of a block's scratchpad allocation on each core. -/
def Ctx.spadBytes (c : Ctx) : Nat := 1024 * c.launch.header.spadKiB

/-- A device-memory access of `n` bytes (R345, R320, R378, R391). (log 46: DEDUCED) -/
def State.devicePlace (s : State) (c : Ctx) (k : OpKind) (addr n align : Nat) : Place :=
  let f (kind d : Nat) : Place := .fault ⟨kind, d, addr, k.access⟩
  if addr % align ≠ 0 then f 8 1
  else if 2 ^ 56 ≤ addr then f 8 2
  else
    match (s.owner c.launch.owner).translate addr k.writes with
    | .error e => f e 0
    | .ok pa =>
      if !s.portUp pa then f 11 6
      else if k.reads && s.poisoned pa n then f 11 1
      else .at_ pa

/-- Whether a scratchpad word that an access touches is marked (R377). -/
def Block.spadMarked (y : Block) (addr n : Nat) : Bool :=
  y.spadPoison.any fun a => decide (a < addr + n) && decide (addr < a + 4)

/-- A scratchpad access of `n` bytes (R345, R346, R378). (log 44: DEDUCED) -/
def State.spadPlace (c : Ctx) (k : OpKind) (addr n align : Nat) : Place :=
  let f (kind d : Nat) : Place := .fault ⟨kind, d, addr, k.access + 4⟩
  if addr % align ≠ 0 then f 8 1
  else if 2 ^ 21 ≤ addr then f 8 3
  else if c.spadBytes < addr % Config.spadBytes + n then .beyond addr
  else if k.reads && c.block.spadMarked addr n then f 11 2
  else .at_ addr

/-- Where a lane's access goes. -/
def State.lanePlace (s : State) (c : Ctx) (w : AccessWord) (lane : Nat) : Place :=
  let addr := s.laneAddress c w lane
  if w.sp then State.spadPlace c w.kind addr w.width w.width else s.devicePlace c w.kind addr w.width w.width

/-! ### Issue -/

/-- The lanes in which an access word acts: its active lanes, or once for the path in a uniform clause (R116). (log 28: DEDUCED) -/
def Ctx.accessLanes (c : Ctx) : List Nat := if c.path.uniform then [c.path.namingLane] else laneList c.path.selected

/-- Source data of a store, or the operand of an atomic, in a lane. -/
def State.accessData (s : State) (c : Ctx) (w : AccessWord) (four : Nat) (lane : Nat) : DWord × DWord :=
  match w.kind with
  | .store | .strong => (BitVec.ofNat 64 (s.operand c w.i w.dst 4 (numKind w.ty) lane), 0)
  | .atomic =>
    (BitVec.ofNat 64 (s.operand c w.i four 4 (numKind w.ty) lane), BitVec.ofNat 64 (s.operand c w.i w.dst 6 (numKind w.ty) lane))
  | _ => (0, 0)

/-- A logged access in a replay: loads read nothing, atomics store the logged value combined with their operand (R403). (log 81: DEDUCED) -/
def replayOp (o : Op) (vals : List (Nat × DWord)) : Op :=
  if o.kind = .atomic then
    { o with
      aop := 6
      lanes := o.lanes.map fun e =>
        (e.1, e.2.1, atomicNew o.ty o.aop ((vals.find? fun v => v.1 == e.1).elim 0 (·.2)) e.2.2.1 e.2.2.2, e.2.2.2)
      fixed := vals.filter fun v => (o.lanes.any fun e => e.1 == v.1) || (o.fixed.any fun e => e.1 == v.1) }
  else { o with lanes := [], fixed := vals }

/-- The operation of a word that reads, recorded or replayed (R401, R403): its record lists every active lane, with what the destination holds until
the lane's value comes; `m`: the lanes that start. -/
def State.logged (s : State) (c : Ctx) (o : Op) (held : Nat → DWord) (m : Lanes) : State × Op :=
  if !o.kind.reads then (s, o)
  else
    let n := if o.pair then 8 else 4
    let r := s.logInput c 1 (laneSet c.accessLanes) (lanePayload (laneSet c.accessLanes) n (c.accessLanes.map fun l => (l, held l)))
    (r.1, r.2.2.elim { o with logAt := r.2.1 } fun bs => replayOp o ((payloadLanes bs n).filter fun e => laneOn m e.1))

/-- What an access of a load in a replay meets: the checks of its address alone, for it makes no access (R403). -/
def AccessWord.dryPlace (c : Ctx) (w : AccessWord) (addr : Nat) : Place :=
  let f (d : Nat) : Place := .fault ⟨8, d, addr, w.kind.access + if w.sp then 4 else 0⟩
  if addr % w.width ≠ 0 then f 1
  else if w.sp then
    if 2 ^ 21 ≤ addr then f 3 else if c.spadBytes < addr % Config.spadBytes + w.width then .beyond addr else .at_ 0
  else if 2 ^ 56 ≤ addr then f 2
  else .at_ 0

/-- An access word issues: every lane forms and checks its address; the lanes that pass start one asynchronous operation, and each of the others is
an origin (R322). In a uniform clause the path is the origin (R116). (log 27, 43: DEDUCED) -/
def State.issueAccess (s : State) (c : Ctx) (w : AccessWord) (four : Nat) : State :=
  if 63 ≤ c.group.sbCount w.sb then
    s.setStatus c.ref (.waiting (.counter w.sb))
  else
    let lanes := c.accessLanes
    let places := lanes.map fun l => (l, if c.replaying && w.kind == .load then w.dryPlace c (s.laneAddress c w l) else s.lanePlace c w l)
    let faults := places.filterMap fun e => match e.2 with
      | .fault f => some (e.1, f)
      | _ => none
    let good := places.filterMap fun e => match e.2 with
      | .at_ a => some (e.1, a)
      | _ => none
    let beyond := places.filterMap fun e => match e.2 with
      | .beyond a => some (e.1, a)
      | _ => none
    let s1 := s.noteIssue c w.i (issueOf c w.i 0)
    match c.path.uniform, faults with
    | true, (l, f) :: _ =>
      let rs := fieldRegs c.group.depth w.dst (regsOf w.ty)
      ((s1.logged c { s.blankOp c w.kind w.sb with pair := rs.length == 2 } (fun _ => c.heldIn rs l) 0).1).faultPath c f false
    | _, _ =>
      let s2 := match beyond with
        | [] => s1
        | (l, a) :: _ => s1.violate c (s.tagOf c l ⟨9, 1, a, w.kind.access⟩) 1
      let regs := if w.kind.reads then fieldRegs c.group.depth w.dst (regsOf w.ty) else []
      let scalar := isS w.dst
      let first := (lowest { c.path with reexec := none }.selected).getD c.path.namingLane
      let done := good.map (·.1) ++ beyond.map (·.1)
      let m := laneSet done
      let keep := !scalar || done.contains first || c.path.uniform
      let zeroed := if c.mz && !c.path.zeroedWord && !c.path.uniform && !scalar && !regs.isEmpty then c.path.zeroable else 0
      let flags := if w.kind.reads && w.dst == 0xCB then m else 0
      let o : Op := { s.blankOp c w.kind w.sb with
        sp := w.sp
        scope := if w.sp ∧ 3 ≤ w.scope then 3 else w.scope
        width := w.width
        ty := w.ty
        aop := w.aop
        lanes := good.map fun e => let d := s.accessData c w four e.1; (e.1, e.2, d.1, d.2)
        fixed := if w.kind.reads then beyond.map fun e => (e.1, 0) else []
        dest := if w.kind.reads && keep then regs.head? else none
        pair := regs.length == 2
        zeroed := zeroed
        toFlags := flags
        after := s.conflicts c w.sp (good.map fun e => (e.2, w.width)) }
      let (t, o) := s2.logged c o (fun l => if w.dst = 0xCB then (c.group.flags.get l).setWidth 64 else c.heldIn regs l) m
      let t := (t.dropFlagOps c.ref flags).updPathGroup c.ref fun z =>
        ({ z with flags := z.flags.puts ((laneList flags).map fun l => (l, 0)) } : Group).updPath c.ref.path fun p =>
          { p with zeroedWord := p.zeroedWord || zeroed != 0 }
      let s3 := if done.isEmpty && zeroed == 0 then t else t.startOp c o (if keep then regs else []) (m ||| zeroed)
      match faults with
      | [] => s3.finish c w.i
      | _ => s3.faultLanes c faults false s.nextId

/-- An access word of the current path. -/
def State.access (s : State) (w : AccessWord) (four : Ctx → Nat) : Host.Outcome State Fault Refusal :=
  s.word w.i fun c s => s.issueAccess c w (four c)

/-- `ld` (R195). -/
def execLd (st : BitVec 2) (d a : BitVec 8) (b : BitVec 7) (sb : BitVec 3) (ty : BitVec 5) (scope : BitVec 3) (sp : BitVec 1) (aop : BitVec 4)
    (s : State) : Host.Outcome State Fault Refusal :=
  s.access ⟨.ld st d a b sb ty scope sp aop, .load, d.toNat, a.toNat, wide7 b, false, sb.toNat, accessType ty, 0, sp == 1, 0⟩ fun _ => 0

/-- `gather` (R195). -/
def execGather (st : BitVec 2) (d a : BitVec 8) (b : BitVec 7) (sb : BitVec 3) (ty : BitVec 5) (scope : BitVec 3) (sp : BitVec 1) (aop : BitVec 4)
    (s : State) : Host.Outcome State Fault Refusal :=
  s.access ⟨.gather st d a b sb ty scope sp aop, .load, d.toNat, a.toNat, wide7 b, true, sb.toNat, accessType ty, 0, sp == 1, 0⟩ fun _ => 0

/-- `st` (R196). -/
def execSt (st : BitVec 2) (d a : BitVec 8) (b : BitVec 7) (sb : BitVec 3) (ty : BitVec 5) (scope : BitVec 3) (sp : BitVec 1) (aop : BitVec 4)
    (s : State) : Host.Outcome State Fault Refusal :=
  s.access ⟨.st st d a b sb ty scope sp aop, .store, d.toNat, a.toNat, wide7 b, false, sb.toNat, accessType ty, 0, sp == 1, 0⟩ fun _ => 0

/-- `st.strong` (R197). -/
def execStStrong (st : BitVec 2) (d a : BitVec 8) (b : BitVec 7) (sb : BitVec 3) (ty : BitVec 5) (scope : BitVec 3) (sp : BitVec 1)
    (aop : BitVec 4) (s : State) : Host.Outcome State Fault Refusal :=
  s.access ⟨.stStrong st d a b sb ty scope sp aop, .strong, d.toNat, a.toNat, wide7 b, false, sb.toNat, accessType ty, scope.toNat, sp == 1, 0⟩
    fun _ => 0

/-- `scatter` (R196). -/
def execScatter (st : BitVec 2) (d a : BitVec 8) (b : BitVec 7) (sb : BitVec 3) (ty : BitVec 5) (scope : BitVec 3) (sp : BitVec 1) (aop : BitVec 4)
    (s : State) : Host.Outcome State Fault Refusal :=
  s.access ⟨.scatter st d a b sb ty scope sp aop, .store, d.toNat, a.toNat, wide7 b, true, sb.toNat, accessType ty, 0, sp == 1, 0⟩ fun _ => 0

/-- `atom` (R199). -/
def execAtom (st : BitVec 2) (d a : BitVec 8) (b : BitVec 7) (sb : BitVec 3) (ty : BitVec 5) (scope : BitVec 3) (sp : BitVec 1) (aop : BitVec 4)
    (s : State) : Host.Outcome State Fault Refusal :=
  s.access ⟨.atom st d a b sb ty scope sp aop, .atomic, d.toNat, a.toNat, wide7 b, false, sb.toNat, accessType ty, scope.toNat, sp == 1, aop.toNat⟩
    fun c => c.fourth d

/-! ### Completion -/

/-- Complete an operation of one of the kinds given, when it may; otherwise nothing happens. -/
def State.finishOp (s : State) (id : Nat) (kinds : List OpKind) (moments : List Nat := []) : State :=
  match s.ops.find? fun o => o.id == id with
  | none => s
  | some o => if kinds.contains o.kind && s.opReady o then s.completeOp o moments else s

/-- LOAD_COMPLETE (R195, R199): a load takes its values, each lane at its moment of `moments`, now where none is given (R258). (log 112: DEDUCED) -/
def execLoadComplete (op : Nat) (moments : List Nat) (s : State) : Host.Outcome State Fault Refusal :=
  .next (s.finishOp op [.load, .atomic] moments)

/-- STORE_PERFORMED (R196, R197, R233). -/
def execStorePerformed (op : Nat) (s : State) : Host.Outcome State Fault Refusal := .next (s.finishOp op [.store, .strong, .accStore])

end Sys2Proof.Machine
end

