-- ==== Sys2Proof/Machine/Sync.lean ====
section
/-! DEFINITION. Fences (R201, R202), barrier words (R203 to R211), `waita` (R212, R213) and the events that end their waits. -/

namespace Sys2Proof.Machine

/-! ### Fences -/

/-- Whether a fence's conditions hold (R202). -/
def State.fenceReady (s : State) (r : PathRef) (kind mark : Nat) : Bool :=
  !(fenceAcquires kind && s.pendingLoads r mark) && !(fenceReleases kind && s.pendingWrites r mark)

/-- A fence that a path waits at ends. -/
def State.fenceEnds (s : State) (r : PathRef) (kind scope mark : Nat) : State :=
  match s.ctx? r with
  | none => s
  | some c =>
    let s := (s.fenceEffect r kind scope mark).passWord r
    if kind = 3 then s.faultPath c ⟨11, 3, 0, 3⟩ true else s

/-- The path holds at a fence, or passes it at once. -/
def State.fenceAt (s : State) (r : PathRef) (kind scope : Nat) : State :=
  if s.fenceReady r kind s.nextId then s.fenceEnds r kind scope s.nextId else s.setStatus r (.waiting (.fence kind scope s.nextId))

/-- A word that first acts as a release fence at a scope (R209, R236, R329): held until the group's earlier writes are performed, then `k`. -/
def State.withRelease (s : State) (c : Ctx) (scope : Nat) (k : State → State) : State :=
  if !c.path.released && s.pendingWrites c.ref s.nextId then s.setStatus c.ref (.waiting (.release scope s.nextId))
  else k (if c.path.released then s else s.fenceEffect c.ref 1 scope s.nextId)

/-- `fence` (R201, R202). -/
def execFence (st : BitVec 2) (p : BitVec 3) (k : BitVec 2) (s : State) : Host.Outcome State Fault Refusal :=
  let i : Instr := .fence st p k
  s.word i fun c s => (s.noteIssue c i (issueOf c i 0)).fenceAt c.ref k.toNat p.toNat

/-- FENCE_FINISH (R202): a waiting path of a resident block goes on once its fence's conditions hold. -/
def execFenceFinish (r : PathRef) (s : State) : Host.Outcome State Fault Refusal :=
  match s.ctx? r with
  | none => .next s
  | some c =>
    match c.path.status with
    | .waiting (.fence kind scope mark) =>
      .next (if c.block.cluster.isSome && s.fenceReady r kind mark then s.fenceEnds r kind scope mark else s)
    | .waiting (.release scope mark) =>
      .next (if c.block.cluster.isNone || s.pendingWrites r mark then s
        else (s.fenceEffect r 1 scope mark).updPath r fun p => { p with released := true, status := .ready })
    | .waiting (.acquire mark) =>
      .next (if c.block.cluster.isNone || s.pendingLoads r mark then s else (s.acquireNow r mark).setStatus r .ready)
    | _ => .next s

/-! ### Barrier words -/

/-- What the address of a barrier or `waita` word meets (R345, R346). -/
def Ctx.syncPlace (c : Ctx) (addr align : Nat) : Place :=
  if addr % align ≠ 0 then .fault ⟨8, 1, addr, 7⟩
  else if 2 ^ 21 ≤ addr then .fault ⟨8, 3, addr, 7⟩
  else if c.spadBytes ≤ addr % Config.spadBytes then .beyond addr
  else .at_ addr

/-- A barrier or `waita` word at an address: whole-path faults, a violation that lets the word complete with `none_`, or its effect; `log`: what a word
that faults logs (R401). -/
def State.atBarrier (s : State) (c : Ctx) (i : Instr) (addr align : Nat) (none_ : State → State) (eff : State → State)
    (log : State → State := fun s => s) : State :=
  match c.syncPlace addr align with
  | .fault f => (log (s.noteIssue c i (issueOf c i 0))).faultPath c f false
  | .beyond a => s.completes c i 0 fun s => none_ (s.violate c (s.tagOf c c.path.namingLane ⟨9, 2, a, 3⟩) 2)
  | .at_ _ => eff s

/-- The object at an address after the test of exits (R205). (log 38: DEDUCED) -/
def State.barTested (s : State) (c : Ctx) (addr : Nat) : State := s.barUpdate c.ref.launch c.ref.block c.group.core addr id

/-- The bytes of a place that stores alone have built, as an object that was tested after each of them (R205, R293). (log 39: DESIGN CHOICE) -/
def Block.builtObject (y : Block) (addr : Nat) : List Byte :=
  let now := Memory.read y.spad addr 16
  let es := y.past.filter fun e => decide (addr ≤ e.addr) && decide (e.addr < addr + 16)
  let at_ (m i : Nat) : Byte := pastByte y.past m (addr + i) (now.getD i 0)
  ((es.map (·.moment)).dedup).foldl (fun bs m =>
    let stored := (List.range 16).map fun i => if es.any (fun e => e.moment == m && e.addr == addr + i) then at_ (m + 1) i else bs.getD i 0
    let w := bytesWords 4 stored
    wordBytes ((BarObj.ofWords (w.getD 0 0) (w.getD 1 0) (w.getD 2 0) (w.getD 3 0)).test y.exits).words)
    ((List.range 16).map (at_ 0))

/-- A barrier word names its object (R203): the first one meets it as the stores before it have left it (R293). -/
def State.nameObject (s : State) (c : Ctx) (addr : Nat) : State :=
  if c.block.objects.contains addr then s
  else
    let s := if (c.block.past.all fun e => e.addr < addr || addr + 16 ≤ e.addr) || c.block.builtObject addr = Memory.read c.block.spad addr 16 then s
      else s.spadWrite c.ref.launch c.ref.block c.group.core addr (c.block.builtObject addr)
    s.updBlock c.ref.launch c.ref.block fun y => { y with objects := y.objects ++ [addr] }

/-- The present word updates an object (R205). -/
def State.noteUpdate (s : State) (c : Ctx) (addr : Nat) : State :=
  s.updBlock c.ref.launch c.ref.block fun y => y.noteUpdate addr s.cycle (coreRank c.group.core c.ref.group)

/-- A word that updates an object in order: after an update of the present cycle that comes later in the order, it does not issue in this cycle (R205). -/
def State.inOrder (s : State) (c : Ctx) (addr : Nat) (k : State → State) : State :=
  if s.mayUpdate c.ref.launch c.ref.block addr (coreRank c.group.core c.ref.group) then k s
  else s.updPath c.ref fun p => { p with nextIssue := max p.nextIssue (s.cycle + 1) }

/-- Present lanes of a block, every group, every path. -/
def Block.presentLanes (y : Block) : Nat :=
  (y.groups.map fun z => (z.paths.map fun p => if p.valid then laneCount p.present else 0).sum).sum

/-- The object that `bar.init` writes (R208). -/
def initObject (y : Block) (b c : Word) : BarObj :=
  let data := b.getLsbD 31
  let e := b.toNat % 65536
  ⟨if !data ∧ e = 0 then y.presentLanes % 65536 else e, 0, data, if data then 0 else y.exits % 2 ^ 15, 0, if data then c else 0,
   if data then c else 0⟩

/-- `bar.init` (R208). -/
def execBarInit (st : BitVec 2) (d a : BitVec 8) (b : BitVec 7) (s : State) : Host.Outcome State Fault Refusal :=
  let i : Instr := .barInit st d a b
  s.word i fun c s =>
    let addr := s.scalarOperand c a.toNat 0 32
    s.atBarrier c i addr 16 (fun s => s) fun s => s.inOrder c addr fun s => s.completes c i 0 fun s1 =>
      let o := initObject c.block (BitVec.ofNat 32 (s.scalarOperand c (wide7 b) 2 32)) (BitVec.ofNat 32 (s.scalarOperand c d.toNat 4 32))
      let s2 := s1.updBlock c.ref.launch c.ref.block fun y =>
        { y with
          arrivals := y.arrivals.filter fun e => e.addr != addr
          poisonPhases := y.poisonPhases.filter fun e => e.1 != addr
          phases := y.phases.filter fun e => e.1 != addr }
      (s2.noteUpdate c addr).barUpdate c.ref.launch c.ref.block c.group.core addr fun _ => o

/-- What an arrival word writes: the phase, or the logged one (R209, R401). -/
def State.arrivalPhase (s : State) (c : Ctx) (d : Nat) (phase : BitVec 16) : State :=
  let ex := s.exchangeBytes c c.path.selected (leBytes 4 phase.toNat)
  ex.1.writeScalarReg c (d - 0x40) (BitVec.ofNat 32 (leNat (ex.2.2.take 4))) (s.cycle + 1) false

/-- The record of an arrival word that faults: its destination keeps its value (R401). -/
def State.arrivalLog (s : State) (c : Ctx) (d : Nat) : State :=
  (s.exchangeBytes c c.path.selected (leBytes 4 ((c.heldIn [.scal (d - 0x40)] 0).toNat))).1

/-- An arrival of `n` by the lanes `m` (R206, R209): the phase in force goes to `d`. The lanes count as arrived, those of a
`bar.arrivec` too. (log 38, 130: DEDUCED, DESIGN CHOICE) -/
def State.arrive (s : State) (c : Ctx) (d addr n : Nat) (m : Lanes) : State :=
  let s := (s.nameObject c addr).barTested c addr
  let o := s.barRead c.ref.launch c.ref.block c.group.core addr
  let s := s.arrivalPhase c d o.phase
  if n = 0 then s
  else
    let s := (s.noteUpdate c addr).notePhase c.ref.launch c.ref.block c.group.core addr ((s.path? c.ref).elim [] (·.before))
    let s := if o.data then s
      else s.updBlock c.ref.launch c.ref.block fun y => { y with arrivals := y.arrivals ++ [⟨addr, o.phase, c.ref.group, m⟩] }
    s.barUpdate c.ref.launch c.ref.block c.group.core addr fun o => { o with arrived := (o.arrived + n) % 65536 }

/-- `bar.arrive` (R209). -/
def execBarArrive (st : BitVec 2) (d a : BitVec 8) (s : State) : Host.Outcome State Fault Refusal :=
  let i : Instr := .barArrive st d a
  s.word i fun c s =>
    let addr := s.scalarOperand c a.toNat 0 32
    s.atBarrier c i addr 16 (fun s1 => s1.arrivalPhase c d.toNat 0) (fun s =>
      s.withRelease c 2 fun s => s.inOrder c addr fun s => s.completes c i 0 fun s1 => s1.arrive c d.toNat addr (laneCount c.path.selected) c.path.selected)
      fun s1 => s1.arrivalLog c d.toNat

/-- `bar.arrivec` (R209). -/
def execBarArrivec (st : BitVec 2) (d a : BitVec 8) (b : BitVec 7) (s : State) : Host.Outcome State Fault Refusal :=
  let i : Instr := .barArrivec st d a b
  s.word i fun c s =>
    let addr := s.scalarOperand c a.toNat 0 32
    s.atBarrier c i addr 16 (fun s1 => s1.arrivalPhase c d.toNat 0) (fun s =>
      s.withRelease c 2 fun s => s.inOrder c addr fun s => s.completes c i 0 fun s1 =>
        s1.arrive c d.toNat addr (if c.path.selected = 0 then 0 else s.scalarOperand c (wide7 b) 2 32 % 65536) c.path.selected)
      fun s1 => s1.arrivalLog c d.toNat

/-- A `bar.wait` whose phase has ended finishes: an acquire at `.blk`, which covers what the phase's arrivals and bytes come after (link 5 of R260), and
the fault of a poisoned phase (R211, R382). -/
def State.barFinish (s : State) (r : PathRef) (addr : Nat) (phase : BitVec 16) : State :=
  let y := s.block? r.launch r.block
  let bad := y.elim false fun y => y.poisonPhases.contains (addr, phase)
  let ids := y.elim [] fun y => (y.phases.filter fun e => e.1 == addr && e.2.1 == phase).flatMap (·.2.2)
  (s.updPath r fun p => p.after s.moment (s.closed ids)).fenceAt r (if bad then 3 else 0) 2

/-- `bar.wait` (R211). -/
def execBarWait (st : BitVec 2) (a : BitVec 8) (b : BitVec 7) (s : State) : Host.Outcome State Fault Refusal :=
  let i : Instr := .barWait st a b
  s.word i fun c s =>
    let addr := s.scalarOperand c a.toNat 0 32
    let phase : BitVec 16 := BitVec.ofNat 16 (s.scalarOperand c (wide7 b) 2 32)
    s.atBarrier c i addr 16 (fun s => s) fun s =>
      let s := ((s.noteIssue c i (issueOf c i 0)).nameObject c addr).barTested c addr
      if (s.barRead c.ref.launch c.ref.block c.group.core addr).phase = phase then s.setStatus c.ref (.waiting (.barrier addr phase))
      else s.barFinish c.ref addr phase

/-- BAR_WAIT_FINISH (R211): while its block is resident, a waiting path whose barrier has another phase in force goes on. -/
def execBarWaitFinish (r : PathRef) (s : State) : Host.Outcome State Fault Refusal :=
  match s.ctx? r with
  | none => .next s
  | some c =>
    match c.path.status with
    | .waiting (.barrier addr phase) =>
      .next (if c.block.cluster.isSome ∧ (s.barRead r.launch r.block c.group.core addr).phase ≠ phase then s.barFinish r addr phase else s)
    | _ => .next s

/-- EXIT_BARRIER_TEST (R205): every lane barrier on which a path of the block waits is tested. (log 39: DESIGN CHOICE) -/
def execExitBarrierTest (l b : Nat) (s : State) : Host.Outcome State Fault Refusal :=
  match s.block? l b with
  | none => .next s
  | some y =>
    match y.cluster with
    | none => .next s
    | some k =>
      .next ((y.waitedBarriers.filter fun a => !(s.barRead l b (4 * k) a).data).foldl (fun s a => s.barUpdate l b (4 * k) a id) s)

/-! ### `waita` -/

/-- Whether a scratchpad word meets the condition of a `waita` (R212). -/
def wordMeets (cond : Nat) (w v : Word) : Bool := intCond ⟨32, false⟩ cond w.toNat v.toNat

/-- A `waita` finishes on a word: what wrote it comes before what a later acquire of the group orders (links 2 and 4 of R260). -/
def State.noteWord (s : State) (r : PathRef) (addr : Nat) : State :=
  let ids := (s.block? r.launch r.block).elim [] fun y => s.closed (y.orderOf addr 4)
  s.updPathGroup r fun z => { z with reads := z.reads ++ [⟨s.nextId, s.moment, ids⟩] }

/-- `waita` (R212): it finishes at once when the word meets its condition. -/
def execWaita (st : BitVec 2) (cnd : BitVec 3) (a : BitVec 8) (b : BitVec 7) (s : State) : Host.Outcome State Fault Refusal :=
  let i : Instr := .waita st cnd a b
  s.word i fun c s =>
    let addr := s.scalarOperand c a.toNat 0 32
    let v : Word := BitVec.ofNat 32 (s.scalarOperand c (wide7 b) 2 32)
    s.atBarrier c i addr 4 (fun s => s) fun s =>
      let s := s.noteIssue c i (issueOf c i 0)
      if wordMeets cnd.toNat (s.spadWord c.ref.launch c.ref.block c.group.core addr) v then (s.noteWord c.ref addr).finish c i
      else s.setStatus c.ref (.waiting (.word addr cnd.toNat v))

/-- WAITA_FINISH (R213): while its block is resident, a waiting path whose word meets the condition goes on. -/
def execWaitaFinish (r : PathRef) (s : State) : Host.Outcome State Fault Refusal :=
  match s.ctx? r with
  | none => .next s
  | some c =>
    match c.path.status with
    | .waiting (.word addr cond v) =>
      .next (if c.block.cluster.isSome ∧ wordMeets cond (s.spadWord r.launch r.block c.group.core addr) v then (s.noteWord r addr).passWord r else s)
    | _ => .next s

end Sys2Proof.Machine
end

