-- ==== Sys2Proof/Machine/Matrix.lean ====
section
/-! DEFINITION. Matrix words: gangs and the rendezvous latch (R218, R219, R348, R349), reservations (R220 to R223), `mma` (R224 to R229) and
the cistern (R230 to R233), with the events that grant, start and complete. -/

namespace Sys2Proof.Machine

/-! ### Reservations -/

/-- The reservation record `q` of a core. -/
def State.reservation? (s : State) (core q : Nat) : Option Reservation := s.reservations.find? fun r => r.core == core && r.q == q

/-- The reservation if the block holds it. -/
def State.heldReservation (s : State) (c : Ctx) (core q : Nat) : Option Reservation :=
  match s.reservation? core q with
  | some r => if r.launch = c.ref.launch ∧ r.block = c.ref.block then some r else none
  | none => none

def State.updReservation (s : State) (core q : Nat) (f : Reservation → Reservation) : State :=
  { s with reservations := s.reservations.map fun r => if r.core = core ∧ r.q = q then f r else r }

/-- Whether a reservation request can be granted (R220). -/
def State.opresFree (s : State) (core : Nat) (q : Request) : Bool :=
  !(s.reservations.any fun r => r.core == core &&
      (some r.q == q.q || (decide (r.base < q.first + q.count) && decide (q.first < r.base + r.len + 1)))) &&
  !s.olderWants core q

/-- The reservation as it is granted: STATE 1, everything zero (R220). -/
def grantedReservation (core q : Nat) (w0 w1 : Word) (l b : Nat) : Reservation :=
  (⟨core, q, w0, w1, l, b, [], [], false, false⟩ : Reservation).setState 1

/-- `opres` (R220). -/
def execOpres (st : BitVec 2) (q : BitVec 4) (a : BitVec 8) (s : State) : Host.Outcome State Fault Refusal :=
  let i : Instr := .opres st q a
  s.word i fun c s =>
    let v := s.scalarOperand c a.toNat 0 64
    let w0 : Word := BitVec.ofNat 32 v
    let w1 : Word := BitVec.ofNat 32 (v / 2 ^ 32)
    let r := grantedReservation c.group.core q.toNat w0 w1 c.ref.launch c.ref.block
    let s1 := s.noteIssue c i (issueOf c i 0)
    if !r.ok then s1.faultPath c ⟨10, 4, 0, 3⟩ false
    else if (s.heldReservation c c.group.core q.toNat).isSome then s1.faultPath c ⟨10, 5, 0, 3⟩ false
    else if s.opresFree c.group.core (opresRequest c.ref q.toNat w0) then
      { s1 with reservations := s1.reservations ++ [r] }.finish c i
    else (s1.setStatus c.ref (.waiting (.opres q.toNat w0 w1))).noteOldest c.group.core

/-- OPRES_GRANT (R220): a waiting request is granted when it can be. -/
def execOpresGrant (r : PathRef) (s : State) : Host.Outcome State Fault Refusal :=
  match s.ctx? r with
  | none => .next s
  | some c =>
    match c.path.status with
    | .waiting (.opres q w0 w1) =>
      if c.block.cluster.isSome ∧ s.opresFree c.group.core (opresRequest r q w0) then
        .next (({ s with reservations := s.reservations ++ [grantedReservation c.group.core q w0 w1 r.launch r.block] }.passWord r).noteOldest
          c.group.core)
      else .next s
    | _ => .next s

/-- The stored bytes of a reservation as a log holds them: its element region in memory form, then its side region (R401). -/
def Reservation.storedBytes (r : Reservation) : List Byte :=
  let el (row k : Nat) : Nat := (r.elems.get (row * r.k + k)).toNat
  let digit (row k : Nat) : Nat := if r.k ≤ k then 1 else let e := el row k; if e = 0 then 1 else if e = 1 then 2 else 0
  ((List.range 64).flatMap fun row => (List.range r.rowBytes).map fun o =>
    BitVec.ofNat 8 (match r.fmt with
      | 0 => digit row (5 * o) + 3 * digit row (5 * o + 1) + 9 * digit row (5 * o + 2) + 27 * digit row (5 * o + 3) + 81 * digit row (5 * o + 4)
      | 1 | 4 => el row (2 * o) % 16 + 16 * (el row (2 * o + 1) % 16)
      | 7 => if o % 2 = 0 then el row (o / 2) % 256 else el row (o / 2) / 256
      | _ => el row o % 256)) ++
  Memory.read r.side r.sideStart (r.size - r.sideStart)

/-- A reservation with logged bytes in place of its own (R403). -/
def Reservation.replayed (r : Reservation) (bs : List Byte) : Reservation :=
  let n := 64 * r.rowBytes
  (r.writeElems 0 (bs.take n)).writeSide r.sideStart (bs.drop n)

/-- STATE becomes 2 where it was 0 or 1 (R222). -/
def State.makeReady (s : State) (core q : Nat) : State :=
  s.updReservation core q fun r => if r.state ≤ 1 then r.setState 2 else r

/-- A reservation is ready (R222); in a replay it holds the logged bytes (R403). -/
def State.readied (s : State) (core q : Nat) (logged : Option (List Byte)) : State :=
  (logged.elim s fun bs => s.updReservation core q fun r => r.replayed bs).makeReady core q

/-- `opready` (R222): in a recorded launch the bytes are logged as they stand when it finishes, in a replay it waits for deliveries in flight and then
takes the logged ones (R401, R403). -/
def execOpready (st : BitVec 2) (q : BitVec 4) (s : State) : Host.Outcome State Fault Refusal :=
  let i : Instr := .opready st q
  s.word i fun c s =>
    let core := c.group.core
    let s1 := s.noteIssue c i (issueOf c i 0)
    let held := s.heldReservation c core q.toNat
    let lg := s1.logInput c 3 0 (held.elim [] Reservation.storedBytes)
    match held with
    | none => lg.1.faultPath c ⟨10, 6, 0, 3⟩ false
    | some _ =>
      if s.records.any fun e => e.targets core q.toNat then lg.1.setStatus c.ref (.waiting (.opready q.toNat))
      else (lg.1.readied core q.toNat lg.2.2).finish c i

/-- OPREADY_FINISH (R222): while its block is resident, a waiting path whose reservation no request in flight targets goes on; a reservation that a
pre-emption has released stays so (R223). -/
def execOpreadyFinish (r : PathRef) (s : State) : Host.Outcome State Fault Refusal :=
  match s.ctx? r with
  | none => .next s
  | some c =>
    match c.path.status with
    | .waiting (.opready q) =>
      if c.block.cluster.isNone || s.records.any fun e => e.targets c.group.core q then .next s
      else
        match s.heldReservation c c.group.core q with
        | some v =>
          .next ((if c.replaying then s.readied c.group.core q (c.path.logged.bind fun l => s.readVirt c.launch.owner l.at_ l.len)
            else (s.readied c.group.core q none).logPut c.launch.owner c.path.logged 0 v.storedBytes).passWord r)
        | none => .next (s.passWord r)
    | _ => .next s

/-- `oprel` (R223). -/
def execOprel (st : BitVec 2) (q : BitVec 4) (s : State) : Host.Outcome State Fault Refusal :=
  let i : Instr := .oprel st q
  s.word i fun c s =>
    let s1 := s.noteIssue c i (issueOf c i 0)
    if (s.heldReservation c c.group.core q.toNat).isNone then s1.faultPath c ⟨10, 6, 0, 3⟩ false
    else if s.mmaReads c.group.core q.toNat then s1.setStatus c.ref (.waiting (.oprel q.toNat))
    else (s1.freeReservation c.group.core q.toNat).finish c i

/-- OPREL_FINISH (R223). -/
def execOprelFinish (r : PathRef) (s : State) : Host.Outcome State Fault Refusal :=
  match s.ctx? r with
  | none => .next s
  | some c =>
    match c.path.status with
    | .waiting (.oprel q) =>
      if c.block.cluster.isNone || s.mmaReads c.group.core q then .next s
      else .next ((if (s.heldReservation c c.group.core q).isSome then s.freeReservation c.group.core q else s).passWord r)
    | _ => .next s

/-! ### Gangs -/

/-- COUNT of a gang register. -/
def gangCount (g : DWord) : Nat := bits g.toNat 50 48

/-- M0 to M5. -/
def gangMember (g : DWord) (k : Nat) : Nat := g.toNat / 2 ^ (8 * k) % 128

def gangMembers (g : DWord) : List Nat := (List.range (gangCount g)).map (gangMember g)

/-- Whether `gang` accepts a value from group `me` of a block of `n` groups (R218, R347). -/
def gangOk (g : DWord) (n me : Nat) : Bool :=
  let ms := gangMembers g
  (g &&& 0xFFF8808080808080) == 0 && decide (gangCount g ≤ 6) && ms.all (fun m => decide (m < n)) && decide ms.Nodup &&
    ms.all (fun m => decide (m % 4 = me % 4)) && (ms.isEmpty || ms.contains me)

/-- `gang` (R218). -/
def execGang (st : BitVec 2) (a : BitVec 8) (s : State) : Host.Outcome State Fault Refusal :=
  let i : Instr := .gang st a
  s.word i fun c s =>
    let g : DWord := BitVec.ofNat 64 (s.scalarOperand c a.toNat 0 64)
    if gangOk g c.launch.header.groups c.ref.group then
      s.completes c i 0 fun s1 => s1.updPathGroup c.ref fun z => { z with gang := g }
    else (s.noteIssue c i (issueOf c i 0)).faultPath c ⟨10, 1, 0, 3⟩ false

/-! ### The rendezvous latch and `mma` -/

/-- The groups whose `mma` words are joined, in gang order. -/
def Group.partners (z : Group) : List Nat := if gangCount z.gang ≤ 1 then [z.index] else gangMembers z.gang

/-- The arrival of a group at the latch: the path and its operands. -/
def Group.arrival (z : Group) : Option (Nat × MmaArgs) :=
  z.paths.zipIdx.findSome? fun e => match e.1.valid && e.1.stopped.isNone, e.1.status with
    | true, .waiting (.latch m) => some (e.2, m)
    | _, _ => none

/-- Whether the block holds tile `t` on a core. -/
def State.tileOf (s : State) (l b core t : Nat) : Option Tile :=
  s.tiles.find? fun u => u.core == core && u.t == t && u.launch == l && u.block == b

/-- The KIND and DETAIL that a release meets: the checks of R348, member by member, then poison (R378). (log 56: DEDUCED) -/
def State.releaseFault (s : State) (c : Ctx) (ms : List MmaMember) : Option (Nat × Nat) :=
  let core := c.group.core
  let res (q : Nat) := s.heldReservation c core q
  let tile (m : MmaMember) := s.tileOf c.ref.launch c.ref.block core m.args.tile
  match ms.findSome? fun m => memberCheck res (tile m).isSome m.args with
  | some d => some (10, d)
  | none =>
    if ms.any fun m => ((tile m).elim false (·.poison)) || ((res m.args.qa).elim false (·.poison)) || ((res m.args.qb).elim false (·.poison))
    then some (11, 7)
    else none

/-- The operation that a release starts. -/
def State.mmaOf (s : State) (c : Ctx) (ms : List MmaMember) : MmaOp :=
  let core := c.group.core
  let qs := (ms.flatMap fun m => [m.args.qa, m.args.qb]).dedup
  let o : MmaOp := ⟨s.nextId, core, c.ref.launch, c.ref.block, ms, qs.filterMap fun q => s.reservation? core q, s.cycle, c.path.ramp, none, 0, 0⟩
  { o with passes := o.cycles }

/-- What a member's `mma` takes in its release cycle: STALL is its own word's. -/
def memberIssue (m : Ctx) (i : Instr) : Issue :=
  { issueOf m i 0 with
    stall := (m.path.fetched[m.path.idx + (if m.path.pfx.isSome then 1 else 0)]?).elim (stallOf i) fun w => bits w.toNat 31 30 }

/-- The latch releases the members in one cycle (R219, R226), or each of them is an origin (R349). (log 56: DEDUCED) -/
def State.latchRelease (s : State) (c : Ctx) (i : Instr) (ms : List MmaMember) : State :=
  let ctxs := ms.filterMap fun m => s.ctx? ⟨c.ref.launch, c.ref.block, m.group, m.path⟩
  match s.releaseFault c ms with
  | some (kind, d) => ctxs.foldl (fun s m => s.faultPath m ⟨kind, d, 0, 3⟩ false) s
  | none =>
    let o := s.mmaOf c ms
    let qs := o.inputs.map (·.q)
    let s : State := { s with
      nextId := s.nextId + 1
      mmas := insertMma o s.mmas
      reservations := s.reservations.map fun r => if r.core = c.group.core ∧ qs.contains r.q then r.setState 3 else r }
    let s := ms.foldl (fun (s : State) m => s.updPathGroup ⟨c.ref.launch, c.ref.block, m.group, m.path⟩ fun z => z.sbRise m.args.sb) s
    ctxs.foldl (fun s m => (s.noteIssue m i (memberIssue m i)).passWord m.ref) s

/-- `mma` (R219, R224): alone it is released at once; in a gang it waits at the latch until the last member arrives. -/
def execMma (st : BitVec 2) (t : BitVec 5) (qa qb : BitVec 4) (sb : BitVec 3) (clr : BitVec 1) (n pa pb : BitVec 9) (s : State) :
    Host.Outcome State Fault Refusal :=
  let i : Instr := .mma st t qa qb sb clr n pa pb
  s.word i fun c s =>
    let args : MmaArgs := ⟨t.toNat, qa.toNat, qb.toNat, n.toNat, pa.toNat, pb.toNat, clr == 1, c.sat, sb.toNat⟩
    if 63 ≤ c.group.sbCount sb.toNat then s.setStatus c.ref (.waiting (.counter sb.toNat))
    else
      let others := (c.block.groups.filter fun z => z.index != c.ref.group &&
        (c.group.partners.contains z.index || z.partners.contains c.ref.group)).filterMap fun z => z.arrival.map fun e => (z, e)
      if others.any fun e => e.1.gang != c.group.gang || e.2.2.tile != args.tile then s.faultPath c ⟨10, 2, 0, 3⟩ false
      else
        let member (g : Nat) : Option MmaMember :=
          if g = c.ref.group then some ⟨g, c.ref.path, args⟩
          else (others.find? fun e => e.1.index == g).map fun e => ⟨g, e.2.1, e.2.2⟩
        match c.group.partners.mapM member with
        | some ms =>
          if ms.any fun m => ((c.block.group? m.group).elim false fun z => decide (63 ≤ z.sbCount m.args.sb)) then
            s.updPath c.ref fun p => { p with nextIssue := max p.nextIssue (s.cycle + 1) }
          else s.latchRelease c i ms
        | none => s.setStatus c.ref (.waiting (.latch args))

/-- The operation that a core's array would start: its oldest released one, once the cycle of its release is over, when the array is free and the
block's earlier `acc.ld` words have written the tile (R227). -/
def State.startable (s : State) (core : Nat) : Option MmaOp :=
  match s.mmas.filter fun m => m.core == core with
  | [] => none
  | m :: _ =>
    let t := m.members.head?.elim 0 (·.args.tile)
    if m.started.isSome || m.released = s.cycle ||
        (s.ops.any fun o => o.kind == .accLoad && o.core == core && o.tile == t && o.path.launch == m.launch && o.path.block == m.block &&
          decide (o.id < m.id)) then none
    else some m

/-- What the governor plans for the start of an array: 2.4 W, nothing where the clause is declared below 6 (R280). -/
def MmaOp.planOf (m : MmaOp) : Nat := if m.declared < 6 then 0 else 240

/-- MMA_START (R227): the operation starts, unless the core is held or the start would pass the ceiling (R280). It is to execute `ran` array cycles:
zero-skipping may remove any cycle of a pass that reads a zero element (R226). (log 58: DEDUCED) -/
def execMmaStart (core ran : Nat) (s : State) : Host.Outcome State Fault Refusal :=
  match s.startable core with
  | none => .next s
  | some m =>
    if s.coreHeld core || !s.underCeiling core m.planOf then .next s
    else .next { s with mmas := s.mmas.map fun n =>
      if n.id = m.id then { n with started := some s.cycle, ran := min m.passes (max m.least ran) } else n }

/-- MMA_COMPLETE (R227): 24 cycles after the last pass. (log 58: DEDUCED) -/
def execMmaComplete (core : Nat) (s : State) : Host.Outcome State Fault Refusal :=
  match s.mmas.find? fun m => m.core == core && m.started.isSome with
  | none => .next s
  | some m =>
    .next (if m.started.getD 0 + m.ran + 24 ≤ s.cycle then s.mmaEnds m else s)

/-- Whether an `mma` of a group on a tile is pending (R229). -/
def State.mmaPending (s : State) (r : PathRef) (core t : Nat) : Bool :=
  s.mmas.any fun m => m.core == core && m.launch == r.launch && m.block == r.block && m.members.any fun e => e.group == r.group && e.args.tile == t

/-- `mwait` (R229). -/
def execMwait (st : BitVec 2) (t : BitVec 5) (s : State) : Host.Outcome State Fault Refusal :=
  let i : Instr := .mwait st t
  s.word i fun c s =>
    let s1 := s.noteIssue c i (issueOf c i 0)
    if s.mmaPending c.ref c.group.core t.toNat then s1.setStatus c.ref (.waiting (.mwait t.toNat)) else s1.finish c i

/-! ### The cistern -/

/-- The tiles of a mask. -/
def tileList (m : Word) : List Nat := (List.range 32).filter fun k => m.getLsbD k

/-- Tiles of a mask that the block does not hold yet. -/
def State.wanted (s : State) (r : PathRef) (core : Nat) (m : Word) : List Nat :=
  (tileList m).filter fun k => (s.tileOf r.launch r.block core k).isNone

/-- Whether an `acc.alloc` can be granted (R230). -/
def State.allocFree (s : State) (r : PathRef) (core : Nat) (m : Word) : Bool :=
  let w := s.wanted r core m
  !(s.tiles.any fun u => u.core == core && w.contains u.t) &&
    (w.isEmpty || !s.olderWants core ⟨r, none, 0, 0, BitVec.ofNat 32 (setBits w)⟩)

/-- The tiles that a mask asks for: a handler group holds none, so it asks for none (R372). (log 126: DESIGN CHOICE) -/
def Launch.asks (x : Launch) (m : Word) : Word := if x.handler.isSome then 0 else m

/-- Grant the tiles with zero contents. -/
def State.grantTiles (s : State) (r : PathRef) (core : Nat) (m : Word) : State :=
  { s with tiles := s.tiles ++ (s.wanted r core m).map fun k => ⟨core, k, r.launch, r.block, [], false⟩ }

/-- `acc.alloc` (R230, R372). -/
def execAccAlloc (st : BitVec 2) (a : BitVec 8) (s : State) : Host.Outcome State Fault Refusal :=
  let i : Instr := .accAlloc st a
  s.word i fun c s =>
    let m := c.launch.asks (BitVec.ofNat 32 (s.scalarOperand c a.toNat 0 32))
    let s1 := s.noteIssue c i (issueOf c i 0)
    if s.allocFree c.ref c.group.core m then (s1.grantTiles c.ref c.group.core m).finish c i
    else (s1.setStatus c.ref (.waiting (.accAlloc m))).noteOldest c.group.core

/-- ACC_ALLOC_GRANT (R230). -/
def execAccAllocGrant (r : PathRef) (s : State) : Host.Outcome State Fault Refusal :=
  match s.ctx? r with
  | none => .next s
  | some c =>
    match c.path.status with
    | .waiting (.accAlloc m) =>
      if c.block.cluster.isSome ∧ s.allocFree r c.group.core m then
        .next (((s.grantTiles r c.group.core m).passWord r).noteOldest c.group.core)
      else .next s
    | _ => .next s

/-- Whether a pending `mma` writes a tile of a mask (R231). -/
def State.mmaWrites (s : State) (core : Nat) (m : Word) : Bool :=
  s.mmas.any fun o => o.core == core && o.members.any fun e => m.getLsbD e.args.tile

/-- Free the tiles of a mask that the block holds. -/
def State.freeTiles (s : State) (r : PathRef) (core : Nat) (m : Word) : State :=
  { s with tiles := s.tiles.filter fun u => !(u.core == core && m.getLsbD u.t && u.launch == r.launch && u.block == r.block) }

/-- `acc.free` (R231). -/
def execAccFree (st : BitVec 2) (a : BitVec 8) (s : State) : Host.Outcome State Fault Refusal :=
  let i : Instr := .accFree st a
  s.word i fun c s =>
    let m : Word := BitVec.ofNat 32 (s.scalarOperand c a.toNat 0 32)
    let s1 := s.noteIssue c i (issueOf c i 0)
    if s.mmaWrites c.group.core m then s1.setStatus c.ref (.waiting (.accFree m)) else (s1.freeTiles c.ref c.group.core m).finish c i

/-- The bytes of a transfer (R233). -/
def transferBytes (form : Nat) : Nat := if form = 0 then 18432 else 16384

/-- What the pieces of a tile transfer meet: the fault that comes first in R339, at its first page; a violation, or the pieces (offset, address, length). (log 46: DEDUCED) -/
def State.transferPlace (s : State) (c : Ctx) (k : OpKind) (sp : Bool) (addr n : Nat) : Except Place (List (Nat × Nat × Nat)) :=
  let mode := k.access + if sp then 4 else 0
  if addr % 16 ≠ 0 then .error (.fault ⟨8, 1, addr, mode⟩)
  else if sp then
    if 2 ^ 21 ≤ addr then .error (.fault ⟨8, 3, addr, mode⟩)
    else if c.spadBytes < addr % Config.spadBytes + n then .error (.beyond addr)
    else if k == .accLoad && c.block.spadMarked addr n then .error (.fault ⟨11, 2, addr, mode⟩)
    else .ok [(0, addr, n)]
  else if 2 ^ 56 ≤ addr then .error (.fault ⟨8, 2, addr, mode⟩)
  else
    let places := (pagePieces 4 addr 0 n).map fun p => (p, s.devicePlace c (if k == .accLoad then .load else .store) p.1 p.2.2 1)
    let faults := places.filterMap fun e => match e.2 with
      | .fault f => some { f with access := k.access }
      | _ => none
    match [8, 1, 2, 11].findSome? fun kind => faults.find? fun f => f.kind == kind with
    | some f => .error (.fault f)
    | none => .ok (places.filterMap fun e => match e.2 with
      | .at_ pa => some (e.1.2.1, pa, e.1.2.2)
      | _ => none)

/-- Bytes packed eight to an entry. -/
def packBytes (bs : List Byte) : List (Nat × DWord) :=
  (List.range (bs.length / 8)).map fun k => (k, BitVec.ofNat 64 (leNat ((bs.drop (8 * k)).take 8)))

/-- The bytes that `acc.st` takes, as the tile stands when it issues: undefined while an `mma` or an `acc.ld` on the tile is pending or not seen (R63, R228). (log 57, 117: DEDUCED, DESIGN CHOICE) -/
def State.storeBytes (s : State) (c : Ctx) (t : Tile) (form : Nat) : List (Nat × DWord) :=
  let pending := (s.mmas.any fun m => m.core == t.core && m.members.any fun e => e.args.tile == t.t) ||
    (s.ops.any fun o => o.kind == .accLoad && o.core == t.core && o.tile == t.t) || c.group.unseenTiles.any fun e => e.2 == t.t
  if pending then (List.range (transferBytes form / 8)).map fun k => (k, s.freeOf c.launch.owner (4096 + k))
  else packBytes (tileForm form t.data)

/-- The pieces of an `acc.ld` in a replay: the checks of its address alone, for it reads nothing (R403). -/
def Ctx.dryTransfer (c : Ctx) (sp : Bool) (addr n : Nat) : Except Place (List (Nat × Nat × Nat)) :=
  let mode := if sp then 4 else 0
  if addr % 16 ≠ 0 then .error (.fault ⟨8, 1, addr, mode⟩)
  else if sp then
    if 2 ^ 21 ≤ addr then .error (.fault ⟨8, 3, addr, mode⟩)
    else if c.spadBytes < addr % Config.spadBytes + n then .error (.beyond addr)
    else .ok []
  else if 2 ^ 56 ≤ addr then .error (.fault ⟨8, 2, addr, mode⟩)
  else .ok []

/-- The matrix operations that write a tile of a path's block. -/
def State.tileMmas (s : State) (c : Ctx) (t : Nat) : List Nat :=
  (s.mmas.filter fun m => m.core == c.group.core && m.launch == c.ref.launch && m.block == c.ref.block &&
    m.members.any fun e => e.args.tile == t).map (·.id)

/-- A tile transfer issues (R233, R345, R347, R378); an `acc.ld` is logged whatever becomes of it, with the bytes that its tile holds (R401). -/
def State.transfer (s : State) (i : Instr) (k : OpKind) (t : BitVec 5) (a : BitVec 8) (b : BitVec 7) (sb : BitVec 3) (sp : BitVec 1)
    (form : BitVec 2) : Host.Outcome State Fault Refusal :=
  s.word i fun c s =>
    if 63 ≤ c.group.sbCount sb.toNat then s.setStatus c.ref (.waiting (.counter sb.toNat))
    else
      let w := if sp = 1 then 32 else 64
      let addr := wrapInt w ((s.scalarOperand c a.toNat 0 w : Int) + intOf true 32 (s.pathOperand c (wide7 b) 2))
      let n := transferBytes form.toNat
      let tile := s.tileOf c.ref.launch c.ref.block c.group.core t.toNat
      let load := k == .accLoad
      let s1 := s.noteIssue c i (issueOf c i 0)
      let lg := if load && c.launch.replay.isSome then
          s1.logInput c 1 c.path.selected (tripleBytes c.path.selected ++ tile.elim (List.replicate n 0) fun t => tileForm form.toNat t.data)
        else (s1, none, none)
      match tile with
      | none => lg.1.faultPath c ⟨10, 10, 0, 3⟩ false
      | some tile =>
        match (if load && c.replaying then c.dryTransfer (sp == 1) addr n else s.transferPlace c k (sp == 1) addr n) with
        | .error (.fault f) => lg.1.faultPath c f false
        | .error (.beyond a) => (lg.1.violate c (s.tagOf c c.path.namingLane ⟨9, 1, a, k.access⟩) 1).finish c i
        | .error (.at_ _) => lg.1
        | .ok pieces =>
          if k == .accStore && tile.poison then lg.1.faultPath c ⟨11, 5, 0, 3⟩ false
          else
            let o : Op := { s.blankOp c k sb.toNat with
              sp := sp == 1
              tile := t.toNat
              form := form.toNat
              lanes := pieces.map fun p => (p.1, p.2.1, BitVec.ofNat 64 p.2.2, 0)
              fixed := if load then lg.2.2.elim [] fun bs => packBytes (bs.drop 12) else s.storeBytes c tile form.toNat
              logAt := lg.2.1
              after := s.conflicts c (sp == 1) (pieces.map fun p => (p.2.1, p.2.2)) ++ if load then s.tileMmas c t.toNat else [] }
            let s2 := lg.1.startOp c o [] 0
            let s3 := if load then s2.updPathGroup c.ref fun z => { z with unseenTiles := z.unseenTiles ++ [(sb.toNat, t.toNat)] } else s2
            (s3.takeFreeOf c.launch.owner 8192).finish c i

/-- `acc.st` (R233): the tile's elements are taken when it issues. (log 117: DESIGN CHOICE) -/
def execAccSt (st : BitVec 2) (t : BitVec 5) (a : BitVec 8) (b : BitVec 7) (sb : BitVec 3) (sp : BitVec 1) (form : BitVec 2) (s : State) :
    Host.Outcome State Fault Refusal :=
  s.transfer (.accSt st t a b sb sp form) .accStore t a b sb sp form

/-- `acc.ld` (R233). -/
def execAccLd (st : BitVec 2) (t : BitVec 5) (a : BitVec 8) (b : BitVec 7) (sb : BitVec 3) (sp : BitVec 1) (form : BitVec 2) (s : State) :
    Host.Outcome State Fault Refusal :=
  s.transfer (.accLd st t a b sb sp form) .accLoad t a b sb sp form

/-- ACC_LD_COMPLETE (R227, R233). -/
def execAccLdComplete (op : Nat) (s : State) : Host.Outcome State Fault Refusal := .next (s.finishOp op [.accLoad])

end Sys2Proof.Machine
end

