-- ==== Sys2Proof/Machine/Engines.lean ====
section
/-! DEFINITION. The copy, decompression and collective engines (R234 to R243, R297, R350, R380 to R384, R389), their words and events, and the
end of a block (R240). -/

namespace Sys2Proof.Machine

/-- The communicator of a collective (R312). -/
def Owner.comm? (o : Owner) (k : Nat) : Option Communicator := (o.comms.find? fun c => c.1 == k).map (·.2)

def State.commOf (s : State) (e : EngineRec) : Communicator := ((s.owner e.owner).comm? e.comm).getD ⟨1, 0, [], 0⟩

/-- Output bytes of a record (R234, R242). -/
def State.recTotal (s : State) (e : EngineRec) : Nat :=
  match e.kind with
  | .copy => e.w 4
  | .card => e.w 5
  | .coll => (if e.op = 2 ∨ e.op = 4 then (s.commOf e).members else 1) * e.count * e.unit

/-! ### The checks of a kick (R350) -/

/-- Whether a DONE target of `n` bytes breaks its rules (R350). -/
def doneBad (c : Ctx) (done n : Nat) : Bool :=
  decide (2 ^ 21 ≤ done) || done % n != 0 || decide (c.spadBytes < done % Config.spadBytes + n)

/-- Whether the scratchpad range of a record lies beyond SPAD. -/
def spadRangeBad (c : Ctx) (a n : Nat) : Bool := decide (2 ^ 21 ≤ a) || decide (c.spadBytes < a % Config.spadBytes + n)

/-- Whether a record names a destination reservation that its block does not hold on that core (R347). (log 60: DEDUCED) -/
def State.dstMissing (s : State) (c : Ctx) (e : EngineRec) : Bool := decide (2 ≤ e.dstSp) && (s.heldReservation c e.dstCore e.dstQ).isNone

/-- Whether the destination of a record is no region of a reservation that the block holds (R221, R350). (log 60: DEDUCED) -/
def State.regionBad (s : State) (c : Ctx) (e : EngineRec) (total : Nat) : Bool :=
  match s.heldReservation c e.dstCore e.dstQ with
  | none => true
  | some r =>
    if e.dstSp = 2 then decide (64 * r.rowBytes < e.dst + total)
    else decide (e.dst < r.sideStart) || decide (r.size < e.dst + total)

/-- The checks of a copy record or job card (R350, code 15). -/
def State.recordBad (s : State) (c : Ctx) (e : EngineRec) : Bool :=
  let card := e.kind == .card
  let total := if card then e.w 5 else e.w 4
  e.scope == 0 || e.scope == 7 || decide (2 ≤ e.srcSp) ||
  (if card then decide (2 ≤ e.codec) || decide (e.w 5 = 0) || decide (0x04000000 < e.w 5) || (e.codec == 0 && e.w 5 != e.w 4)
   else e.codec != 0 || e.w 5 != 0) ||
  e.w 4 == 0 || doneBad c (e.w 7) (if e.toBarrier then 16 else 4) ||
  (decide (2 ≤ e.dstSp) && s.regionBad c e total) ||
  (e.srcSp == 1 && spadRangeBad c e.src (e.w 4)) || (e.dstSp == 1 && spadRangeBad c e.dst total) ||
  [9, 10, 11, 12, 13, 14, 15].any (fun k => e.w k != 0) || bits e.ctl 15 0 != 0

/-- The checks of a collective descriptor (R350, code 16). -/
def State.collBad (s : State) (c : Ctx) (e : EngineRec) : Bool :=
  decide (5 ≤ e.op) || e.red == 3 || !([3, 4, 7, 8, 9, 10, 11, 12].contains e.ty) || decide (e.count = 0) || decide (0x10000000 < e.count) ||
  decide (1024 ≤ e.comm) ||
  (match (s.owner c.launch.owner).comm? e.comm with
   | none => true
   | some m => e.op == 3 && decide (m.members ≤ e.root)) ||
  doneBad c (e.w 7) 4 || e.w 5 / 2 ^ 16 != 0 || e.w 10 / 2 ^ 16 != 0 || bits e.ctl 20 0 != 0 ||
  [9, 11, 12, 13, 14, 15].any fun k => e.w k != 0

/-- A record as the engine reads it at its start. -/
def State.readRecord (s : State) (c : Ctx) (kind : RecKind) (addr : Nat) : EngineRec where
  id := 0
  kind := kind
  owner := c.launch.owner
  launch := c.ref.launch
  block := c.ref.block
  core := c.group.core
  addr := addr
  words := (List.range 16).map fun k => s.spadWord c.ref.launch c.ref.block c.group.core (addr + 4 * k)
  prog := 0
  inprog := 0
  out := []
  lz := ⟨0, 0, 0, 0, 0, 0⟩
  status := none
  finalStatus := 1
  force := false
  faulted := false
  dropped := false
  halted := false
  since := s.moment
  chunk := none
  landed := []
  spoiled := []
  preds := []
  index := 0
  parts := []

/-! ### Reading a source, and what stops it (R378, R380, R391) -/

/-- What stops a chunk: KIND, DETAIL, address, ACCESS (four more for scratchpad), and the unit under which its origin is coalesced (R326, R379). -/
structure EngineStop where
  kind : Nat
  detail : Nat
  addr : Nat
  access : Nat
  unit : Option (Nat × Nat)
deriving DecidableEq, Repr

/-- The moment at which a record reads byte `i` of its chunk's source: the one asked for, within the chunk's time (R264). -/
def State.sourceMoment (s : State) (e : EngineRec) (moments : List Nat) (i : Nat) : Nat := max e.since (min s.moment (moments.getD i s.moment))

/-- One source byte of a record, as it is at a moment. Under `force` poison does not stop it, and a port out of service gives an undefined byte.
 (log 63: DEDUCED) -/
def State.engineByte (s : State) (e : EngineRec) (sp : Bool) (m addr : Nat) : Except EngineStop Byte :=
  if sp then
    if !e.force && s.spadPoisoned e.launch e.block addr then
      .error ⟨11, 4, addr, 4, some (2, ((e.launch * 2 ^ 32 + e.block) * 2 ^ 21 + addr) / 4)⟩
    else .ok ((s.spadReadAt e.launch e.block e.core m addr 1).headD 0)
  else
    match (s.owner e.owner).translate addr false with
    | .error k => .error ⟨k, 0, addr, 0, if k = 1 then some (0, addr / 8192) else none⟩
    | .ok pa =>
      if !s.portUp pa then
        if e.force then .ok ((s.freeOf e.owner addr).setWidth 8) else .error ⟨11, 6, addr, 0, none⟩
      else if !e.force && s.poisoned pa 1 then .error ⟨11, 4, addr, 0, some (1, pa / 64)⟩
      else .ok ((s.readAt 4 m pa 1).headD 0)

def State.engineBytes (s : State) (e : EngineRec) (sp : Bool) (mo : List Nat) (addr n : Nat) : Except EngineStop (List Byte) :=
  (List.range n).mapM fun i => s.engineByte e sp (s.sourceMoment e mo i) (addr + i)

/-! ### The LZ4 block decoder (R238) -/

/-- Why decoding stops before its chunk is full: what stops the chunk, or a malformed stream, of which `upTo` bytes have been read. -/
inductive LzStop
  | stop (f : EngineStop)
  | malformed (upTo : Nat)
deriving DecidableEq, Repr

/-- A source byte of a card; past SRCLEN the stream is malformed. -/
def State.lzByte (s : State) (e : EngineRec) (mo : List Nat) (pos : Nat) : Except LzStop Byte :=
  if e.w 4 ≤ pos then .error (.malformed (e.w 4))
  else
    match s.engineByte e (e.srcSp == 1) (s.sourceMoment e mo (pos - e.inprog)) (e.src + pos) with
    | .ok b => .ok b
    | .error f => .error (.stop f)

/-- The extension bytes of a length: the new position and the length. -/
def State.lzExtend (s : State) (e : EngineRec) (mo : List Nat) : Nat → Nat → Nat → Except LzStop (Nat × Nat)
  | 0, pos, _ => .error (.malformed pos)
  | k + 1, pos, n =>
    match s.lzByte e mo pos with
    | .error x => .error x
    | .ok b => if b = 255 then s.lzExtend e mo k (pos + 1) (n + 255) else .ok (pos + 1, n + b.toNat)

/-- A length that starts as a nibble: 15 means that extension bytes follow. -/
def State.lzLength (s : State) (e : EngineRec) (mo : List Nat) (pos nibble : Nat) : Except LzStop (Nat × Nat) :=
  if nibble = 15 then s.lzExtend e mo (e.w 4 + 1) pos 15 else .ok (pos, nibble)

/-- Decode until `goal` bytes are out (the newest first in `out`), or to the end of the stream when `goal` is the last byte of the card. (log 62: DEDUCED) -/
def State.lzRun (s : State) (e : EngineRec) (mo : List Nat) (goal : Nat) : Nat → LzState → List Byte → Nat → Except LzStop (LzState × List Byte)
  | 0, z, _, _ => .error (.malformed z.pos)
  | k + 1, z, out, n =>
    if n = goal ∧ n < e.w 5 then .ok (z, out)
    else
      match z.phase with
      | 0 =>
        match s.lzByte e mo z.pos with
        | .error x => .error x
        | .ok t =>
          match s.lzLength e mo (z.pos + 1) (t.toNat / 16) with
          | .error x => .error x
          | .ok (pos, l) => s.lzRun e mo goal k { z with pos := pos, literals := l, token := t.toNat, phase := 1 } out n
      | 1 =>
        if z.literals = 0 then s.lzRun e mo goal k { z with phase := if z.pos = e.w 4 then 4 else 2 } out n
        else if n = e.w 5 then .error (.malformed z.pos)
        else
          match s.lzByte e mo z.pos with
          | .error x => .error x
          | .ok b => s.lzRun e mo goal k { z with pos := z.pos + 1, literals := z.literals - 1 } (b :: out) (n + 1)
      | 2 =>
        match s.lzByte e mo z.pos, s.lzByte e mo (z.pos + 1) with
        | .ok lo, .ok hi =>
          match s.lzLength e mo (z.pos + 2) (z.token % 16) with
          | .error x => .error x
          | .ok (pos, l) =>
            let off := lo.toNat + 256 * hi.toNat
            if off = 0 ∨ n < off then .error (.malformed pos)
            else s.lzRun e mo goal k { z with pos := pos, matchLeft := l + 4, matchOffset := off, phase := 3 } out n
        | .error x, _ => .error x
        | _, .error x => .error x
      | 3 =>
        if z.matchLeft = 0 then s.lzRun e mo goal k { z with phase := 0 } out n
        else if n = e.w 5 then .error (.malformed z.pos)
        else s.lzRun e mo goal k { z with matchLeft := z.matchLeft - 1 } (out.getD (z.matchOffset - 1) 0 :: out) (n + 1)
      | _ => if n < e.w 5 then .error (.malformed z.pos) else .ok (z, out)

/-! ### Collectives: an element of this member's DST (R242) -/

/-- A source byte of member `q`; `error none`: it has not arrived. -/
def State.partByte (s : State) (e : EngineRec) (mo : List Nat) (q pos : Nat) : Except (Option EngineStop) Byte :=
  if q = (s.commOf e).rank then
    match s.engineByte e false (s.sourceMoment e mo pos) (e.src + pos) with
    | .ok b => .ok b
    | .error f => .error (some f)
  else
    match e.parts.find? fun p => p.1 == q && decide (p.2.1 ≤ pos) && decide (pos < p.2.1 + p.2.2.length) with
    | some p => .ok (p.2.2.getD (pos - p.2.1) 0)
    | none => .error none

/-- Element `k` of the source of member `q`. -/
def State.partElem (s : State) (e : EngineRec) (mo : List Nat) (q k : Nat) : Except (Option EngineStop) Nat :=
  ((List.range e.unit).mapM fun i => s.partByte e mo q (k * e.unit + i)).map leNat

/-- One step of a reduction (R242). -/
def collStep (red ty a b : Nat) : Nat :=
  match fmtOfCode ty with
  | some f => if red = 0 then (f.add FpMode.plain a b).v else (f.minmax FpMode.plain (red == 2) a b).v
  | none =>
    let t := intTy ty
    if red = 0 then intAdd t false a b
    else
      let x := intOf t.signed t.w a
      let y := intOf t.signed t.w b
      if red = 1 then (if y < x then b else a) else (if x < y then b else a)

/-- Element `k` of DST. -/
def State.collElem (s : State) (e : EngineRec) (mo : List Nat) (k : Nat) : Except (Option EngineStop) Nat :=
  let m := s.commOf e
  let reduceAt (j : Nat) : Except (Option EngineStop) Nat :=
    ((List.range m.members).mapM fun q => s.partElem e mo q j).map fun vs => vs.tail.foldl (collStep e.red e.ty) (vs.headD 0)
  match e.op with
  | 0 => reduceAt k
  | 1 => reduceAt (m.rank * e.count + k)
  | 2 => s.partElem e mo (k / e.count) (k % e.count)
  | 3 => s.partElem e mo e.root k
  | _ => s.partElem e mo (k / e.count) (m.rank * e.count + k % e.count)

/-- The elements of this member's source: none for a member that broadcasts nothing. -/
def State.collSource (s : State) (e : EngineRec) : Nat :=
  if e.op = 3 ∧ (s.commOf e).rank ≠ e.root then 0
  else (if e.op = 1 ∨ e.op = 4 then (s.commOf e).members else 1) * e.count * e.unit

/-! ### One chunk -/

/-- Why a chunk cannot be delivered now: its data have not arrived, or an engine origin. -/
inductive ChunkStop
  | wait
  | origin (f : EngineStop)
deriving DecidableEq, Repr

/-- Bytes of the next chunk (R237). -/
def State.chunkLen (s : State) (e : EngineRec) : Nat := min Config.chunk (s.recTotal e - e.prog)

/-- Where a record's bytes lie: the pieces of a range in its space (true: scratchpad), with their physical addresses. -/
def State.rangePieces (s : State) (e : EngineRec) (sp : Bool) (a n : Nat) : List (Nat × Nat × Nat) :=
  if sp then [(a, 0, n)]
  else (pagePieces (n / 8192 + 2) a 0 n).filterMap fun p => (s.vaRead e.owner p.1).map fun pa => (pa, p.2.1, p.2.2)

/-- Whether byte `i` of a plain copy lies where its source and its destination overlap, or comes from there: it is undefined (R237, R384).
 -/
def State.overlapped (s : State) (e : EngineRec) : Nat → Bool :=
  let n := s.recTotal e
  if e.dstSp ≠ e.srcSp ∨ e.kind = .coll then fun _ => false
  else
    let a := s.rangePieces e (e.srcSp == 1) e.src n
    let b := s.rangePieces e (e.srcSp == 1) e.dst n
    let spot (l : List (Nat × Nat × Nat)) (i : Nat) : Option Nat :=
      (l.find? fun p => decide (p.2.1 ≤ i) && decide (i < p.2.1 + p.2.2)).map fun p => p.1 + (i - p.2.1)
    let within (l : List (Nat × Nat × Nat)) (x : Option Nat) : Bool := x.elim false fun x => l.any fun p => decide (p.1 ≤ x) && decide (x < p.1 + p.2.2)
    fun i => within a (spot b i) || within b (spot a i)

/-- Output of a card with undefined values where a program has stored: of an LZ4 block, from there on (R238, R384). -/
def State.spoiledBytes (s : State) (e : EngineRec) (bs : List Byte) : List Byte :=
  if e.kind ≠ .card ∨ e.spoiled = [] then bs
  else
    let all := e.codec == 1 && e.spoiled.any fun i => decide (i < e.prog)
    bs.zipIdx.map fun b => if all || e.spoiled.contains (e.prog + b.2) then (s.freeOf e.owner b.2).setWidth 8 else b.1

/-- The bytes of the next chunk, as the record's kind and codec make them; `mo`: when its source bytes are read. (log 61: DEDUCED) -/
def State.chunkBytes (s : State) (e : EngineRec) (mo : List Nat) : Except ChunkStop Chunk :=
  let n := s.chunkLen e
  match e.kind, e.codec with
  | .coll, _ =>
    let whole : Except EngineStop (List Byte) := if e.prog = 0 then s.engineBytes e false mo e.src (s.collSource e) else .ok []
    match whole with
    | .error f => .error (.origin f)
    | .ok _ =>
      match (List.range (n / e.unit)).mapM fun i => s.collElem e mo (e.prog / e.unit + i) with
      | .ok vs => .ok ⟨vs.flatMap (leBytes e.unit), 0, 0, [], e.lz, [], false⟩
      | .error (some f) => .error (.origin f)
      | .error none => .error .wait
  | .card, 1 =>
    match s.lzRun e mo (e.prog + n) (4 * (e.w 4 + e.w 5) + 8) e.lz e.out e.prog with
    | .ok (z, out) =>
      let bs := s.spoiledBytes e (out.take n).reverse
      .ok ⟨bs, z.pos, z.pos, bs.reverse ++ out.drop n, z, [], false⟩
    | .error (.stop f) => .error (.origin f)
    | .error (.malformed upTo) => .ok ⟨(List.range n).map fun i => (s.freeOf e.owner i).setWidth 8, e.inprog, upTo, e.out, e.lz, [], true⟩
  | _, _ =>
    match s.engineBytes e (e.srcSp == 1) mo (e.src + e.prog) n with
    | .ok bs =>
      let over_ := s.overlapped e
      let bs := s.spoiledBytes e (bs.zipIdx.map fun x => if over_ (e.prog + x.2) then (s.freeOf e.owner x.2).setWidth 8 else x.1)
      .ok ⟨bs, e.prog + n, e.prog + n, if e.kind = .card then bs.reverse ++ e.out else [], e.lz, [], false⟩
    | .error f => .error (.origin f)

/-- Whether a record delivers to device memory. -/
def EngineRec.toDevice (e : EngineRec) : Bool := e.kind == .coll || e.dstSp == 0

/-- What stops the writes of a chunk of `n` bytes (R380). -/
def State.chunkDstStop (s : State) (e : EngineRec) (n : Nat) : Option EngineStop :=
  if !e.toDevice then none
  else
    (List.range n).findSome? fun i =>
      let va := e.dst + e.prog + i
      match (s.owner e.owner).translate va true with
      | .error k => some ⟨k, 0, va, 1, if k = 1 then some (0, va / 8192) else none⟩
      | .ok pa => if !e.force && !s.portUp pa then some ⟨11, 6, va, 1, none⟩ else none

/-- Entry of the reverse ownership table for a physical address (R308). -/
def ownershipKey (pa : Nat) : Nat := if pa < Config.reservoirBase then pa / 8192 else 78125000 + (pa - Config.reservoirBase) / 8192

/-- The check of R249 for one page: owned, or shared and read only. -/
def State.pageAccepted (s : State) (o pa : Nat) (wr : Bool) : Bool :=
  let v := (s.ownership.get (ownershipKey pa)).toNat
  inTier pa && v.testBit 31 && (bits v 29 24 == o ||
    (!wr && bits v 23 16 != 0 && (s.shares.any fun g => g.1 == bits v 23 16 && g.2.getLsbD o)))

/-- Pieces of a device range that an owner may write: physical address, offset, length. -/
def State.devicePieces (s : State) (o va n : Nat) : List (Nat × Nat × Nat) :=
  (pagePieces (n / 8192 + 2) va 0 n).filterMap fun p =>
    match (s.owner o).translate p.1 true with
    | .ok pa => some (pa, p.2.1, p.2.2)
    | .error _ => none

/-- Where the bytes of a chunk go: pieces of device memory, for a collective in pages that its owner has (R313), or of scratchpad; none in a reservation. -/
def State.chunkPieces (s : State) (e : EngineRec) (n : Nat) : List (Nat × Nat × Nat) :=
  if e.toDevice then
    (s.devicePieces e.owner (e.dst + e.prog) n).filter fun p => e.kind != .coll || s.pageAccepted e.owner p.1 true
  else if e.dstSp = 1 then [(e.dst + e.prog, 0, n)]
  else []

/-- The next chunk: the one that has begun to land, which nothing stops any more, or a new one, or why it cannot be delivered (R237, R264, R380).
 (log 61: DEDUCED) -/
def State.nextChunk (s : State) (e : EngineRec) (mo : List Nat) : Except ChunkStop Chunk :=
  match e.chunk with
  | some c => .ok c
  | none =>
    match s.chunkBytes e mo with
    | .error x => .error x
    | .ok c =>
      match s.chunkDstStop e c.bytes.length with
      | some f => .error (.origin f)
      | none => .ok { c with pieces := s.chunkPieces e c.bytes.length }

/-- Whether a record is served: a capped owner's accesses are held, and a stopped or migrating owner's records leave at their chunk boundary (R354, R358,
R390). -/
def State.engineRuns (s : State) (e : EngineRec) : Bool :=
  let o := s.owner e.owner
  e.status.isNone && !e.faulted && !e.dropped && !o.capHeld && (e.chunk.isSome || (!e.halted && !o.stopped && o.migrating.isNone)) &&
    decide (e.prog < s.recTotal e)

/-- Whether a record's chunk may be served next: no other owner has had a smaller part of its allotment in the period, while a record of the same engine
can be served for it (R239, R299). (log 119: DESIGN CHOICE) -/
def State.engineTurn (s : State) (e : EngineRec) : Bool :=
  e.chunk.isSome || !(s.records.any fun f =>
    f.kind == e.kind && f.owner != e.owner &&
      decide ((s.owner f.owner).periodEngine * (s.owner e.owner).record.engw < (s.owner e.owner).periodEngine * (s.owner f.owner).record.engw) &&
      s.engineRuns f && match s.nextChunk f [] with
        | .ok _ => true
        | .error _ => false)

/-- The party that writes a record's payload, as writes in transit name it. -/
def EngineRec.as_ (e : EngineRec) : PathRef := ⟨e.launch, e.block, 1000 + e.id, 0⟩

/-- Write payload bytes to device memory: ordinary writes, applied at the die of the block, after what precedes the record (R259, R260, R298). -/
def State.engineWrite (s : State) (e : EngineRec) (pcs : List (Nat × Nat × Nat)) (bs : List Byte) : State :=
  let die := dieOf ((s.block? e.launch e.block).elim e.core (·.homeCore e.core))
  pcs.foldl (fun s p => s.writeOrdinary e.as_ 98 die p.1 ((bs.drop p.2.1).take p.2.2) (s.closed e.preds)) s

/-- The payload of a record is visible to every observer of a scope (R237). -/
def State.engineCarry (s : State) (e : EngineRec) (scope : Nat) : State := if 5 ≤ scope then s.carry (ofGroup e.as_) else s

/-- The payload of a record in transit. -/
def State.payload (s : State) (e : EngineRec) : List Nat := (s.transit.filter (ofGroup e.as_)).map (·.id)

/-- Mark the scratchpad words of a range, or their image blocks while the block is away (R377, R382). (log 63: DEDUCED) -/
def State.markSpad (s : State) (e : EngineRec) (addr n : Nat) : State :=
  match (s.launch? e.launch), (s.block? e.launch e.block) with
  | some x, some y =>
    let words := (List.range ((n + 3) / 4)).map fun k => addr / 4 * 4 + 4 * k
    if y.cluster.isSome then
      s.updBlock e.launch e.block fun y => { y with spadPoison := (y.spadPoison ++ words).dedup }
    else
      words.foldl (fun s a =>
        (s.imagePa x y (spadImage x y a)).elim s s.markPoison) s
  | _, _ => s

/-- Deliver a chunk into a reservation; while a pending `mma` names it, undefined values (R228). (log 57: DEDUCED) -/
def State.deliverReservation (s : State) (e : EngineRec) (bs : List Byte) : State :=
  s.updReservation e.dstCore e.dstQ fun r =>
    let bs := if r.state = 3 then bs.zipIdx.map fun x => (s.freeOf e.owner x.2).setWidth 8 else bs
    let r := if e.dstSp = 2 then r.writeElems (e.dst + e.prog) bs else r.writeSide (e.dst + e.prog) bs
    { r with poison := r.poison || e.force }

/-- The wanted bytes of pieces: whole pieces where every byte is wanted. -/
def wantedPieces (want : Nat → Bool) (pcs : List (Nat × Nat × Nat)) : List (Nat × Nat × Nat) :=
  pcs.flatMap fun p =>
    if (List.range p.2.2).all fun k => want (p.2.1 + k) then [p]
    else ((List.range p.2.2).filter fun k => want (p.2.1 + k)).map fun k => (p.1 + k, p.2.1 + k, 1)

/-- Bytes of a chunk land at its destination, in memory or scratchpad (R237). -/
def State.land (s : State) (e : EngineRec) (c : Chunk) (want : Nat → Bool) : State :=
  let pcs := wantedPieces want c.pieces
  if e.toDevice then pcs.foldl (fun s p => s.charge e.owner p.1 p.2.2) (s.engineWrite e pcs c.bytes)
  else
    (pcs.foldl (fun s p => s.spadWrite e.launch e.block e.core p.1 ((c.bytes.drop p.2.1).take p.2.2) (s.closed e.preds)) s).barTouched e.launch
      e.block e.core engineRank (pcs.map fun p => (p.1, p.2.2))

/-- A whole chunk clears the marks of the units that it covers; a forced one is marked (R377, R380). (log 63: DEDUCED) -/
def State.chunkMarks (s : State) (e : EngineRec) (c : Chunk) : State :=
  if e.toDevice then
    let s := s.clearPoison (c.pieces.map fun p => (p.1, p.2.2))
    if e.force then
      c.pieces.foldl (fun s p => (List.range ((p.2.2 + 63) / 64 + 1)).foldl (fun s k =>
        if p.1 / 64 * 64 + 64 * k < p.1 + p.2.2 then s.markPoison (p.1 / 64 * 64 + 64 * k) else s) s) s
    else s
  else
    let s := s.clearSpad e.launch e.block (e.dst + e.prog) c.bytes.length
    if e.force then s.markSpad e (e.dst + e.prog) c.bytes.length else s

/-- Whether pages of a collective's chunk are not its owner's (R313). -/
def Chunk.failed (c : Chunk) (e : EngineRec) : Bool := e.kind == .coll && decide ((c.pieces.map (·.2.2)).sum < c.bytes.length)

/-- Deliver the rest of a chunk to its destination. (log 61: DEDUCED) -/
def State.deliver (s : State) (e : EngineRec) (c : Chunk) : State :=
  if 2 ≤ e.dstSp ∧ !e.toDevice then s.deliverReservation e c.bytes
  else
    let s := ((s.land e c fun i => !e.landed.contains i).chunkMarks e c)
    let s := if e.toDevice then s.engineCarry e (if e.kind = .coll then 6 else e.scope) else s
    if c.failed e then s.updRecord e.id fun e => { e with finalStatus := 6 } else s

/-- Source bytes of a chunk are charged to the record's owner (R239, R300). -/
def State.chargeSource (s : State) (e : EngineRec) (c : Chunk) : State :=
  let start := if e.kind = .card then e.inprog else e.prog
  match e.kind with
  | .coll => if e.prog = 0 then s.chargeVirt e.owner e.src (s.collSource e) else s
  | _ => if e.srcSp = 0 then s.chargeVirt e.owner (e.src + start) (c.readTo - start) else s

/-- A chunk is read: what it delivers stays as it is (R264). (log 61: DEDUCED) -/
def State.fixChunk (s : State) (e : EngineRec) (c : Chunk) : State :=
  if e.chunk.isSome then s else (s.chargeSource e c).updRecord e.id fun r => { r with chunk := some c }

/-- Count bytes into a barrier's PENDING; a phase that counts poisoned bytes is marked (R204, R237, R382). -/
def State.countBytes (s : State) (e : EngineRec) (n status : Nat) : State :=
  let phase := (s.barRead e.launch e.block e.core (e.w 7)).phase
  let s := if status = 3 ∨ status = 7 then
      s.updBlock e.launch e.block fun y => { y with poisonPhases := (y.poisonPhases ++ [(e.w 7, phase)]).dedup }
    else s
  ((s.notePhase e.launch e.block e.core (e.w 7) (s.payload e)).updBlock e.launch e.block fun y => y.noteUpdate (e.w 7) s.cycle engineRank).barUpdate
    e.launch e.block e.core (e.w 7) fun o => { o with pending := o.pending - BitVec.ofNat 32 n }

/-- A word of the record in scratchpad (R236). -/
def State.recordWord (s : State) (e : EngineRec) (k v : Nat) : State :=
  s.spadWrite e.launch e.block e.core (e.addr + 4 * k) (leBytes 4 v)

/-- A chunk of a record is delivered whole: PROG advances, all but the last chunk count into a barrier, and its owner has had one more (R237, R239). -/
def State.chunkDone (s : State) (e : EngineRec) (c : Chunk) : State :=
  let n := c.bytes.length
  let s1 := (((s.fixChunk e c).deliver e c).takeFreeOf e.owner Config.chunk).updOwner e.owner fun o => { o with periodEngine := o.periodEngine + 1 }
  if c.bad then s1.updRecord e.id fun e => { e with status := some 6, force := false, chunk := none, landed := [] }
  else
    let prog := e.prog + n
    let s2 := s1.updRecord e.id fun e =>
      { e with prog := prog, inprog := c.inprog, out := c.out, lz := c.lz, force := false, since := s1.moment, chunk := none, landed := [] }
    let s3 := (s2.updOwner e.owner fun o => o.bump 22 n).recordWord e 9 prog
    let s4 := if e.kind = .card then s3.recordWord e 10 c.inprog else s3
    if e.toBarrier ∧ prog < s.recTotal e then s4.countBytes e n e.finalStatus else s4

/-- ENGINE_CHUNK_DONE (R237, R264): the next chunk of a record is delivered; source byte `i` is read at moment `moments[i]`, now where none is given.
With offsets in `only`, just these bytes of the chunk land, and its rest is yet to come. (log 47, 61, 119: DESIGN CHOICE, DEDUCED) -/
def execEngineChunkDone (r : Nat) (moments only : List Nat) (s : State) : Host.Outcome State Fault Refusal :=
  match s.records.find? fun e => e.id == r with
  | none => .next s
  | some e =>
    if !s.engineRuns e || !s.engineTurn e then .next s
    else
      match s.nextChunk e moments with
      | .error _ => .next s
      | .ok c =>
        if only.isEmpty then .next (s.chunkDone e c)
        else
          .next (((s.fixChunk e c).land e c fun i => only.contains i && !e.landed.contains i).updRecord r fun e =>
            { e with landed := e.landed ++ only.filter fun i => decide (i < c.bytes.length) && !e.landed.contains i })

/-- Bytes already counted into the barrier of a record. -/
def State.counted (s : State) (e : EngineRec) : Nat :=
  let total := s.recTotal e
  if e.prog = total then (total - 1) / Config.chunk * Config.chunk else e.prog

/-- STATUS of a record that has come to its end (R234, R381, R389); none: it has not. (log 62: DEDUCED) -/
def State.endStatus (s : State) (e : EngineRec) : Option Nat :=
  match e.status with
  | some n => some n
  | none => if e.dropped then some 2 else if e.prog = s.recTotal e then some e.finalStatus else none

/-- RESULT, then the completion word or the last barrier count (R237, R242, R382). -/
def State.completeRecord (s : State) (e : EngineRec) (status : Nat) : State :=
  let s := s.recordWord e 11 (status * 2 ^ 28)
  let s := { s with records := s.records.filter fun x => x.id != e.id }
  if e.toBarrier then s.countBytes e (s.recTotal e - s.counted e) status
  else
    let s := (s.spadWrite e.launch e.block e.core (e.w 7) (leBytes 4 (e.w 8)) (s.payload e)).barTouched e.launch e.block e.core engineRank [(e.w 7, 4)]
    if e.kind ≠ .coll ∧ (status = 3 ∨ status = 7) then s.markSpad e (e.w 7) 4 else s

/-- ENGINE_RECORD_COMPLETE (R237, R239, R381): a copy record or job card that has come to its end completes. -/
def execEngineRecordComplete (r : Nat) (s : State) : Host.Outcome State Fault Refusal :=
  match s.records.find? fun e => e.id == r && e.kind != .coll with
  | none => .next s
  | some e =>
    match s.endStatus e with
    | some n => .next (if e.halted then s else s.completeRecord e n)
    | none => .next s

/-- The tag of an engine origin (R380). -/
def EngineRec.tag (e : EngineRec) (f : EngineStop) : List Word :=
  [BitVec.ofNat 32 f.addr, BitVec.ofNat 32 (f.addr / 2 ^ 32),
   BitVec.ofNat 32 (f.kind * 2 ^ 28 + f.access % 4 * 2 ^ 26 + 0x7F * 2 ^ 17 + 0x7F * 2 ^ 10 + e.core),
   BitVec.ofNat 32 e.launch, BitVec.ofNat 32 e.block, BitVec.ofNat 32 e.addr, BitVec.ofNat 32 e.addr, 0]

/-- ENGINE_RECORD_FAULT (R380): a record whose next chunk is stopped becomes an engine origin; without a handler it takes the skip action. -/
def execEngineRecordFault (r : Nat) (s : State) : Host.Outcome State Fault Refusal :=
  match s.records.find? fun e => e.id == r with
  | none => .next s
  | some e =>
    if !s.engineRuns e then .next s
    else
      match s.nextChunk e [], s.launch? e.launch with
      | .error (.origin f), some x =>
        let tag := e.tag f
        let detail : Word := BitVec.ofNat 32 f.detail
        let va := if f.access < 4 then f.addr else 2 ^ 64
        let wait (unit : Option (Nat × Nat)) : State :=
          (s.updRecord r fun e => { e with faulted := true }).collect e.owner f.kind detail tag (.engine r) false x.faultDepth unit s.nextId va
        if (s.front e.owner f.unit).isSome then .next (wait f.unit)
        else match s.route x f.kind f.detail va tag with
        | .stop t d => .next ((wait none).stopOwner e.owner t d x.header.imageid)
        | .collect => .next (wait f.unit)
        | .noHandler =>
          .next ((s.updRecord r fun e => e.skip f.kind detail).report e.owner tag detail 0 x.header.imageid)
      | _, _ => .next s

/-! ### Collectives: an early end -/

/-- Undefined values in the whole DST of a collective, in the pages that its owner may write: the engine has written none of them, so they are charged to
nobody (R243, R313, R389). -/
def State.spoilDst (s : State) (e : EngineRec) : State :=
  let n := s.recTotal e
  let e0 := { e with prog := 0 }
  let pcs := s.chunkPieces e0 n
  (((s.engineWrite e0 pcs ((List.range n).map fun i => (s.freeOf e.owner i).setWidth 8)).clearPoison (pcs.map fun p => (p.1, p.2.2))).engineCarry e
    6).takeFreeOf e.owner n

/-- A collective ends early with a status, its DST undefined. (log 64: DEDUCED) -/
def State.endColl (s : State) (e : EngineRec) (status : Nat) : State := (s.spoilDst e).updRecord e.id fun e => { e with status := some status }

/-! ### Kicks (R236, R241): the records pass to their engine -/

/-- The index of the next collective of an owner on a communicator (R242). -/
def State.nextColl (s : State) (o k : Nat) : Nat := (s.collIndex.find? fun e => e.1 == o && e.2.1 == k).elim 0 (·.2.2)

/-- Pass one record to its engine; a descriptor of a communicator whose member has withdrawn ends at once (R389). -/
def State.passRecord (s : State) (e : EngineRec) : State :=
  let e := { e with id := s.nextId }
  let s := { s with nextId := s.nextId + 1 }
  if e.kind = .coll then
    let n := s.nextColl e.owner e.comm
    let e := { e with index := n }
    let s := { s with
      records := s.records ++ [e]
      collIndex := (e.owner, e.comm, n + 1) :: s.collIndex.filter fun x => !(x.1 == e.owner && x.2.1 == e.comm) }
    if (s.owner e.owner).withdrawn.contains e.comm then s.endColl e 3 else s
  else { s with records := s.records ++ [e] }

/-- The DETAIL of the first failing record of a kick, number `k` of it: R347's for a destination reservation that is not held, else R350's code and the
number. (log 60: DEDUCED) -/
def State.recordDetail (s : State) (c : Ctx) (kind : RecKind) (k : Nat) (e : EngineRec) : Nat :=
  if kind = .coll then k * 256 + 16 else if s.dstMissing c e then 6 else k * 256 + 15

/-- A word that kicks `b` records at `a` (R236): the release, the checks of every record (R350), and the records pass to their engine, whose
reads and writes come after what precedes the word (link 6 of R260). -/
def State.kick (s : State) (i : Instr) (kind : RecKind) (a : BitVec 8) (b : BitVec 7) : Host.Outcome State Fault Refusal :=
  s.word i fun c s =>
    let addr := s.scalarOperand c a.toNat 0 32
    let n := s.scalarOperand c (wide7 b) 2 32
    s.withRelease c 5 fun s =>
      let s1 := s.noteIssue c i (issueOf c i 0)
      if n = 0 ∨ 64 < n ∨ addr % 64 ≠ 0 ∨ spadRangeBad c addr (64 * n) then s1.faultPath c ⟨10, 14, 0, 3⟩ false
      else
        let recs := (List.range n).map fun k => s.readRecord c kind (addr + 64 * k)
        let bad (e : EngineRec) : Bool := if kind = .coll then s.collBad c e else s.recordBad c e
        match recs.zipIdx.find? fun e => bad e.1 with
        | some (e, k) => s1.faultPath c ⟨10, s.recordDetail c kind k e, 0, 3⟩ false
        | none =>
          let ids := s1.closed ((s1.path? c.ref).elim [] (·.before))
          let s2 := s1.carryTo [4] fun t => ids.contains t.id
          ((recs.map fun e => { e with preds := ids }).foldl State.passRecord s2).finish c i

/-- `cpyk` (R236). -/
def execCpyk (st : BitVec 2) (a : BitVec 8) (b : BitVec 7) (s : State) : Host.Outcome State Fault Refusal := s.kick (.cpyk st a b) .copy a b

/-- `dzk` (R236). -/
def execDzk (st : BitVec 2) (a : BitVec 8) (b : BitVec 7) (s : State) : Host.Outcome State Fault Refusal := s.kick (.dzk st a b) .card a b

/-- `coll` (R241). -/
def execColl (st : BitVec 2) (a : BitVec 8) (b : BitVec 7) (s : State) : Host.Outcome State Fault Refusal := s.kick (.coll st a b) .coll a b

/-! ### Collectives: arrival -/

/-- COLLECTIVE_CHUNK_RECEIVE (R242, R243): a peer's chunk is compared with this member's descriptor of the same index and kept. It is held by
the link while the descriptor has not been kicked or the owner migrates (R390). (log 64, 108: DEDUCED, DESIGN CHOICE) -/
def execCollectiveChunkReceive (c : PeerChunk) (s : State) : Host.Outcome State Fault Refusal :=
  match s.records.find? fun e => e.kind == .coll && e.owner == c.owner && e.comm == c.comm && e.index == c.index with
  | none => .next s
  | some e =>
    let m := s.commOf e
    if e.status.isSome || e.halted || (s.owner e.owner).migrating.isSome || decide (m.members ≤ c.rank) || c.rank == m.rank then .next s
    else if c.op ≠ e.op ∨ c.red ≠ e.red ∨ c.ty ≠ e.ty ∨ c.count ≠ e.count ∨ c.root ≠ e.root then .next (s.endColl e 8)
    else .next (s.updRecord e.id fun e => { e with parts := e.parts ++ [(c.rank, c.offset, c.bytes)] })

/-- COLLECTIVE_COMPLETE (R242, R309): RESULT, DONEVAL, and interrupt cause 2 for a status other than done. -/
def execCollectiveComplete (r : Nat) (s : State) : Host.Outcome State Fault Refusal :=
  match s.records.find? fun e => e.id == r && e.kind == .coll with
  | none => .next s
  | some e =>
    match s.endStatus e with
    | some n =>
      if e.halted then .next s
      else
        let s1 := s.completeRecord e n
        .next (if n = 1 then s1 else s1.interrupt e.owner 2)
    | none => .next s

/-! ### The end of a block (R240, R269) -/

/-- Whether a block has ended: its groups are gone and no record that they kicked runs. -/
def State.blockOver (s : State) (y : Block) (l : Nat) : Bool :=
  !y.ended && !y.groups.isEmpty && y.groups.all (·.freed) && !(s.records.any fun e => e.launch == l && e.block == y.index)

/-- BLOCK_END (R240, R246): the scratchpad, reservations, tiles and image slot of an ended block are released. (log 70: DEDUCED) -/
def execBlockEnd (l b : Nat) (s : State) : Host.Outcome State Fault Refusal :=
  match s.block? l b with
  | none => .next s
  | some y =>
    if s.blockOver y l then
      let s1 := (s.reservations.filter fun r => r.launch == l && r.block == b).foldl (fun s r => s.freeReservation r.core r.q) s
      let s2 : State := { s1 with tiles := s1.tiles.filter fun t => !(t.launch == l && t.block == b) }
      let s3 := s2.updBlock l b fun y => { y with ended := true, cluster := none, spad := [], spadPoison := [], images := [], savedTiles := [] }
      let s4 := s3.updLaunch l fun x => if x.handler.isSome then { x with stage := .complete } else x
      .next ((s4.launch? l).elim s4 fun x => if x.stage = .refused ∨ x.stage = .complete then s4.dropWells x.owner else s4)
    else .next s

end Sys2Proof.Machine
end

