-- ==== Sys2Proof/Machine/Wells.lean ====
section
/-! DEFINITION. Wells (R40 to R44, R244 to R248): `well.add`, `well.take`, `quiet`, and the dry-well detector. -/

namespace Sys2Proof.Machine

/-- The well `n` that an owner's launches use (R246). -/
def State.well? (s : State) (o n : Nat) : Option WellState := (s.owner o).wells.find? fun w => w.n == n

/-- Items that a well holds (R244). -/
def WellState.held (w : WellState) : Nat := (w.tail - w.head).toNat

/-- The address of item `x` (R244). -/
def WellState.slot (w : WellState) (x : Word) : Nat := w.base + 8 * (x.toNat % 2 ^ w.capl2)

/-- The `well.add` words of an owner in flight on a well. -/
def State.wellAdds (s : State) (o n : Nat) : List Op := s.ops.filter fun p => p.kind == .wellAdd && p.owner == o && p.tile == n

/-- Items of a well that are appended and not yet visible. -/
def State.wellPending (s : State) (o n : Nat) : Nat := ((s.wellAdds o n).map fun p => p.lanes.length).sum

/-- Whether a well has room for `k` more items (R245). -/
def State.wellRoom (s : State) (o n k : Nat) : Bool :=
  match s.well? o n with
  | some w => decide (w.held + s.wellPending o n + k ≤ 2 ^ w.capl2)
  | none => false

/-- What an item slot meets (R245, R247). -/
def State.slotPlace (s : State) (c : Ctx) (k : OpKind) (addr : Nat) : Place :=
  match s.devicePlace c k addr 8 8 with
  | .at_ pa => if s.poisoned pa 8 then .fault ⟨11, 1, addr, k.access⟩ else .at_ pa
  | p => p

/-- The slots of a run of items: the first fault, or every physical address. -/
def State.slotsOf (s : State) (c : Ctx) (k : OpKind) (w : WellState) (first : Word) (n : Nat) : Except FaultCase (List Nat) :=
  (List.range n).mapM fun j =>
    match s.slotPlace c k (w.slot (first + BitVec.ofNat 32 j)) with
    | .at_ pa => .ok pa
    | .fault f => .error f
    | .beyond a => .error ⟨8, 2, a, k.access⟩

/-- Whether well `n` lies in the launch's set, and its state (R40, R347). -/
def State.launchWell (s : State) (c : Ctx) (n : Nat) : Option WellState :=
  if c.launch.header.wells.getLsbD n then s.well? c.launch.owner n else none

/-- The earlier writes of the lanes of a group that are still to be performed: a `well.add` of these lanes comes after them (R42). -/
def State.earlierWrites (s : State) (c : Ctx) (lanes : List Nat) : List Nat :=
  (s.ops.filter fun o => o.path.launch == c.ref.launch && o.path.block == c.ref.block && o.path.group == c.ref.group && o.kind.writes &&
    (o.uniform || o.kind == .accStore || o.lanes.any fun e => lanes.contains e.1)).map (·.id)

/-- `well.add` (R42, R245). (log 27, 66: DEDUCED) -/
def execWellAdd (st : BitVec 2) (d : BitVec 8) (n : BitVec 6) (sb : BitVec 3) (s : State) : Host.Outcome State Fault Refusal :=
  let i : Instr := .wellAdd st d n sb
  s.word i fun c s =>
    if 63 ≤ c.group.sbCount sb.toNat then s.setStatus c.ref (.waiting (.counter sb.toNat))
    else
      let lanes := laneList c.path.selected
      let s1 := s.noteIssue c i (issueOf c i 0)
      match s.launchWell c n.toNat with
      | none => s1.faultPath c ⟨10, 17, 0, 3⟩ false
      | some w =>
        if 2 ^ w.capl2 < lanes.length then s1.faultPath c ⟨10, 20, 0, 3⟩ false
        else if lanes.isEmpty then s1.finish c i
        else if !s.wellRoom c.launch.owner n.toNat lanes.length then s.setStatus c.ref (.waiting (.wellRoom n.toNat))
        else
          let first := w.tail + BitVec.ofNat 32 (s.wellPending c.launch.owner n.toNat)
          match s.slotsOf c .wellAdd w first lanes.length with
          | .error f => s1.faultPath c f false
          | .ok pas =>
            let o : Op := { s.blankOp c .wellAdd sb.toNat with
              width := 8
              scope := 5
              tile := n.toNat
              lanes := (lanes.zip pas).map fun e => (e.1, e.2, BitVec.ofNat 64 (s.operand c i d.toNat 0 (.int 64) e.1), 0)
              after := ((s.wellAdds c.launch.owner n.toNat).map (·.id) ++ s.earlierWrites c lanes ++
                s.conflicts c false (pas.map fun a => (a, 8))).dedup }
            (s1.startOp c o [] 0).finish c i

/-- WELL_ADD_ROOM (R245): the path tries again once the well has room. -/
def execWellAddRoom (r : PathRef) (s : State) : Host.Outcome State Fault Refusal :=
  match s.ctx? r with
  | none => .next s
  | some c =>
    match c.path.status with
    | .waiting (.wellRoom n) =>
      .next (if s.wellRoom c.launch.owner n (laneCount c.path.selected) then s.setStatus r .ready else s)
    | _ => .next s

/-- Whether a take of a group comes too late in its cycle: a group of the block with a higher index has taken from the well in it already (R41). -/
def WellState.passed (w : WellState) (cycle : Nat) (r : PathRef) : Bool :=
  w.taken.any fun e => e.1 == cycle && e.2.launch == r.launch && e.2.block == r.block && decide (r.group < e.2.group)

/-- A take hands out `k` items (R247). -/
def WellState.hand (w : WellState) (cycle : Nat) (r : PathRef) (k : Nat) : WellState :=
  { w with head := w.head + BitVec.ofNat 32 k, taken := (w.taken.filter fun e => e.1 == cycle) ++ [(cycle, r)] }

/-- The items of a log record of `well.take`: of its active lanes, those of the triple that received one (R401). -/
def takenItems (bs : List Byte) : List (Nat × DWord) :=
  let vals := payloadLanes bs 8
  let w := bytesWords 3 (bs.drop (12 + 8 * vals.length))
  vals.filter fun e => laneOn (ofMaskWords (w.getD 0 0) (w.getD 1 0) (w.getD 2 0)) e.1

/-- `well.take` (R41, R42, R247): items are handed out at issue, after every one of them has been read; a replay hands out the logged ones
(R403). What an item's adder stored is seen by later loads. (log 27, 66: DEDUCED) -/
def execWellTake (st : BitVec 2) (d : BitVec 8) (n : BitVec 6) (sb : BitVec 3) (t : BitVec 7) (s : State) : Host.Outcome State Fault Refusal :=
  let i : Instr := .wellTake st d n sb t
  s.word i fun c s =>
    if 63 ≤ c.group.sbCount sb.toNat then s.setStatus c.ref (.waiting (.counter sb.toNat))
    else
      let m := c.path.selected
      let lanes := laneList m
      let regs := fieldRegs c.group.depth d.toNat 2
      let s1 := s.noteIssue c i (issueOf c i 0)
      let lg (s : State) := s.logInput c 1 m (lanePayload m 8 (lanes.map fun l => (l, c.heldIn regs l)) ++ tripleBytes 0)
      match s.launchWell c n.toNat with
      | none => (lg s1).1.faultPath c ⟨10, 17, 0, 3⟩ false
      | some w =>
        let k := if c.replaying then 0 else min lanes.length w.held
        if w.passed s.cycle c.ref then s.updPath c.ref fun p => { p with nextIssue := max p.nextIssue (s.cycle + 1) }
        else match s.slotsOf c .wellTake w w.head k with
        | .error f => (lg s1).1.faultPath c f false
        | .ok pas =>
          let items := (lanes.zip pas).map fun e => (e.1, BitVec.ofNat 64 (leNat (s.readPhys (dieOf c.group.core) e.2 8)))
          let (s2, place, bs) := lg s1
          let vals := bs.elim items takenItems
          let takers := laneSet (vals.map (·.1))
          let s3 := s2.logLanes c.launch.owner place 8 (lanes.map fun l => (l, (vals.find? fun e => e.1 == l).elim 0 (·.2)))
          let s4 := s3.logPut c.launch.owner place (12 + 8 * lanes.length) (tripleBytes takers)
          let s5 := (pas.foldl (fun s a => s.charge c.launch.owner a 8) s4).updOwner c.launch.owner fun w =>
            { w with wells := w.wells.map fun x => if x.n = n.toNat ∧ lanes ≠ [] then x.hand s.cycle c.ref k else x }
          let s6 := s5.updPathGroup c.ref fun z =>
            ({ z with items := (z.items &&& ~~~m) ||| takers } : Group).updPath c.ref.path fun p =>
              { p with horizon := if k = 0 then p.horizon else max p.horizon s.moment }
          let o : Op := { s.blankOp c .wellTake sb.toNat with
            width := 8
            tile := n.toNat
            aop := t.toNat
            fixed := vals
            dest := regs.head?
            pair := true }
          let s7 := s6.startOp c o regs takers
          (s7.updPathGroup c.ref fun z =>
            z.markUnseen (s7.nextId - 1) c.ref.path sb.toNat ((List.range 3).map fun j => .scal (t.toNat + j)) 1).finish c i

/-! ### `quiet` -/

/-- `quiet` (R42, R110, R248): the path's lanes drop their items and the path waits; a replay takes the logged result. (log 40: DEDUCED) -/
def execQuiet (st : BitVec 2) (d : BitVec 8) (s : State) : Host.Outcome State Fault Refusal :=
  let i : Instr := .quiet st d
  s.word i fun c s =>
    let r := d.toNat - 0x40
    let s1 := (s.noteIssue c i (issueOf c i 0)).updPathGroup c.ref fun z => { z with items := z.items &&& ~~~c.path.present }
    match s1.logInput c 1 c.path.selected (tripleBytes c.path.selected ++ wordBytes [0, 0, 0]) with
    | (s2, _, some bs) =>
      ((bytesWords 3 (bs.drop 12)).zipIdx.foldl (fun s e => s.placeResult c.ref (.scal (r + e.2)) 0 e.1) s2).finish c i
    | (s2, _, none) => s2.setStatus c.ref (.waiting (.quiet r))

/-- WELL_OP_COMPLETE (R110, R245, R247). -/
def execWellOpComplete (op : Nat) (s : State) : Host.Outcome State Fault Refusal :=
  match s.ops.find? fun o => o.id == op && (o.kind == .wellAdd || o.kind == .wellTake) with
  | none => .next s
  | some o =>
    .next (if s.opReady o then s.completeOp o else s)

/-- Whether the dry-well detector sees a launch as quiescent (R43, R44). (log 40: DEDUCED) -/
def State.quiescentNow (s : State) (x : Launch) : Bool :=
  (List.range 64).all (fun n => !x.header.wells.getLsbD n || (s.well? x.owner n).elim true fun w => w.held == 0) &&
  x.blocks.all (fun y => y.groups.all fun z => z.items == 0) &&
  !(s.ops.any fun o => o.kind == .wellAdd && o.path.launch == x.seq) &&
  decide (x.header.blocks ≤ x.placed) &&
  x.blocks.all fun y => y.ended || ((y.cluster.isSome || y.quietAway) && y.groups.all fun z => z.done || z.inQuiet)

/-- QUIESCENCE_DECLARED (R43, R110). -/
def execQuiescenceDeclared (l : Nat) (s : State) : Host.Outcome State Fault Refusal :=
  match s.launch? l with
  | none => .next s
  | some x => .next (if s.quiescentNow x then x.quietPaths.foldl (fun s r => s.endQuiet r (BitVec.allOnes 32)) s else s)

end Sys2Proof.Machine
end

