-- ==== Sys2Proof/Machine/System.lean ====
section
/-! DEFINITION. System words (R249 to R255): translation fills and removals, origin tags, releases of origins, program traps, counters and
window spills; the prefix word and the illegal-instruction trap (R129, R136). -/

namespace Sys2Proof.Machine

/-! ### Translation entries (R249, R250, R355) -/

/-- The entry that a lane of `tlbw` asks for: virtual and physical address and the low word of the physical pair. -/
structure FillWord where
  va : Nat
  pa : Nat
  low : Nat
deriving DecidableEq, Repr

/-- The fill of a lane. -/
def State.fillWord (s : State) (c : Ctx) (i : Instr) (a lane : Nat) : FillWord :=
  let v := s.operand c i (a + 2) 2 (.int 64) lane
  ⟨s.operand c i a 0 (.int 64) lane, v / 8192 * 8192, v % 8192⟩

/-- Page bytes of SIZE. -/
def pageSize (n : Nat) : Nat := [8192, 262144, 33554432].getD n 8192

def FillWord.size (f : FillWord) : Nat := pageSize (f.low % 4)
def FillWord.wr (f : FillWord) : Bool := f.low.testBit 2

/-- The use checks of a `tlbw` lane (R347, DETAIL 18). -/
def FillWord.bad (f : FillWord) (o : Owner) : Bool :=
  decide (f.low % 4 = 3) || decide (f.low / 8 ≠ 0) || decide (2 ^ 56 ≤ f.va) || decide (f.va % f.size ≠ 0) || decide (f.pa % f.size ≠ 0) ||
  !inTier f.pa || o.inReserve f.va f.size || o.inCache f.va f.size

/-- The first page of an entry that fails the reverse ownership check (R249, R355). -/
def State.refusedPage (s : State) (o : Nat) (f : FillWord) : Option Nat :=
  ((List.range (f.size / 8192)).map fun k => f.pa + 8192 * k).find? fun pa => !s.pageAccepted o pa f.wr

/-- Install an entry in place of every entry that overlaps it. -/
def Owner.fill (o : Owner) (f : FillWord) : Owner :=
  { o with tlb := ⟨f.va, f.pa, f.size, f.wr, false⟩ ::
      o.tlb.filter fun e => e.permanent || !(decide (e.va < f.va + f.size) && decide (f.va < e.va + e.size)) }

/-- The fault of a fill: in a lane the ownership check comes before the checks of its fields, except where these leave it no page of a tier; of a whole
path after them (R339, R355). (log 46: DEDUCED) -/
def State.fillFault (s : State) (o : Nat) (f : FillWord) (whole : Bool := false) : Option FaultCase :=
  if whole && f.bad (s.owner o) then some ⟨10, 18, 0, 3⟩
  else match if f.low % 4 = 3 ∨ !inTier f.pa then none else s.refusedPage o f with
  | some pa => some ⟨2, 0, pa, 7⟩
  | none => if f.bad (s.owner o) then some ⟨10, 18, 0, 3⟩ else none

/-- One lane of `tlbw`: the state after it, and its fault. -/
def State.fillLane (s : State) (o : Nat) (f : FillWord) : State × Option FaultCase :=
  match s.fillFault o f with
  | some c => (s, some c)
  | none => (s.updOwner o fun w => w.fill f, none)

/-- The report that goes with a fill that fails the ownership check (R355). -/
def State.reportFill (s : State) (c : Ctx) (lane : Nat) (f : FaultCase) : State :=
  if f.kind = 2 then s.report c.launch.owner (s.tagOf c lane f) 0 1 c.launch.header.imageid else s

/-- `tlbw` (R249): lanes fill in ascending order; a refused lane is an origin, and a page that fails the ownership check is reported as well
(R355). In a uniform clause the path is the origin, and then no lane fills (R116, R322). -/
def execTlbw (st : BitVec 2) (a : BitVec 8) (s : State) : Host.Outcome State Fault Refusal :=
  let i : Instr := .tlbw st a
  s.word i fun c s =>
    let o := c.launch.owner
    let bad := if c.path.uniform then (laneList c.path.selected).findSome? fun l => s.fillFault o (s.fillWord c i a.toNat l) true else none
    match bad with
    | some f => ((s.noteIssue c i (issueOf c i 0)).reportFill c c.path.namingLane f).faultPath c f false
    | none =>
    let r := (laneList c.path.selected).foldl (fun (acc : State × List (Nat × FaultCase)) l =>
      match acc.1.fillLane o (s.fillWord c i a.toNat l) with
      | (t, none) => (t, acc.2)
      | (t, some f) => (t, acc.2 ++ [(l, f)])) (s.noteIssue c i (issueOf c i 0), [])
    match r.2 with
    | [] => r.1.finish c i
    | fs => (fs.foldl (fun s e => s.reportFill c e.1 e.2) r.1).faultLanes c fs false

/-- The entries that `tlbinv` removes (R250). -/
def Owner.removed (o : Owner) (mode va : Nat) : List TlbEntry :=
  o.tlb.filter fun e => !e.permanent && (mode == 1 || (decide (e.va ≤ va) && decide (va < e.va + e.size)))

/-- Whether an operation in flight accesses memory under one of a set of entries. -/
def Op.uses (o : Op) (es : List TlbEntry) : Bool :=
  !o.sp && o.lanes.any fun l => es.any fun e => decide (e.pa ≤ l.2.1) && decide (l.2.1 < e.pa + e.size)

/-- `tlbinv` (R250): the path is held while an access that used a removed entry is in flight. -/
def execTlbinv (st : BitVec 2) (m : BitVec 2) (a : BitVec 8) (s : State) : Host.Outcome State Fault Refusal :=
  let i : Instr := .tlbinv st m a
  s.word i fun c s =>
    let o := c.launch.owner
    let gone := (s.owner o).removed m.toNat (s.scalarOperand c a.toNat 0 64)
    let busy := (s.ops.filter fun p => p.owner == o && p.uses gone).map (·.id)
    let s1 := s.completes c i 0 fun s1 => s1.updOwner o fun w => { w with tlb := w.tlb.filter fun e => !gone.contains e }
    if busy.isEmpty then s1 else s1.setStatus c.ref (.waiting (.drain busy))

/-- TRANSLATION_ENTRY_DROP (R249): the ZF-960 drops an entry; permanent ones are never dropped. -/
def execTranslationEntryDrop (o va : Nat) (s : State) : Host.Outcome State Fault Refusal :=
  .next (s.updOwner o fun w => { w with tlb := w.tlb.filter fun e => e.permanent || !(decide (e.va ≤ va) && decide (va < e.va + e.size)) })

/-! ### Origin tags and releases (R251, R252, R329) -/

/-- Word `n` of the tag of a lane; zero without a tag. -/
def Group.tagWord (z : Group) (lane n : Nat) : Word := (z.tags.find? fun t => t.lane == lane).elim 0 fun t => t.words.getD n 0

/-- `orig` (R251): a scalar takes the lowest active lane's word. -/
def execOrig (st : BitVec 2) (d : BitVec 8) (n : BitVec 3) (s : State) : Host.Outcome State Fault Refusal :=
  let i : Instr := .orig st d n
  s.word i fun c s =>
    let vals := (laneList c.path.selected).map fun l => (l, c.group.tagWord l n.toNat)
    let ready := (issueOf c i 0).ends s.cycle + 1
    s.completes c i 0 fun s1 =>
      match fieldRegs c.group.depth d.toNat 1, vals with
      | [.scal k], (_, v) :: _ => s1.writeScalarReg c k v ready false
      | [.stack k], _ => s1.updPathGroup c.ref fun z => z.produce c.ref.launch c.ref.block c.ref.path (.stack k) vals ready false
      | [.oper k], _ => s1.updPathGroup c.ref fun z => z.produce c.ref.launch c.ref.block c.ref.path (.oper k) vals ready false
      | _, _ => s1

/-- The return from exceptions, `hret` (R252, R329): a release fence, then the origins of the active lanes are released, and the lanes leave. -/
def execHret (st : BitVec 2) (a : BitVec 8) (s : State) : Host.Outcome State Fault Refusal :=
  let i : Instr := .hret st a
  s.word i fun c s =>
    s.withRelease c 5 fun s =>
      let m := c.path.selected
      let acts := (laneList m).map fun l => (l, s.operand c i a.toNat 0 (.int 32) l)
      let s1 := s.noteIssue c i (issueOf c i 0)
      if acts.any fun e => decide (1 < e.2) || !(c.group.tags.any fun t => t.lane == e.1) then s1.faultPath c ⟨10, 19, 0, 3⟩ false
      else
        let s2 := acts.foldl (fun s e =>
          match c.group.tags.find? fun t => t.lane == e.1 with
          | some t => s.answer t.origin (e.2 == 0) (c.group.reads.flatMap (·.ids))
          | none => s) s1
        let s3 := s2.finish c i
        if m = 0 then s3 else s3.leave c m

/-- ORIGIN_RESUME (R329): a path whose last origin is released is ready again. -/
def execOriginResume (r : PathRef) (s : State) : Host.Outcome State Fault Refusal := .next (s.resumePath r)

/-- `trap` (R253, R334): each active lane is an origin; in a uniform clause the path is one, if it has an active lane (R322). -/
def execTrap (st : BitVec 2) (k : BitVec 8) (s : State) : Host.Outcome State Fault Refusal :=
  let i : Instr := .trap st k
  s.word i fun c s =>
    let s1 := s.completes c i 0 fun s1 => s1
    let f : FaultCase := ⟨6, k.toNat, 0, 3⟩
    if c.path.uniform then (if c.path.selected = 0 then s1 else s1.faultPath c f true)
    else s1.faultLanes c ((laneList c.path.selected).map fun l => (l, f)) true

/-! ### Counters (R254, R314, R315) -/

/-- Beats of a path's latest word that issue in cycle `t` or later. -/
def Path.beatsFrom (p : Path) (t : Nat) : Nat :=
  if p.valid && p.pipeEnd != 0 && decide (t ≤ p.pipeEnd) then (if p.pipeTwo then (p.pipeEnd - t + 1) / 2 else p.pipeEnd - t + 1) else 0

/-- What a read of owner counter `n` gives in cycle `now` (R315): it may trail the true value by up to 64 cycles, and never lies below the path's
last read. Which value between these bounds is free; the upper one holds the events of the word's own cycle so far. (log 131: DESIGN CHOICE) -/
def Owner.counterRead (o : Owner) (now n : Nat) (seen pick : DWord) : DWord :=
  let high := (o.counters.get n).toNat
  let back := ((o.trail.filter fun e => decide (e.1 + 64 ≤ now)).getLast?.elim 0 fun e => e.2.get n).toNat
  let low := min high (max back seen.toNat)
  BitVec.ofNat 64 (low + pick.toNat % (high - low + 1))

/-- The value of counter `n` for a path's group and owner, as of the current cycle. A counter that counts die cache misses (EVENT 3) gives a free
value: no rule says which accesses miss. (log 17, 48: DESIGN CHOICE) -/
def State.counter (s : State) (c : Ctx) (n : Nat) : DWord :=
  let z := c.group
  let now (l : List Nat) : Nat := l.countP fun a => decide (s.cycle ≤ a)
  if n = 0 then BitVec.ofNat 64 s.cycle
  else if n = 1 then BitVec.ofNat 64 (z.cWords - now z.wordsAt)
  else if n = 2 then BitVec.ofNat 64 (z.cBeats - (z.paths.map fun p => p.beatsFrom s.cycle).sum)
  else if n = 3 then BitVec.ofNat 64 z.cResident
  else if n = 4 then BitVec.ofNat 64 z.cNoready
  else if n = 5 then BitVec.ofNat 64 z.cHeld
  else if 32 ≤ n ∧ n ≤ 35 ∧ (s.owner c.launch.owner).controls.sel.getD (n - 32) 0 = 3 then
    BitVec.ofNat 64 (max (c.path.ctrSeen.get n).toNat (s.freeOf c.launch.owner 0).toNat)
  else if (16 ≤ n ∧ n ≤ 30) ∨ (32 ≤ n ∧ n ≤ 35) then
    (s.owner c.launch.owner).counterRead s.cycle n (c.path.ctrSeen.get n) (s.freeOf c.launch.owner 0)
  else if n = 48 then BitVec.ofNat 64 s.governor.limit
  else if n = 49 then Config.roundEstimate s.governor.estimate
  else if n = 50 then BitVec.ofNat 64 s.governor.slot
  else 0

/-- `ctr` (R254). -/
def execCtr (st : BitVec 2) (d : BitVec 8) (n : BitVec 6) (s : State) : Host.Outcome State Fault Refusal :=
  let i : Instr := .ctr st d n
  s.word i fun c s =>
    s.completes c i 0 fun s1 =>
      let ex := s1.exchangeBytes c c.path.selected (leBytes 8 (s.counter c n.toNat).toNat)
      let v : DWord := BitVec.ofNat 64 (leNat (ex.2.2.take 8))
      (ex.1.updPath c.ref fun p => { p with ctrSeen := p.ctrSeen.put n.toNat v }).writeScalars c d.toNat 64 v.toNat (s.cycle + 1) false

/-! ### Window spills (R255) -/

/-- `wspill` (R255): its writes reach the image as it issues; while a tier cap holds the pump's writes, the path waits for them (R292, R358).
 (log 53: DEDUCED) -/
def execWspill (st : BitVec 2) (h : BitVec 1) (a : BitVec 8) (b : BitVec 7) (s : State) : Host.Outcome State Fault Refusal :=
  let i : Instr := .wspill st h a b
  s.word i fun c s =>
    let lo := s.scalarOperand c a.toNat 0 32
    let n := s.scalarOperand c (wide7 b) 2 32
    let s1 := s.noteIssue c i (issueOf c i 0)
    let areas := if h = 1 then s1.headerAreas c.launch c.block (s1.shown c.launch c.group) else []
    let s2 := s1.takeFreeOf c.launch.owner (96 * c.group.unseen.length)
    if s.pumpHeld c.launch then s2.setStatus c.ref (.waiting (.wspill lo n areas)) else (s2.wspillWrites c lo n areas).finish c i

/-! ### The prefix and the illegal-instruction trap -/

/-- PREFIX (R129): its fields apply to the next word of the clause, with which it issues. (log 3: DEDUCED) -/
def execPfx (m r : BitVec 3) (z : BitVec 1) (f : BitVec 8) (e : BitVec 4) (t : BitVec 1) (s : State) : Host.Outcome State Fault Refusal :=
  match s.running? with
  | none => .fault .noPath
  | some c => .next (s.updPath c.ref fun p => { p with pfx := some ⟨m.toNat, r.toNat, z == 1, f, e.toNat, t == 1⟩ })

/-- ILLEGAL_INSTRUCTION (R136, R137): the precise trap of an encoding that is no instruction. -/
def execIllegalInstruction (detail : Nat) (s : State) : Host.Outcome State Fault Refusal :=
  match s.running? with
  | none => .fault .noPath
  | some c => .next (s.illegal (s.known c) detail)

end Sys2Proof.Machine
end

