-- ==== Sys2Proof/Machine/Headers.lean ====
section
/-! DEFINITION. Launch headers (R36, R268, R269) and the entry state of groups, blocks and launches (R27, R34, R51, R53, R66). -/

namespace Sys2Proof.Machine

/-! ### Reading a header -/

/-- A launch header from its 64 words (R268). -/
def Header.ofWords (ws : List Word) : Header :=
  let w (k : Nat) : Nat := (ws.getD k 0).toNat
  let wd := dwordAt ws 4
  { image := dwordAt ws 0
    imageid := BitVec.ofNat 64 (dwordAt ws 2)
    widths := (List.range 6).map fun n => wd / 2 ^ (6 * n) % 64
    boundary := bits wd 38 36
    items := bits (w 6) 31 18
    groups := bits (w 6) 7 0
    spadKiB := bits (w 7) 20 11
    stack := bits (w 7) 10 0
    blocks := dwordAt ws 8
    mode := modeBits (ws.getD 10 0)
    prio := bits (w 11) 7 6
    roles := (w 11).testBit 5
    pinned := (w 11).testBit 4
    coresident := (w 11).testBit 3
    stallchk := (w 11).testBit 2
    ctxbase := dwordAt ws 12
    blkbase := dwordAt ws 14
    slots := bits (w 16) 15 0
    static := ws.getD 17 0
    wells := BitVec.ofNat 64 (dwordAt ws 18)
    prodLines := bits (w 21) 13 8
    prodGroups := bits (w 21) 7 0
    prodEntry := w 20
    consLines := bits (w 23) 13 8
    consGroups := bits (w 23) 7 0
    consEntry := w 22
    depaddr := dwordAt ws 24
    depval := ws.getD 26 0
    doneval := ws.getD 27 0
    doneaddr := dwordAt ws 28
    args := (List.range 32).map fun k => ws.getD (32 + k) 0
    raw := ws }

/-- The header of no launch. -/
def Header.blank : Header := Header.ofWords []

/-- W_in and the sum of the widths (R36). -/
def Header.wIn (h : Header) : Nat := (h.widths.take h.boundary).sum
def Header.wAll (h : Header) : Nat := h.widths.sum

/-- Whether a role's fields break their limits (R268). -/
def roleBad (hi entry lines groups : Nat) : Bool :=
  decide (hi / 2 ^ 14 ≠ 0) || decide (128 < groups) || (groups != 0 && (decide (lines = 0) || decide (32 < lines) || decide (entry % 4 ≠ 0)))

/-- The limits on the fields that handler headers share (R268, R325). -/
def Header.sharedBad (h : Header) : Bool :=
  let w (k : Nat) : Nat := (h.raw.getD k 0).toNat
  decide (bits (w 6) 17 8 ≠ 0) || decide (h.groups = 0) || decide (128 < h.groups) ||
  decide (w 7 / 2 ^ 21 ≠ 0) || decide (512 < h.spadKiB) || decide (h.stack < 8) || decide (1024 < h.stack) ||
  decide (modeRnd (h.raw.getD 10 0) = 0) || decide (6 ≤ modeRnd (h.raw.getD 10 0)) ||
  decide (w 11 / 256 ≠ 0) || decide (w 11 % 4 ≠ 0) ||
  decide (h.ctxbase % 8192 ≠ 0) || decide (h.blkbase % 8192 ≠ 0) || decide (w 16 / 65536 ≠ 0) || decide (h.slots = 0) ||
  (h.roles && (roleBad (w 21) h.prodEntry h.prodLines h.prodGroups || roleBad (w 23) h.consEntry h.consLines h.consGroups ||
    h.prodGroups + h.consGroups != h.groups)) ||
  decide (w 30 ≠ 0) || decide (w 31 ≠ 0) || decide (h.image % 4 ≠ 0) ||
  [h.image, h.ctxbase, h.blkbase].any fun a => decide (2 ^ 56 ≤ a)

/-- Whether a header breaks a limit of R268 or R36 (DETAIL 1). -/
def Header.bad (h : Header) : Bool :=
  let wd := dwordAt h.raw 4
  h.sharedBad || decide (wd / 2 ^ 39 ≠ 0) || decide (6 < h.boundary) || decide (64 < h.wAll) ||
  decide (h.items = 0) || decide (96 * h.groups < h.items) || decide (h.blocks = 0) || decide (2 ^ (h.wAll - h.wIn) < h.blocks) ||
  decide (2 ^ h.wIn < 96 * h.groups) ||
  [h.depaddr, h.doneaddr].any fun a => decide (a % 4 ≠ 0) || decide (2 ^ 56 ≤ a)

/-! ### Roles (R38, R39) -/

/-- Whether a group plays the producer role. -/
def Header.producer (h : Header) (g : Nat) : Bool := h.roles && decide (g < h.prodGroups)

/-- The allotment of a group, in lines. -/
def Header.allot (h : Header) (g : Nat) : Nat := if !h.roles then 8 else if h.producer g then h.prodLines else h.consLines

/-- Groups of a block on cluster core `j` (R33). -/
def Header.groupsOn (h : Header) (j : Nat) : List Nat := (List.range h.groups).filter fun g => g % 4 == j

/-- Register lines that a block takes on cluster core `j` (R39). -/
def Header.linesOn (h : Header) (j : Nat) : Nat := ((h.groupsOn j).map h.allot).sum

/-! ### Entry state -/

/-- Path 0 of a group at entry (R27). -/
def Path.entry (pc : Nat) (present : Lanes) : Path :=
  { Path.dead with valid := true, pc := pc, member := BitVec.allOnes 96, present := present, mask := present }

/-- A group at entry (R27, R51, R53): one path, the arguments in `s0`–`s31`, everything else zero; a group without a present lane has ended. -/
def Group.entry (h : Header) (g core resid allot pc : Nat) (present : Lanes) (stop : Bool) : Group where
  index := g
  core := core
  resid := resid
  allot := allot
  paths := if present = 0 then List.replicate 4 Path.dead else Path.entry pc present :: List.replicate 3 Path.dead
  joins := List.replicate 4 ⟨0, false, 0⟩
  scalars := Sparse.puts [] (h.args.zipIdx.map fun e => (e.2, e.1))
  depth := 0
  mode := h.mode
  modePrev := h.mode
  modeAt := 0
  sb := List.replicate 6 0
  gang := 0
  stopMode := stop
  flags := []
  oper := []
  operPoison := false
  stack := []
  lines := []
  spilled := []
  unseen := []
  unseenTiles := []
  hazards := []
  flagHazards := []
  reaches := []
  logFix := []
  items := 0
  tags := []
  reads := []
  wrote := []
  homeSince := 0
  cWords := 0
  cBeats := 0
  wordsAt := []
  plainAt := []
  cResident := 0
  cNoready := 0
  cHeld := 0
  lastIssue := 0
  lastPath := 3
  yieldUntil := 0
  lastClass := 0
  ran7 := false
  done := present == 0
  freed := false

/-- The lanes of group `g` that are present at entry (R27, R36). -/
def Header.presentOf (h : Header) (g : Nat) : Lanes := laneSet (allLanes.filter fun i => decide (96 * g + i < h.items))

/-- A block that has not been placed. -/
def Block.fresh (b : Nat) : Block where
  index := b
  cluster := none
  slot := 0
  groups := []
  spad := []
  spadPoison := []
  exits := 0
  arrivals := []
  objects := []
  updates := []
  past := []
  order := []
  phases := []
  poisonPhases := []
  violation := none
  stall := 0
  faulted := false
  admitted := none
  images := []
  quietAway := false
  preempted := false
  savedTiles := []
  payer := none
  ended := false

/-- A launch whose header has been read. -/
def Launch.fresh (seq owner : Nat) (queue : Option Nat) (h : Header) (stamps : List Nat) : Launch where
  seq := seq
  owner := owner
  queue := queue
  header := h
  stage := .dependence
  stamps := stamps
  cacheHit := false
  cacheKey := none
  entryProd := h.image
  entryCons := h.image
  maxClass := 0
  placed := 0
  blocks := []
  watch := 0
  issued := 0
  held := 0
  ballast := 0
  tierstall := 0
  preempts := 0
  handler := none
  replay := none
  wellsHeld := false

end Sys2Proof.Machine
end

