-- ==== Sys2Proof/Machine/Specialiser.lean ====
section
/-! DEFINITION. The specialiser (R116, R156, R272 to R276, R366): from the clauses of an image that can be reached and the static arguments, the
residual code and its back-map. -/

namespace Sys2Proof.Machine

/-! ### The image -/

/-- A clause of an image. -/
structure SClause where
  addr : Nat
  header : Nat
  words : List Word
deriving DecidableEq, Repr

def SClause.cut (c : SClause) : List SWord := cutWords 16 1 c.words

/-- Address of the next clause in sequence (R113). -/
def SClause.next (c : SClause) : Nat := c.addr + 4 * (c.words.length + 1)

def SClause.uniform (c : SClause) : Bool := c.header.testBit 17
def SClause.static (c : SClause) : Bool := c.header.testBit 16 && c.header.testBit 17

/-- The offset in words that a control word names (R120). -/
def branchOfs : Instr → Option Int
  | .bra _ o => some o.toInt
  | .brz _ _ o => some o.toInt
  | .brnz _ _ o => some o.toInt
  | .call _ _ o => some o.toInt
  | .fork _ _ _ v => some v.toInt
  | _ => none

/-- A control word with another offset. -/
def withOfs (n : Int) : Instr → Instr
  | .bra st _ => .bra st (BitVec.ofInt 23 n)
  | .brz st a _ => .brz st a (BitVec.ofInt 15 n)
  | .brnz st a _ => .brnz st a (BitVec.ofInt 15 n)
  | .call st k _ => .call st k (BitVec.ofInt 20 n)
  | .fork st d a _ => .fork st d a (BitVec.ofInt 32 n)
  | i => i

/-- Whether an offset fits its control word (R120). -/
def ofsFits (n : Int) (i : Instr) : Bool := branchOfs (withOfs n i) == some n

def targetAt (addr : Nat) (ofs : Int) : Nat := (((addr : Int) + 4 * ofs) % 2 ^ 64).toNat

/-- The branch, call or fork that ends a clause, with its target. -/
def SClause.control (c : SClause) : Option (Instr × Nat) :=
  c.cut.getLast?.bind fun w => w.instr.bind fun i => (branchOfs i).map fun o => (i, targetAt c.addr o)

/-- Whether a clause goes on to the next one. (log 77: DEDUCED) -/
def fallsThrough : Option Instr → Bool
  | some (.bra ..) | some (.ret _) => false
  | _ => true

/-- A header word that breaks R112 begins no clause: a path that comes to it takes its trap and goes no further. (log 77: DEDUCED) -/
def noHeader (h : Nat) : Bool := decide (bits h 3 0 = 0) || decide (6 ≤ bits h 6 4) || decide (h / 2 ^ 20 ≠ 0)

/-- The clauses that a clause can be followed by (R275). (log 77: DEDUCED) -/
def SClause.succs (c : SClause) : List Nat :=
  if noHeader c.header then []
  else
    (match c.control with
     | some (_, t) => [t]
     | none => []) ++ (if fallsThrough (c.cut.getLast?.bind (·.instr)) then [c.next] else [])

/-- The clause at an address; an error is the first address that has no translation. -/
def State.readClause (s : State) (o addr : Nat) : Except Nat SClause :=
  match s.wordVirt o addr with
  | none => .error addr
  | some h =>
    let n := bits h.toNat 3 0
    match (List.range n).mapM fun k => s.wordVirt o (addr + 4 * (k + 1)) with
    | some ws => .ok ⟨addr, h.toNat, ws⟩
    | none => .error (((List.range n).map fun k => addr + 4 * (k + 1)).find? (fun a => (s.wordVirt o a).isNone) |>.getD addr)

/-- Words of a set of clauses, headers included (R275). -/
def clauseWords (cs : List SClause) : Nat := (cs.map fun c => c.words.length + 1).sum

/-- The reachable clauses from a work list (R275), up to the limit of 256 KiB. (log 77: DEDUCED) -/
def State.reach (s : State) (o : Nat) : Nat → List Nat → List SClause → Except Nat (List SClause)
  | 0, _, cs => .ok cs
  | _, [], cs => .ok cs
  | k + 1, a :: r, cs =>
    if cs.any fun c => c.addr == a then s.reach o k r cs
    else
      match s.readClause o a with
      | .error va => .error va
      | .ok c => s.reach o k (c.succs ++ r) (c :: cs)

/-- Insert a clause in address order. -/
def insertClause (c : SClause) : List SClause → List SClause
  | [] => [c]
  | d :: r => if c.addr < d.addr then c :: d :: r else d :: insertClause c r

def sortClauses (cs : List SClause) : List SClause := cs.foldr insertClause []

/-! ### Known values (R274) -/

/-- Known scalars. -/
abbrev Known := List (Nat × Word)

def Known.val (k : Known) (r : Nat) : Option Word := (k.find? fun e => e.1 == r).map (·.2)

/-- Whether an operand of `n` scalars is known; constants are. -/
def Known.operand (k : Known) (v n : Nat) : Bool :=
  isConst v || (isS v && decide (v - 0x40 + n ≤ 121) && (List.range n).all fun j => (k.val (v - 0x40 + j)).isSome)

/-- The word of a known operand. -/
def Known.word (k : Known) (v j : Nat) : Word :=
  if isConst v then BitVec.ofNat 32 (constBits (.int 32) (v - 0xD0)) else (k.val (v - 0x40 + j)).getD 0

/-- A known triple: none where it is not known; else whether it is all zero. -/
def Known.zeroTriple (k : Known) (v : Nat) : Option Bool :=
  if k.operand v 3 then some ((List.range 3).all fun j => k.word v j == 0) else none

/-- Scalars that an instruction writes. -/
def scalarWrites (p : Option Pfx) (i : Instr) : List Nat :=
  ((writeSpecs p i).filter fun e => isS e.1).flatMap (fun e => (List.range e.2).map fun j => e.1 - 0x40 + j) ++
  match i with
  | .cmp _ _ d _ _ | .cmpVectorInt _ _ d _ _ | .cmpFloat _ _ d _ _ => (List.range 3).map fun j => d.toNat + j
  | .classify _ d _ _ => if isS d.toNat then (List.range 3).map fun j => d.toNat - 0x40 + j else []
  | .wellTake _ _ _ _ t => (List.range 3).map fun j => t.toNat + j
  | .call .. | .ret _ => [120]
  | _ => []

/-- The meaning of the scalar words that the specialiser runs; the others read or change more than scalars. -/
def staticMeaning (i : Instr) : Option (State → Host.Outcome State Fault Refusal) :=
  match i with
  | .add st d a b => some (execAdd st d a b)
  | .sub st d a b => some (execSub st d a b)
  | .mul st d a b => some (execMul st d a b)
  | .mulh st d a b => some (execMulh st d a b)
  | .div st d a b => some (execDiv st d a b)
  | .rem st d a b => some (execRem st d a b)
  | .and st d a b => some (execAnd st d a b)
  | .or st d a b => some (execOr st d a b)
  | .xor st d a b => some (execXor st d a b)
  | .shl st d a b => some (execShl st d a b)
  | .shr st d a b => some (execShr st d a b)
  | .sar st d a b => some (execSar st d a b)
  | .min st d a b => some (execMin st d a b)
  | .max st d a b => some (execMax st d a b)
  | .sel st d a b => some (execSel st d a b)
  | .cmp st c d a b => some (execCmp st c d a b)
  | .mov st d a => some (execMov st d a)
  | .not st d a => some (execNot st d a)
  | .abs st d a => some (execAbs st d a)
  | .neg st d a => some (execNeg st d a)
  | .clz st d a => some (execClz st d a)
  | .popc st d a => some (execPopc st d a)
  | .mmov st d a => some (execMmov st d a)
  | .mnot st d a => some (execMnot st d a)
  | .mpop st d a => some (execMpop st d a)
  | .movk st d v => some (execMovk st d v)
  | .mand st d a b => some (execMand st d a b)
  | .mor st d a b => some (execMor st d a b)
  | .mxor st d a b => some (execMxor st d a b)
  | .mandn st d a b => some (execMandn st d a b)
  | .trip st d a => some (execTrip st d a)
  | .nop st => some (execNop st)
  | _ => none

/-- A state in which one group holds the known scalars, for a word under a prefix. -/
def scratchState (k : Known) (p : Option Pfx) : State :=
  let z := Group.entry Header.blank 0 0 0 8 0 (BitVec.allOnes 96) false
  let z := { z with
    scalars := Sparse.puts [] (k.filter fun e => decide (e.1 < 108))
    paths := z.paths.modify 0 fun q => { q with idx := 1, fetched := List.replicate 16 15, pfx := p, priv := Sparse.puts [] (k.filter fun e => decide (108 ≤ e.1)) } }
  { State.reset with
    cycle := 1
    launches := [{ Launch.fresh 0 0 none Header.blank [] with
      stage := .placing, blocks := [{ Block.fresh 0 with cluster := some 0, groups := [z] }] }] }

/-- Run one word of a static clause on known scalars: the scalars after it; none: it reads an unknown value or would fault. (log 78: DESIGN CHOICE) -/
def runStatic (k : Known) (w : SWord) : Option Known :=
  match w.instr with
  | none => none
  | some i =>
    match staticMeaning i with
    | none => none
    | some f =>
      if (encDetail w.pfx i).isSome || !((readOrder w.pfx i).all fun e => k.operand e.1 e.2) then none
      else
        match f (scratchState k w.pfx) with
        | .next s =>
          match s.group? 0 0 0 with
          | none => none
          | some z =>
            let ws := scalarWrites w.pfx i
            some (ws.map (fun r => (r, readScalar 0 0 z 0 r)) ++ k.filter fun e => !ws.contains e.1)
        | _ => none

/-- Whether a control word meets its encoding checks (R323, R341). -/
def SWord.encodes (w : SWord) : Bool := w.instr.elim false fun i => (encDetail w.pfx i).isNone

/-- Run a static clause: its control word, if it has one, must be a `bra`, or a `brz` or `brnz` on a known triple. A clause that would trap is not
run (R323). -/
def runClause (k : Known) (c : SClause) : Option Known :=
  if (clauseDetail c.header c.words).isSome then none
  else
    c.cut.foldl (fun (acc : Option Known) w => acc.bind fun k => match w.instr with
      | some (.bra ..) => if w.encodes then some k else none
      | some (.brz _ a _) | some (.brnz _ a _) => if w.encodes && k.operand a.toNat 3 then some k else none
      | _ => runStatic k w) (some k)

/-- Whether a control word is a branch to an address. -/
def backEdge (head : Nat) : Option (Instr × Nat) → Bool
  | some (.bra .., t) | some (.brz .., t) | some (.brnz .., t) => t == head
  | _ => false

/-- Whether a clause marks a loop: a branch goes back to the clause after it (R156). -/
def SClause.marks (c : SClause) (cs : List SClause) : Bool := cs.any fun d => decide (c.next ≤ d.addr) && backEdge c.next d.control

/-- Whether a word is a `trip` of a known count from 1 to 64, which is kept as a write (R274). -/
def SWord.keptTrip (w : SWord) (k : Known) : Bool :=
  match w.instr with
  | some (.trip _ _ a) => k.operand a.toNat 1 && decide (1 ≤ (k.word a.toNat 0).toNat) && decide ((k.word a.toNat 0).toNat ≤ 64)
  | _ => false

/-- What a run over the static clauses finds: known values, the clauses executed, and what the executed clauses leave in scalars. -/
structure Folding where
  known : Known
  ran : List Nat
  results : Known
deriving DecidableEq, Repr

/-- Run the static clauses in address order. A scalar that a kept word writes is not known to what reads it. -/
def foldOnce (args : Known) (unknown : List Nat) (cs : List SClause) : Folding :=
  cs.foldl (fun f c =>
    if !c.static then f
    else
      match runClause f.known c with
      | some k =>
        let mine := (c.cut.flatMap fun w => w.instr.elim [] (scalarWrites w.pfx)).dedup
        { known := k.filter fun e => !unknown.contains e.1
          ran := f.ran ++ [c.addr]
          results := (mine.filterMap fun r => (k.val r).map fun v => (r, v)) ++ f.results.filter fun e => !mine.contains e.1 }
      | none => f) ⟨args.filter fun e => !unknown.contains e.1, [], []⟩

/-- Scalars that the clauses outside `ran` write. -/
def writtenBy (cs : List SClause) (ran : List Nat) : List Nat :=
  ((cs.filter fun c => !ran.contains c.addr).flatMap fun c => c.cut.flatMap fun w => w.instr.elim [] (scalarWrites w.pfx)).dedup

/-- Repeat until no clause that was taken as executed turns out to be kept. (log 78: DESIGN CHOICE) -/
def foldStatic (args : Known) (cs : List SClause) : Nat → List Nat → Folding
  | 0, _ => ⟨[], [], []⟩
  | k + 1, ran =>
    let f := foldOnce args (writtenBy cs ran) cs
    if f.ran = ran then f else foldStatic args cs k f.ran

/-! ### Residual items -/

/-- A clause of the residual code: `copy` lists the copy indices of the unrolled loops around it, outermost first. A clause that is gone keeps its
place for the branches that name it. -/
structure RItem where
  addr : Nat
  iter : Nat
  unrolled : Bool
  copy : List Nat
  gone : Bool
  header : Nat
  /-- whether the next clause can follow, where no control word stands -/
  falls : Bool
  /-- words before the control word: word, original address -/
  words : List (Word × Nat)
  /-- the control word with its target, its original address, and whether the specialiser inserted it -/
  ctl : Option (Instr × Nat × Nat × Bool)
deriving DecidableEq, Repr

/-- Words of an item, header included. -/
def RItem.size (r : RItem) : Nat := if r.gone then 0 else 1 + r.words.length + (r.ctl.elim 0 fun c => (encode c.1).length)

def itemsSize (rs : List RItem) : Nat := (rs.map RItem.size).sum

/-- The residual item of a clause under a folding: of a clause that was executed, the words that mark a loop remain (R274). A prefix before a control
word is copied, so that the word takes its trap; a clause that traps is copied as it stands (R323). -/
def SClause.item (c : SClause) (cs : List SClause) (f : Folding) : RItem :=
  let h := if c.static then c.header - 2 ^ 16 else c.header
  if (clauseDetail c.header c.words).isSome then
    ⟨c.addr, 0, false, [], false, h, true, c.words.zipIdx.map fun e => (e.1, c.addr + 4 * (e.2 + 1)), none⟩
  else
    let ran := f.ran.contains c.addr
    let ws := c.cut
    let last := ws.getLast?
    let isCtl : Bool := c.control.isSome
    let body := if isCtl then ws.dropLast else ws
    let body := if ran then body.filter fun w => c.marks cs && w.keptTrip f.known else body
    let pfx : List (Word × Nat) := last.elim [] fun w =>
      if isCtl && isPrefixWord (w.raw.headD 0) then [(w.raw.headD 0, c.addr + 4 * w.idx)] else []
    let kept := (body.flatMap fun w => w.raw.zipIdx.map fun e => (e.1, c.addr + 4 * (w.idx + e.2))) ++ pfx
    let at_ := c.addr + 4 * (last.elim 0 fun w => w.idx + pfx.length)
    let ctl : Option (Instr × Nat × Nat × Bool) := c.control.bind fun (i, t) =>
      let plain := some (i, t, at_, false)
      let folded (taken : Option Bool) (st : BitVec 2) : Option (Instr × Nat × Nat × Bool) :=
        match taken with
        | none => plain
        | some true => some (.bra st 0, t, at_, true)
        | some false => none
      match c.uniform && last.elim false SWord.encodes, i with
      | true, .brz st a _ => folded (f.known.zeroTriple a.toNat) st
      | true, .brnz st a _ => folded ((f.known.zeroTriple a.toNat).map (!·)) st
      | _, _ => plain
    ⟨c.addr, 0, false, [], kept.isEmpty && ctl.isNone && (ran || c.words.length != 0), h, fallsThrough (last.bind (·.instr)), kept, ctl⟩

/-- Successors of an item, by original address. -/
def RItem.succs (r : RItem) (next : Nat) : List Nat :=
  match r.ctl with
  | some (.bra .., t, _, _) => [t]
  | some (_, t, _, _) => [t, next]
  | none => if r.falls then [next] else []

/-- Addresses that can still be reached. -/
def liveItems (cs : List SClause) (rs : List RItem) : Nat → List Nat → List Nat → List Nat
  | 0, _, seen => seen
  | _, [], seen => seen
  | k + 1, a :: r, seen =>
    if seen.contains a then liveItems cs rs k r seen
    else
      match rs.find? (fun i => i.addr == a), cs.find? (fun c => c.addr == a) with
      | some i, some c => liveItems cs rs k (i.succs c.next ++ r) (a :: seen)
      | _, _ => liveItems cs rs k r (a :: seen)

/-! ### Loops (R156, R274, R275) -/

/-- A marked loop: addresses of its head and its back-edge clause, its count, its body size. -/
structure Loop where
  head : Nat
  back : Nat
  times : Nat
  size : Nat
deriving DecidableEq, Repr

/-- The marked loops of the items whose count is known: the back edge is the first one in the image (R156). -/
def loopsOf (cs : List SClause) (rs : List RItem) (k : Known) : List Loop :=
  cs.flatMap fun c => c.cut.filterMap fun w => match w.instr with
    | some (.trip _ _ a) =>
      if !(rs.any fun r => r.addr == c.addr && !r.gone) || !k.operand a.toNat 1 then none
      else
        let t := (k.word a.toNat 0).toNat
        match cs.find? fun d => decide (c.next ≤ d.addr) && backEdge c.next d.control with
        | some d =>
          if 1 ≤ t ∧ t ≤ 64 then
            some ⟨c.next, d.addr, t, itemsSize (rs.filter fun q => decide (c.next ≤ q.addr) && decide (q.addr ≤ d.addr))⟩
          else none
        | none => none
    | _ => none

def insertLoop (l : Loop) : List Loop → List Loop
  | [] => [l]
  | m :: r => if l.size < m.size ∨ (l.size = m.size ∧ m.head ≤ l.head) then l :: m :: r else m :: insertLoop l r

/-- Ascending body size, innermost first when sizes are equal (R275). -/
def sortLoops (ls : List Loop) : List Loop := ls.foldr insertLoop []

/-- One copy of a body: the back-edge branch is removed (R274). A word inside nested unrolled loops keeps the copy index of the innermost.
 (log 78: DESIGN CHOICE) -/
def copyOf (l : Loop) (j : Nat) (body : List RItem) : List RItem :=
  body.map fun r =>
    let ctl := if r.addr = l.back ∧ backEdge l.head (r.ctl.map fun e => (e.1, e.2.1)) then none else r.ctl
    { r with
      iter := if r.unrolled then r.iter else j
      unrolled := true
      copy := j :: r.copy
      ctl := ctl
      gone := r.gone || (r.words.isEmpty && ctl.isNone) }

/-- Unroll a loop. -/
def unroll (l : Loop) (rs : List RItem) : List RItem :=
  match rs.findIdx? (fun r => r.addr == l.head) with
  | none => rs
  | some i =>
    let n := (rs.drop i).reverse.findIdx? (fun r => r.addr == l.back)
    match n with
    | none => rs
    | some m =>
      let len := (rs.drop i).length - m
      let body := (rs.drop i).take len
      rs.take i ++ (List.range l.times).flatMap (fun j => copyOf l j body) ++ (rs.drop i).drop len

/-- Unroll, in order, each loop whose unrolling keeps the code within `limit` words; at most `n` loops are considered. (log 78: DESIGN CHOICE) -/
def unrollAll (limit : Nat) : Nat → List Loop → List RItem → List RItem
  | 0, _, rs => rs
  | _, [], rs => rs
  | n + 1, l :: ls, rs =>
    let rs' := unroll l rs
    unrollAll limit n ls (if itemsSize rs' ≤ limit then rs' else rs)

/-! ### Layout (R274, R276) -/

/-- The inserted clauses that write known scalars: at most seven `movk` words each, in ascending order of their scalars, each with STALL 0, in clauses
whose U, WAIT and YIELD are zero. (log 78: DESIGN CHOICE) -/
def insertedClauses : Nat → Known → List (List Word)
  | 0, _ => []
  | _, [] => []
  | n + 1, k =>
    let ws := (k.take 7).flatMap fun e => encode (.movk 0 (BitVec.ofNat 8 (0x40 + e.1)) e.2)
    (BitVec.ofNat 32 (4 * 16 + ws.length) :: ws) :: insertedClauses n (k.drop 7)

/-- One residual word with the words of its back-map record. -/
structure RWord where
  w : Word
  origin : Nat
  insert : Bool
  iter : Nat
deriving DecidableEq, Repr

/-- Copy indices that two items share from the outermost loop on. -/
def shared : List Nat → List Nat → Nat
  | a :: r, b :: t => if a = b then shared r t + 1 else 0
  | _, _ => 0

/-- The start of each item, in words from the base: `at_` holds the words inserted before an item. -/
def starts (pre : RItem → Nat) : Nat → List RItem → List (Nat × RItem)
  | _, [] => []
  | n, r :: rs => (n + pre r, r) :: starts pre (n + pre r + r.size) rs

/-- Where a branch from an item to an original address goes: the copy that shares most loops with it, at the clause or the next one kept. -/
def resolve (ps : List (Nat × RItem)) (r : RItem) (t : Nat) : Nat :=
  let cands := ps.filter fun p => p.2.addr == t
  let best := cands.foldl (fun (m : Option (Nat × RItem)) p => match m with
    | none => some p
    | some q => if shared q.2.copy r.copy < shared p.2.copy r.copy then some p else m) none
  best.elim 0 (·.1)

/-- The result of a build: code with its back-map, entries in words from the base, and the highest declared class. -/
structure Residual where
  code : List RWord
  entryProd : Nat
  entryCons : Nat
  maxClass : Nat
deriving DecidableEq, Repr

/-- Lay the items out. `entries`: original addresses of the role entries; none where an offset does not fit. (log 78: DESIGN CHOICE) -/
def layOut (rs : List RItem) (ins : List (List Word)) (prod cons : Nat) : Option Residual :=
  let insLen := (ins.map List.length).sum
  let isEntry (r : RItem) : Bool := r.copy.all (· == 0) && (r.addr == prod || r.addr == cons)
  let pre (r : RItem) : Nat := if isEntry r then insLen else 0
  let ps := starts pre 0 rs
  let code : List (Option RWord) := ps.flatMap fun (n, r) =>
    let inserted := if isEntry r then ins.flatten.map fun w => some ⟨w, r.addr, true, 0⟩ else []
    inserted ++ (if r.gone then []
      else
        let cnt := r.words.length + (r.ctl.elim 0 fun c => (encode c.1).length)
        some ⟨BitVec.ofNat 32 (r.header / 16 * 16 + cnt % 16), r.addr, false, r.iter⟩ ::
        (r.words.map fun w => some ⟨w.1, w.2, false, r.iter⟩) ++
        (match r.ctl with
         | none => []
         | some (i, t, a, b) =>
           let d : Int := (resolve ps r t : Int) - n
           if ofsFits d i then (encode (withOfs d i)).zipIdx.map fun e => some ⟨e.1, a + 4 * e.2, b, r.iter⟩ else [none]))
  let entryOf (a : Nat) : Nat := ((ps.find? fun p => isEntry p.2 && p.2.addr == a).elim 0 (·.1)) - insLen
  (code.mapM id).map fun ws =>
    ⟨ws, entryOf prod, entryOf cons, (rs.filter fun r => !r.gone && !noHeader r.header).foldl (fun m r => max m (bits r.header 15 13)) 0⟩

/-- The role entries of a header (R38, R268). -/
def Header.entries (h : Header) : Nat × Nat :=
  if !h.roles then (h.image, h.image)
  else
    let p := h.image + h.prodEntry
    let c := h.image + h.consEntry
    (if h.prodGroups = 0 then c else p, if h.consGroups = 0 then p else c)

/-- The static arguments (R268). -/
def Header.staticArgs (h : Header) : Known :=
  (h.args.zipIdx.filter fun e => h.static.getLsbD e.2).map fun e => (e.2, e.1)

/-- Insertion sort by register. -/
def insertKnown (e : Nat × Word) : Known → Known
  | [] => [e]
  | d :: r => if e.1 < d.1 then e :: d :: r else d :: insertKnown e r

/-- The folding under which the clauses that wrote inserted scalars are kept (R275). -/
def Folding.withKept (f : Folding) (cs : List SClause) : Folding :=
  { f with
    ran := f.ran.filter fun a => !(cs.any fun c => c.addr == a && c.cut.any fun w => w.instr.elim false fun i => (scalarWrites w.pfx i).any (32 ≤ ·))
    results := f.results.filter (·.1 < 32) }

/-- The residual code of a launch (R274, R275), with at most `n` loops unrolled; where an offset no longer fits its control word once they are unrolled,
every loop stays rolled, and where it does not fit then, there is no residual code. (log 78: DESIGN CHOICE) -/
def specialise (h : Header) (cs : List SClause) (n : Nat) : Option Residual :=
  let cs := sortClauses cs
  let reach := clauseWords cs
  let limit := min (4 * reach) 65536
  let (prod, cons) := h.entries
  let build (f : Folding) : List RItem × List (List Word) :=
    let items := cs.map fun c => c.item cs f
    let live := liveItems cs items (8 * cs.length + 8) [prod, cons] []
    let items := items.map fun r => if live.contains r.addr then r else { r with gone := true }
    let ks := (f.results.filter fun e => decide (32 ≤ e.1)).foldr insertKnown []
    (items, insertedClauses (ks.length + 1) ks)
  let args := h.staticArgs
  let f := foldStatic args cs (cs.length + 2) (cs.map (·.addr))
  let size (b : List RItem × List (List Word)) : Nat :=
    itemsSize b.1 + (if prod = cons then 1 else 2) * (b.2.map List.length).sum
  let b0 := build f
  let (f, b) := if limit < size b0 then (f.withKept cs, build (f.withKept cs)) else (f, b0)
  let rs := unrollAll (limit - (size b - itemsSize b.1)) n (sortLoops (loopsOf cs b.1 f.known)) b.1
  match layOut rs b.2 prod cons with
  | some r => some r
  | none => layOut b.1 b.2 prod cons

/-- The loops that a launch's specialisation may unroll. -/
def loopCount (cs : List SClause) : Nat := (cs.map fun c => c.cut.countP fun w => match w.instr with
  | some (.trip ..) => true
  | _ => false).sum

/-- The 8-byte back-map record of a residual word (R276). -/
def RWord.record (r : RWord) : List Byte :=
  wordBytes [BitVec.ofNat 32 r.origin, BitVec.ofNat 32 ((if r.insert then 64 else 0) + r.iter)]

/-- Bytes of a cache entry: residual code, then the back-map. -/
def Residual.bytes (r : Residual) : List Byte := wordBytes (r.code.map (·.w)) ++ r.code.flatMap RWord.record

end Sys2Proof.Machine
end

