-- ==== Sys2Proof/Machine/Pump.lean ====
section
/-! DEFINITION. The window pump (R58 to R62, R358, R362), paths held for a drain (R63, R153, R229, R231, R250), and the end of a group (R159, R219,
R259, R291, R331). -/

namespace Sys2Proof.Machine

/-! ### Lines of the register store -/

def Group.inWindow (z : Group) (n : Nat) : Bool := decide (z.depth ≤ n) && decide (n < z.depth + 8)

/-- The numbers of the lines held, lowest first. -/
def Group.heldLines (z : Group) (stack : Nat) : List Nat := (List.range stack).filter fun n => z.lines.any fun l => l.n == n

/-- The line that gives way to a needed one: the lowest outside the window, else the lowest. (log 50: DEDUCED) -/
def Group.victim (z : Group) (stack : Nat) : Option Nat :=
  ((z.heldLines stack).find? fun n => !z.inWindow n).or (z.heldLines stack).head?

/-- A path whose word is being served keeps what a displaced line held (R60). (log 50: DEDUCED) -/
def Path.latchLine (z : Group) (n : Nat) (p : Path) : Path :=
  let serving := !p.served.isEmpty || match p.status with
    | .waiting (.pump _) => true
    | _ => false
  if p.valid && serving then
    { p with
      served := (p.served ++ [n]).dedup
      servedRegs := (p.servedRegs.clear (768 * n) (768 * n + 768)).puts (z.stack.slice (768 * n) (768 * n + 768))
      servedPoison := (p.servedPoison.filter (· != n)) ++ if z.lines.any fun l => l.n == n && l.poison then [n] else [] }
  else p

/-- Whether giving up a line moves bytes: it is dirty, and its group has not ended, whose dirty lines are discarded (R58, R291). -/
def Group.mustSpill (z : Group) (n : Nat) : Bool := !z.done && z.lines.any fun r => r.n == n && r.dirty

/-- Give up a line of a group: it is spilled first if it is dirty (R58). `payer`: the owner whose group needs the room (R362). (log 50: DEDUCED) -/
def State.giveLine (s : State) (l b g n : Nat) (payer : Option Nat := none) : State :=
  match s.launch? l, s.block? l b, s.group? l b g with
  | some x, some y, some z =>
    let s := if z.mustSpill n then s.spillLine { x with owner := if x.handler.isSome then x.owner else payer.getD x.owner } y z n else s
    s.updGroup l b g fun z => { z with paths := z.paths.map (Path.latchLine z n) }.dropLine n
  | _, _, _ => s

/-- Lines held by all groups of a core, evictable ones included. -/
def State.linesHeld (s : State) (core : Nat) : Nat :=
  (s.launches.map fun x => (x.blocks.map fun y => (y.groups.map fun z => if z.core = core ∧ !z.freed then z.lines.length else 0).sum).sum).sum

/-- Whether a resident group's lines are evictable: it has no ready path and a path that waits for a handler (R337). -/
def State.yields (s : State) (x : Launch) (z : Group) : Bool := !s.anyReady x z && z.paths.any Path.waitsHandler

/-- The evictable line that is taken first on a core: launch, block, group, line (R58). No rule gives an order: of a group away before one that yields,
in the order of launch, block and group, the line held longest first. (log 120: DESIGN CHOICE) -/
def State.evictable (s : State) (core : Nat) : Option (Nat × Nat × Nat × Nat) :=
  let first (f : Launch → Block → Group → Bool) : Option (Nat × Nat × Nat × Nat) :=
    s.launches.findSome? fun x => x.blocks.findSome? fun y => y.groups.findSome? fun z =>
      if z.core = core ∧ !z.freed ∧ f x y z then z.lines.head?.map fun l => (x.seq, y.index, z.index, l.n) else none
  (first fun _ y _ => y.cluster.isNone).or (first fun x _ z => s.yields x z)

/-- Make room for one more line in a core's register store, on behalf of an owner's group. -/
def State.storeRoom (s : State) (core payer : Nat) : State :=
  if s.linesHeld core < Config.storeLines then s
  else
    match s.evictable core with
    | some (l, b, g, n) => s.giveLine l b g n (some payer)
    | none => s

/-- Whether an image line's blocks are marked (R386). -/
def State.linePoisoned (s : State) (x : Launch) (y : Block) (z : Group) (n : Nat) : Bool :=
  let va := x.header.ctxOf y.slot z.index + lineOff n
  (List.range 48).any fun k => (s.imagePa x y (va + 64 * k)).elim false fun pa => s.poisoned pa 64

/-- Charge the bytes of a line read from its image (counters 19 to 21). (log 47: DESIGN CHOICE) -/
def State.chargeLine (s : State) (x : Launch) (y : Block) (z : Group) (n : Nat) : State :=
  (s.chargeImage x y x.owner (x.header.ctxOf y.slot z.index + lineOff n) 3072).updOwner x.owner fun o => o.bump 21 3072

/-- A line enters the store, clean: what its image holds, or zeros for a line that was never spilled, which reads no memory; both count as
a refill (R53, R316). The paths that wait for it go on. (log 51: DEDUCED) -/
def State.bringLine (s : State) (x : Launch) (y : Block) (z : Group) (n : Nat) : State :=
  let back := z.spilled.contains n
  let bad := back && s.linePoisoned x y z n
  let bytes := s.imageRead x y z.core (x.header.ctxOf y.slot z.index + lineOff n) 3072
  let s := (if back then s.chargeLine x y z n else s).updOwner x.owner fun o => o.event 6 1
  s.updGroup x.seq y.index z.index fun z =>
    { z with
      lines := z.lines ++ [⟨n, false, bad⟩]
      stack := if back then (z.stack.clear (768 * n) (768 * n + 768)).puts (lineEntries n bytes) else z.stack.clear (768 * n) (768 * n + 768)
      paths := z.paths.map fun p => match p.status with
        | .waiting (.pump ls) => if ls.contains n then { p with status := .ready } else p
        | _ => p }

/-- Whether a path waits for a line next: the lines of a word are served in order (R60). -/
def Group.needs (z : Group) (n : Nat) : Bool :=
  z.paths.any fun p => p.valid && match p.status with
    | .waiting (.pump ls) => ls.head? == some n
    | _ => false

/-- The line that gives way to a refill, where the group holds its allotment: for a line that a word needs any, else one outside the window. -/
def Group.gives (z : Group) (stack line : Nat) : Option Nat :=
  if z.lines.length < z.allot then none
  else if z.needs line then z.victim stack
  else (z.heldLines stack).find? fun n => !z.inWindow n

/-- Whether the refill of a line moves bytes, which a tier cap holds: the line comes from its image, or another one must be spilled (R53, R358). -/
def State.refillMoves (s : State) (z : Group) (stack line : Nat) : Bool :=
  z.spilled.contains line ||
    match z.gives stack line with
    | some v => z.mustSpill v
    | none => decide (Config.storeLines ≤ s.linesHeld z.core)

/-- WINDOW_REFILL (R58, R60, R362): the pump brings a line into the store, because a word needs it or because it lies in the window. (log 51: DEDUCED) -/
def execWindowRefill (l b g line : Nat) (s : State) : Host.Outcome State Fault Refusal :=
  match s.launch? l, s.block? l b, s.group? l b g with
  | some x, some y, some z =>
    let stack := x.header.stack
    if y.cluster.isNone || z.freed || z.done || (z.lines.any fun r => r.n == line) || decide (stack ≤ line) ||
        !(z.needs line || z.inWindow line) || (s.pumpHeld x && s.refillMoves z stack line) then .next s
    else
      let bring (s : State) : State :=
        match s.launch? l, s.block? l b, s.group? l b g with
        | some x, some y, some z => s.bringLine x y z line
        | _, _, _ => s
      match z.gives stack line with
      | some v => .next (bring ((s.giveLine l b g v).storeRoom z.core x.owner))
      | none => .next (if z.allot ≤ z.lines.length ∧ !z.needs line then s else bring (s.storeRoom z.core x.owner))
  | _, _, _ => .next s

/-- The line that the pump spills ahead of need: where the group's next call could overflow its allotment, the lowest dirty one below the window (R58).
 (log 50: DEDUCED) -/
def Group.spillAhead (z : Group) (stack : Nat) : Option Nat :=
  if z.lines.length + 8 ≤ z.allot then none
  else (z.heldLines stack).find? fun n => decide (n < z.depth) && z.lines.any fun r => r.n == n && r.dirty

/-- WINDOW_SPILL (R58, R59, R362): the pump writes a dirty line to its image ahead of need. -/
def execWindowSpill (l b g line : Nat) (s : State) : Host.Outcome State Fault Refusal :=
  match s.launch? l, s.block? l b, s.group? l b g with
  | some x, some y, some z =>
    .next (if z.freed || z.done || y.cluster.isNone || s.pumpHeld x || z.spillAhead x.header.stack != some line then s else s.spillLine x y z line)
  | _, _, _ => .next s

/-! ### Held paths -/

/-- Whether a path waits at the latch while a listed member has ended (R347, DETAIL 3). (log 55: DEDUCED) -/
def Block.orphan (y : Block) (z : Group) (p : Path) : Bool :=
  p.valid && match p.status with
    | .waiting (.latch _) => z.partners.any fun g => (y.group? g).elim true (·.done)
    | _ => false

/-- PATH_HOLD_RELEASE (R58, R63, R153, R229, R231, R250, R347): a held path of a resident block goes on when what it waits for has drained.
 (log 55: DEDUCED) -/
def execPathHoldRelease (r : PathRef) (s : State) : Host.Outcome State Fault Refusal :=
  match s.ctx? r with
  | none => .next s
  | some c =>
    if c.block.cluster.isNone then .next s
    else match c.path.status with
    | .waiting (.counter k) => .next (if c.group.sbCount k < 63 then s.setStatus r .ready else s)
    | .waiting (.pump ls) =>
      .next (if ls.all fun n => c.path.served.contains n || c.group.lines.any fun l => l.n == n then s.setStatus r .ready else s)
    | .waiting (.wspill _ _ _) => .next (if s.pumpHeld c.launch then s else s.wspillEnds r)
    | .waiting (.drain ids) => .next (if s.ops.any fun o => ids.contains o.id then s else s.setStatus r .ready)
    | .waiting (.mwait t) => .next (if s.mmaPending r c.group.core t then s else s.passWord r)
    | .waiting (.accFree m) => .next (if s.mmaWrites c.group.core m then s else (s.freeTiles r c.group.core m).passWord r)
    | .waiting (.latch _) => .next (if c.block.orphan c.group c.path then s.faultPath c ⟨10, 3, 0, 3⟩ false else s)
    | _ => .next s

/-! ### The end of a group -/

/-- The KIND 9 report of a block, when its last group has ended (R331, R346). (log 44: DEDUCED) -/
def State.reportViolation (s : State) (x : Launch) (b : Nat) : State :=
  match s.block? x.seq b with
  | none => s
  | some y =>
    match y.violation with
    | some (tag, d) =>
      if y.groups.all (·.freed) then
        (s.report x.owner tag d 1 x.header.imageid).updBlock x.seq b fun y => { y with violation := none }
      else s
    | none => s

/-- Waiting members of a gang, one of whom has ended, take their faults (R347). (log 55: DEDUCED) -/
def State.releaseOrphans (s : State) (l b : Nat) : State :=
  match s.block? l b with
  | none => s
  | some y =>
    let refs : List PathRef := y.groups.flatMap fun z => z.paths.zipIdx.filterMap fun e => if y.orphan z e.1 then some ⟨l, b, z.index, e.2⟩ else none
    refs.foldl (fun s r => match s.ctx? r with
      | some c => s.faultPath c ⟨10, 3, 0, 3⟩ false
      | none => s) s

/-- A stamp of the launch time record (R319). -/
def Launch.stamp (x : Launch) (n t : Nat) : Launch := { x with stamps := x.stamps.set n t }

/-- Whether every block of a launch has ended, its engine records included (R240). -/
def Launch.over (x : Launch) : Bool := decide (x.header.blocks ≤ x.placed) && x.blocks.all (·.ended)

/-- Whether every block of a launch has been placed and every group has ended. -/
def Launch.allEnded (x : Launch) : Bool :=
  decide (x.header.blocks ≤ x.placed) && x.blocks.all fun y => !y.groups.isEmpty && y.groups.all (·.freed)

/-- GROUP_END (R159, R259): once the counters of a group without a present lane read zero, its lines and residency are freed, its dirty lines
are discarded (R291), its writes are carried to every die, and with the last group of its block the pump mappings go (R360). -/
def execGroupEnd (l b g : Nat) (s : State) : Host.Outcome State Fault Refusal :=
  match s.launch? l, s.block? l b, s.group? l b g with
  | some x, some _, some z =>
    if z.freed || !z.done || z.sb.any (· != 0) then .next s
    else
      let s1 := (s.carry (ofGroup ⟨l, b, g, 0⟩)).updGroup l b g fun z =>
        { z with freed := true, lines := [], stack := [], hazards := [], flagHazards := [], reaches := [], logFix := [], unseen := [], unseenTiles := [] }
      let s2 := s1.updLaunch l fun x => if x.allEnded then x.stamp 6 s.cycle else x
      let s2 := s2.updBlock l b fun y => if y.groups.all (·.freed) then { y with images := [] } else y
      .next ((s2.reportViolation x b).releaseOrphans l b)
  | _, _, _ => .next s

end Sys2Proof.Machine
end

