-- ==== Sys2Proof/Machine/Queues.lean ====
section
/-! DEFINITION. Host queues and stages 1 to 4 of a launch: notify writes, queue slots, headers, dependences and the specialisation cache (R267 to
R276, R304 to R307, R332, R366, R402). -/

namespace Sys2Proof.Machine

/-! ### Stages 1 and 2 -/

/-- An owner whose queues are read: it is set up, not stopped (R354) and not migrating (R390). -/
def State.served (s : State) (o : Nat) : Bool :=
  let w := s.owner o
  w.valid && !w.stopped && w.migrating.isNone

/-- Entries of a queue up to an index. -/
def Queue.upTo (x : Queue) (t : Word) : Nat := (t - x.head).toNat

/-- TAIL becomes `t`, written in cycle `now`: entries that become announced carry that cycle, entries that are withdrawn lose theirs (R305,
R306). -/
def Queue.setTail (x : Queue) (t : Word) (now : Nat) : Queue :=
  let old := x.upTo x.tail
  let new := x.upTo t
  { x with
    tail := t
    announced := (x.announced.filter fun e => decide (x.upTo (BitVec.ofNat 32 e.1) < new)) ++
      (List.range (new - old)).map fun j => ((x.head + BitVec.ofNat 32 (old + j)).toNat, now)
    pendingSince := if old = 0 then now else x.pendingSince }

/-- Whether every launch read from a queue has placed all of its blocks, or was refused or ended. -/
def State.allPlaced (s : State) (q : Nat) : Bool :=
  s.launches.all fun x => x.queue != some q || x.stage == .refused || x.stage == .complete || decide (x.header.blocks ≤ x.placed)

/-- A queue that waits for a slot (R307). -/
def Queue.pending (x : Queue) : Bool := !x.bound && x.head != x.tail

/-- Whether a bound queue gives up its slot (R307). (log 91: DEDUCED) -/
def State.slotFrees (s : State) (x : Queue) : Bool :=
  x.bound && x.reading.isNone &&
    ((x.head == x.tail && s.allPlaced x.n) ||
     (decide (64 ≤ x.readHere) && s.queues.any fun y => y.pending && y.owner != x.owner && s.served y.owner))

/-- The slots that fall free are free: nothing that a queue meets comes before its release (R307). (log 91: DEDUCED) -/
def State.freeSlots (s : State) : State :=
  { s with queues := s.queues.map fun x => if s.slotFrees x then { x with bound := false, readHere := 0, pendingSince := s.cycle } else x }

/-- BAR0 offset of a queue's notify register (R305). -/
def notifyAt (q : Nat) : Nat := 0x100000 + 4096 * (q / 16) + 4 * (q % 16)

/-- The queue whose notify register lies at a BAR0 offset (R305). -/
def State.queueAt (s : State) (offset : Nat) : Option Queue := s.queues.find? fun x => notifyAt x.n == offset

/-- NOTIFY_WRITE (R305, R306): TAIL moves, entries are withdrawn, or the write is dropped with a report, once for each queue in a metering
period. A notify write reaches nothing while the link is down (R391) or after the owner's reset (R388). -/
def execNotifyWrite (offset : Nat) (v : Word) (s0 : State) : Host.Outcome State Fault Refusal :=
  let s := s0.freeSlots
  match s.queueAt offset with
  | none => .next s
  | some x =>
    let q := x.n
    if !s.links.pcieUp || !(s.owner x.owner).valid then .next s
    else
      let d := x.upTo v
      if 2 ^ x.sizel2 < d then
        if (s.owner x.owner).reportedQueues.contains q then .next s
        else
          let s1 := s.updOwner x.owner fun o => { o with reportedQueues := q :: o.reportedQueues }
          .next (s1.report x.owner [v, 0, BitVec.ofNat 32 (12 * 2 ^ 28), BitVec.ofNat 32 q, 0xFFFFFFFC, 0, 0, 0] 12 1 0)
      else if x.upTo x.tail ≤ d then .next (s.updQueue q fun x => x.setTail v s.cycle)
      else
        let begun : Nat := if x.reading.isSome then 1 else 0
        .next (s.updQueue q fun x => x.setTail (x.head + BitVec.ofNat 32 (max d begun)) s.cycle)

/-- Slots that an owner's queues hold. -/
def State.boundSlots (s : State) (o : Nat) : Nat := s.queues.countP fun x => x.bound && x.owner == o

/-- The owner whose queue is bound next: the fewest slots for its ISSUEW, then the lower number. -/
def State.nextOwner (s : State) : Option Nat :=
  (List.range Config.owners).foldl (fun best o =>
    if !s.served o || !(s.queues.any fun x => x.pending && x.owner == o) then best
    else
      match best with
      | none => some o
      | some p => if s.boundSlots o * (s.owner p).record.issuew < s.boundSlots p * (s.owner o).record.issuew then some o else some p) none

/-- The pending queue of an owner that has waited longest, then the lowest number. (log 91: DEDUCED) -/
def State.nextQueue (s : State) (o : Nat) : Option Queue :=
  (s.queues.filter fun x => x.pending && x.owner == o).foldl (fun best x =>
    match best with
    | none => some x
    | some y => if x.pendingSince < y.pendingSince ∨ (x.pendingSince = y.pendingSince ∧ x.n < y.n) then some x else some y) none

/-- QUEUE_SLOT_BIND (R307): slots that fall free are freed, and a free slot takes one pending queue. (log 91: DEDUCED) -/
def execQueueSlotBind (s : State) : Host.Outcome State Fault Refusal :=
  let s1 := s.freeSlots
  if Config.queueSlots ≤ s1.queues.countP (·.bound) then .next s1
  else
    match s1.nextOwner.bind s1.nextQueue with
    | none => .next s1
    | some x => .next (s1.updQueue x.n fun x => { x with bound := true, readHere := 0 })

/-! ### Stage 3 -/

/-- The KIND 1 fault of a read in stage 3 or 4, as an origin: its tag names nothing but the launch sequence and 0xFFFF_FFFF (R332). Without a walk
handler nothing can be read, and the read is skipped. (log 75: DEDUCED) -/
def State.stageMiss (s : State) (o seq addr : Nat) (src : OriginFrom) : State :=
  let tag := plainTag 1 (BitVec.ofNat 32 addr) (BitVec.ofNat 32 (addr / 2 ^ 32)) (BitVec.ofNat 32 seq) 0xFFFFFFFF
  let x := Launch.fresh seq o none Header.blank []
  match s.route x 1 0 addr tag with
  | .stop t d => (s.collect o 1 0 tag src false 1 none s.nextId addr).stopOwner o t d 0
  | .collect => s.collect o 1 0 tag src false 1 (some (0, addr / 8192)) s.nextId addr
  | .noHandler =>
    match src with
    | .headerRead q => s.skipEntry q 4
    | .launchRead l => s.refuse l 4
    | _ => s

/-- Words that stage 3 or 4 reads at an owner's virtual address: the words, or the first address without an entry. (log 74: UNVERIFIED) -/
def State.stageWords (s : State) (o va n : Nat) : Except Nat (List Word) :=
  match (List.range (4 * n)).find? fun i => (s.vaRead o (va + i)).isNone with
  | some i => .error (va + i)
  | none => .ok (bytesWords n ((s.readVirt o va (4 * n)).getD []))

/-- Residencies and register lines of a cluster's cores that handler reserves keep (R301, R328). -/
def State.reservedOn (s : State) (k : Nat) (f : Nat → Nat) : Nat :=
  (s.owners.map fun o => if o.valid && o.record.clusters.getLsbD k then f o.record.rsvlines else 0).sum

/-- Blocks of a launch that an empty cluster could hold, its handler residencies kept free (R284). -/
def State.capacity (s : State) (h : Header) (k : Nat) : Nat :=
  let groups := 32 - s.reservedOn k (· / 8)
  let lines := 256 - s.reservedOn k id
  let per (j : Nat) : Nat :=
    let g := (h.groupsOn j).length
    if g = 0 then 32 else min (groups / g) (lines / h.linesOn j)
  let byGroups := min (min (per 0) (per 1)) (min (per 2) (per 3))
  if h.spadKiB = 0 then byGroups else min byGroups (512 / h.spadKiB)

/-- The clusters of an owner. -/
def State.clustersOf (s : State) (o : Nat) : List Nat := (List.range Config.clusters).filter fun k => (s.owner o).record.clusters.getLsbD k

/-- Whether a launch can never be placed (R284, DETAIL 3). -/
def State.neverFits (s : State) (o : Nat) (h : Header) : Bool :=
  let caps := (s.clustersOf o).map fun k => s.capacity h k
  if h.coresident then decide (caps.sum < h.blocks) else caps.all (· == 0)

/-- The DETAIL under which a header is refused, if any (R332). -/
def State.headerDetail (s : State) (o : Nat) (h : Header) : Option Nat :=
  if h.bad then some 1
  else if h.coresident ∧ h.slots < h.blocks then some 2
  else if s.neverFits o h then some 3
  else none

/-- Whether a word of an owner's memory has been written at or after a moment, as the base die sees it. -/
def State.writtenSince (s : State) (o va m : Nat) : Bool :=
  (s.vaRead o va).elim false fun pa => (s.view 4).past.any fun e => decide (pa ≤ e.addr) && decide (e.addr < pa + 4) && decide (m ≤ e.moment)

/-- The replay control of an owner that applies to a launch (R402): MODE 1 records, 2 replays. A MODE that a launch has taken applies to no other until
MODE is written again. (log 81: DEDUCED) -/
def State.replayFor (s : State) (o : Nat) (imageid : DWord) : Option Replay :=
  let w := (s.owner o).controls.dwin + 0x1C0
  if (s.owner o).controls.dwin = 0 then none
  else
    match s.stageWords o w 11 with
    | .error _ => none
    | .ok ws =>
      let mode := (ws.getD 0 0).toNat % 4
      if mode = 0 ∨ mode = 3 ∨ dwordAt ws 2 ≠ imageid.toNat ∨ !s.writtenSince o w (s.owner o).replayTaken then none
      else some ⟨mode == 2, dwordAt ws 4, dwordAt ws 6, if mode = 2 then dwordAt ws 8 else 0, false, []⟩

/-- A header read that has begun: its sequence number is taken (R267, R319). (log 92: DEDUCED) -/
def State.beginRead (s : State) (q : Nat) : State :=
  match s.queue? q with
  | none => s
  | some x =>
    if x.reading.isSome then s
    else { s with nextSeq := s.nextSeq + 1 }.updQueue q fun x => { x with reading := some (s.nextSeq, s.cycle) }

/-- The launch of a header that has been read, or its refusal (R268, R305, R332). (log 92: DEDUCED) -/
def State.enterLaunch (s : State) (x : Queue) (seq t1 : Nat) (h : Header) : State :=
  let t0 := (x.announced.find? fun e => e.1 == x.head.toNat).elim t1 (·.2)
  let l := Launch.fresh seq x.owner (some x.n) h [t0, t1, 0, 0, 0, 0, 0, 0]
  let s := { s with launches := s.launches ++ [l] }.advanceHead x.n
  match s.headerDetail x.owner h with
  | some d => s.refuse seq d
  | none =>
    let w := (s.owner x.owner).controls.dwin
    let s := if w = 0 then s else s.chargeVirt x.owner (w + 0x1C0) 44
    match s.replayFor x.owner h.imageid with
    | none => s
    | some r => (s.updOwner x.owner fun o => { o with replayTaken := s.moment }).updLaunch seq fun l => { l with replay := some r }

/-- LAUNCH_HEADER_READ (R268, R270, R304, R305, R332): the entry at HEAD of a bound queue is read, then the header that it names. -/
def execLaunchHeaderRead (q : Nat) (s0 : State) : Host.Outcome State Fault Refusal :=
  let s := s0.freeSlots
  match s.queue? q with
  | none => .next s
  | some x0 =>
    if !x0.bound || x0.head == x0.tail || !s.served x0.owner || (s.origins.any fun g => g.source == .headerRead q) then .next s
    else
      let s1 := s.beginRead q
      match s1.queue? q with
      | none => .next s1
      | some x =>
        let (seq, t1) := x.reading.getD (0, 0)
        let at_ := x.ring + 16 * (x.head.toNat % 2 ^ x.sizel2)
        match s1.stageWords x.owner at_ 2 with
        | .error va => .next (s1.stageMiss x.owner seq va (.headerRead q))
        | .ok ws =>
          let s2 := s1.chargeCode x.owner at_ 16
          let addr := dwordAt ws 0
          if addr % 64 ≠ 0 then .next (s2.skipEntry q 1)
          else
            match s2.stageWords x.owner addr 64 with
            | .error va => .next (s2.stageMiss x.owner seq va (.headerRead q))
            | .ok hs => .next ((s2.chargeCode x.owner addr 256).enterLaunch x seq t1 (Header.ofWords hs))

/-- A well record (R244): none where it breaks its limits. -/
def wellOf (n : Nat) (ws : List Word) : Option WellState :=
  let c := (ws.getD 2 0).toNat
  if c < 4 ∨ 24 < c ∨ dwordAt ws 0 % 8 ≠ 0 ∨ (ws.drop 5).any (· != 0) then none
  else some ⟨n, dwordAt ws 0, c, ws.getD 3 0, ws.getD 4 0, []⟩

/-- Why stage 3 does not take a well of the set. -/
inductive WellStop
  | miss (addr : Nat)
  | broken
deriving DecidableEq, Repr

/-- The wells of a launch's set that the ZF-960 does not hold yet (R246). (log 67, 80: DEDUCED) -/
def State.newWells (s : State) (x : Launch) : Except WellStop (List WellState) :=
  ((List.range 64).filter fun n => x.header.wells.getLsbD n && (s.well? x.owner n).isNone).mapM fun n =>
    match s.stageWords x.owner ((s.owner x.owner).record.welltab + 32 * n) 8 with
    | .error va => .error (.miss va)
    | .ok ws =>
      match wellOf n ws with
      | some w => .ok w
      | none => .error .broken

/-- A launch takes its wells: the records that the ZF-960 did not hold are read (R246, R300). -/
def State.takeWells (s : State) (x : Launch) (ws : List WellState) : State :=
  ((ws.foldl (fun s w => s.chargeVirt x.owner ((s.owner x.owner).record.welltab + 32 * w.n) 32) s).updOwner x.owner fun o =>
    { o with wells := o.wells ++ ws }).updLaunch x.seq fun x => { x with wellsHeld := true }

/-- DEPENDENCE_MET (R246, R271): the well records of the set are read, which the ZF-960 holds from then on, and once the dependence word reaches DEPVAL the launch leaves stage 3. What
that read saw is carried to every die, as an acquire at `.sys` asks. (log 80: DEDUCED) -/
def execDependenceMet (l : Nat) (s : State) : Host.Outcome State Fault Refusal :=
  match s.launch? l with
  | none => .next s
  | some x =>
    if x.stage != .dependence || !s.served x.owner || (s.origins.any fun g => g.source == .launchRead l) then .next s
    else
      match if x.wellsHeld then .ok [] else s.newWells x with
      | .error (.miss va) => .next (s.stageMiss x.owner l va (.launchRead l))
      | .error .broken => .next (s.refuse l 11)
      | .ok ws =>
        let s1 := if x.wellsHeld then s else s.takeWells x ws
        let go (s : State) : State := s.updLaunch l fun x => { x with stage := .specialise, stamps := x.stamps.set 2 s.cycle }
        if x.header.depaddr = 0 then .next (go s1)
        else
          match s1.stageWords x.owner x.header.depaddr 1 with
          | .error va => .next (s1.stageMiss x.owner l va (.launchRead l))
          | .ok vs =>
            let s2 := s1.chargeVirt x.owner x.header.depaddr 4
            if (vs.headD 0).toNat < x.header.depval.toNat then .next s2
            else
              let seen := match s.vaRead x.owner x.header.depaddr with
                | some pa => s.readFrom 4 s.moment pa 4
                | none => []
              .next (go (s2.carry fun t => seen.contains t.id))

/-! ### Stage 4 -/

/-- Bytes of a cache entry: 4 for each word of code, 8 for its record (R276). -/
def CacheEntry.size (e : CacheEntry) : Nat := 12 * e.words

/-- The lowest place of the specialisation cache where an entry of `n` bytes fits within one 4 GiB region (R273, R366). (log 79: DEDUCED) -/
def Owner.place (o : Owner) (n : Nat) : Option Nat :=
  let lo := o.record.specva
  let hi := lo + 1048576 * o.record.specmax
  let starts := lo :: o.cache.map (fun e => e.base + e.size) ++ (List.range (o.record.specmax / 4096 + 1)).map fun k => lo + 2 ^ 32 * k
  let ok (a : Nat) : Bool :=
    decide (lo ≤ a) && decide (a + n ≤ hi) && decide (a / 2 ^ 32 = (a + n - 1) / 2 ^ 32) &&
      o.cache.all fun e => decide (a + n ≤ e.base) || decide (e.base + e.size ≤ a)
  (starts.filter ok).foldl (fun m a => match m with
    | none => some a
    | some b => some (min a b)) none

/-- Whether a running launch uses a cache entry (R272). -/
def State.entryUsed (s : State) (o : Nat) (e : CacheEntry) : Bool :=
  s.launches.any fun x => x.owner == o && x.running && x.cacheKey == some e.key

/-- The least recently used entry that no running launch uses. (log 79: DEDUCED) -/
def State.lruEntry (s : State) (o : Nat) : Option CacheEntry :=
  ((s.owner o).cache.filter fun e => !s.entryUsed o e).foldl (fun m e => match m with
    | none => some e
    | some d => if e.lastUse < d.lastUse then some e else some d) none

/-- Evict entries until one of `n` bytes fits, or none is left to evict. (log 79: DEDUCED) -/
def State.makeRoom (s : State) (o n : Nat) : Nat → State × Option Nat
  | 0 => (s, (s.owner o).place n)
  | k + 1 =>
    match (s.owner o).place n with
    | some a => (s, some a)
    | none =>
      match s.lruEntry o with
      | none => (s, none)
      | some e => (s.updOwner o fun w => { w with cache := w.cache.filter fun d => d.key != e.key }).makeRoom o n k

/-- Build the entry of a launch (R366): with every loop unrolled that may be, then with fewer, the largest bodies left rolled first. (log 78: DESIGN CHOICE) -/
def State.buildEntry (s : State) (x : Launch) (cs : List SClause) : Nat → State × Option (Nat × Residual)
  | 0 =>
    match specialise x.header cs 0 with
    | none => (s, none)
    | some r =>
      match s.makeRoom x.owner (12 * r.code.length) ((s.owner x.owner).cache.length + 1) with
      | (t, a) => (t, a.map fun a => (a, r))
  | n + 1 =>
    match specialise x.header cs (n + 1) with
    | none => s.buildEntry x cs n
    | some r =>
      match s.makeRoom x.owner (12 * r.code.length) ((s.owner x.owner).cache.length + 1) with
      | (t, some a) => (t, some (a, r))
      | (t, none) => t.buildEntry x cs n

/-- A launch leaves stage 4 with its residual code. -/
def Launch.coded (x : Launch) (e : CacheEntry) (hit : Bool) (now : Nat) : Launch :=
  { x with
    stage := .ramp
    cacheHit := hit
    cacheKey := some e.key
    entryProd := e.entryProd
    entryCons := e.entryCons
    maxClass := e.maxClass
    stamps := x.stamps.set 3 now }

/-- The build of stage 4 on a cache miss (R275, R276, R366). (log 75: DEDUCED) -/
def State.specialiseMiss (s : State) (x : Launch) (key : BitVec 128) : State :=
  let (p, c) := x.header.entries
  match s.reach x.owner 262144 [p, c] [] with
  | .error va => s.stageMiss x.owner x.seq va (.launchRead x.seq)
  | .ok cs =>
    let s := cs.foldl (fun s c => s.chargeVirt x.owner c.addr (4 * (c.words.length + 1))) s
    let s := s.updOwner x.owner fun o => o.bump 25 1
    if 65536 < clauseWords cs then s.refuse x.seq 10
    else
      match s.buildEntry x cs (loopCount cs) with
      | (t, none) => t.refuse x.seq 5
      | (t, some (a, r)) =>
        let e : CacheEntry := ⟨key, a, r.code.length, a + 4 * r.entryProd, a + 4 * r.entryCons, r.maxClass, s.cycle⟩
        ((t.writeCache x.owner a r.bytes).updOwner x.owner fun o => { o with cache := o.cache ++ [e] }).updLaunch x.seq fun x =>
          x.coded e false s.cycle

/-- SPECIALISE (R272 to R276, R356, R366): the cache is searched, and on a miss the specialiser builds the entry. -/
def execSpecialise (l : Nat) (s : State) : Host.Outcome State Fault Refusal :=
  match s.launch? l with
  | none => .next s
  | some x =>
    if x.stage != .specialise || !s.served x.owner || (s.owner x.owner).throttled || (s.origins.any fun g => g.source == .launchRead l) then
      .next s
    else
      let key := x.header.key
      match (s.owner x.owner).cache.find? fun e => e.key == key with
      | some e =>
        .next ((s.updOwner x.owner fun o => { o.bump 24 1 with
          cache := o.cache.map fun d => if d.key = key then { d with lastUse := s.cycle } else d }).updLaunch l fun x => x.coded e true s.cycle)
      | none => .next (s.specialiseMiss x key)

end Sys2Proof.Machine
end

