-- ==== Sys2Proof/Machine/Place.lean ====
section
/-! DEFINITION. Stages 5 and 6 and the end of a launch: ramp slots for blocks (R279, R282, R368), placement, carving and return (R33, R39, R232,
R269, R270, R283 to R285, R336, R360, R361, R386), the completion word and the time record (R271, R319). -/

namespace Sys2Proof.Machine

/-! ### Order (R283) -/

/-- Blocks that still have a group which has not ended. -/
def Block.unfinished (y : Block) : Bool := !y.ended && (y.groups.isEmpty || y.groups.any fun z => !z.freed)

/-- A block that is away and returns: it was pre-empted, and a group of it runs on. -/
def Block.away (y : Block) : Bool := y.cluster.isNone && y.preempted && !y.ended && y.groups.any fun z => !z.freed && !z.done

/-- A block that is away and waits in `quiet` still: it asks for no place before a block of its launch that was never placed (R44). -/
def Block.idles (y : Block) : Bool :=
  y.away && y.quietAway && y.groups.all fun z => z.done || z.inQuiet

/-- The block that is taken first of those that a test names: pre-empted ones, then new ones, then pre-empted ones that wait in `quiet`, each in
ascending index (R44, R283). -/
def Launch.firstBlock (x : Launch) (away unplaced : Block → Bool) : Option Block :=
  ((x.blocks.find? fun y => y.away && !y.idles && away y).or (x.blocks.find? unplaced)).or (x.blocks.find? fun y => y.idles && away y)

/-- A block that was never placed. -/
def Block.unplaced (y : Block) : Bool := y.cluster.isNone && !y.preempted && y.groups.isEmpty && !y.ended

/-- The order of launches in stages 5 and 6: PRIO, highest first, then age. -/
def Launch.placeKey (x : Launch) : List Nat := [3 - x.header.prio, x.stamps.getD 2 0, x.owner, x.queue.getD 0, x.seq]

/-- Insert a launch in that order. -/
def insertLaunch (x : Launch) : List Launch → List Launch
  | [] => [x]
  | y :: r => if lexLt x.placeKey y.placeKey then x :: y :: r else y :: insertLaunch x r

/-- The launches whose blocks may enter stages 5 and 6, in order. -/
def State.inStages (s : State) : List Launch :=
  (s.launches.filter fun x => x.handler.isNone && s.served x.owner &&
    (x.stage == .ramp || x.stage == .placing || x.blocks.any Block.away)).foldr insertLaunch []

/-- Whether a launch may place new blocks: it is not refused, and the launch before it in its queue has placed all of its blocks (R270). -/
def State.mayStart (s : State) (x : Launch) : Bool :=
  (x.stage == .ramp || x.stage == .placing) &&
    !(s.launches.any fun y => y.queue == x.queue && x.queue.isSome && decide (y.seq < x.seq) && y.stage != .refused && y.stage != .complete &&
      decide (y.placed < y.header.blocks))

/-! ### Stage 5 -/

/-- The step of a block, in hundredths of a watt (R279). (log 82: DEDUCED) -/
def Launch.step (x : Launch) : Nat :=
  let w := if 3 ≤ x.maxClass then 39 else [5, 15, 25].getD x.maxClass 39
  4 * (4 * w + if 6 ≤ x.maxClass then 240 else 0)

/-- The block of a launch that enters stage 6 next: pre-empted ones first, then the lowest that has not been admitted, and last the pre-empted ones
that wait in `quiet`. -/
def Launch.nextAdmit (x : Launch) : Option Nat :=
  match x.blocks.find? fun y => y.away && !y.idles && y.admitted.isNone with
  | some y => some y.index
  | none =>
    if (x.stage = .ramp ∨ x.stage = .placing) ∧ x.blocks.length < x.header.blocks then some x.blocks.length
    else (x.blocks.find? fun y => y.idles && y.admitted.isNone).map (·.index)

/-- The block that the governor admits next, pinned launches apart (R279, R282, R283). (log 86: DEDUCED) -/
def State.nextAdmit (s : State) : Option (Nat × Nat) :=
  s.inStages.findSome? fun x => if x.header.pinned ∧ x.blocks.isEmpty then none else x.nextAdmit.map fun b => (x.seq, b)

/-- A block enters stage 6 in the current slot; the launch's first one stamps T4. -/
def Launch.admitBlock (x : Launch) (b slot now : Nat) : Launch :=
  let x := if x.blocks.isEmpty then (x.stamp 4 now) else x
  { x with
    stage := if x.stage = .ramp then .placing else x.stage
    blocks := if x.blocks.any fun y => y.index == b then x.blocks.map fun y => if y.index = b then { y with admitted := some slot } else y
      else x.blocks ++ [{ Block.fresh b with admitted := some slot }] }

/-- The whole of a pinned launch enters stage 6, or is refused as a ramp violation (R282, R368). (log 83: DEDUCED) -/
def State.admitPinned (s : State) (x : Launch) : State :=
  let total := x.step * x.header.blocks
  if 100 * s.governor.limit < s.governor.admittedPinned + total then
    let d := s.governor.limit * 65536 + min 65535 ((total + 99) / 100)
    ((s.updLaunch x.seq fun x => { x with stage := .refused }).report x.owner (plainTag 13 0 0 (BitVec.ofNat 32 x.seq) 0) (BitVec.ofNat 32 d) 1
      x.header.imageid).dropWells x.owner
  else
    { s with governor := { s.governor with
        admitted := s.governor.admitted + total
        admittedPinned := s.governor.admittedPinned + total } }.updLaunch x.seq fun x =>
      (List.range x.header.blocks).foldl (fun x b => x.admitBlock b s.governor.slot s.cycle) x

/-- A pinned launch that has left stage 4 and has not entered a slot (R282). -/
def State.pinnedWaits (s : State) (x : Launch) : Bool :=
  x.header.pinned && x.handler.isNone && x.stage == .ramp && x.blocks.isEmpty && s.served x.owner && decide (x.stamps.getD 3 0 ≤ s.governor.slotStart)

/-- The pinned launches that wait enter the slot that begins, in the order of R283, or take their ramp-violation faults (R282, R368). -/
def State.admitAllPinned (s : State) : State :=
  (s.inStages.filter fun x => s.pinnedWaits x).foldl (fun s x => s.admitPinned x) s

/-! ### Room on a cluster (R283) -/

/-- Ordinary resident groups of a core. -/
def State.ordinaryOn (s : State) (core : Nat) : List Group :=
  ((s.groupsOn core).filter fun e => e.1.handler.isNone).map fun e => e.2.2

/-- Scratchpad KiB that blocks hold on a core; a handler group's lies on its own core alone (R325). -/
def State.spadOn (s : State) (core : Nat) : Nat :=
  (s.launches.map fun x => (x.blocks.map fun y =>
    if y.cluster = some (core / 4) ∧ !y.ended ∧ x.handler.elim true (fun h => h.core == core) then x.header.spadKiB else 0).sum).sum

/-- Groups that a block brings to cluster core `j`: all of them, or on return those that have not ended. -/
def Launch.bringsTo (x : Launch) (y : Option Block) (j : Nat) : List Nat :=
  (x.header.groupsOn j).filter fun g => match y with
    | none => true
    | some y => (y.group? g).elim false fun z => !z.freed

/-- Whether a returning block's tile numbers are free on a cluster, and asked for by no older request (R232, R365). -/
def State.tilesFree (s : State) (x : Launch) (y : Block) (k : Nat) : Bool :=
  y.savedTiles.all fun e =>
    !(s.tiles.any fun t => t.core == 4 * k + e.1 && t.t == e.2) &&
    !((s.requests (4 * k + e.1)).any fun r => r.tiles.getLsbD e.2 && lexLt (s.requestKey r.ref) (x.ageKey ++ [y.index]))

/-- Whether a core of a cluster is in repair: a placement that meets it waits until the repair ends (R409). -/
def State.inRepair (s : State) (k : Nat) : Bool := s.firmware.inRepair.elim false fun c => c / 4 == k

/-- Whether a block fits on a cluster now. -/
def State.fits (s : State) (x : Launch) (y : Option Block) (k : Nat) : Bool :=
  (s.owner x.owner).record.clusters.getLsbD k &&
  (List.range 4).all (fun j =>
    let on := s.ordinaryOn (4 * k + j)
    let gs := x.bringsTo y j
    decide (on.length + gs.length + s.reservedOn k (· / 8) ≤ 32) &&
    decide ((on.map (·.allot)).sum + (gs.map x.header.allot).sum + s.reservedOn k id ≤ 256) &&
    decide (s.spadOn (4 * k + j) + x.header.spadKiB ≤ 512)) &&
  y.elim true fun y => s.tilesFree x y k

/-- Register lines of a cluster that no resident group's allotment holds. -/
def State.freeLines (s : State) (k : Nat) : Nat :=
  ((List.range 4).map fun j => 256 - ((s.groupsOn (4 * k + j)).map fun e => e.2.2.allot).sum).sum

/-- The cluster that a block takes: of those that fit, the most free lines, then the lowest number. (log 86: DEDUCED) -/
def State.chooseCluster (s : State) (x : Launch) (y : Option Block) : Option Nat :=
  ((List.range Config.clusters).filter fun k => s.fits x y k).foldl (fun m k => match m with
    | none => some k
    | some i => if s.freeLines i < s.freeLines k then some k else some i) none

/-- The image slots that no block holds which has not ended, ascending (R240, R269). -/
def Launch.freeSlots (x : Launch) : List Nat :=
  (List.range x.header.slots).filter fun n => !(x.blocks.any fun y => y.slot == n && !y.groups.isEmpty && !y.ended)

/-- The image slot that a new block takes: the lowest free one (R269). -/
def Launch.freeSlot (x : Launch) : Option Nat := x.freeSlots.head?

/-! ### Placing a block -/

/-- The residency that a group takes on a core: the lowest that no resident group has. -/
def State.freeResid (s : State) (core : Nat) : Nat :=
  ((List.range 32).find? fun r => !((s.groupsOn core).any fun e => e.2.2.resid == r)).getD 0

/-- The entry clause of a group (R38, R274). -/
def Launch.entryOf (x : Launch) (g : Nat) : Nat := if x.header.producer g then x.entryProd else x.entryCons

/-- The stop mode that groups take at entry (R393, R397). -/
def State.stopModeAtEntry (s : State) (o : Nat) : Bool :=
  let w := (s.owner o).controls.dwin
  decide (w ≠ 0) && ((s.wordVirt o w).elim false fun c => c.getLsbD 1)

/-- Bytes of an owner's debug window are read, and charged to it (R392). (log 47: DESIGN CHOICE) -/
def State.chargeWindow (s : State) (o off n : Nat) : State :=
  let w := (s.owner o).controls.dwin
  if w = 0 then s else s.chargeVirt o (w + off) n

/-- A new block takes its place on a cluster: image slot, pump mappings, residencies, lines and a cleared scratchpad (R27, R39, R66). -/
def State.placeNew (s : State) (x : Launch) (b k slot : Nat) (images : List (Nat × Nat)) : State :=
  let s := s.updBlock x.seq b fun y => { y with cluster := some k, slot := slot, images := images, spad := [], groups := [] }
  let stop := s.stopModeAtEntry x.owner
  let free := (s.owner x.owner).free
  let s := ((s.takeFreeOf x.owner (192 * x.header.groups)).chargeWindow x.owner 0 (4 * x.header.groups))
  let s := (List.range x.header.groups).foldl (fun s g =>
    let core := 4 * k + g % 4
    let z := Group.entry x.header g core (s.freeResid core) (x.header.allot g) (x.entryOf g) (x.header.presentOf g) stop
    let z := { z with homeSince := s.moment, paths := z.paths.map fun p => { p with horizon := s.moment, fileFree := free + 192 * g } }
    s.updBlock x.seq b fun y => { y with groups := y.groups ++ [z] }) s
  s.updLaunch x.seq fun x => { (if x.placed = 0 then x.stamp 5 s.cycle else x) with placed := x.placed + 1 }

/-- The whole scratchpad of a returning block, and its poisoned words (R72, R386). -/
def State.spadBack (s : State) (x : Launch) (y : Block) (core : Nat) : Sparse 8 × List Nat :=
  let n := 1024 * x.header.spadKiB
  let base := x.header.blkOf y.slot
  let bytes := (List.range 4).flatMap fun j =>
    (s.imageRead x y core (base + j * n) n).zipIdx.map fun e => (j * Config.spadBytes + e.2, e.1)
  let bad := (List.range 4).flatMap fun j => ((List.range (n / 4)).filter fun w =>
    (s.imagePa x y (base + j * n + 4 * w)).elim false fun pa => s.poisoned pa 4).map fun w => j * Config.spadBytes + 4 * w
  (Sparse.puts [] bytes, bad)

/-- The tiles of a returning block (R232). -/
def State.tilesBack (s : State) (x : Launch) (y : Block) (k : Nat) : List Tile :=
  y.savedTiles.map fun e =>
    let va := x.header.blkOf y.slot + x.header.tileOff e.1 e.2
    ⟨4 * k + e.1, e.2, x.seq, y.index, tileOfBytes (s.imageRead x y (4 * k) va Config.tileBytes),
     (List.range 288).any fun n => (s.imagePa x y (va + 64 * n)).elim false fun pa => s.poisoned pa 64⟩

/-- Whether a marked block meets a group's header areas (R386). -/
def State.headerPoisoned (s : State) (x : Launch) (y : Block) (z : Group) : Bool :=
  let base := x.header.ctxOf y.slot z.index
  (List.range 176).any fun n => (s.imagePa x y (base + 64 * n)).elim false fun pa => s.poisoned pa 64

/-- The live paths of a group. -/
def Group.liveRefs (z : Group) (l b : Nat) : List PathRef :=
  (List.range 4).filterMap fun k => match z.paths[k]? with
    | some p => if p.valid then some ⟨l, b, z.index, k⟩ else none
    | none => none

/-- The lines that groups of a block hold on cores that they leave are given up (R61). -/
def State.leaveCores (s : State) (y : Block) (l k : Nat) : State :=
  y.groups.foldl (fun s z => if z.core = 4 * k + z.index % 4 then s else (z.lines.map (·.n)).foldl (fun s n => s.giveLine l y.index z.index n) s) s

/-- The writes in transit that the lanes of a block have made or seen: on another die they must see them again (R193, R260). -/
def Block.known (y : Block) : List Nat :=
  y.groups.flatMap (fun z => (z.reads ++ z.wrote).flatMap (·.ids) ++ z.paths.flatMap fun p => p.before ++ p.own.flatMap (·.ids)) ++
  y.order.flatMap (·.2.2) ++ y.phases.flatMap (·.2.2)

/-- A block comes to another die: its writes and its engine payload, and what its lanes have seen, are applied there, and its lanes read that die from
then on (R193, R259). -/
def State.moveDie (s : State) (y : Block) (l k : Nat) : State :=
  let die := dieOf (4 * k)
  if dieOf (y.homeCore (4 * k)) = die then s
  else
    let s := s.carryTo [die] fun t => (t.launch == l && t.block == y.index) || y.known.contains t.id
    s.updBlock l y.index fun y => { y with groups := y.groups.map fun z => { z with homeSince := s.moment } }

/-- A group takes its place on the core of its return: its carving is fresh, and its header areas are read back, those of a group
that has ended apart: none were written. Paths whose origins have all been released meanwhile are ready (R338). (log 54: DEDUCED) -/
def State.returnGroup (s : State) (l b g k : Nat) : State :=
  match s.launch? l, s.block? l b, s.group? l b g with
  | some x, some y, some z =>
    let core := 4 * k + g % 4
    let z := { z with core := core, resid := s.freeResid core, allot := x.header.allot g, ran7 := false }
    if z.done then s.updGroup l b g fun _ => z
    else
    let s := s.chargeImage x y x.owner (x.header.ctxOf y.slot g) 0x2C00
    let back := s.readHeaderAreas x y z
    let bad := s.headerPoisoned x y z
    let s := (s.updGroup l b g fun _ => back).takeFreeOf x.owner 0x3000
    let s := if bad then (back.liveRefs l b).foldl (fun s r => match s.ctx? r with
        | some c => s.faultPath c ⟨11, 5, 0, 3⟩ false
        | none => s) s
      else s
    (back.liveRefs l b).foldl State.resumePath s
  | _, _, _ => s

/-- A block returns to a cluster (R232, R336): its image is copied back and its groups resume. -/
def State.placeBack (s : State) (x : Launch) (b k : Nat) : State :=
  match s.block? x.seq b with
  | none => s
  | some y =>
    let s := (s.leaveCores y x.seq k).moveDie y x.seq k
    let payer := y.payer.getD x.owner
    let (spad, bad) := s.spadBack x y (4 * k)
    let tiles := s.tilesBack x y k
    let s := s.chargeImage x y payer (x.header.blkOf y.slot) (4096 * x.header.spadKiB)
    let s := y.savedTiles.foldl (fun s e => s.chargeImage x y payer (x.header.blkOf y.slot + x.header.tileOff e.1 e.2) Config.tileBytes) s
    let s := { s with tiles := s.tiles ++ tiles }.updBlock x.seq b fun y =>
      { y with cluster := some k, spad := spad, spadPoison := bad, past := [], savedTiles := [], payer := none, quietAway := false, stall := 0 }
    (((y.groups.filter fun z => !z.freed).map (·.index)).foldl (fun s g => s.returnGroup x.seq b g k) s).noteCluster k

/-! ### Image pages (R360, R361) -/

/-- The pages of a block's images in slot `n`. -/
def Header.imagePages (h : Header) (n : Nat) : List Nat :=
  ((List.range (h.groups * h.ctxSize / 8192)).map fun p => h.ctxOf n 0 + 8192 * p) ++
  (List.range (h.blkSize / 8192)).map fun p => h.blkOf n + 8192 * p

/-- The pump mappings of a block, or the first page without a writable translation and its KIND. (log 52: DEDUCED) -/
def State.lookupImages (s : State) (x : Launch) (slot : Nat) : Except (Nat × Nat) (List (Nat × Nat)) :=
  (x.header.imagePages slot).mapM fun va =>
    match (s.owner x.owner).translate va true with
    | .ok pa => .ok (va, pa)
    | .error kind => .error (va, kind)

/-- A page of a block's images that has no writable translation becomes an origin, of a write; without a handler the launch is refused (R361). (log 52: DEDUCED) -/
def State.lookupMiss (s : State) (x : Launch) (b va kind : Nat) : State :=
  let tag := [BitVec.ofNat 32 va, BitVec.ofNat 32 (va / 2 ^ 32), BitVec.ofNat 32 (kind * 2 ^ 28 + 2 ^ 26),
    BitVec.ofNat 32 x.seq, BitVec.ofNat 32 b, 0, 0, 0]
  match s.route x kind 0 va tag with
  | .stop t d => (s.collect x.owner kind 0 tag (.pumpLookup x.seq b va) false 1 none (addr := va)).stopOwner x.owner t d x.header.imageid
  | .collect => s.collect x.owner kind 0 tag (.pumpLookup x.seq b va) false 1 (if kind = 1 then some (0, va / 8192) else none) (addr := va)
  | .noHandler => s.refuse x.seq 6

/-- Whether a lookup of a launch's blocks waits for a handler. -/
def State.lookupWaits (s : State) (l : Nat) : Bool :=
  s.origins.any fun g => match g.source with
    | .pumpLookup k _ _ => k == l
    | _ => false

/-! ### Stage 6 -/

/-- The block of a launch that is placed next; one that fits nowhere holds back the later ones (R44, R283). (log 86, 87: DEDUCED) -/
def State.headBlock (s : State) (x : Launch) : Option Block :=
  x.firstBlock (·.admitted.isSome) fun y => s.mayStart x && y.unplaced && y.admitted.isSome

/-- All blocks of a co-resident launch that wait, once every one of them has been admitted (R284, R335). -/
def Launch.together (x : Launch) : List Block :=
  let waiting := x.blocks.filter fun y => y.away || y.unplaced
  if x.blocks.length < x.header.blocks ∨ waiting.any fun y => y.admitted.isNone then [] else waiting

/-- Where a block goes if it can be placed now: to the cluster that it takes, once no core of that is in repair (R409). -/
def State.roomFor (s : State) (x : Launch) (y : Block) : Option Nat :=
  if y.unplaced ∧ (x.freeSlot.isNone ∨ s.lookupWaits x.seq) then none
  else (s.chooseCluster x (if y.unplaced then none else some y)).filter fun k => !s.inRepair k

/-- Place a block that fits: its image pages are looked up first. (log 52: DEDUCED) -/
def State.placeBlock (s : State) (x : Launch) (y : Block) : State :=
  if y.unplaced then
    match x.freeSlot with
    | none => s
    | some slot =>
      match s.lookupImages x slot with
      | .error (va, kind) => s.lookupMiss x y.index va kind
      | .ok images =>
        match s.roomFor x y with
        | some k => s.placeNew x y.index k slot images
        | none => s
  else
    match s.roomFor x y with
    | some k => s.placeBack x y.index k
    | none => s

/-- Place every block of a co-resident launch, one after the other. -/
def State.placeAll (s : State) (l : Nat) (ys : List Nat) : State :=
  ys.foldl (fun s b => match s.launch? l, s.block? l b with
    | some x, some y => s.placeBlock x y
    | _, _ => s) s

/-- Whether blocks of a launch are all resident. -/
def State.allResident (s : State) (l : Nat) (ys : List Nat) : Bool := ys.all fun b => (s.block? l b).elim false fun y => y.cluster.isSome

/-- Whether a launch's next block, or all of them where it is co-resident, can be placed now. -/
def State.canPlace (s : State) (x : Launch) : Bool :=
  if x.header.coresident then
    let ys := x.together.map (·.index)
    !ys.isEmpty && (s.mayStart x || x.stage == .refused) && !s.lookupWaits x.seq && (s.placeAll x.seq ys).allResident x.seq ys
  else (s.headBlock x).elim false fun y => (s.roomFor x y).isSome

/-! ### Admission (R279) -/

/-- The rises already expected in a slot: the steps of the blocks that entered stage 6 in an earlier slot, have yet to be placed, and may be placed
now: their launch's next block has room, and so have they (R279). (log 82: DEDUCED) -/
def State.expectedRises (s : State) : Nat :=
  (s.inStages.map fun x =>
    if s.canPlace x then
      x.step * x.blocks.countP fun y =>
        ((y.unplaced && s.mayStart x) || y.away) && y.admitted.elim false (fun n => decide (n < s.governor.slot)) && (s.roomFor x y).isSome
    else 0).sum

/-- BLOCK_ADMIT (R279, R282): the next block in order enters the current ramp slot while the steps admitted in it, and the rises expected in it, stay
within LIMIT. A pinned launch enters in the first slot that begins after it left stage 4, whatever waits before it. (log 82: DEDUCED) -/
def execBlockAdmit (l b : Nat) (s : State) : Host.Outcome State Fault Refusal :=
  match s.launch? l with
  | none => .next s
  | some x =>
    if x.header.pinned ∧ x.blocks.isEmpty then .next (if s.pinnedWaits x then s.admitPinned x else s)
    else if s.nextAdmit != some (l, b) then .next s
    else if s.governor.admitted + s.expectedRises + x.step ≤ 100 * s.governor.limit then
      .next ({ s with governor := { s.governor with admitted := s.governor.admitted + x.step } }.updLaunch l fun x =>
        x.admitBlock b s.governor.slot s.cycle)
    else .next s

/-! ### Lookups and placement (R360, R361) -/

/-- The first block of a launch whose image pages must be looked up and are not all mapped, with the page and its KIND: the lookups come before any
residency is taken, of all blocks that are placed together, each in the slot that it takes (R284, R360, R361). -/
def State.lookupNext (s : State) (x : Launch) : Option (Nat × Nat × Nat) :=
  if !s.mayStart x || s.lookupWaits x.seq then none
  else
    let ys := if x.header.coresident then x.together else (s.headBlock x).toList
    ((ys.filter fun y => y.unplaced).zip x.freeSlots).findSome? fun e => match s.lookupImages x e.2 with
      | .error p => some (e.1.index, p)
      | .ok _ => none

/-- Whether a launch whose block waits in stage 6, new or away, can no longer fit (R284, R332). -/
def State.fitsNoMore (s : State) (x : Launch) (y : Block) : Bool :=
  y.admitted.isSome && ((y.unplaced && s.mayStart x) || (y.away && (x.stage == .ramp || x.stage == .placing))) && s.neverFits x.owner x.header

/-- BLOCK_PLACE (R283 to R285, R332, R360): the first launch in order whose next block can be placed places it; a co-resident launch places all of its
blocks in the same cycle or none. A block whose image pages have no writable translation raises their faults instead; a launch that can fit no more
is refused. (log 86: DEDUCED) -/
def execBlockPlace (l b : Nat) (s : State) : Host.Outcome State Fault Refusal :=
  match s.launch? l, s.block? l b with
  | some x, some y =>
    if s.fitsNoMore x y then .next (s.refuse l 3)
    else match s.lookupNext x with
    | some (n, va, kind) => .next (if n = b then s.lookupMiss x b va kind else s)
    | none =>
      if ((s.inStages.find? fun x => s.canPlace x).map (·.seq)) != some l then .next s
      else if x.header.coresident then .next (s.placeAll l (x.together.map (·.index)))
      else if (s.headBlock x).map (·.index) = some b then .next (s.placeBlock x y)
      else .next s
  | _, _ => .next s

/-! ### The end of a launch -/

/-- The time record (R319). -/
def Launch.timeRecord (x : Launch) : List Byte :=
  leBytes 4 x.seq ++ leBytes 4 ((if x.cacheHit then 1 else 0) + if x.header.pinned then 2 else 0) ++ leBytes 8 x.header.imageid.toNat ++
  (List.range 8).flatMap (fun k => leBytes 8 (x.stamps.getD k 0)) ++
  leBytes 8 x.issued ++ leBytes 8 x.held ++ leBytes 8 x.ballast ++ leBytes 8 x.tierstall ++ leBytes 4 x.preempts ++ List.replicate 12 0

/-- Write a launch's time record to the owner's ring; a dropped one advances SDROPS (R318, R319). -/
def State.writeTimeRecord (s : State) (x : Launch) : State :=
  let c := (s.owner x.owner).controls
  if c.tring = 0 then s
  else
    match s.ringPost x.owner c.tring c.trsize 128 x.timeRecord with
    | (t, true) => t
    | (t, false) => t.updOwner x.owner fun o => o.bump 30 1

/-- DONE and USED of a replay control (R402). -/
def State.replayDone (s : State) (x : Launch) : State :=
  match x.replay with
  | none => s
  | some r =>
    let w := (s.owner x.owner).controls.dwin + 0x1C0
    if (s.owner x.owner).controls.dwin = 0 then s
    else (s.writeVirt x.owner (w + 0x20) (leBytes 8 r.used)).writeVirt x.owner (w + 0x28) (leBytes 4 (2 + if r.full then 1 else 0))

/-- LAUNCH_COMPLETE (R240, R271, R309, R319): after every block has ended and every write of the launch, engine payloads excepted, is performed at
`.sys`, the time record and then the completion word are written; a word that reached memory raises cause 0. -/
def execLaunchComplete (l : Nat) (s : State) : Host.Outcome State Fault Refusal :=
  match s.launch? l with
  | none => .next s
  | some x =>
    if x.stage != .placing || x.handler.isSome || !x.over || !s.served x.owner then .next s
    else
      let s1 := (s.carry fun t => t.launch == l && t.lane != 98).updLaunch l fun x => { x with stage := .complete }.stamp 7 s.cycle
      let x := x.stamp 7 s.cycle
      let s2 := ((s1.dropWells x.owner).writeTimeRecord x).replayDone x
      if x.header.doneaddr = 0 then .next s2
      else
        let s3 := s2.writeVirt x.owner x.header.doneaddr (leBytes 4 x.header.doneval.toNat)
        .next (if s2.canWrite x.owner x.header.doneaddr 4 then s3.interrupt x.owner 0 else s3)

end Sys2Proof.Machine
end

