-- ==== Sys2Proof/Machine/Handlers.lean ====
section
/-! DEFINITION. Launching handler groups from the collectors (R324 to R328, R330, R351 to R354). -/

namespace Sys2Proof.Machine

/-! ### The division of the reserve (R352) -/

/-- Handler slots of depth 1. -/
def Owner.slotsOne (o : Owner) : Nat := o.record.rsvslots - o.record.rsvslots / 2

/-- Reserve pages of depth 1. -/
def Owner.pagesOne (o : Owner) : Nat := o.record.rsvlen - o.record.rsvlen / 2

/-- The slot numbers of a depth. -/
def Owner.slotsOf (o : Owner) (depth : Nat) : List Nat :=
  (List.range o.record.rsvslots).filter fun n => decide (n < o.slotsOne) == decide (depth = 1)

/-- Whether a range lies within the pages of a depth. -/
def Owner.inDepth (o : Owner) (depth va n : Nat) : Bool :=
  let lo := o.record.rsvbase + if depth = 1 then 0 else 8192 * o.pagesOne
  let hi := o.record.rsvbase + 8192 * if depth = 1 then o.pagesOne else o.record.rsvlen
  decide (lo ≤ va) && decide (va + n ≤ hi)

/-- Whether a range lies within the reserve. -/
def Owner.withinReserve (o : Owner) (va n : Nat) : Bool :=
  decide (o.record.rsvbase ≤ va) && decide (va + n ≤ o.record.rsvbase + 8192 * o.record.rsvlen)

/-- Whether a handler's image, all the code that can be reached in it, lies in the reserve (R275, R325). -/
def State.imageInside (s : State) (o : Nat) (h : Header) : Bool :=
  match s.reach o 262144 [h.image] [] with
  | .ok cs => cs.all fun c => (s.owner o).withinReserve c.addr (4 * (c.words.length + 1))
  | .error _ => false

/-- Whether a handler header breaks R325 or R352; `slot` is the slot that its group takes. -/
def Owner.handlerBad (o : Owner) (va : Nat) (h : Header) (slot : Nat) : Bool :=
  let slotOk (n : Nat) : Bool :=
    let depth := if n < o.slotsOne then 1 else 2
    let ok (a size : Nat) : Bool := if n < o.record.rsvslots then o.inDepth depth a size else o.withinReserve a size
    ok (h.ctxOf n 0) h.ctxSize && ok (h.blkOf n) h.blkSize
  h.sharedBad || decide (h.groups ≠ 1) || h.roles || h.coresident || h.pinned || decide (va % 64 ≠ 0) || !o.withinReserve va 256 ||
  decide (h.slots ≤ slot) || !((List.range h.slots).all slotOk)

/-! ### Collectors (R326) -/

/-- The handler groups of an owner that run. -/
def State.handlersOf (s : State) (o : Nat) : List (Launch × HandlerInfo) :=
  (s.launches.filter fun x => x.owner == o && x.stage != .complete).filterMap fun x => x.handler.map fun h => (x, h)

/-- Whether an origin belongs to the collector of a handler kind and depth. -/
def Origin.inCollector (g : Origin) (o : Nat) (walk : Bool) (depth : Nat) : Bool :=
  g.owner == o && g.state == .collected && (decide (g.kind = 1) == walk) && g.depth == depth

/-- The origins that a collector holds, in arrival order. -/
def State.collector (s : State) (o : Nat) (walk : Bool) (depth : Nat) : List Origin :=
  s.origins.filter fun g => g.inCollector o walk depth && s.reported g

/-- Whether a collector launches now: 96 lanes, or 128 cycles after its first (R326). (log 68: DEDUCED) -/
def State.collectorDue (s : State) (gs : List Origin) : Bool :=
  decide (96 ≤ gs.length) || gs.head?.elim false fun g => decide (g.at_ + 128 ≤ s.cycle)

/-! ### Placing a handler group (R328, R352) -/

/-- The core that an origin lies on. -/
def Origin.core? (g : Origin) : Option Nat :=
  match g.source with
  | .lane _ _ | .path _ _ | .engine _ => some (bits (g.tag.getD 2 0).toNat 9 0)
  | _ => none

/-- The core that holds the most origins of the lanes, the lowest on a tie. -/
def busiestCore (gs : List Origin) : Option Nat :=
  let cores := gs.filterMap Origin.core?
  (cores.dedup).foldl (fun m c => match m with
    | none => some c
    | some d => if cores.count d < cores.count c ∨ (cores.count d = cores.count c ∧ c < d) then some c else some d) none

/-- Whether a core has a reserved residency that a depth may take, and the scratchpad of the header. -/
def State.handlerFits (s : State) (o depth spadKiB core : Nat) : Bool :=
  let r := (s.owner o).record.rsvlines
  let on := (s.handlersOf o).filter fun e => e.2.core == core
  let one := if 16 ≤ r then r / 8 - 1 else if 8 ≤ r then 1 else 0
  (s.owner o).record.clusters.getLsbD (core / 4) && decide (on.length < r / 8) &&
  (decide (depth ≠ 1) || decide (on.countP (fun e => e.2.depth == 1) < one)) &&
  decide (s.spadOn core + spadKiB ≤ 512)

/-- The core that a handler group takes; one in repair is waited for (R409). -/
def State.handlerCore (s : State) (o depth spadKiB : Nat) (gs : List Origin) : Option Nat :=
  (((busiestCore gs).filter fun c => s.handlerFits o depth spadKiB c).or
    ((List.range Config.cores).find? fun c => s.handlerFits o depth spadKiB c)).filter fun c => s.firmware.inRepair != some c

/-! ### The group -/

/-- The launch of a handler group (R325, R327): lane `i` stands for origin `i`. -/
def State.handlerLaunch (s : State) (o : Nat) (walk : Bool) (depth slot core : Nat) (h : Header) (gs : List Origin) : Launch :=
  let x := Launch.fresh s.nextSeq o none { h with blocks := 1 } []
  let z := Group.entry h 0 core (s.freeResid core) 8 h.image (laneSet (List.range gs.length)) false
  let z := { z with
    tags := gs.zipIdx.map fun e => ⟨e.2, e.1.id, e.1.detail, e.1.tag⟩
    oper := Sparse.puts [] (gs.zipIdx.map fun e => (e.2, e.1.detail))
    homeSince := s.moment
    paths := z.paths.map fun p => { p with horizon := s.moment, fileFree := (s.owner o).free } }
  { x with
    stage := .placing
    placed := 1
    handler := some ⟨walk, depth, slot, core⟩
    blocks := [{ Block.fresh slot with cluster := some (core / 4), slot := slot, groups := [z] }] }

/-- An origin whose handler is gone from the table leaves (R330): its lanes leave presence, an engine record or a read is skipped. (log 76: DEDUCED) -/
def State.abandon (s : State) (g : Origin) (rep : Bool) : State :=
  let s := s.removeOrigin g.id
  let imageid (r : PathRef) : DWord := (s.launch? r.launch).elim 0 (·.header.imageid)
  let gone (r : PathRef) (m : Lanes) : State :=
    let s := if rep then s.report g.owner g.tag g.detail 0 (imageid r) else s
    match s.ctx? r with
    | some c => (s.leave c (m &&& c.path.present)).resumePath r
    | none => s
  match g.source with
  | .lane r i => gone r (laneSet [i])
  | .path r _ => gone r (BitVec.allOnes 96)
  | .engine e =>
    ((s.updRecord e fun x => x.skip g.kind g.detail).report g.owner g.tag g.detail 0
      ((s.records.find? fun x => x.id == e).elim 0 fun x => (s.launch? x.launch).elim 0 (·.header.imageid)))
  | _ => s.releaseOne g false

/-- Whether an origin waits for no lane of a handler: neither in one nor behind one, whose own origin may be gone (R326). -/
def State.unhandled (s : State) (g : Origin) : Bool :=
  match g.state with
  | .collected => true
  | .behind id => s.origins.any fun h => h.id == id && h.state == .collected
  | .handled _ => false

/-- Whether an origin's path, if it has one, belongs to a resident block: away, its lanes stay as they are until the block is back. -/
def State.present (s : State) (g : Origin) : Bool :=
  match g.source with
  | .lane r _ | .path r _ => (s.block? r.launch r.block).elim true fun y => y.cluster.isSome
  | _ => true

/-- Every origin whose kind of handler the table lacks, that may be reported, and that waits for no handler lane, leaves, with one report for each
reported word (R321, R330). (log 69: DEDUCED) -/
def State.abandonAll (s : State) (o : Nat) : State :=
  let absent (kind : Nat) : Bool := match s.handlerOf o kind with
    | .ok 0 => true
    | _ => false
  let gs := s.origins.filter fun g => g.owner == o && absent g.kind && s.unhandled g && s.reported g && s.present g
  (gs.foldl (fun (acc : State × List PathRef) g =>
    match g.source with
    | .lane r _ | .path r _ => (acc.1.abandon g (!acc.2.contains r), r :: acc.2)
    | _ => (acc.1.abandon g true, acc.2)) (s, [])).1

/-- Launch a collector's origins as a handler group, once its header has been read; its wells are taken as those of any launch (R246, R325).
 (log 70: DEDUCED) -/
def State.launchHandler (s : State) (o : Nat) (walk : Bool) (depth va : Nat) (gs : List Origin) : State :=
  let w := s.owner o
  match (w.slotsOf depth).find? fun n => !((s.handlersOf o).any fun e => e.2.slot == n) with
  | none => s
  | some slot =>
    let bad : State := s.stopOwner o (plainTag 12 (BitVec.ofNat 32 va) (BitVec.ofNat 32 (va / 2 ^ 32)) 0 0) 13 0
    if va % 64 ≠ 0 ∨ !w.withinReserve va 256 then bad
    else
    match s.reserveRead o va 256 with
    | .error e => s.stopOwner o (reserveTag e) (BitVec.ofNat 32 e.2.1) 0
    | .ok bs =>
      let h := Header.ofWords (bytesWords 64 bs)
      if w.handlerBad va h slot || !s.imageInside o h then
        s.stopOwner o (plainTag 12 (BitVec.ofNat 32 va) (BitVec.ofNat 32 (va / 2 ^ 32)) 0 0) 13 h.imageid
      else
        match s.handlerCore o depth h.spadKiB gs with
        | none => s
        | some core =>
          let x := s.handlerLaunch o walk depth slot core h gs
          let wells := (s.newWells x).toOption.getD []
          let ids := gs.map (·.id)
          let take (g : Origin) : Origin := if ids.contains g.id then { g with state := .handled x.seq } else g
          ({ s with
            nextSeq := s.nextSeq + 1
            launches := s.launches ++ [x]
            origins := s.origins.map take }.takeWells x wells).chargeCode o va 256

/-- An origin of a collector whose fault stops its owner (R351, R352, R354): the tag and DETAIL of the stop, and its launch's IMAGEID. -/
def State.stopOf (s : State) (gs : List Origin) : Option (List Word × Word × DWord) :=
  gs.findSome? fun g => match s.originRoute g with
    | .stop t d => some (t, d, match g.source with
      | .lane r _ | .path r _ => (s.launch? r.launch).elim 0 (·.header.imageid)
      | _ => 0)
    | _ => none

/-- HANDLER_COLLECTOR_LAUNCH (R324 to R328, R351 to R354): a fault that stops the owner does so once it may be reported; a collector that is due takes
a free slot and core of its depth; a reserve that cannot be read, or a header that breaks its rules, stops the owner; without a header the origins
leave (R330). (log 68: DEDUCED) -/
def execHandlerCollectorLaunch (o : Nat) (walk : Bool) (depth : Nat) (s : State) : Host.Outcome State Fault Refusal :=
  let all := s.collector o walk depth
  if !s.served o || all.isEmpty then .next s
  else
    match s.stopOf all with
    | some (t, d, image) => .next (s.stopOwner o t d image)
    | none =>
      match s.handlerOf o (if walk then 1 else 0) with
      | .error e => .next (s.stopOwner o (reserveTag e) (BitVec.ofNat 32 e.2.1) 0)
      | .ok 0 => .next (s.abandonAll o)
      | .ok va => .next (if s.collectorDue (all.take 96) then s.launchHandler o walk depth va (all.take 96) else s)

end Sys2Proof.Machine
end

