-- ==== Sys2Proof/Machine/OwnerServices.lean ====
section
/-! DEFINITION. Owner services under stress: the causes of pre-emption and their victims (R44, R335, R337, R352, R359, R364, R365), metering periods,
throttling and caps (R300, R356 to R358), and the hang watchdog (R369 to R371). -/

namespace Sys2Proof.Machine

/-! ### Victims (R335) -/

/-- A block of an ordinary launch that is resident and has not ended. -/
def Block.holds (y : Block) (k : Nat) : Bool := y.cluster == some k && y.unfinished

/-- Whether an owner has been throttled for 60,000 consecutive cycles (R359). -/
def Owner.longThrottled (o : Owner) : Bool := o.throttled && decide (60000 ≤ o.throttledFor)

/-- Whether a launch's waiting block, or all of its blocks where it is co-resident, can go to stage 6's clusters; of a block that is not
co-resident, to cluster `k`. -/
def State.roomOn (s : State) (l k : Nat) : Bool :=
  match s.launch? l with
  | none => false
  | some x =>
    if x.header.coresident then s.canPlace x
    else (s.headBlock x).elim false fun y => (s.roomFor x y).isSome && s.fits x (if y.unplaced then none else some y) k && !s.inRepair k

/-- Whether a block is faulted: it has been in the state of R337 for 60,000 cycles. -/
def State.faultedNow (s : State) (x : Launch) (y : Block) : Bool := y.faulted || (decide (60000 ≤ y.stall) && s.stuck x y)

/-- Whether a block is a victim of a cause for a waiting block of launch `w` (`fresh`: a block that was never placed). (log 87: DEDUCED) -/
def State.isVictim (s : State) (w : Launch) (fresh : Bool) (cause : PreemptCause) (x : Launch) (y : Block) : Bool :=
  x.handler.isNone &&
  match cause with
  | .faulted => s.faultedNow x y
  | .quiet => fresh && x.seq == w.seq && !x.header.coresident && s.blockQuiet x y
  | .throttling => x.owner != w.owner && (s.owner x.owner).longThrottled && !x.header.pinned && !x.header.coresident &&
    y.cluster.elim false fun k => (s.preemptBlock x.seq y.index).roomOn w.seq k
  | .prio => x.owner == w.owner && decide (x.header.prio < w.header.prio) && !x.header.pinned
  | _ => false

/-- The order in which victims of a cause are taken: smaller keys first. PRIO takes the lowest PRIO, then the youngest launch; throttling the
youngest launch; then the highest block index. (log 87: DEDUCED) -/
def victimKey (cause : PreemptCause) (x : Launch) (y : Block) : List Nat :=
  (match cause with
    | .prio => [x.header.prio]
    | _ => []) ++ x.ageKey.map (fun n => 2 ^ 64 - n) ++ [2 ^ 32 - y.index]

/-- Insert a victim in order. -/
def insertVictim (cause : PreemptCause) (v : Launch × Block) : List (Launch × Block) → List (Launch × Block)
  | [] => [v]
  | u :: r => if lexLt (victimKey cause v.1 v.2) (victimKey cause u.1 u.2) then v :: u :: r else u :: insertVictim cause v r

/-- The victims of a cause on a cluster, in order. (log 87: DEDUCED) -/
def State.victims (s : State) (w : Launch) (fresh : Bool) (cause : PreemptCause) (k : Nat) : List (Launch × Block) :=
  (s.launches.flatMap fun x => (x.blocks.filter fun y => y.holds k && s.isVictim w fresh cause x y).map fun y => (x, y)).foldr
    (insertVictim cause) []

/-- The blocks that leave with a victim: of a co-resident launch, all of them. (log 87: DEDUCED) -/
def Launch.leavers (x : Launch) (y : Block) : List (Nat × Nat) :=
  if x.header.coresident then (x.blocks.filter fun z => z.cluster.isSome && z.unfinished).map fun z => (x.seq, z.index)
  else [(x.seq, y.index)]

/-- Pre-empt blocks one after the other. -/
def State.preemptAll (s : State) (vs : List (Nat × Nat)) (payer : Option Nat) : State := vs.foldl (fun s v => s.preemptBlock v.1 v.2 payer) s

/-- Take victims in order until there is room; the blocks taken. -/
def takeVictims (s : State) (room : State → Bool) : List (List (Nat × Nat)) → List (Nat × Nat) → Option (List (Nat × Nat))
  | [], _ => none
  | v :: r, taken =>
    let taken := (taken ++ v).dedup
    if room (s.preemptAll taken none) then some taken else takeVictims s room r taken

/-- The launches with a block that waits in stage 6, its image pages looked up. -/
def State.waiters (s : State) : List Launch :=
  s.inStages.filter fun x => !s.canPlace x && !s.lookupWaits x.seq && (s.lookupNext x).isNone &&
    if x.header.coresident then !x.together.isEmpty
    else (s.headBlock x).elim false fun y => (!y.unplaced || x.freeSlot.isSome) && (s.chooseCluster x (if y.unplaced then none else some y)).isNone

/-- Whether a block of a launch waits in stage 6 that was never placed, be it behind one that is away (R44). (log 87: DEDUCED) -/
def State.waitsFresh (s : State) (x : Launch) : Bool :=
  s.mayStart x && x.freeSlot.isSome && x.blocks.any fun y => y.unplaced && y.admitted.isSome

/-- The blocks that a cause gives up for a waiting launch: on the lowest cluster where they make room, or, for a co-resident launch, on as many
clusters as it takes, lowest first. (log 87: DEDUCED) -/
def State.planFor (s : State) (x : Launch) (cause : PreemptCause) : Option (List (Nat × Nat)) :=
  let vs (k : Nat) : List (List (Nat × Nat)) := (s.victims x (s.waitsFresh x) cause k).map fun v => v.1.leavers v.2
  let ks := s.clustersOf x.owner
  match ks.findSome? fun k => takeVictims s (fun t => t.roomOn x.seq k) (vs k) [] with
  | some p => some p
  | none => if x.header.coresident then takeVictims s (fun t => t.roomOn x.seq 0) (ks.flatMap vs) [] else none

/-- The cause and the blocks that leave for the first waiting launch for which any can make room. (log 87: DEDUCED) -/
def State.preemptPlan (s : State) : Option (PreemptCause × List (Nat × Nat)) :=
  s.waiters.findSome? fun x => [PreemptCause.faulted, .quiet, .throttling, .prio].findSome? fun c => (s.planFor x c).map fun p => (c, p)

/-- The handler kinds and depths of an owner's collectors. -/
def collectors : List (Nat × Bool × Nat) :=
  (List.range Config.owners).flatMap fun o => [(o, true, 1), (o, true, 2), (o, false, 1), (o, false, 2)]

/-- A collector that waits only for scratchpad: the core that R328 names, and the KiB it needs (R352). (log 88: DEDUCED) -/
def State.padWaiter (s : State) (o : Nat) (walk : Bool) (depth : Nat) : Option (Nat × Nat) :=
  let gs := (s.collector o walk depth).take 96
  if !s.served o || !s.collectorDue gs || ((s.owner o).slotsOf depth).all (fun n => (s.handlersOf o).any fun e => e.2.slot == n) then none
  else
    match s.handlerOf o (if walk then 1 else 0) with
    | .ok va =>
      match s.reserveRead o va 256 with
      | .ok bs =>
        let h := Header.ofWords (bytesWords 64 bs)
        match (busiestCore gs).or ((List.range Config.cores).find? fun c => s.handlerFits o depth 0 c) with
        | some c =>
          if va ≠ 0 ∧ !((List.range Config.cores).any fun c => s.handlerFits o depth h.spadKiB c) ∧ s.handlerFits o depth 0 c then some (c, h.spadKiB)
          else none
        | none => none
      | .error _ => none
    | .error _ => none

/-- The faulted blocks that leave for such a collector. (log 88: DEDUCED) -/
def State.padPlan (s : State) : Option (List (Nat × Nat)) :=
  collectors.findSome? fun e =>
    (s.padWaiter e.1 e.2.1 e.2.2).bind fun w =>
      let vs := (s.victims (Launch.fresh 0 e.1 none Header.blank []) false .faulted (w.1 / 4)).map fun v => v.1.leavers v.2
      takeVictims s (fun t => t.handlerFits e.1 e.2.2 w.2 w.1) vs []

/-! ### Contention (R364, R365) -/

/-- The request that has been the oldest on a core for 3000 cycles, unsatisfied. -/
def State.longOldest (s : State) (core : Nat) : Option Request :=
  (s.contention.find? fun e => e.1 == core && decide (3000 ≤ e.2.2)).bind fun e =>
    if s.oldestRequest core = some e.2.1 then (s.requests core).find? fun r => r.ref == e.2.1 else none

/-- Whether a block holds a tile, a record or a granule on a core that a request asks for. -/
def State.holdsFor (s : State) (core : Nat) (r : Request) (l b : Nat) : Bool :=
  (s.tiles.any fun t => t.core == core && t.launch == l && t.block == b && r.tiles.getLsbD t.t) ||
  (r.q.isSome && s.reservations.any fun v => v.core == core && v.launch == l && v.block == b &&
    (r.q == some v.q || (decide (r.first < v.base + v.len + 1) && decide (v.base < r.first + r.count))))

/-- The blocks that leave for the oldest request of a core. -/
def State.contentionPlan (s : State) (core : Nat) : List (Nat × Nat) :=
  match s.longOldest core with
  | none => []
  | some r =>
    match s.launch? r.ref.launch with
    | none => []
    | some w =>
      s.launches.flatMap fun x => (x.blocks.filter fun y =>
        y.holds (core / 4) && x.handler.isNone && !x.header.pinned && !x.header.coresident &&
        (x.seq != r.ref.launch || y.index != r.ref.block) &&
        lexLt (w.ageKey ++ [r.ref.block]) (x.ageKey ++ [y.index]) && s.holdsFor core r x.seq y.index).map fun y => (x.seq, y.index)

/-- The owner of the oldest request of a core. -/
def State.contender (s : State) (core : Nat) : Option Nat :=
  (s.longOldest core).bind fun r => (s.launch? r.ref.launch).map (·.owner)

/-- CONTENTION_PREEMPT (R363 to R365): younger blocks that hold what the oldest request of a core has waited for through 3000 cycles are pre-empted,
and the request's owner pays for their copies. -/
def execContentionPreempt (core : Nat) (s : State) : Host.Outcome State Fault Refusal :=
  .next (s.preemptAll (s.contentionPlan core) (s.contender core))

/-! ### Pre-emption as an event -/

/-- Whether a block is pre-empted now for a cause that needs no waiting block: its owner is stopped, reset or migrating, or its core is in repair
(R354, R388, R390, R408). A co-resident launch leaves whole. -/
def State.mustLeave (s : State) (l : Nat) (cause : PreemptCause) (y : Block) : Bool :=
  match s.launch? l with
  | none => false
  | some x =>
    x.handler.isNone &&
    match cause with
    | .ownerStop => (s.owner x.owner).stopped
    | .ownerReset => !(s.owner x.owner).valid
    | .migration => (s.owner x.owner).migrating.isSome && (s.handlersOf x.owner).isEmpty
    | .repair => (s.firmware.inRepair.elim false fun c => y.cluster == some (c / 4))
    | _ => false

/-- PREEMPT (R335 to R338): the block is among those that a cause gives up now; they all leave. -/
def execPreempt (l b : Nat) (cause : PreemptCause) (s : State) : Host.Outcome State Fault Refusal :=
  match s.launch? l, s.block? l b with
  | some x, some y =>
    match cause with
    | .contention =>
      match (List.range Config.cores).find? fun c => (s.contentionPlan c).contains (l, b) with
      | some c => .next (s.preemptAll (s.contentionPlan c) (s.contender c))
      | none => .next s
    | .faulted =>
      match s.padPlan.filter fun p => p.contains (l, b) with
      | some p => .next (s.preemptAll p none)
      | none => .next ((s.preemptPlan.filter fun p => p.1 == .faulted && p.2.contains (l, b)).elim s fun p => s.preemptAll p.2 none)
    | .quiet | .throttling | .prio =>
      .next ((s.preemptPlan.filter fun p => p.1 == cause && p.2.contains (l, b)).elim s fun p => s.preemptAll p.2 none)
    | .ownerStop | .ownerReset | .migration | .repair =>
      .next (if y.cluster.isSome ∧ s.mustLeave l cause y then s.preemptAll (x.leavers y) none else s)
  | _, _ => .next s

/-- FAULTED_BLOCK (R337): 60,000 consecutive cycles without a ready path and with one that waits for a handler. -/
def execFaultedBlock (l b : Nat) (s : State) : Host.Outcome State Fault Refusal :=
  .next ((s.launch? l).elim s fun x => s.updBlock l b fun y => { y with faulted := s.faultedNow x y })

/-- THROTTLING_VICTIM (R359): a block of an owner throttled for 60,000 cycles gives way to a waiting block of another owner. -/
def execThrottlingVictim (l b : Nat) (s : State) : Host.Outcome State Fault Refusal :=
  .next ((s.preemptPlan.filter fun p => p.1 == .throttling && p.2.contains (l, b)).elim s fun p => s.preemptAll p.2 none)

/-! ### Metering periods and caps (R300, R316, R356 to R358, R392) -/

/-- A debug window base that breaks R392 is taken as 0. (log 94: DEDUCED) -/
def Owner.windowBase (o : Owner) (w : Nat) : Nat := if w % 4096 = 0 ∧ o.inDepth 1 w 4096 then w else 0

/-- An owner at a period boundary: caps reset, and the pending controls take effect. -/
def Owner.newPeriod (o : Owner) : Owner :=
  let o := o.selWritten.foldl (fun o k => { o with counters := o.counters.put (32 + k) 0 }) o
  { o with
    controls := { o.pending with dwin := o.windowBase o.pending.dwin }
    selWritten := []
    periodIssued := 0
    periodHandler := 0
    periodHbm := 0
    periodRes := 0
    periodEngine := 0
    throttled := false
    throttledFor := 0
    rsvSpent := false
    capHeld := false
    reportedQueues := []
    reportedPages := [] }

/-- Whether the metering period in force is over. -/
def State.periodDue (s : State) : Bool := decide ((s.period + 1) * Config.period ≤ s.cycle)

/-- A path forgets what it has read of the selectable counters that clear (R315, R316). -/
def Path.forget (ks : List Nat) (p : Path) : Path := { p with ctrSeen := ks.foldl (fun m k => m.put (32 + k) 0) p.ctrSeen }

/-- The paths of a launch forget what they have read of the counters that its owner clears. -/
def Launch.forget (ks : List Nat) (x : Launch) : Launch :=
  { x with blocks := x.blocks.map fun y => { y with groups := y.groups.map fun z => { z with paths := z.paths.map (Path.forget ks) } } }

/-- The next metering period begins. -/
def State.periodEnd (s : State) : State :=
  { s with
    period := s.period + 1
    owners := s.owners.map fun o => if o.valid then o.newPeriod else o
    launches := s.launches.map fun x => x.forget (s.owner x.owner).selWritten }

/-- METERING_PERIOD_BOUNDARY (R300, R316, R392): every 300,000 cycles. -/
def execMeteringPeriodBoundary (s : State) : Host.Outcome State Fault Refusal :=
  .next (if s.periodDue then s.periodEnd else s)

/-- Whether an owner's issued core-cycles of this period have reached its cap. -/
def Owner.issueCapReached (o : Owner) : Bool := decide (o.record.issuecap ≠ 0) && decide (o.record.issuecap ≤ o.periodIssued)

/-- Whether handler core-cycles of a throttled owner have reached RSVTIME. -/
def Owner.rsvReached (o : Owner) : Bool := o.throttled && decide (o.record.rsvtime ≤ o.periodHandler)

/-- The owner as it stands in the cycle after its counts have reached a limit: the caps act by themselves (R356, R357). (log 90: DEDUCED) -/
def Owner.caps (o : Owner) : Owner :=
  let o := if o.valid && o.issueCapReached then { o with throttled := true } else o
  if o.rsvReached then { o with rsvSpent := true } else o

/-- Whether a limit is reached that does not act yet. -/
def Owner.capsDue (o : Owner) : Bool := (o.valid && o.issueCapReached && !o.throttled) || (o.rsvReached && !o.rsvSpent)

/-- ISSUE_THROTTLE (R356): the owner's issued core-cycles have reached ISSUECAP. (log 90: DEDUCED) -/
def execIssueThrottle (o : Nat) (s : State) : Host.Outcome State Fault Refusal :=
  .next (s.updOwner o fun w => if w.valid && w.issueCapReached then { w with throttled := true } else w)

/-- RSVTIME_EXHAUSTED (R357): handler core-cycles while throttled have reached RSVTIME. -/
def execRsvtimeExhausted (o : Nat) (s : State) : Host.Outcome State Fault Refusal :=
  .next (s.updOwner o fun w => if w.rsvReached then { w with rsvSpent := true } else w)

/-- BANDWIDTH_CAP_HOLD (R358): the owner's bytes in a tier have reached its cap. -/
def execBandwidthCapHold (o : Nat) (s : State) : Host.Outcome State Fault Refusal :=
  .next (s.updOwner o fun w => if w.valid ∧ w.bandwidthReached then { w with capHeld := true } else w)

/-! ### The hang watchdog (R369 to R371) -/

/-- The limit of a WDOG field; none: the watchdog is off. -/
def watchLimit (wdog : Nat) : Option Nat := if wdog = 0 then none else if 24 ≤ wdog ∧ wdog ≤ 40 then some (2 ^ wdog) else some (2 ^ 40)

/-- End a launch: every group ends, no further block is placed, no completion word and no time record is written, and one report with
DISPOSITION 3 is posted (R371, R404). -/
def State.endLaunch (s : State) (l detail : Nat) : State :=
  match s.launch? l with
  | none => s
  | some x =>
    let mine := s.origins.filter fun g => match g.source with
      | .lane r _ | .path r _ => r.launch == l
      | .pumpLookup k _ _ => k == l
      | _ => false
    let s := mine.foldl (fun s g => s.removeOrigin g.id) s
    let s := (s.updLaunch l fun x => { x.kill with stage := .refused }).recount
    (s.report x.owner (plainTag 12 0 0 (BitVec.ofNat 32 l) 0) (BitVec.ofNat 32 detail) 3 x.header.imageid).dropWells x.owner

/-- WATCHDOG_EXPIRE (R369 to R371): the count of a running launch has reached its owner's limit. -/
def execWatchdogExpire (l : Nat) (s : State) : Host.Outcome State Fault Refusal :=
  match s.launch? l with
  | none => .next s
  | some x =>
    match watchLimit (s.owner x.owner).record.wdog with
    | none => .next s
    | some n => .next (if x.handler.isNone ∧ n ≤ x.watch ∧ x.stage ≠ .refused ∧ x.stage ≠ .complete then s.endLaunch l 7 else s)

end Sys2Proof.Machine
end

