-- ==== Sys2Proof/Machine/HostLinks.lean ====
section
/-! DEFINITION. What reaches the module from outside an owner's programs: the host windows (R303, R387), interrupts (R309), the links and ports
(R311, R391), peers (R389, R390), errors in storage (R376, R377), and evictions from a die cache (R259). -/

namespace Sys2Proof.Machine

/-! ### Host windows (R303, R387) -/

/-- Whether an owner holds the page of a physical address (R303, R308). -/
def State.holdsPage (s : State) (o pa : Nat) : Bool :=
  let v := (s.ownership.get (ownershipKey pa)).toNat
  inTier pa && v.testBit 31 && decide (bits v 29 24 = o)

/-- The refused pages of an access: their first physical address within it, each page once. -/
def State.refusedPages (s : State) (o pa n : Nat) : List Nat :=
  (List.range n).filterMap fun i =>
    if s.holdsPage o (pa + i) then none else if i = 0 ∨ (pa + i) % 8192 = 0 then some (pa + i) else none

/-- The report of a refused page, at most one in a metering period (R387). (log 95: DEDUCED) -/
def State.reportPage (s : State) (o pa access : Nat) : State :=
  if (s.owner o).reportedPages.contains (pa / 8192) then s
  else
    (s.updOwner o fun w => { w with reportedPages := (pa / 8192) :: w.reportedPages }).report o
      [BitVec.ofNat 32 pa, BitVec.ofNat 32 (pa / 2 ^ 32), BitVec.ofNat 32 (2 * 2 ^ 28 + access * 2 ^ 26), 0, 0xFFFFFFFE, 0, 0, 0] 0 1 0

/-- The byte that a window read gives: zero in a page that the owner does not hold; in a marked block, or through a port out of service, a
free value. (log 95: DEDUCED) -/
def State.windowByte (s : State) (o pa i : Nat) : Byte :=
  if !s.holdsPage o pa then 0
  else if s.poisoned pa 1 || !s.portUp pa then (s.freeOf o i).setWidth 8
  else (s.readPhys 4 pa 1).headD 0

/-- Whether a host access reaches a window: the link is up, and the access lies within the 256 MiB of one of the 64 windows. (log 95: DEDUCED) -/
def State.windowOpen (s : State) (o offset n : Nat) : Bool :=
  s.links.pcieUp && decide (o < Config.owners) && decide (offset + n ≤ 2 ^ 28)

/-- The reports of an access's refused pages; no one is told of the window of an absent owner. -/
def State.reportRefused (s : State) (o pa n access : Nat) : State :=
  if (s.owner o).valid then (s.refusedPages o pa n).foldl (fun s a => s.reportPage o a access) s else s

/-- A read through a window; the window of an absent owner, which holds no page, gives zeros (R303). -/
def State.readWindow (s : State) (o offset len : Nat) : State :=
  if !s.windowOpen o offset len then s
  else
    let pa := (s.owner o).record.winbase + offset
    let bytes := (List.range len).map fun i => s.windowByte o (pa + i) i
    let s1 : State := { s with links := { s.links with hostRead := bytes } }
    (s1.takeFreeOf o len).reportRefused o pa len 0

/-- A read of a notify register gives HEAD (R305). -/
def State.readNotify (s : State) (offset : Nat) : State :=
  match s.queueAt offset with
  | some x => if s.links.pcieUp then { s with links := { s.links with hostRead := leBytes 4 x.head.toNat } } else s
  | none => s

/-- HOST_WINDOW_READ (R303, R305, R387): a read by the host. (log 47: DESIGN CHOICE) -/
def execHostWindowRead (r : HostRead) (s : State) : Host.Outcome State Fault Refusal :=
  match r with
  | .window o offset len => .next (s.readWindow o offset len)
  | .notify offset => .next (s.readNotify offset)

/-- One byte of a window write: dropped in a page that the owner does not hold; through a port out of service a free value stands there. (log 95: DEDUCED) -/
def State.windowPut (s : State) (o pa i : Nat) (v : Byte) : State :=
  if !s.holdsPage o pa then s
  else if !s.portUp pa then s.writeAll pa [(s.freeOf o i).setWidth 8]
  else s.writeAll pa [v]

/-- HOST_WINDOW_WRITE (R303, R387): performed at every observer before the next access from the host. -/
def execHostWindowWrite (o offset : Nat) (bytes : List Byte) (s : State) : Host.Outcome State Fault Refusal :=
  if !s.windowOpen o offset bytes.length then .next s
  else
    let pa := (s.owner o).record.winbase + offset
    let s1 := bytes.zipIdx.foldl (fun s e => s.windowPut o (pa + e.2) e.2 e.1) s
    .next ((s1.takeFreeOf o bytes.length).reportRefused o pa bytes.length 1)

/-! ### Interrupts and the host port (R309, R391) -/

/-- Send the coalesced messages of a set of vectors that are not masked, lowest vector first. (log 96: DEDUCED) -/
def State.sendCoalesced (s : State) (f : Nat → Bool) : State :=
  (List.range 256).foldl (fun s v =>
    if f v && s.links.coalesced.getLsbD v && !s.links.masked.getLsbD v && s.links.pcieUp then
      { s with links := { s.links with
          coalesced := s.links.coalesced &&& ~~~(BitVec.ofNat 256 (2 ^ v))
          sent := s.links.sent ++ [v] } }
    else s) s

/-- PCIE_LINK_DOWN (R391). (log 96: DEDUCED) -/
def execPcieLinkDown (s : State) : Host.Outcome State Fault Refusal := .next { s with links := { s.links with pcieUp := false } }

/-- PCIE_LINK_RETRAINED (R391): the coalesced interrupts are sent. A port that was lowered for the removal of the module stays down (R411). -/
def execPcieLinkRetrained (s : State) : Host.Outcome State Fault Refusal :=
  if s.firmware.portsLowered then .next s
  else
    let s1 : State := { s with links := { s.links with pcieUp := true } }
    .next (s1.sendCoalesced fun _ => true)

/-- MSIX_VECTOR_UNMASK (R309): the host masks a vector, or unmasks it; then the message coalesced while it was masked is sent. (log 13: PRESUMED) -/
def execMsixVectorUnmask (vector : Nat) (mask : Bool) (s : State) : Host.Outcome State Fault Refusal :=
  let bit := BitVec.ofNat 256 (2 ^ vector)
  if !s.links.pcieUp then .next s
  else if mask then .next { s with links := { s.links with masked := s.links.masked ||| bit } }
  else
    let s1 : State := { s with links := { s.links with masked := s.links.masked &&& ~~~bit } }
    .next (s1.sendCoalesced fun v => v == vector)

/-! ### Titeyx and CXL (R311, R391, R408) -/

/-- Cycles of 1 ms. -/
def millisecond : Nat := 3000000

/-- CRC retries of a lane within the last millisecond. -/
def State.laneRetries (s : State) (port lane : Nat) : Nat :=
  s.links.retries.countP fun e => e.1 == port && e.2.1 == lane && decide (s.cycle ≤ e.2.2 + millisecond)

/-- FLIT_CRC_RETRY (R311, R408): invisible to programs; the firmware counts it. (log 96: DEDUCED) -/
def execFlitCrcRetry (port lane : Nat) (s : State) : Host.Outcome State Fault Refusal :=
  .next { s with links := { s.links with
    retries := (s.links.retries.filter fun e => decide (s.cycle ≤ e.2.2 + millisecond)) ++ [(port, lane, s.cycle)] } }

/-- Whether the firmware may begin a repair: it runs, and no other repair is under way (R409). -/
def Firmware.mayRepair (f : Firmware) : Bool := f.running && f.inRepair.isNone

/-- TITEYX_LANE_SPARE (R408, R409): 64 CRC retries on one lane within 1 ms switch it to the port's one spare lane, once no other repair is under way. -/
def execTiteyxLaneSpare (port lane : Nat) (s : State) : Host.Outcome State Fault Refusal :=
  if !s.firmware.mayRepair || decide (s.laneRetries port lane < 64) || s.links.sparedLanes.any fun e => e.1 == port then .next s
  else
    .next { s with links := { s.links with
      sparedLanes := s.links.sparedLanes ++ [(port, lane)]
      retries := s.links.retries.filter fun e => !(e.1 == port && e.2.1 == lane) } }

/-- TITEYX_PORT_FAIL (R383, R391): chunks in flight are resent on other ports, which changes no value. -/
def execTiteyxPortFail (port : Nat) (s : State) : Host.Outcome State Fault Refusal :=
  if 16 ≤ port then .next s
  else
    .next { s with links := { s.links with titeyx := s.links.titeyx &&& ~~~(BitVec.ofNat 16 (2 ^ port)) } }

/-- End the pending descriptors of an owner's communicator with a status (R389, R391). -/
def State.endComm (s : State) (o comm status : Nat) : State :=
  (s.records.filter fun e => e.kind == .coll && e.owner == o && e.comm == comm && e.status.isNone).foldl (fun s e => s.endColl e status) s

/-- Cycles of 50 µs. -/
def unreachedLimit : Nat := 150000

/-- NO_PORT_REACHES_MEMBER (R391): no port of the communicator's set has reached a member since cycle `since`, 50 µs ago or more; which ports reach which
member is the links', not this module's. (log 96: DEDUCED) -/
def execNoPortReachesMember (o comm member since : Nat) (s : State) : Host.Outcome State Fault Refusal :=
  match (s.owner o).comms.find? fun e => e.1 == comm with
  | none => .next s
  | some (_, c) =>
    if member < c.members ∧ member ≠ c.rank ∧ since + unreachedLimit ≤ s.cycle then .next (s.endComm o comm 4) else .next s

/-- CXL_PORT_OUT_OF_SERVICE (R391, R408, R409): a port whose link has been down since cycle `since`, 1 ms ago or more, goes out of service, once no other
repair is under way. -/
def execCxlPortOutOfService (port since : Nat) (s : State) : Host.Outcome State Fault Refusal :=
  if 4 ≤ port ∨ s.cycle < since + millisecond ∨ !s.firmware.mayRepair then .next s
  else .next { s with links := { s.links with cxl := s.links.cxl &&& ~~~(BitVec.ofNat 4 (2 ^ port)) } }

/-! ### Peers (R389, R390) -/

/-- PEER_CHUNK_RETRY (R390): a chunk that a migrating peer answered "retry" is sent again. The descriptor sees only delay. (log 65: DEDUCED) -/
def execPeerChunkRetry (_r : Nat) (s : State) : Host.Outcome State Fault Refusal := .next s

/-- The communicators of an owner that include a remote owner. -/
def Owner.commsWith (o : Owner) (device remote : Nat) : List Nat := (o.comms.filter fun e => e.2.peers.contains (device, remote)).map (·.1)

/-- MEMBER_WITHDRAWN (R389): descriptors of every communicator that includes the reset owner end with STATUS 3, those kicked later too. -/
def execMemberWithdrawn (device remote : Nat) (s : State) : Host.Outcome State Fault Refusal :=
  .next ((List.range Config.owners).foldl (fun s o =>
    let cs := (s.owner o).commsWith device remote
    let s := s.updOwner o fun w => { w with withdrawn := (w.withdrawn ++ cs).dedup }
    cs.foldl (fun s c => s.endComm o c 3) s) s)

/-! ### Errors in storage (R376, R377) -/

/-- POISON_MARK (R377). (log 97, 108: DEDUCED, DESIGN CHOICE) -/
def execPoisonMark (u : PoisonUnit) (s : State) : Host.Outcome State Fault Refusal :=
  match u with
  | .memory pa => .next (if inTier pa then s.markPoison pa else s)
  | .scratchpad l b addr => .next (s.updBlock l b fun y => { y with spadPoison := (y.spadPoison ++ [addr / 4 * 4]).dedup })
  | .line l b g n =>
    .next (s.updGroup l b g fun z => { z with lines := z.lines.map fun r => if r.n = n then { r with poison := true } else r })
  | .operandFile l b g => .next (s.updGroup l b g fun z => { z with operPoison := true })
  | .reservation core q =>
    .next { s with reservations := s.reservations.map fun r => if r.core = core ∧ r.q = q then { r with poison := true } else r }
  | .tile core t => .next { s with tiles := s.tiles.map fun r => if r.core = core ∧ r.t = t then { r with poison := true } else r }

/-- The core whose register store a unit lies in. -/
def State.storeCore (s : State) : PoisonUnit → Option Nat
  | .line l b g _ => if (s.block? l b).elim false fun y => y.cluster.isSome then (s.group? l b g).map (·.core) else none
  | _ => none

/-- CORRECTED_ERROR (R376, R408): logged for repair with its cycle, and no other effect. (log 97: DEDUCED) -/
def execCorrectedError (u : PoisonUnit) (s : State) : Host.Outcome State Fault Refusal :=
  .next { s with firmware := { s.firmware with corrected := s.firmware.corrected ++ [⟨u, s.storeCore u, s.cycle⟩] } }

/-! ### Die caches (R259) -/

/-- DIE_CACHE_EVICTION (R259): the ordinary writes of a die that touch a 64-byte line are carried to some of the other places where memory is applied,
or to all of them, each there after the writes that precede it. (log 49: DEDUCED) -/
def execDieCacheEviction (die line : Nat) (views : List Nat) (s : State) : Host.Outcome State Fault Refusal :=
  .next (s.carryTo (views.filter fun v => decide (v < 5)) fun t =>
    t.die == die && decide (64 * line < t.addr + t.bytes.length) && decide (t.addr < 64 * line + 64))

end Sys2Proof.Machine
end

