-- ==== Sys2Proof/Machine/Samples.lean ====
section
/-! DEFINITION. Samples (R317, R318) and the host's control registers (R316, R392). -/

namespace Sys2Proof.Machine

/-- The reason of a waiting path, a handler apart; none: R317 lists none. (log 93: DESIGN CHOICE) -/
def Wait.reason : Wait → Option Nat
  | .pump _ => some 4
  | .clause => some 5
  | .barrier _ _ => some 8
  | .word _ _ _ => some 9
  | .join _ => some 10
  | .latch _ => some 11
  | .opres _ _ _ | .accAlloc _ | .mwait _ => some 12
  | .quiet _ => some 13
  | .handler | .counter _ | .fence _ _ _ | .release _ _ | .acquire _ | .opready _ | .oprel _ | .accFree _ | .wellRoom _ | .wspill _ _ _ | .drain _ => none

/-- Whether an owner's throttling keeps a group from issue (R356, R357). (log 90: DEDUCED) -/
def State.notOffered (s : State) (x : Launch) : Bool :=
  let o := s.owner x.owner
  if x.handler.isSome then o.rsvSpent else o.throttled

/-- A path as it stands at its next word, with its clause fetched and the prefix of that word. -/
def State.atNext (s : State) (c : Ctx) : Path :=
  let ws := if c.path.idx = 0 ∧ c.path.fetched = [] then
      match s.fetchClause c with
      | .ok ws => ws
      | .error _ => []
    else c.path.fetched
  let p := { c.path with fetched := ws, idx := max 1 c.path.idx }
  { p with pfx := p.here.pfx }

/-- Whether the next word of a path is held for an interlocked result: lane flags that an access in flight sets are such a one (R84, R123). -/
def State.interlocked (s : State) (c : Ctx) : Bool :=
  let p := s.atNext c
  decide (s.cycle < Ctx.interlock { c with path := p } p.here.instr) || !(s.flagOps { c with path := p } p.here.instr).isEmpty

/-- Whether a path waits on an access, a refill, a fetch or a frame record that a tier cap holds (R358). -/
def State.waitsOnCap (s : State) (c : Ctx) : Bool :=
  match c.path.status with
  | .waiting (.pump _) | .waiting (.wspill _ _ _) => s.pumpHeld c.launch
  | .waiting _ => s.ops.any fun o => o.path == c.ref && s.capHolds o
  | .ready =>
    s.pumpHeld c.launch && ((decide (c.path.idx = 0) && c.path.fetched.isEmpty) || match (s.atNext c).here.instr with
      | .call _ _ _ | .ret _ => true
      | _ => false)
  | _ => false

/-- The reason of R317's table that applies first; none: no row does. While the beats of its word issue, and in the cycles that R150 adds, a path that could
go on has no row. (log 93: DESIGN CHOICE) -/
def State.reasonOf (s : State) (c : Ctx) : Option Nat :=
  let z := c.group
  let p := c.path
  if p.issuedAt = some s.cycle then some 0
  else if s.coreHeld z.core then some 1
  else if s.notOffered c.launch ∨ s.waitsOnCap c then some 2
  else
    match p.status with
    | .sleeping _ => some 14
    | .waiting .handler => if s.origins.any fun g => g.ofPath c.ref && g.kind == 1 then some 3 else none
    | .waiting (.drain _) => if s.interlocked c then some 7 else none
    | .waiting w => w.reason
    | .ready =>
      if p.stopped.isSome ∨ (p.pipeEnd ≠ 0 ∧ s.cycle ≤ p.pipeEnd) then none
      else if s.unmet c.launch z p then some 5
      else if s.cycle < p.stallEnd then some 6
      else if s.interlocked c then some 7
      else if s.cycle < z.yieldUntil then some 14
      else if s.cycle < p.nextIssue then none
      else some 15

/-- The reason that a sample records: where no row of the table applies, a free value. (log 93: DESIGN CHOICE) -/
def State.sampleReason (s : State) (c : Ctx) : Nat := (s.reasonOf c).getD (s.freeOf c.launch.owner 0).toNat

/-- The residencies of an owner on a core, in slot order. -/
def State.sampleGroups (s : State) (core o : Nat) : List PathRef :=
  let gs := (s.groupsOn core).filter fun e => e.1.owner == o
  (List.range 32).filterMap fun r => (gs.find? fun e => e.2.2.resid == r).map fun e => ⟨e.1.seq, e.2.1.index, e.2.2.index, 0⟩

/-- The path that sample number `n` of a core names: groups in rotation over their residency slots, live paths in rotation over their
indices; where the group's turn comes after its last path has left, the core writes no sample. (log 93: DESIGN CHOICE) -/
def State.samplePath (s : State) (core o n : Nat) : Option Ctx :=
  let gs := s.sampleGroups core o
  match gs[n % max 1 gs.length]? with
  | none => none
  | some r =>
    match s.group? r.launch r.block r.group with
    | none => none
    | some z =>
      let ps := z.liveRefs r.launch r.block
      (ps[n / max 1 gs.length % max 1 ps.length]?).bind s.ctx?

/-- A sample record: the addresses are those of the path's next word (R317, R318). (log 93: DESIGN CHOICE) -/
def State.sampleRecord (s : State) (c : Ctx) : List Byte :=
  let addr := s.nextInstrAddr c
  let (orig, rec1) := s.backMap c.launch addr
  leBytes 8 s.cycle ++
  leBytes 4 (s.sampleReason c % 16 * 2 ^ 28 + c.ref.path * 2 ^ 26 + c.group.resid * 2 ^ 21 + c.group.core) ++
  leBytes 4 c.ref.launch ++ leBytes 4 c.ref.block ++ leBytes 4 orig.toNat ++ leBytes 4 addr ++ leBytes 4 (rec1.toNat % 128)

/-- SAMPLE_WRITE (R317, R318): every 256 × SPERIOD cycles; a dropped record advances SDROPS. (log 93: DESIGN CHOICE) -/
def execSampleWrite (core o : Nat) (s : State) : Host.Outcome State Fault Refusal :=
  let k := (s.owner o).controls
  let every := 256 * k.speriod
  if every = 0 ∨ s.cycle % every ≠ 0 then .next s
  else
    match s.samplePath core o (s.cycle / every) with
    | none => .next s
    | some c =>
      let s1 := s.takeFreeOf o 1
      match s1.ringPost o k.sring k.srsize 32 (s.sampleRecord c) with
      | (t, true) => .next t
      | (t, false) => .next (t.updOwner o fun w => w.bump 30 1)

/-! ### Control registers (R316, R392) -/

/-- The owner whose lowest-numbered queue block is served by a notify page. -/
def State.pageOwner (s : State) (page : Nat) : Option Nat :=
  (List.range Config.owners).find? fun o =>
    (s.owner o).valid && ((List.range 64).find? fun b => (s.owner o).record.qblocks.getLsbD b) == some page

/-- SAMPLING_SELECT_WRITE (R316): SELk takes effect, and EVk clears, at the next period boundary. -/
def execSamplingSelectWrite (page k : Nat) (v : Word) (s : State) : Host.Outcome State Fault Refusal :=
  match s.pageOwner page with
  | none => .next s
  | some o =>
    if !s.links.pcieUp || decide (4 ≤ k) then .next s
    else
      .next (s.updOwner o fun w =>
        { w with pending := { w.pending with sel := w.pending.sel.set k (v.toNat % 256) }, selWritten := (k :: w.selWritten).dedup })

/-- The low or high word of a 64-bit register. -/
def setLow (old : Nat) (v : Word) : Nat := old / 2 ^ 32 * 2 ^ 32 + v.toNat
def setHigh (old : Nat) (v : Word) : Nat := v.toNat * 2 ^ 32 + old % 2 ^ 32

/-- The controls after a host write at an offset of the notify page. (log 94: DEDUCED) -/
def Controls.write (c : Controls) (offset : Nat) (v : Word) : Controls :=
  match offset with
  | 0x810 => { c with speriod := v.toNat % 2 ^ 24 }
  | 0x818 => { c with sring := setLow c.sring v }
  | 0x81C => { c with sring := setHigh c.sring v }
  | 0x820 => { c with srsize := v.toNat % 32 }
  | 0x828 => { c with tring := setLow c.tring v }
  | 0x82C => { c with tring := setHigh c.tring v }
  | 0x830 => { c with trsize := v.toNat % 32 }
  | 0x840 => { c with dwin := setLow c.dwin v }
  | 0x844 => { c with dwin := setHigh c.dwin v }
  | _ => c

/-- CONTROL_REGISTER_WRITE (R316, R392): in force from the next period boundary on. (log 94: DEDUCED) -/
def execControlRegisterWrite (page offset : Nat) (v : Word) (s : State) : Host.Outcome State Fault Refusal :=
  match s.pageOwner page with
  | none => .next s
  | some o => .next (if s.links.pcieUp then s.updOwner o fun w => { w with pending := w.pending.write offset v } else s)

end Sys2Proof.Machine
end

