-- ==== Sys2Proof/Machine/Debug.lean ====
section
/-! DEFINITION. Debugging (R392 to R399): the debug window, stops and their records, commands; and a replay that diverges (R404). -/

namespace Sys2Proof.Machine

/-- DEBUG_STOP (R395 to R397): a ready path of a resident block stops before its next word for a cause that applies. -/
def execDebugStop (r : PathRef) (cause : Nat) (s : State) : Host.Outcome State Fault Refusal :=
  match s.ctx? r with
  | none => .next s
  | some c =>
    match s.stopCause c with
    | some (n, bk) => .next (if n = cause ∧ c.block.cluster.isSome then s.stopPath r n bk else s)
    | none => .next s

/-- STEP_DONE (R399): the words of a step command have issued, and the path stops with CAUSE 2. -/
def execStepDone (r : PathRef) (s : State) : Host.Outcome State Fault Refusal :=
  match s.ctx? r with
  | none => .next s
  | some c =>
    match s.stopCause c with
    | some (2, bk) => .next (if c.block.cluster.isSome then s.stopPath r 2 bk else s)
    | _ => .next s

/-- STOP_RECORD_DEFERRED (R396): the oldest record that waits is written when RDIDX has freed room. -/
def execStopRecordDeferred (o : Nat) (s : State) : Host.Outcome State Fault Refusal :=
  match (s.owner o).deferredStops with
  | [] => .next s
  | ws :: rest =>
    if s.window o = 0 then .next s
    else
      match s.ringPost o (s.window o + 0x200) 5 64 (wordBytes ws) with
      | (t, true) => .next (t.updOwner o fun w => { w with deferredStops := rest })
      | (_, false) => .next s

/-! ### Commands (R398, R399) -/

/-- A command slot as read. -/
structure DebugCmd where
  state : Nat
  op : Nat
  n : Nat
  launch : Nat
  block : Nat
  group : Nat
  all : Bool
  reload : Bool
  path : Nat
  /-- a field outside R398's table -/
  bad : Bool
deriving DecidableEq, Repr

/-- The address of a command slot. -/
def State.slotAddr (s : State) (o slot : Nat) : Nat := s.window o + 0x140 + 32 * slot

def State.readCmd (s : State) (o slot : Nat) : DebugCmd :=
  let w (k : Nat) : Nat := s.winWord o (0x140 + 32 * slot + 4 * k)
  let op := bits (w 0) 27 24
  let n := w 0 % 2 ^ 16
  { state := bits (w 0) 31 28
    op := op
    n := n
    launch := w 1
    block := w 2
    group := bits (w 3) 15 9
    all := (w 3).testBit 8
    reload := (w 3).testBit 7
    path := w 3 % 4
    bad := decide (bits (w 0) 23 16 ≠ 0) || decide (bits (w 3) 31 16 ≠ 0) || decide (bits (w 3) 6 2 ≠ 0) ||
      ([4, 5, 6, 7].any fun k => w k != 0) || decide (op = 0) || decide (4 < op) || (decide (op = 3) && decide (n = 0)) ||
      (decide (op = 4) && decide (1 < n)) }

/-- Whether a command is refused: a value outside the table, or no such running target (R398). (log 99: DEDUCED) -/
def State.cmdRefused (s : State) (o : Nat) (d : DebugCmd) : Bool :=
  d.bad || decide (d.launch = s.winWord o 4) ||
  match s.launch? d.launch with
  | none => true
  | some x =>
    x.owner != o || x.handler.isSome || !x.running || (x.block? d.block).elim true fun y => y.ended || (y.group? d.group).elim true (·.freed)

/-- The paths that a command names. (log 74: UNVERIFIED) -/
def State.cmdPaths (s : State) (d : DebugCmd) : List PathRef :=
  match s.group? d.launch d.block d.group with
  | none => []
  | some z => (z.liveRefs d.launch d.block).filter fun r => d.all || r.path == d.path

/-- The ZF-960's answer in word 0 of a slot. -/
def State.answerCmd (s : State) (o slot state : Nat) : State :=
  s.writeVirt o (s.slotAddr o slot) (leBytes 4 (state * 2 ^ 28 + s.winWord o (0x140 + 32 * slot) % 2 ^ 28))

/-- Carry out a posted command of an OP, or refuse it; slots are taken in ascending order. (log 99: DEDUCED) -/
def State.command (s : State) (o slot op : Nat) (act : State → DebugCmd → PathRef → State) (whole : State → DebugCmd → State) : State :=
  if s.window o = 0 ∨ 4 ≤ slot then s
  else
    let s0 := s.charge o ((s.vaRead o (s.slotAddr o slot)).getD 0) 32
    let d := s.readCmd o slot
    if d.state ≠ 1 ∨ (List.range slot).any (fun k => (s.readCmd o k).state == 1) then s
    else if s.cmdRefused o d then s0.answerCmd o slot 3
    else if d.op ≠ op then s
    else (whole ((s0.cmdPaths d).foldl (fun s r => act s d r) s0) d).answerCmd o slot 2

/-- The stop of one path by command: at once where it is ready and resident, else after its wait (R395). -/
def State.cmdStop (s : State) (_ : DebugCmd) (r : PathRef) : State :=
  match s.ctx? r with
  | none => s
  | some c =>
    if c.path.stopped.isSome then s
    else if c.path.isReady && c.block.cluster.isSome then s.stopPath r 3 0
    else s.updPath r fun p => { p with stopSoon := some (min 3 (p.stopSoon.getD 3)) }

/-- The path-private scalars and the mask of a path, read back from its path entry (R399). -/
def State.reloadPath (s : State) (r : PathRef) : State :=
  match s.ctx? r with
  | none => s
  | some c =>
    let base := c.launch.header.ctxOf c.block.slot c.ref.group + 128 * r.path
    let rd (off : Nat) : Word := BitVec.ofNat 32 (leNat (s.imageRead c.launch c.block c.group.core (base + off) 4))
    s.updPath r fun p =>
      { p with
        priv := p.priv.puts ((List.range 13).map fun i => (108 + i, rd (0x20 + 4 * i)))
        mask := ofMaskWords (rd 0x58) (rd 0x5C) (rd 0x60) &&& p.present }

/-- A stopped path is made ready, with or without a step count; one that is not stopped is left as it is. (log 99: DEDUCED) -/
def State.cmdResume (s : State) (d : DebugCmd) (r : PathRef) (steps : Option Nat) : State :=
  match s.path? r with
  | none => s
  | some p =>
    if p.stopped.isNone then s
    else
      let s1 := if d.reload then s.reloadPath r else s
      s1.updPath r fun p => { p with stopped := none, skipBreak := true, stepLeft := steps }

/-- DEBUG_CMD_STOP (R398, OP 1). -/
def execDebugCmdStop (o slot : Nat) (s : State) : Host.Outcome State Fault Refusal :=
  .next (s.command o slot 1 State.cmdStop fun s _ => s)

/-- DEBUG_CMD_RESUME (R399, OP 2). -/
def execDebugCmdResume (o slot : Nat) (s : State) : Host.Outcome State Fault Refusal :=
  .next (s.command o slot 2 (fun s d r => s.cmdResume d r none) fun s _ => s)

/-- DEBUG_CMD_STEP (R399, OP 3). -/
def execDebugCmdStep (o slot : Nat) (s : State) : Host.Outcome State Fault Refusal :=
  .next (s.command o slot 3 (fun s d r => s.cmdResume d r (some d.n)) fun s _ => s)

/-- DEBUG_CMD_STOP_MODE (R397, R398, OP 4). -/
def execDebugCmdStopMode (o slot : Nat) (s : State) : Host.Outcome State Fault Refusal :=
  .next (s.command o slot 4 (fun s _ _ => s) fun s d => s.updGroup d.launch d.block d.group fun z => { z with stopMode := d.n == 1 })

/-! ### Replay that diverges (R404) -/

/-- Whether `shfl` or `bcast` reads a lane of another path (R401). -/
def State.readsForeign (s : State) (c : Ctx) (i : Instr) : Bool :=
  (laneList c.path.selected).any fun l =>
    match i with
    | .shfl _ _ _ b => !laneOn c.path.member (s.operand c i (wide7 b) 2 (.int 32) l % 96)
    | .bcast _ _ _ b => !laneOn c.path.member (s.pathOperand c (wide7 b) 2 % 96)
    | _ => false

/-- The TYPE of the record that a word uses (R401). -/
def State.logType (s : State) (c : Ctx) (i : Instr) : Option Nat :=
  match i with
  | .ld .. | .gather .. | .atom .. | .wellTake .. | .accLd .. | .ctr .. | .barArrive .. | .barArrivec .. | .quiet .. => some 1
  | .shfl .. | .bcast .. => if s.readsForeign c i then some 1 else none
  | .opready .. => some 3
  | _ => none

/-- Whether the next word of a path differs from the log: the path has the turn, and the word is neither a trap before its issue nor one that runs
again (R400, R404). -/
def State.divergesHere (s : State) (c : Ctx) (i : Instr) : Bool :=
  !c.path.counted && c.path.logged.isNone && (encDetail c.path.pfx i).isNone && s.hasTurn c && s.diverges c.ref (s.logType c i) c.path.wordAddr

/-- REPLAY_DIVERGED (R404): the path stops with CAUSE 5, or without a debug window the launch ends. -/
def execReplayDiverged (r : PathRef) (s : State) : Host.Outcome State Fault Refusal :=
  match s.ctx? r with
  | none => .next s
  | some c =>
    if !c.path.isReady || c.block.cluster.isNone || c.path.idx == 0 || !s.divergesHere { c with path := { c.path with pfx := c.path.here.pfx } } c.path.here.instr
      then .next s
    else if s.window c.launch.owner = 0 then .next (s.endLaunch r.launch 8)
    else if s.debuggable c then .next (s.stopPath r 5 0)
    else .next s

end Sys2Proof.Machine
end

