-- ==== Sys2Proof/Machine/Firmware.lean ====
section
/-! DEFINITION. The firmware complex: starts (R405 to R407, R414), owner, queue and communicator requests (R299, R301, R304, R308, R312, R353, R412),
owner reset (R388), migration (R390), repair (R408, R409), update and removal (R410, R411), the wake filter (R413) and attestation (R415). -/

namespace Sys2Proof.Machine

/-! ### Starts (R405 to R407, R414) -/

/-- The checks of an image at start and at update: its signature over its SM3 digest, and its version (R20, R414). (log 15, 100: DESIGN CHOICE, DEDUCED) -/
def imageGood (image : List Byte) (version rollback : Nat) (signature : BitVec 512) : Bool :=
  Config.sm2Verify (sm3 image) signature && decide (rollback ≤ version)

/-- The firmware complex after its image has been verified: repairs, the spare map and both flash banks stay; every wake-filter entry is invalid. (log 12, 100: DESIGN CHOICE, DEDUCED) -/
def Firmware.restart (f : Firmware) (warm : Bool) (training : Option (Nat × Int)) : Firmware :=
  { Firmware.start with
    image := f.image
    signature := f.signature
    version := f.version
    rollback := f.rollback
    standby := f.standby
    warm := warm
    training := training
    spareMap := f.spareMap
    repairLog := f.repairLog
    sparesUsed := f.sparesUsed
    remappedRows := f.remappedRows
    retiredChannels := f.retiredChannels
    backing := f.backing
    wake := f.wake.map fun e => { e with valid := false } }

/-- A module whose image failed: it stays in its boot ROM. (log 100: DEDUCED) -/
def Firmware.bootRom (f : Firmware) (warm : Bool) : Firmware :=
  { f.restart warm f.training with running := false, trained := false, removed := f.removed }

/-- An absent owner in the place of another: its free values go on. -/
def Owner.vacated (w : Owner) : Owner := { Owner.absent with free := w.free }

/-- The whole module after a start, with the firmware complex, the contents of memory, its marks and the links given. What is not the module's own (the
agenda, and the numbers of the next free values) runs on. (log 10, 100: DEDUCED) -/
def State.started (s : State) (f : Firmware) (dies : List Die) (poison : List Nat) (links : Links) : State :=
  { State.reset with
    firmware := f
    dies := dies.map fun d => { d with past := [] }
    poison := poison
    links := links
    owners := s.owners.map Owner.vacated
    cur := s.cur
    agenda := s.agenda
    free := s.free + 1 }

/-- The 5 °C band of a temperature in tenths of a degree (R406). -/
def band (inlet : Int) : Int := inlet / 50

/-- A cold start (R20, R405, R406, R414): both tiers and every on-chip storage are clear, every owner absent. The links train, the training record that is
saved has the band of the coolant's inlet temperature, in tenths of a degree, and the firmware sets the device number (R311). (log 100: DEDUCED) -/
def State.coldStart (s : State) (inlet : Int) (device : BitVec 12) : State :=
  let f := s.firmware
  if imageGood f.image f.version f.rollback f.signature then
    s.started (f.restart false (some (f.version, band inlet))) State.reset.dies [] { Links.start with deviceNumber := device }
  else s.started (f.bootRom false) s.dies s.poison s.links

/-- COLD_START (R20, R405, R414). (log 100, 108: DEDUCED, DESIGN CHOICE) -/
def execColdStart (inlet : Int) (device : BitVec 12) (s : State) : Host.Outcome State Fault Refusal := .next (s.coldStart inlet device)

/-- A training record is valid for the firmware version that runs and the coolant's inlet temperature (R406). -/
def recordValid (t : Option (Nat × Int)) (version : Nat) (inlet : Int) : Bool := t.elim false fun r => r.1 == version && r.2 == band inlet

/-- WARM_START (R405 to R407): the tiers keep their contents and their marks; training is skipped while its saved record is valid; the firmware sets the
device number (R311). The first start after the module has been out of its slot is a cold one (R411). (log 100: DEDUCED) -/
def execWarmStart (inlet : Int) (device : BitVec 12) (s : State) : Host.Outcome State Fault Refusal :=
  let f := s.firmware
  let s1 := s.carry fun _ => true
  let kept := s1.dies.map fun d => { d with clock := [0, 0, 0, 0] }
  if f.removed then .next (s.coldStart inlet device)
  else if imageGood f.image f.version f.rollback f.signature then
    if recordValid f.training f.version inlet then
      .next (s.started (f.restart true f.training) kept s.poison { s.links with deviceNumber := device })
    else
      .next (s.started (f.restart true (some (f.version, band inlet))) kept s.poison { Links.start with deviceNumber := device })
  else .next (s.started (f.bootRom true) s.dies s.poison s.links)

/-! ### Reverse ownership (R308, R407) -/

/-- The physical address of a page, numbered in tier order. -/
def pagePa (n : Nat) : Nat := if n < 78125000 then 8192 * n else Config.reservoirBase + 8192 * (n - 78125000)

/-- An entry of the reverse ownership table. -/
def ownershipEntry (o share : Nat) (pinned : Bool) : Word :=
  BitVec.ofNat 32 (2 ^ 31 + (if pinned then 2 ^ 30 else 0) + o % 64 * 2 ^ 24 + share % 256 * 2 ^ 16)

/-- Whether a translation entry maps a physical page. -/
def TlbEntry.mapsPage (e : TlbEntry) (pa : Nat) : Bool := decide (e.pa < pa + 8192) && decide (pa < e.pa + e.size)

/-- The firmware removes every translation entry of every owner that maps a page, as `tlbinv` does (R308, R353): entries of reserves and caches stay. -/
def State.unmapPage (s : State) (pa : Nat) : State :=
  { s with owners := s.owners.map fun o => { o with tlb := o.tlb.filter fun e => e.permanent || !e.mapsPage pa } }

/-- Whether a physical page is in use through a translation that cannot be removed now: an entry of a reserve or cache, a pump mapping, or an access in
flight (R250, R308, R360). (log 101: DEDUCED) -/
def State.pageInUse (s : State) (pa : Nat) : Bool :=
  (s.owners.any fun o => o.tlb.any fun e => e.permanent && e.mapsPage pa) ||
  (s.launches.any fun x => x.blocks.any fun y => y.images.any fun e => decide (e.2 < pa + 8192) && decide (pa < e.2 + 8192)) ||
  s.ops.any fun o => !o.sp && o.lanes.any fun e => decide (pa ≤ e.2.1) && decide (e.2.1 < pa + 8192)

/-- Zeros in a physical page, at every view (R407): what it held before can be read no more, at an earlier moment either. -/
def State.clearPage (s : State) (pa : Nat) : State :=
  let zero (d : Die) : Die :=
    { d with
      mem := Sparse.clear (w := 8) d.mem pa (pa + 8192)
      past := d.past.filter fun e => decide (e.addr < pa) || decide (pa + 8192 ≤ e.addr) }
  let s : State := { s with dies := s.dies.map zero }
  s.clearPoison [(pa, 8192)]

/-- The entry of a page changes, once no translation maps the page (R308). -/
def State.setEntry (s : State) (n : Nat) (v : Word) : State :=
  let s := s.unmapPage (pagePa n)
  { s with ownership := s.ownership.put n v }

/-- Give a page to an owner: it is cleared before its entry becomes VALID, unless it is the owner's already (R407). (log 101: DEDUCED) -/
def State.grantPage (s : State) (o n share : Nat) (pinned : Bool) : State :=
  let old := s.ownership.get n
  let new := ownershipEntry o share pinned
  if old = new ∨ 322265625 ≤ n then s
  else
    let mine := old.getLsbD 31 && decide (bits old.toNat 29 24 = o)
    let s := if mine then s else (s.carry fun t => decide (t.addr < pagePa n + 8192) && decide (pagePa n < t.addr + t.bytes.length)).clearPage (pagePa n)
    s.setEntry n new

/-- The pages of an owner, by its entries. -/
def State.pagesOf (s : State) (o : Nat) : List Nat := (s.ownership.filter fun e => decide (bits e.2.toNat 29 24 = o)).map (·.1)

/-- Entries of an owner become invalid, once no translation maps their pages (R308). -/
def State.revokePages (s : State) (o : Nat) : State := (s.pagesOf o).foldl (fun s n => s.setEntry n 0) s

/-! ### Owner records (R299, R301) -/

/-- Whether the fields of a request lie in their ranges, and its pages fit them. (log 101: DEDUCED) -/
def OwnerRequest.inRange (r : OwnerRequest) : Bool :=
  decide (1 ≤ r.issuew) && decide (r.issuew ≤ 255) && decide (r.issuecap < 2 ^ 32) && decide (r.hbmbw < 2 ^ 16) && decide (r.resbw < 2 ^ 16) &&
  decide (1 ≤ r.engw) && decide (r.engw ≤ 255) && decide (1 ≤ r.specmax) && decide (r.specmax < 2 ^ 16) &&
  decide (r.welltab % 2048 = 0) && decide (r.welltab < 2 ^ 64) && decide (r.winbase % 2 ^ 28 = 0) && decide (r.winbase < 2 ^ 64) &&
  decide (r.rsvbase < 2 ^ 64) && decide (r.rsvlen < 2 ^ 32) && decide (r.rsvlines ≤ 32) && decide (r.rsvslots ≤ 63) &&
  decide (r.rsvtime < 2 ^ 32) && decide (r.specva % 2 ^ 32 = 0) && decide (r.specva < 2 ^ 64) && decide (r.wdog < 64) &&
  decide (r.rsvPages.length = r.rsvlen) && decide (r.specPages.length = 128 * r.specmax) && r.specPages.all fun n => decide (n < 78125000)

/-- The sum over the owners of a cluster, with `o`'s record replaced by the request. -/
def State.reserveSum (s : State) (o : Nat) (r : OwnerRequest) (k : Nat) (f : Nat → Nat) : Nat :=
  (s.owners.zipIdx.map fun e =>
    let q := if e.2 = o then r else e.1.record
    if (e.2 = o ∨ e.1.valid) ∧ q.clusters.getLsbD k then f q.rsvlines else 0).sum

/-- The limits of R301. (log 101: DEDUCED) -/
def State.reservesFit (s : State) (o : Nat) (r : OwnerRequest) : Bool :=
  decide (2 ≤ r.rsvslots) && (List.range Config.clusters).all fun k =>
    decide (s.reserveSum o r k (· / 8) ≤ 16) && decide (s.reserveSum o r k id ≤ 128)

/-- Pages of a request's reserve and cache. -/
def OwnerRequest.own (r : OwnerRequest) : List Nat := r.rsvPages ++ r.specPages

/-- Pages that a request grants beside them: page, SHARE. -/
def OwnerRequest.granted (r : OwnerRequest) : List (Nat × Nat) :=
  r.grants.flatMap fun g => (List.range g.count).map fun k => (g.first + k, g.share)

/-- Whether a first-tier page lies in a channel, for any of its blocks. -/
def pageIn (channel n : Nat) : Bool := (List.range 128).any fun k => Config.hbmChannel (Config.hbmRow (128 * n + k)) == channel

/-- Whether a page is none to give: it holds the contents of another, or it lies in a retired channel and no other page holds its contents (R408). -/
def Firmware.withheld (f : Firmware) (n : Nat) : Bool :=
  f.backing.any (fun e => e.2 == n) || (f.retiredChannels.any (fun c => pageIn c n) && !(f.backing.any fun e => e.1 == n))

/-- Whether a request's pages may be given: each page of its reserve and cache is named once and belongs to no owner, or is one of the owner's already,
whose entry then stays as it is; no grant of the request names one (R273). -/
def State.pagesFree (s : State) (o : Nat) (r : OwnerRequest) : Bool :=
  decide r.own.Nodup && r.own.all (fun n =>
    (!(s.ownership.get n).getLsbD 31 || ((s.owner o).valid && (s.owner o).record.own.contains n)) && !(r.granted.any fun e => e.1 == n)) &&
  (r.own ++ r.granted.map (·.1)).all fun n => !s.firmware.withheld n

/-- The pages whose entries a request changes, with their new entries. -/
def State.entryChanges (s : State) (o : Nat) (r : OwnerRequest) : List (Nat × Word) :=
  ((r.granted.map fun e => (e.1, ownershipEntry o e.2 false)) ++ r.own.map fun n => (n, ownershipEntry o 0 true)).filter fun e =>
    s.ownership.get e.1 ≠ e.2

/-- The entries of the reserve and of the specialisation cache, which are never dropped (R273, R353). -/
def OwnerRequest.entries (r : OwnerRequest) : List TlbEntry :=
  (r.rsvPages.zipIdx.map fun e => ⟨r.rsvbase + 8192 * e.2, pagePa e.1, 8192, true, true⟩) ++
  r.specPages.zipIdx.map fun e => ⟨r.specva + 8192 * e.2, pagePa e.1, 8192, false, true⟩

/-- Whether a change of an owner keeps every entry of its reserve and cache, as entries that are never dropped must be (R273, R353). (log 101: DEDUCED) -/
def State.entriesStay (s : State) (o : Nat) (r : OwnerRequest) : Bool :=
  !(s.owner o).valid || (s.owner o).record.entries.all fun e => r.entries.contains e

/-- Clusters withdrawn for want of a spare core (R408). -/
def Firmware.withdrawn (f : Firmware) : List Nat := (f.repairLog.filter fun c => !(f.spareMap.any fun e => e.1 == c)).map (· / 4)

/-- A set of clusters without the withdrawn ones. (log 101: DEDUCED) -/
def withoutClusters (m : BitVec 88) (ks : List Nat) : BitVec 88 := ks.foldl (fun m k => m &&& ~~~(BitVec.ofNat 88 (2 ^ k))) m

/-- An owner with a new record: entries of a specialisation cache that has moved or changed its size are gone (R273, R276). -/
def Owner.withRecord (w : Owner) (r : OwnerRequest) : Owner :=
  let kept := w.record.specva == r.specva && w.record.specmax == r.specmax && w.record.specPages == r.specPages
  { w with
    valid := true
    record := r
    cache := if kept then w.cache else []
    tlb := (w.tlb.filter fun e => !e.permanent) ++ r.entries }

/-- The firmware answers that it does not carry a request out: "refused", or the failure status of a module in its boot ROM (R301, R412, R414). -/
def State.refuseRequest (s : State) : State :=
  { s with firmware := { s.firmware with answers := s.firmware.answers ++ [if s.firmware.running then .refused else .failed] } }

/-! ### Region handles (R412) -/

/-- An entry of the region table. -/
def Firmware.region (f : Firmware) (k : Nat) : Region := ((f.regions.find? fun e => e.1 == k).map (·.2)).getD ⟨false, 0, 0, 0, 0⟩

/-- The address that the region-checking unit forms for one access of a control core through a handle, after its checks: entry, EPOCH, carry, LIMIT, RIGHTS.
 (log 102: DEDUCED) -/
def Firmware.reach (f : Firmware) (handle : DWord) (size : Nat) (write : Bool) : Option Nat :=
  let h := handle.toNat
  let e := f.region (bits h 63 52)
  if e.valid && e.epoch.toNat == bits h 51 36 && bits h 35 32 == 0 && decide (h % 2 ^ 32 + size ≤ e.limit) && e.rights.getLsbD (if write then 1 else 0)
  then some (e.base + h % 2 ^ 32) else none

/-- The firmware's access to the record that a request concerns, through its handle: the state after it; none: the firmware does not run, or the access is
a capability fault. (log 102: DEDUCED) -/
def State.reachRecord (s : State) (handle : DWord) (write : Bool) : Option State :=
  if s.firmware.running then (s.firmware.reach handle 8 write).map fun a => { s with firmware := { s.firmware with address := some a } } else none

/-- A request made on an owner's behalf that meets a capability fault is refused, and the owner has a report. (log 102: DEDUCED) -/
def State.capabilityFault (s : State) (o : Nat) : State := s.refuseRequest.report o (plainTag 12 0 0 0 0xFFFFFFFD) 9 1 0

/-- What becomes of a request whose record the firmware reaches, and the refusal of one whose record it does not (R412). (log 102: DEDUCED) -/
def State.request (s : State) (handle : DWord) (write : Bool) (act : State → State) : State := (s.reachRecord handle write).elim s.refuseRequest act

/-- The install path writes an entry of the region table that is free (R412). (log 102: DEDUCED) -/
def Firmware.install (f : Firmware) (k base limit : Nat) (rights : BitVec 2) : Firmware :=
  let e := f.region k
  if 4096 ≤ k ∨ e.valid ∨ base % 4096 ≠ 0 ∨ 2 ^ 52 ≤ base ∨ limit = 0 ∨ 2 ^ 32 ≤ limit then f
  else { f with regions := (k, ⟨true, base, limit, rights, e.epoch⟩) :: f.regions.filter fun e => e.1 != k }

/-- An entry is freed: its EPOCH advances, so that no handle to it is good any more (R412). -/
def Firmware.freeRegion (f : Firmware) (k : Nat) : Firmware :=
  let e := f.region k
  if e.valid then { f with regions := (k, { e with valid := false, epoch := e.epoch + 1 }) :: f.regions.filter fun e => e.1 != k } else f

/-! ### Owner setup (R299, R301, R308, R353, R407, R411) -/

/-- Whether a request to set up or change an owner is refused: its fields, the limits of R301, its pages, and their entries. -/
def State.setupRefused (s : State) (o : Nat) (r : OwnerRequest) : Bool :=
  decide (Config.owners ≤ o) || (s.firmware.refusing && !(s.owner o).valid) || !r.inRange || !s.reservesFit o r || !s.pagesFree o r || !s.entriesStay o r

/-- The pages of a request become the owner's. -/
def State.givePages (s : State) (o : Nat) (r : OwnerRequest) : State :=
  r.own.foldl (fun s n => s.grantPage o n 0 true) (r.granted.foldl (fun s e => s.grantPage o e.1 e.2 false) s)

/-- OWNER_SETUP (R299, R301, R308, R353, R407, R411, R412): a request that breaks a limit leaves the owner table as it is; one that changes the entry of a
page in use waits (R308). Queues of queue blocks that the owner no longer holds are gone. Nothing keeps two owners from being given one queue block: each may
then have its queues set up, and the later set-up of a queue stands. (log 101, 102, 121: DEDUCED, DESIGN CHOICE) -/
def execOwnerSetup (o : Nat) (r : OwnerRequest) (handle : DWord) (s : State) : Host.Outcome State Fault Refusal :=
  .next (s.request handle true fun s =>
    if s.setupRefused o r then s.refuseRequest
    else if (s.entryChanges o r).any fun e => s.pageInUse (pagePa e.1) then s
    else
      let r' := { r with clusters := withoutClusters r.clusters s.firmware.withdrawn }
      let s1 : State := { s with
        shares := r.shares ++ s.shares.filter fun g => !(r.shares.any fun h => h.1 == g.1)
        queues := s.queues.filter fun q => q.owner != o || r.qblocks.getLsbD (q.n / 16) }
      (s1.givePages o r).updOwner o fun w => (if w.valid then w else w.vacated).withRecord r')

/-! ### Queues and communicators (R304, R312) -/

/-- A new queue record (R304). -/
def QueueRequest.queue (r : QueueRequest) (n : Nat) : Queue := ⟨n, r.owner, r.ring, r.sizel2, r.headaddr, 0, 0, false, 0, 0, [], none⟩

/-- QUEUE_SETUP (R304, R412). (log 102, 121: DEDUCED, DESIGN CHOICE) -/
def execQueueSetup (q : Nat) (r : QueueRequest) (handle : DWord) (s : State) : Host.Outcome State Fault Refusal :=
  let w := s.owner r.owner
  if !s.firmware.running || decide (Config.queues ≤ q) || !w.valid || !w.record.qblocks.getLsbD (q / 16) || decide (r.ring % 4096 ≠ 0) ||
      decide (r.sizel2 < 4) || decide (16 < r.sizel2) || decide (r.headaddr % 4 ≠ 0) then
    .next s.refuseRequest
  else .next ((s.reachRecord handle true).elim (s.capabilityFault r.owner) fun s => { s with queues := (s.queues.filter fun x => x.n != q) ++ [r.queue q] })

/-- COMMUNICATOR_FILL (R312, R389, R412): a rewritten entry forgets a member that had withdrawn. (log 102: DEDUCED) -/
def execCommunicatorFill (o k : Nat) (c : Communicator) (handle : DWord) (s : State) : Host.Outcome State Fault Refusal :=
  if !s.firmware.running || decide (1024 ≤ k) || !(s.owner o).valid || decide (c.members < 2) || decide (4096 < c.members) || decide (c.members ≤ c.rank) ||
      decide (c.peers.length ≠ c.members) then
    .next s.refuseRequest
  else
    .next ((s.reachRecord handle true).elim (s.capabilityFault o) fun s => s.updOwner o fun w =>
      { w with comms := (k, c) :: w.comms.filter (fun e => e.1 != k), withdrawn := w.withdrawn.filter (· != k) })

/-! ### Owner reset (R388) -/

/-- Whether an origin belongs to an owner. -/
def Origin.owned (g : Origin) (o : Nat) : Bool := g.owner == o

/-- Everything the ZF-960 keeps for an owner is gone: launches, records, origins, slots, tables, its pages. (log 103: DEDUCED) -/
def State.forget (s : State) (o : Nat) : State :=
  let mine (l : Nat) : Bool := (s.launch? l).elim false fun x => x.owner == o
  let s1 := s.carry fun t => mine t.launch
  let s2 : State :=
    { s1 with
      launches := s1.launches.filter fun x => x.owner != o
      records := s1.records.filter fun e => e.owner != o
      origins := s1.origins.filter fun g => !g.owned o
      reservations := s1.reservations.filter fun r => !mine r.launch
      tiles := s1.tiles.filter fun t => !mine t.launch
      mmas := s1.mmas.filter fun m => !mine m.launch
      queues := s1.queues.filter fun q => q.owner != o
      collIndex := s1.collIndex.filter fun e => e.1 != o }
  ((s2.updOwner o Owner.vacated).revokePages o).recount

/-- Whether an access of an owner's groups, or one to a page of it, is in flight: entries of its pages change only after it (R250, R308). (log 103: DEDUCED) -/
def State.ownerBusy (s : State) (o : Nat) : Bool :=
  s.ops.any fun p => (s.launch? p.path.launch).elim false (fun x => x.owner == o) || (!p.sp && p.lanes.any fun e => s.holdsPage o e.2.1)

/-- OWNER_RESET (R388, R412): the owner is stopped if it is not yet, and forgotten once no access of it is in flight. The report of such a stop carries no
fault. (log 102, 103: DEDUCED) -/
def execOwnerReset (o : Nat) (handle : DWord) (s : State) : Host.Outcome State Fault Refusal :=
  .next (s.request handle true fun s =>
    if (s.owner o).valid then
      let t := s.stopOwner o (plainTag 0 0 0 0 0) 0 0
      if t.ownerBusy o then t else t.forget o
    else s)

/-! ### Migration (R390) -/

/-- The ordinary blocks of an owner leave. -/
def State.evictOwner (s : State) (o : Nat) : State :=
  s.preemptAll ((s.launches.filter fun x => x.owner == o && x.handler.isNone).flatMap fun x =>
    (x.blocks.filter fun y => y.cluster.isSome && y.unfinished).map fun y => (x.seq, y.index)) none

/-- Whether an owner that migrates has nothing left that runs here: its engine records have left at a chunk boundary too. (log 104: DEDUCED) -/
def State.drained (s : State) (o : Nat) : Bool :=
  (s.handlersOf o).isEmpty && !s.ownerBusy o && (s.records.all fun e => e.owner != o || e.chunk.isNone) && s.launches.all fun x => x.owner != o || x.handler.isSome || x.blocks.all fun y => y.cluster.isNone || !y.unfinished

/-- Cycles of 200 ms. (log 104: DEDUCED) -/
def migrationLimit : Nat := 600000000

/-- The bytes of a page that are not zero, by offset, and its marked blocks, as the base die reads them. -/
def State.pageBytes (s : State) (n : Nat) : List (Nat × Byte) :=
  ((s.dies.getD 4 ⟨[], [], []⟩).mem.filter fun e => decide (pagePa n ≤ e.1) && decide (e.1 < pagePa n + 8192)).map fun e => (e.1 - pagePa n, e.2)
def State.pageMarks (s : State) (n : Nat) : List Nat :=
  (s.poison.filter fun a => decide (pagePa n ≤ a) && decide (a < pagePa n + 8192)).map (· - pagePa n)

/-- What leaves with an owner, every write to its pages performed (R390). (log 104: DEDUCED) -/
def State.departure (s : State) (o : Nat) : Departure :=
  let s := s.carry fun _ => true
  let ns := s.pagesOf o
  { num := o
    owner := { s.owner o with migrating := none }
    launches := s.launches.filter fun x => x.owner == o
    records := s.records.filter fun e => e.owner == o
    collIndex := s.collIndex.filter fun e => e.1 == o
    origins := s.origins.filter fun g => g.owned o
    queues := s.queues.filter fun q => q.owner == o
    pages := ns.map fun n => (n, s.ownership.get n)
    bytes := ns.flatMap fun n => (s.pageBytes n).map fun e => (n, e)
    marks := ns.flatMap fun n => (s.pageMarks n).map fun a => (n, a) }

/-- A page's number on the destination. -/
def movedPage (pages : List (Nat × Nat)) (n : Nat) : Nat := ((pages.find? fun e => e.1 == n).map (·.2)).getD n

/-- A physical address in a page that moves. -/
def movedPa (pages : List (Nat × Nat)) (pa : Nat) : Nat := pagePa (movedPage pages (ownershipKey pa)) + pa % 8192

/-- A launch on its new module: its pump mappings name the new pages; its paths read nothing from before its arrival (R193). -/
def Launch.moved (x : Launch) (pages : List (Nat × Nat)) (moment : Nat) : Launch :=
  { x with blocks := x.blocks.map fun y => { y with
      images := y.images.map fun e => (e.1, movedPa pages e.2)
      groups := y.groups.map fun z => { z with homeSince := moment, paths := z.paths.map fun p => { p with horizon := max p.horizon moment } } } }

/-- An owner on its new module: the pages of its reserve and cache are the new ones, and only their entries are in its translation cache. -/
def Owner.moved (w : Owner) (pages : List (Nat × Nat)) : Owner :=
  let r := { w.record with rsvPages := w.record.rsvPages.map (movedPage pages), specPages := w.record.specPages.map (movedPage pages) }
  { w with record := r, tlb := r.entries }

/-- Whether an owner that has left can arrive: nothing of it is here, the limits of R301 hold, and the pages for it are free (R308). -/
def State.canArrive (s : State) (d : Departure) (pages : List (Nat × Nat)) : Bool :=
  let ns := d.pages.map fun e => movedPage pages e.1
  !(s.owner d.num).valid && !s.firmware.refusing && s.reservesFit d.num d.owner.record && decide ns.Nodup &&
  ns.all (fun n => decide (n < 322265625) && !(s.ownership.get n).getLsbD 31 && !s.firmware.withheld n) &&
  (d.owner.record.specPages.all fun n => decide (movedPage pages n < 78125000)) && d.queues.all fun q => !(s.queues.any fun x => x.n == q.n)

/-- An owner arrives (R390): its bytes and marks lie in the pages given to it, and what waited waits again, its origins in their order, in collectors that
open anew. (log 104: DEDUCED) -/
def State.arriveOwner (s : State) (o : Nat) (pages : List (Nat × Nat)) : State :=
  match s.departed.find? fun d => d.num == o with
  | none => s
  | some d =>
    if !s.canArrive d pages then s
    else
      let s1 := d.pages.foldl (fun s e => (s.clearPage (pagePa (movedPage pages e.1))).setEntry (movedPage pages e.1) e.2) s
      let s2 := d.bytes.foldl (fun s e => s.writeAll (pagePa (movedPage pages e.1) + e.2.1) [e.2.2]) s1
      let s3 := d.marks.foldl (fun s e => s.markPoison (pagePa (movedPage pages e.1) + e.2)) s2
      let s4 : State := { s3 with
        launches := s3.launches ++ d.launches.map fun x => x.moved pages s3.moment
        records := s3.records ++ d.records.map fun e => { e with since := s3.moment, preds := [] }
        collIndex := s3.collIndex ++ d.collIndex
        origins := s3.origins ++ d.origins.map fun g => { g with at_ := s3.cycle }
        queues := s3.queues ++ d.queues
        departed := s3.departed.filter fun d => d.num != o }
      s4.updOwner o fun w => { d.owner.moved pages with
        free := max w.free d.owner.free
        record := { (d.owner.moved pages).record with clusters := withoutClusters d.owner.record.clusters s.firmware.withdrawn } }

/-- One step of a migration (R390): the start stops collectors, queues and engines and lets the blocks leave once no handler group runs; the flip makes the owner's
pages and state those of the other module, where it arrives; a migration that has not flipped within 200 ms is abandoned. -/
def State.migrate (s : State) : MigrationStep → State
  | .start o =>
    if !(s.owner o).valid || (s.owner o).stopped || (s.owner o).migrating.isSome then s
    else
      let s1 := s.updOwner o fun w => { w with migrating := some s.cycle }
      if (s.handlersOf o).isEmpty then s1.evictOwner o else s1
  | .flip o =>
    match (s.owner o).migrating with
    | none => s
    | some t =>
      if s.drained o ∧ s.cycle ≤ t + migrationLimit then
        { s.forget o with departed := s.departure o :: s.departed.filter fun d => d.num != o }
      else s
  | .abandon o =>
    match (s.owner o).migrating with
    | none => s
    | some t => if t + migrationLimit ≤ s.cycle then s.updOwner o fun w => { w with migrating := none } else s
  | .arrive o pages => s.arriveOwner o pages

/-- MIGRATION (R390, R412). (log 102, 104: DEDUCED) -/
def execMigration (m : MigrationStep) (handle : DWord) (s : State) : Host.Outcome State Fault Refusal :=
  .next (s.request handle true fun s => s.migrate m)

/-! ### Repair (R408, R409) -/

/-- The physical cores of a die that are spare and not in use: 88 to 95 of each die's 96 (R10). (log 14: DEDUCED) -/
def Firmware.freeSpare (f : Firmware) (die : Nat) : Option Nat :=
  ((List.range 8).map fun k => 96 * die + 88 + k).find? fun p => !f.sparesUsed.contains p

/-- Cycles of 1 s and of 1 h. -/
def second : Nat := 3000000000
def hour : Nat := 3600 * second

/-- Corrected errors in a core's register store within the last second (R408). -/
def State.coreErrors (s : State) (core : Nat) : Nat := s.firmware.corrected.countP fun e => e.core == some core && decide (s.cycle ≤ e.at_ + second)

/-- The row of a corrected error in the first tier. -/
def Corrected.row (e : Corrected) : Option Nat :=
  match e.unit with
  | .memory pa => if pa < Config.firstTier then some (Config.hbmRow (pa / 64)) else none
  | _ => none

/-- Corrected errors on a row within the last hour (R408). -/
def State.rowErrors (s : State) (row : Nat) : Nat := s.firmware.corrected.countP fun e => e.row == some row && decide (s.cycle ≤ e.at_ + hour)

/-- Spare rows of a channel that are in use. -/
def Firmware.rowsUsed (f : Firmware) (channel : Nat) : Nat := f.remappedRows.countP fun r => Config.hbmChannel r == channel

/-- The repair of a core ends: it is mapped to a spare of its die, or its cluster leaves every owner's CLUSTERS, for which the firmware reaches the owner
records (R412). (log 105: DESIGN CHOICE) -/
def State.coreSpared (s : State) (core : Nat) (handle : DWord) : State :=
  let f := s.firmware
  match f.freeSpare (dieOf core) with
  | some p =>
    { s with firmware := { f with
        inRepair := none
        spareMap := (core, p) :: f.spareMap.filter fun e => e.1 != core
        repairLog := f.repairLog ++ [core]
        sparesUsed := f.sparesUsed ++ [p] } }
  | none =>
    (s.reachRecord handle true).elim s fun s => { s with
      firmware := { s.firmware with inRepair := none, repairLog := f.repairLog ++ [core], spareMap := f.spareMap.filter fun e => e.1 != core }
      owners := s.owners.map fun w => { w with record := { w.record with clusters := withoutClusters w.record.clusters [core / 4] } } }

/-- CORE_SPARE (R408, R409, R412): after an uncorrectable error in the core's logic, or 16 corrected errors in its register store within 1 s, its repair
begins, and its blocks leave; once no group is left on it, the repair ends. One repair runs at a time. (log 105: DESIGN CHOICE) -/
def execCoreSpare (core : Nat) (uncorrectable : Bool) (handle : DWord) (s : State) : Host.Outcome State Fault Refusal :=
  let f := s.firmware
  if !f.running || decide (Config.cores ≤ core) then .next s
  else
    match f.inRepair with
    | none =>
      if uncorrectable = false ∧ s.coreErrors core < 16 then .next s
      else
        let s1 : State := { s with firmware := { f with inRepair := some core, corrected := f.corrected.filter fun e => e.core != some core } }
        .next (s1.preemptAll ((s1.groupsOn core).filterMap fun e => if e.1.handler.isNone then some (e.1.leavers e.2.1) else none).flatten.dedup none)
    | some c => .next (if c = core ∧ (s.groupsOn core).isEmpty then s.coreSpared core handle else s)

/-- HBM_ROW_REMAP (R408, R409): 4 corrected errors on a row within 1 h; owners see nothing. (log 105: DESIGN CHOICE) -/
def execHbmRowRemap (row : Nat) (s : State) : Host.Outcome State Fault Refusal :=
  let f := s.firmware
  .next (if f.mayRepair ∧ 4 ≤ s.rowErrors row ∧ f.rowsUsed (Config.hbmChannel row) < Config.rowSpares then
    { s with firmware := { f with remappedRows := f.remappedRows ++ [row], corrected := f.corrected.filter fun e => e.row != some row } }
    else s)

/-- The first-tier pages of owners that lie in a channel. (log 105: DESIGN CHOICE) -/
def State.pagesIn (s : State) (channel : Nat) : List Nat :=
  (s.ownership.filter fun e => decide (e.1 < 78125000) && e.2.getLsbD 31 && pageIn channel e.1).map (·.1)
/-- The free first-tier pages that can hold what pages of a channel hold. (log 105: DESIGN CHOICE) -/
def State.freePages (s : State) (channel : Nat) : List Nat :=
  (List.range 78125000).filter fun n => !(s.ownership.get n).getLsbD 31 && !pageIn channel n && !s.firmware.withheld n

/-- HBM_CHANNEL_RETIRE (R408, R409): after an uncorrectable error outside a single row, or with the channel's row spares exhausted, its pages are copied to free
pages, and physical addresses keep their meaning; without enough free pages it stays in use and the operator is told. (log 105: DESIGN CHOICE) -/
def execHbmChannelRetire (channel : Nat) (uncorrectable : Bool) (s : State) : Host.Outcome State Fault Refusal :=
  let f := s.firmware
  .next (if f.mayRepair ∧ (uncorrectable = true ∨ Config.rowSpares ≤ f.rowsUsed channel) then
    { s with firmware :=
      if (s.pagesIn channel).length ≤ (s.freePages channel).length then
        { f with retiredChannels := (f.retiredChannels ++ [channel]).dedup, backing := f.backing ++ (s.pagesIn channel).zip (s.freePages channel) }
      else { f with operatorTold := true } }
    else s)

/-! ### Update and removal (R410, R411, R414) -/

/-- A step of a firmware update, or of the region table's install path (R410, R412, R414). -/
def Firmware.update (f : Firmware) : UpdateStep → Firmware
  | .offer image version signature =>
    if imageGood image version f.rollback signature ∧ f.onStandby = 0 then { f with standby := some (image, version, signature) } else f
  | .switchCore k =>
    match f.standby with
    | none => f
    | some (image, version, signature) =>
      let on := f.onStandby ||| BitVec.ofNat 4 (2 ^ k)
      if on = 0xF then { f with image := image, version := version, signature := signature, standby := none, onStandby := 0 }
      else { f with onStandby := on }
  | .install k base limit rights => f.install k base limit rights
  | .free k => f.freeRegion k

/-- FIRMWARE_UPDATE (R410, R412): a verified image goes to the standby bank; the control cores switch one at a time, and the bank becomes active when all
four run it. The request is read through its handle. (log 102: DEDUCED) -/
def execFirmwareUpdate (u : UpdateStep) (handle : DWord) (s : State) : Host.Outcome State Fault Refusal :=
  .next (s.request handle false fun s => { s with firmware := s.firmware.update u })

/-- The module leaves its slot: every owner's state is lost, and the next start is a cold one (R406, R411). (log 100: DEDUCED) -/
def State.pulled (s : State) : State :=
  s.started { s.firmware.bootRom false with removed := true } State.reset.dies [] { s.links with pcieUp := false, titeyx := 0, cxl := 0 }

/-- MODULE_REMOVAL (R411): once no owner is left, the running firmware refuses new owners, lowers the ports and lights the indicator; then, or without all
this, the module is pulled. -/
def execModuleRemoval (m : RemovalStep) (s : State) : Host.Outcome State Fault Refusal :=
  match m with
  | .prepare =>
    .next (if !s.firmware.running || s.owners.any (·.valid) then s
      else { s with
        firmware := { s.firmware with refusing := true, portsLowered := true, indicator := true }
        links := { s.links with pcieUp := false, titeyx := 0 } })
  | .pull => .next s.pulled

/-! ### The wake filter (R413) -/

/-- Whether a frame matches an entry. (log 106: DEDUCED) -/
def WakeEntry.hits (e : WakeEntry) (frame : List Byte) : Bool :=
  let bs := (frame.drop e.offset.toNat).take 8
  e.valid && decide (bs.length = 8) && (BitVec.ofNat 64 (leNat bs) &&& e.mask) == e.value

/-- A control core reads a frame through its handle and processes it, or refuses the request; a module in its boot ROM answers with a failure status alone
(R412, R414). -/
def State.processFrame (s : State) (frame : List Byte) (handle : DWord) : State :=
  s.request handle false fun s => { s with firmware := { s.firmware with processed := s.firmware.processed ++ [frame] } }

/-- MANAGEMENT_FRAME (R412, R413): a running control core processes it; while all are gated the first match begins a wake, other frames are dropped and
counted; during the wake up to four frames are held. A frame of more than 1518 bytes is never held. (log 106: DEDUCED) -/
def execManagementFrame (frame : List Byte) (handle : DWord) (s : State) : Host.Outcome State Fault Refusal :=
  let f := s.firmware
  let fits := decide (frame.length ≤ 1518)
  if f.gated ≠ 0xF then .next (s.processFrame frame handle)
  else if f.waking then .next (if f.held.length < 4 ∧ fits then { s with firmware := { f with held := f.held ++ [frame] } } else s)
  else if fits && f.wake.any fun e => e.hits frame then .next { s with firmware := { f with waking := true, held := [frame] } }
  else .next { s with firmware := { f with droppedFrames := f.droppedFrames + 1 } }

/-- CONTROL_CORE_WAKE (R412, R413): control core 0 is restored and processes the held frames in arrival order. -/
def execControlCoreWake (handle : DWord) (s : State) : Host.Outcome State Fault Refusal :=
  let f := s.firmware
  if f.waking then
    .next (f.held.foldl (fun s frame => s.processFrame frame handle)
      { s with firmware := { f with gated := f.gated &&& 0xE, waking := false, held := [] } })
  else .next s

/-- CONTROL_CORE_POWER_GATE (R413): the last running control core is not gated while no wake-filter entry is VALID. (log 106: DEDUCED) -/
def execControlCorePowerGate (cores : BitVec 4) (s : State) : Host.Outcome State Fault Refusal :=
  let f := s.firmware
  let some_ := f.wake.any (·.valid)
  let gated := (List.range 4).foldl (fun (g : BitVec 4) k =>
    let h := g ||| (cores &&& BitVec.ofNat 4 (2 ^ k))
    if h = 0xF && !some_ then g else h) f.gated
  .next (if f.running then { s with firmware := { f with gated := gated } } else s)

/-- WAKE_FILTER_WRITE (R412, R413): a management request, which a running control core reads through its handle and carries out, writes an entry whole. (log 102: DEDUCED) -/
def execWakeFilterWrite (k : Nat) (offset : BitVec 7) (mask value : DWord) (handle : DWord) (s : State) : Host.Outcome State Fault Refusal :=
  .next (if s.firmware.gated = 0xF then s
    else s.request handle false fun s => { s with firmware := { s.firmware with wake := s.firmware.wake.set k ⟨true, offset, mask, value⟩ } })

/-! ### Attestation (R415) -/

/-- The record fields of R299, in its order, low byte first. (log 107: DEDUCED) -/
def Owner.recordBytes (w : Owner) : List Byte :=
  let r := w.record
  [if w.valid then 1 else 0] ++ leBytes 8 r.qblocks.toNat ++ leBytes 11 r.clusters.toNat ++ leBytes 1 r.issuew ++ leBytes 4 r.issuecap ++
  leBytes 2 r.hbmbw ++ leBytes 2 r.resbw ++ leBytes 1 r.engw ++ leBytes 2 r.specmax ++ leBytes 8 r.welltab ++ leBytes 8 r.winbase ++
  leBytes 8 r.rsvbase ++ leBytes 4 r.rsvlen ++ leBytes 1 r.rsvlines ++ leBytes 1 r.rsvslots ++ leBytes 4 r.rsvtime

/-- The 32 bytes of a digest, first byte first. (log 107: DEDUCED) -/
def digestBytes (d : BitVec 256) : List Byte := (List.range 32).map fun i => (d >>> (8 * (31 - i))).setWidth 8

/-- An attestation report over the running firmware and one owner. (log 107: DEDUCED) -/
def State.attest (s : State) (nonce : BitVec 256) (o : Word) : Attestation :=
  let f := s.firmware
  let image := sm3 f.image
  let digest : BitVec 256 := if o.toNat < Config.owners then sm3 (s.owner o.toNat).recordBytes else 0
  let start : Word := if f.warm then 1 else 0
  let body := digestBytes nonce ++ digestBytes image ++ leBytes 4 f.version ++ leBytes 4 f.rollback ++ leBytes 4 start.toNat ++ leBytes 4 o.toNat ++
    digestBytes digest
  ⟨nonce, image, BitVec.ofNat 32 f.version, BitVec.ofNat 32 f.rollback, start, o, digest, Config.sm2Sign body⟩

/-- ATTESTATION_REQUEST (R412, R415). (log 102: DEDUCED) -/
def execAttestationRequest (nonce : BitVec 256) (o : Word) (handle : DWord) (s : State) : Host.Outcome State Fault Refusal :=
  .next (s.request handle false fun s => { s with firmware := { s.firmware with reports := s.firmware.reports ++ [s.attest nonce o] } })

end Sys2Proof.Machine
end

