-- ==== Sys2Proof/Machine/Governor.lean ====
section
/-! DEFINITION. Issue and the load-step governor: which groups are offered issue (R280, R286 to R288, R356, R357, R403), the plan of a cycle and the cores
it holds (R280), ballast (R281), ramp slots (R277, R278, R282), and how cycles pass. Powers are in hundredths of a watt; a slot's estimate is their sum
over its 3000 cycles. -/

namespace Sys2Proof.Machine

/-! ### Offering issue -/

/-- What the next word of a path takes when it issues. -/
def State.nextIssueOf (s : State) (c : Ctx) : Issue :=
  let p := s.atNext c
  issueOf { c with path := p } p.here.instr 0

/-- The weight at which the governor plans the next word of a path (R280). -/
def State.nextPlan (s : State) (c : Ctx) : Nat := (s.atNext c).planOf (s.nextIssueOf c)

/-- The pipes of a core that words with beats hold in the present cycle. (log 85: DEDUCED) -/
def State.pipesHeld (s : State) (core : Nat) : Nat := s.piped.countP fun e => e.1 == core

/-- The words that use no pipe and have issued on a core in the present cycle. -/
def State.plainIssued (s : State) (core : Nat) : Nat := ((s.groupsOn core).map fun e => e.2.2.plainAt.count s.cycle).sum

/-- Whether a core has a pipe free for a word with beats, or one of the two places of a cycle for a word that uses no pipe (R286). (log 4: DEDUCED) -/
def State.hasPlace (s : State) (core : Nat) (w : Issue) : Bool :=
  if w.beats = 0 then !w.plain || decide (s.plainIssued core < 2) else decide (s.pipesHeld core < 4)

/-- Whether a path would issue its next word in the present cycle, places and power apart (R29, R118, R122, ranks 1 and 2 of R287). (log 4, 90: DEDUCED) -/
def State.wouldIssue (s : State) (c : Ctx) : Bool :=
  c.block.cluster.isSome && !c.group.done && !c.group.freed && c.path.isReady && decide (max c.path.nextIssue c.group.yieldUntil ≤ s.cycle) &&
  !s.notOffered c.launch && s.hasTurn c

/-- Whether a path could issue its next word in the present cycle, if its turn comes: it has a place, and its core is not held (R280, R286). (log 4, 84: DEDUCED) -/
def State.couldIssue (s : State) (c : Ctx) : Bool :=
  s.wouldIssue c && s.hasPlace c.group.core (s.nextIssueOf c) && s.underCeiling c.group.core (s.nextPlan c)

/-- The order of two groups of equal rank: last issue, then launch, block and group (ranks 5 and 6 of R287). -/
def Ctx.turnKey (c : Ctx) : List Nat :=
  (if c.group.cWords = 0 then 0 else c.group.lastIssue + 1) :: c.launch.ageKey ++ [c.ref.block, c.ref.group]

/-- Whether an owner's turn comes before another's: it has issued less of its allotment in the period, or as much and has the lower number (rank 4 of
R287). (log 122: DESIGN CHOICE) -/
def State.ownerBefore (s : State) (a b : Nat) : Bool :=
  let used (x y : Nat) : Nat := (s.owner x).periodIssued * (s.owner y).record.issuew
  decide (used a b < used b a) || (used a b == used b a && decide (a < b))

/-- Whether the turn of a path `d` comes before that of a path `c` of the same core (ranks 3 to 6 of R287): in one group the paths rotate from the one
after the path that issued last; a handler group goes before the ordinary groups of its owner. (log 4, 110: DEDUCED, DESIGN CHOICE) -/
def State.before (s : State) (d c : Ctx) : Bool :=
  if d.ref.launch = c.ref.launch ∧ d.ref.block = c.ref.block ∧ d.ref.group = c.ref.group then
    decide ((d.ref.path + 3 - d.group.lastPath) % 4 < (c.ref.path + 3 - c.group.lastPath) % 4)
  else if d.launch.owner ≠ c.launch.owner then s.ownerBefore d.launch.owner c.launch.owner
  else if d.launch.handler.isSome = c.launch.handler.isSome then lexLt d.turnKey c.turnKey
  else d.launch.handler.isSome

/-- The live paths on a core. -/
def State.pathsOn (s : State) (core : Nat) : List Ctx :=
  (s.groupsOn core).flatMap fun e => (e.2.2.liveRefs e.1.seq e.2.1.index).filterMap s.ctx?

/-- Whether a path is offered issue in the present cycle: it could issue, and so could no path whose turn comes before (R287). (log 4, 84: DEDUCED) -/
def State.offered (s : State) (c : Ctx) : Bool :=
  s.couldIssue c && !(s.pathsOn c.group.core).any fun d => s.before d c && s.couldIssue d

/-- Cycles until a path can issue, at least `dt`: its stall counts and its group's YIELD (R118, R122). (log 4: DEDUCED) -/
def State.waitFor (s : State) (r : PathRef) (dt : Nat) : Nat :=
  match s.ctx? r with
  | none => dt
  | some c => if c.path.isReady then max dt (max c.path.nextIssue c.group.yieldUntil - s.cycle) else dt

/-! ### The plan of a cycle and the cores held (R280) -/

/-- Insert a core in a rising list. -/
def insertCore (c : Nat) : List Nat → List Nat
  | [] => [c]
  | d :: r => if c < d then c :: d :: r else if c = d then d :: r else d :: insertCore c r

/-- The cores with a resident group, in order. -/
def State.busyCores (s : State) : List Nat :=
  (s.launches.flatMap fun x => x.blocks.flatMap fun y => y.residents.map (·.core)).foldr insertCore []

/-- Insert a path in order of turns. -/
def State.insertTurn (s : State) (c : Ctx) : List Ctx → List Ctx
  | [] => [c]
  | d :: r => if s.before c d then c :: d :: r else d :: s.insertTurn c r

/-- What words planned in turn order add, with so many pipes and so many places for words without a pipe free: at most one word of a path (R286). -/
def planWords : Nat → Nat → List (Issue × Nat) → Nat
  | _, _, [] => 0
  | pipes, plain, (w, plan) :: r =>
    if w.beats ≠ 0 then (if pipes = 0 then planWords 0 plain r else plan + planWords (pipes - 1) plain r)
    else if w.plain then (if plain = 0 then planWords pipes 0 r else plan + planWords pipes (plain - 1) r)
    else plan + planWords pipes plain r

/-- The weight planned for a core in the present cycle: the beats of words that have issued, the words that its paths would issue, and the array that
would start (R280). (log 84: DEDUCED) -/
def State.corePlan (s : State) (core : Nat) : Nat :=
  let turns := ((s.pathsOn core).filter s.wouldIssue).foldr s.insertTurn []
  ((s.piped.filter fun e => e.1 == core && e.2.beatDue s.cycle).map (·.2.pipePlan)).sum +
    planWords (4 - s.pipesHeld core) (2 - s.plainIssued core) (turns.map fun c => (s.nextIssueOf c, s.nextPlan c)) +
    (s.startable core).elim 0 MmaOp.planOf

/-- Cores taken in order from a list until the planned draw fits: the cores held. (log 84: DEDUCED) -/
def holdCores (ceiling : Nat) : List (Nat × Nat) → Nat → List Nat
  | [], _ => []
  | (c, w) :: r, draw => if draw * Config.rampSlot ≤ ceiling then [] else c :: holdCores ceiling r (draw - w)

/-- One held core-cycle, in the counters (R288, R314). -/
def State.markHeld (s : State) (core : Nat) : State :=
  let on := s.groupsOn core
  let owners := (on.map fun e => e.1.owner).dedup
  let launches := (on.map fun e => e.1.seq).dedup
  let s := owners.foldl (fun s o => s.updOwner o fun w => w.bump 17 1) s
  let s := launches.foldl (fun s l => s.updLaunch l fun x => { x with held := x.held + 1 }) s
  on.foldl (fun s e => s.updGroup e.1.seq e.2.1.index e.2.2.index fun z => { z with cHeld := z.cHeld + 1 }) s

/-- The rest of a path's word, and its result, come a cycle later (R280). -/
def Path.holdBeats (p : Path) : Path :=
  let late (n : Nat) : Nat := if n = p.lastReady then n + 1 else n
  { p with
    pipeEnd := p.pipeEnd + 1
    nextIssue := p.nextIssue + 1
    stallEnd := p.stallEnd + 1
    l0At := late p.l0At
    l1At := late p.l1At
    flagsAt := late p.flagsAt
    lastReady := p.lastReady + 1 }

/-- The words of a group on a held core: beats that are due resume in the next cycle, and their results are as much later. -/
def Group.holdBeats (z : Group) (t : Nat) : Group :=
  let due (k : Nat) : Bool := (z.paths[k]?).elim false fun p => p.beatDue t
  let ready (k : Nat) : Nat := (z.paths.getD k Path.dead).lastReady
  { z with
    paths := z.paths.map fun p => if p.beatDue t then p.holdBeats else p
    hazards := z.hazards.map fun h => if due h.path ∧ h.ready = ready h.path then { h with ready := h.ready + 1 } else h
    flagHazards := z.flagHazards.map fun h => if due h.path ∧ h.ready = ready h.path then { h with ready := h.ready + 1 } else h
    reaches := z.reaches.map fun e => if due e.path ∧ t ≤ e.at_ then { e with at_ := e.at_ + 1 } else e }

/-- Beats are kept back on a core: they draw nothing in this cycle. (log 84: DEDUCED) -/
def State.holdBeats (s : State) (core : Nat) : State :=
  let groups := ((s.groupsOn core).map fun e => (e.1.seq, e.2.1.index, e.2.2.index)).dedup
  let due := (s.piped.filter fun e => e.1 == core && e.2.beatDue s.cycle).map (·.2)
  let s := groups.foldl (fun s e => s.updGroup e.1 e.2.1 e.2.2 fun z => z.holdBeats s.cycle) s
  { s with governor := { s.governor with
    kept := s.governor.kept + (due.map (·.pipeWeight)).sum
    keptTwo := s.governor.keptTwo + ((due.filter (·.pipeTwo)).map (·.pipeWeight)).sum } }

/-- The cores that the governor holds in the present cycle: in logical core order, from the one after the core held last, until the planned draw fits
(R280); never a core of a pinned launch (R282). (log 83, 84: DEDUCED) -/
def State.coresToHold (s : State) : List Nat :=
  let plan := s.busyCores.map fun c => (c, s.corePlan c)
  let planned := s.fixedDraw + (plan.map (·.2)).sum
  let takes := plan.filter fun e => decide (0 < e.2) && !s.pinnedCore e.1
  let last := s.governor.lastHeld
  holdCores s.governor.ceiling ((takes.filter fun e => decide (last < e.1)) ++ takes.filter fun e => decide (e.1 ≤ last)) planned

/-- The governor plans the present cycle, once (R280). -/
def State.holdNow (s : State) : State :=
  if s.governor.heldAt = s.cycle then s
  else
    let held := s.coresToHold
    let s1 : State := { s with governor := { s.governor with
      heldAt := s.cycle
      heldCores := held
      kept := 0
      keptTwo := 0
      lastHeld := held.getLast?.getD s.governor.lastHeld } }
    held.foldl (fun s c => (s.holdBeats c).markHeld c) s1

/-- GOVERNOR_HOLD (R280): the plan of the present cycle, where it is not made yet. (log 84: DEDUCED) -/
def execGovernorHold (s : State) : Host.Outcome State Fault Refusal := .next s.holdNow

/-! ### Ballast (R281) -/

/-- Whether a group waits: every live path of it does (R29). -/
def Group.allWait (z : Group) : Bool :=
  !z.done && z.paths.any (·.valid) && z.paths.all fun p => !p.valid || (p.stopped.isNone && match p.status with
    | .waiting _ => true
    | _ => false)

/-- The pipes of a core that no word holds and no ready word wants. -/
def State.freePipes (s : State) (core : Nat) : Nat :=
  let wants := (s.pathsOn core).countP fun c => s.wouldIssue c && (s.nextIssueOf c).beats != 0
  let held := s.piped.countP fun e => e.1 == core && !(s.coreHeld core && e.2.beatDue s.cycle)
  4 - held - wants

/-- The beats of ballast that the free pipes allow in the present cycle: the launch on whose behalf each would issue, and its weight. (log 123: DESIGN CHOICE) -/
def State.ballastBeats (s : State) : List (Nat × Nat) :=
  s.busyCores.flatMap fun core =>
    match (s.groupsOn core).find? fun e => e.2.2.allWait && decide (0 < classWeight e.2.2.lastClass) with
    | none => []
    | some e => List.replicate (s.freePipes core) (e.1.seq, classWeight e.2.2.lastClass)

/-- As many of the beats as bring the draw to the floor. -/
def beatsToFloor (floor : Nat) : List (Nat × Nat) → Nat → List (Nat × Nat)
  | [], _ => []
  | b :: r, draw => if floor ≤ draw * Config.rampSlot then [] else b :: beatsToFloor floor r (draw + b.2)

/-- Whether the draw of the present cycle lies below the floor. -/
def State.belowFloor (s : State) : Bool := decide (s.draw * Config.rampSlot < s.governor.floor)

/-- One beat of ballast, in the counters and in the draw. (log 85: DEDUCED) -/
def State.ballastBeat (s : State) (b : Nat × Nat) : State :=
  match s.launch? b.1 with
  | none => s
  | some x =>
    let g := s.governor
    let s : State := { s with governor := { g with
      sum := g.sum + b.2
      drawAt := s.cycle
      draw := (if g.drawAt = s.cycle then g.draw else 0) + b.2
      plan := if g.drawAt = s.cycle then g.plan else 0
      ballastFor := b.1 :: g.ballastFor } }
    (s.updOwner x.owner fun o => o.bump 18 1).updLaunch b.1 fun x => { x with ballast := x.ballast + 1 }

/-- The ballast of the present cycle, once: it issues when no more words of the cycle do. (log 85: DEDUCED) -/
def State.ballastNow (s : State) : State :=
  if s.governor.ballastAt = s.cycle ∨ s.belowFloor = false then s
  else
    let beats := beatsToFloor s.governor.floor s.ballastBeats s.draw
    beats.foldl State.ballastBeat { s with governor := { s.governor with ballastAt := s.cycle, ballastFor := [] } }

/-- BALLAST_ISSUE (R281): the ballast of the present cycle, where it has not issued yet. (log 85: DEDUCED) -/
def execBallastIssue (s : State) : Host.Outcome State Fault Refusal := .next s.ballastNow

/-! ### Ramp slots (R277, R278, R282) -/

/-- Whether the ramp slot is over. -/
def State.slotDue (s : State) : Bool := decide (s.governor.slotStart + Config.rampSlot ≤ s.cycle)

/-- E(n) is formed, at least the telemetry's sum (in hundredths of a watt), and slot n + 1 begins, which pinned launches that wait enter first (R277,
R278, R282). -/
def State.slotEnd (s : State) (telemetry : Nat) : State :=
  let g := s.governor
  State.admitAllPinned { s with governor := { g with
    slot := g.slot + 1
    slotStart := g.slotStart + Config.rampSlot
    sum := 0
    previous := g.estimate
    estimate := max g.sum (telemetry * Config.rampSlot)
    limit := g.limitNext.getD g.limit
    limitNext := none
    admitted := 0
    admittedPinned := 0 } }

/-- RAMP_SLOT_BOUNDARY (R277, R278): the slot ends, with the telemetry that the event carries. (log 108: DESIGN CHOICE) -/
def execRampSlotBoundary (telemetry : Nat) (s : State) : Host.Outcome State Fault Refusal := .next (if s.slotDue then (s.slotEnd telemetry).holdNow else s)

/-- GOVERNOR_LIMIT_WRITE (R278): LIMIT is bits [8:0] of the word, clamped, and in force from the next slot on. -/
def execGovernorLimitWrite (v : Word) (s : State) : Host.Outcome State Fault Refusal :=
  .next { s with governor := { s.governor with limitNext := some (max 40 (min 400 (v.toNat % 512))) } }

/-! ### Cycles pass -/

/-- A ramp slot and a metering period that are over end, and the present cycle is planned. (log 109: DESIGN CHOICE) -/
def State.openCycle (s : State) : State :=
  let s1 := if s.slotDue then s.slotEnd 0 else s
  let s2 := if s1.periodDue then s1.periodEnd else s1
  s2.holdNow

/-- One cycle, or `dt` in which nothing changes, pass: the ballast of the cycle that ends, and the caps that its counts have reached. -/
def State.pass (s : State) (dt : Nat) : State :=
  let t := s.ballastNow.tick dt
  if t.owners.any Owner.capsDue then { t with owners := t.owners.map Owner.caps } else t

/-- Whether a path of a resident block is ready: what it would issue counts in the plan of a cycle, now or once its stall count is over (R280). -/
def State.someReady (s : State) : Bool := s.launches.any fun x => x.blocks.any fun y => y.residents.any fun z => z.paths.any Path.isReady

/-- Whether every cycle needs a plan, ballast or a cap of its own: a path is ready, beats of words or matrix operations are to come, cores are held, the draw
lies below the floor, or will when the words and the ballast of this cycle are past, or a limit is reached. -/
def State.busy (s : State) : Bool :=
  s.someReady || !s.piped.isEmpty || !s.mmas.isEmpty || !s.governor.heldCores.isEmpty || s.belowFloor ||
  decide (s.baseDraw * Config.rampSlot < s.governor.floor) || s.owners.any Owner.capsDue

/-- Cycles until the slot or the period is over. -/
def State.untilBoundary (s : State) : Nat :=
  min (s.governor.slotStart + Config.rampSlot) ((s.period + 1) * Config.period) - s.cycle

/-- `dt` cycles pass, each planned by the governor when it begins; slots and periods that are over end in between. `k` bounds the parts in which they
pass. -/
def State.run : Nat → State → Nat → State
  | 0, s, _ => s
  | k + 1, s, dt =>
    if dt = 0 then s
    else
      let s1 := s.openCycle
      let n := if s1.busy then 1 else max 1 (min dt s1.untilBoundary)
      State.run k (s1.pass n) (dt - n)

/-- `dt` cycles pass. (log 109: DESIGN CHOICE) -/
def State.advance (s : State) (dt : Nat) : State := s.run dt dt

end Sys2Proof.Machine
end

