-- ==== Sys2Proof/Machine/Dispatch.lean ====
section
/-! DEFINITION. The meaning of every instruction: one arm per constructor. -/

namespace Sys2Proof.Machine

/-- What an instruction or event does. -/
def exec (i : Instr) (s : State) : Host.Outcome State Fault Refusal :=
  match i with
  | .pfx m r z f e t => Sys2Proof.Machine.execPfx m r z f e t s
  | .add st d a b => Sys2Proof.Machine.execAdd st d a b s
  | .sub st d a b => Sys2Proof.Machine.execSub st d a b s
  | .mul st d a b => Sys2Proof.Machine.execMul st d a b s
  | .mulh st d a b => Sys2Proof.Machine.execMulh st d a b s
  | .div st d a b => Sys2Proof.Machine.execDiv st d a b s
  | .rem st d a b => Sys2Proof.Machine.execRem st d a b s
  | .and st d a b => Sys2Proof.Machine.execAnd st d a b s
  | .or st d a b => Sys2Proof.Machine.execOr st d a b s
  | .xor st d a b => Sys2Proof.Machine.execXor st d a b s
  | .shl st d a b => Sys2Proof.Machine.execShl st d a b s
  | .shr st d a b => Sys2Proof.Machine.execShr st d a b s
  | .sar st d a b => Sys2Proof.Machine.execSar st d a b s
  | .min st d a b => Sys2Proof.Machine.execMin st d a b s
  | .max st d a b => Sys2Proof.Machine.execMax st d a b s
  | .sel st d a b => Sys2Proof.Machine.execSel st d a b s
  | .cmp st c d a b => Sys2Proof.Machine.execCmp st c d a b s
  | .mov st d a => Sys2Proof.Machine.execMov st d a s
  | .not st d a => Sys2Proof.Machine.execNot st d a s
  | .abs st d a => Sys2Proof.Machine.execAbs st d a s
  | .neg st d a => Sys2Proof.Machine.execNeg st d a s
  | .clz st d a => Sys2Proof.Machine.execClz st d a s
  | .popc st d a => Sys2Proof.Machine.execPopc st d a s
  | .mmov st d a => Sys2Proof.Machine.execMmov st d a s
  | .mnot st d a => Sys2Proof.Machine.execMnot st d a s
  | .mpop st d a => Sys2Proof.Machine.execMpop st d a s
  | .movk st d v => Sys2Proof.Machine.execMovk st d v s
  | .mand st d a b => Sys2Proof.Machine.execMand st d a b s
  | .mor st d a b => Sys2Proof.Machine.execMor st d a b s
  | .mxor st d a b => Sys2Proof.Machine.execMxor st d a b s
  | .mandn st d a b => Sys2Proof.Machine.execMandn st d a b s
  | .bra st o => Sys2Proof.Machine.execBra st o s
  | .brz st a o => Sys2Proof.Machine.execBrz st a o s
  | .brnz st a o => Sys2Proof.Machine.execBrnz st a o s
  | .call st n o => Sys2Proof.Machine.execCall st n o s
  | .fork st d a v => Sys2Proof.Machine.execFork st d a v s
  | .join st a => Sys2Proof.Machine.execJoin st a s
  | .trip st d a => Sys2Proof.Machine.execTrip st d a s
  | .nop st => Sys2Proof.Machine.execNop st s
  | .ret st => Sys2Proof.Machine.execRet st s
  | .exit st => Sys2Proof.Machine.execExit st s
  | .sleep st a => Sys2Proof.Machine.execSleep st a s
  | .sleepExpire p => Sys2Proof.Machine.execSleepExpire p s
  | .rdmode st d => Sys2Proof.Machine.execRdmode st d s
  | .wrmode st a => Sys2Proof.Machine.execWrmode st a s
  | .addVectorInt st d a b => Sys2Proof.Machine.execAddVectorInt st d a b s
  | .subVectorInt st d a b => Sys2Proof.Machine.execSubVectorInt st d a b s
  | .mulVectorInt st d a b => Sys2Proof.Machine.execMulVectorInt st d a b s
  | .mulhVectorInt st d a b => Sys2Proof.Machine.execMulhVectorInt st d a b s
  | .divVectorInt st d a b => Sys2Proof.Machine.execDivVectorInt st d a b s
  | .remVectorInt st d a b => Sys2Proof.Machine.execRemVectorInt st d a b s
  | .andVector st d a b => Sys2Proof.Machine.execAndVector st d a b s
  | .orVector st d a b => Sys2Proof.Machine.execOrVector st d a b s
  | .xorVector st d a b => Sys2Proof.Machine.execXorVector st d a b s
  | .shlVector st d a b => Sys2Proof.Machine.execShlVector st d a b s
  | .shrVector st d a b => Sys2Proof.Machine.execShrVector st d a b s
  | .sarVector st d a b => Sys2Proof.Machine.execSarVector st d a b s
  | .minVectorInt st d a b => Sys2Proof.Machine.execMinVectorInt st d a b s
  | .maxVectorInt st d a b => Sys2Proof.Machine.execMaxVectorInt st d a b s
  | .selVector st d a b => Sys2Proof.Machine.execSelVector st d a b s
  | .cmpVectorInt st c d a b => Sys2Proof.Machine.execCmpVectorInt st c d a b s
  | .movVector st d a => Sys2Proof.Machine.execMovVector st d a s
  | .notVector st d a => Sys2Proof.Machine.execNotVector st d a s
  | .absVectorInt st d a => Sys2Proof.Machine.execAbsVectorInt st d a s
  | .negVectorInt st d a => Sys2Proof.Machine.execNegVectorInt st d a s
  | .clzVector st d a => Sys2Proof.Machine.execClzVector st d a s
  | .popcVector st d a => Sys2Proof.Machine.execPopcVector st d a s
  | .addFloat st d a b => Sys2Proof.Machine.execAddFloat st d a b s
  | .subFloat st d a b => Sys2Proof.Machine.execSubFloat st d a b s
  | .mulFloat st d a b => Sys2Proof.Machine.execMulFloat st d a b s
  | .fmaFloat st d a b => Sys2Proof.Machine.execFmaFloat st d a b s
  | .divFloat st d a b => Sys2Proof.Machine.execDivFloat st d a b s
  | .sqrt st d a => Sys2Proof.Machine.execSqrt st d a s
  | .rsq st d a => Sys2Proof.Machine.execRsq st d a s
  | .rcp st d a => Sys2Proof.Machine.execRcp st d a s
  | .minFloat st d a b => Sys2Proof.Machine.execMinFloat st d a b s
  | .maxFloat st d a b => Sys2Proof.Machine.execMaxFloat st d a b s
  | .cmpFloat st c d a b => Sys2Proof.Machine.execCmpFloat st c d a b s
  | .classify st d a b => Sys2Proof.Machine.execClassify st d a b s
  | .absFloat st d a => Sys2Proof.Machine.execAbsFloat st d a s
  | .negFloat st d a => Sys2Proof.Machine.execNegFloat st d a s
  | .addF64 st d a b => Sys2Proof.Machine.execAddF64 st d a b s
  | .subF64 st d a b => Sys2Proof.Machine.execSubF64 st d a b s
  | .mulF64 st d a b => Sys2Proof.Machine.execMulF64 st d a b s
  | .fmaF64 st d a b => Sys2Proof.Machine.execFmaF64 st d a b s
  | .shfl st d a b => Sys2Proof.Machine.execShfl st d a b s
  | .bcast st d a b => Sys2Proof.Machine.execBcast st d a b s
  | .matchKeys st d a => Sys2Proof.Machine.execMatchKeys st d a s
  | .redAdd st d a => Sys2Proof.Machine.execRedAdd st d a s
  | .redMin st d a => Sys2Proof.Machine.execRedMin st d a s
  | .redMax st d a => Sys2Proof.Machine.execRedMax st d a s
  | .scanAdd st d a => Sys2Proof.Machine.execScanAdd st d a s
  | .cvtF64 st d a f => Sys2Proof.Machine.execCvtF64 st d a f s
  | .cvtF32 st d a f => Sys2Proof.Machine.execCvtF32 st d a f s
  | .cvtF16 st d a f => Sys2Proof.Machine.execCvtF16 st d a f s
  | .cvtBf16 st d a f => Sys2Proof.Machine.execCvtBf16 st d a f s
  | .cvtE4m3 st d a f => Sys2Proof.Machine.execCvtE4m3 st d a f s
  | .cvtE5m2 st d a f => Sys2Proof.Machine.execCvtE5m2 st d a f s
  | .cvtL32 st d a f => Sys2Proof.Machine.execCvtL32 st d a f s
  | .cvtInt st d a f => Sys2Proof.Machine.execCvtInt st d a f s
  | .cvtCode st d a k f => Sys2Proof.Machine.execCvtCode st d a k f s
  | .cvtb st d a b => Sys2Proof.Machine.execCvtb st d a b s
  | .lnsmul st d a b => Sys2Proof.Machine.execLnsmul st d a b s
  | .lnsdiv st d a b => Sys2Proof.Machine.execLnsdiv st d a b s
  | .lnsadd st d a b => Sys2Proof.Machine.execLnsadd st d a b s
  | .lnsroot st d a b => Sys2Proof.Machine.execLnsroot st d a b s
  | .lnspow st d a b => Sys2Proof.Machine.execLnspow st d a b s
  | .ld st d a b sb ty scope sp aop => Sys2Proof.Machine.execLd st d a b sb ty scope sp aop s
  | .gather st d a b sb ty scope sp aop => Sys2Proof.Machine.execGather st d a b sb ty scope sp aop s
  | .st st d a b sb ty scope sp aop => Sys2Proof.Machine.execSt st d a b sb ty scope sp aop s
  | .stStrong st d a b sb ty scope sp aop => Sys2Proof.Machine.execStStrong st d a b sb ty scope sp aop s
  | .scatter st d a b sb ty scope sp aop => Sys2Proof.Machine.execScatter st d a b sb ty scope sp aop s
  | .atom st d a b sb ty scope sp aop => Sys2Proof.Machine.execAtom st d a b sb ty scope sp aop s
  | .loadComplete op moments => Sys2Proof.Machine.execLoadComplete op moments s
  | .storePerformed op => Sys2Proof.Machine.execStorePerformed op s
  | .fence st p k => Sys2Proof.Machine.execFence st p k s
  | .fenceFinish p => Sys2Proof.Machine.execFenceFinish p s
  | .barInit st d a b => Sys2Proof.Machine.execBarInit st d a b s
  | .barArrive st d a => Sys2Proof.Machine.execBarArrive st d a s
  | .barArrivec st d a b => Sys2Proof.Machine.execBarArrivec st d a b s
  | .barWait st a b => Sys2Proof.Machine.execBarWait st a b s
  | .barWaitFinish p => Sys2Proof.Machine.execBarWaitFinish p s
  | .exitBarrierTest l b => Sys2Proof.Machine.execExitBarrierTest l b s
  | .waita st c a b => Sys2Proof.Machine.execWaita st c a b s
  | .waitaFinish p => Sys2Proof.Machine.execWaitaFinish p s
  | .mma st t qa qb sb clr n pa pb => Sys2Proof.Machine.execMma st t qa qb sb clr n pa pb s
  | .mmaStart core ran => Sys2Proof.Machine.execMmaStart core ran s
  | .mmaComplete core => Sys2Proof.Machine.execMmaComplete core s
  | .gang st a => Sys2Proof.Machine.execGang st a s
  | .opres st q a => Sys2Proof.Machine.execOpres st q a s
  | .opresGrant p => Sys2Proof.Machine.execOpresGrant p s
  | .opready st q => Sys2Proof.Machine.execOpready st q s
  | .opreadyFinish p => Sys2Proof.Machine.execOpreadyFinish p s
  | .oprel st q => Sys2Proof.Machine.execOprel st q s
  | .oprelFinish p => Sys2Proof.Machine.execOprelFinish p s
  | .mwait st t => Sys2Proof.Machine.execMwait st t s
  | .accAlloc st a => Sys2Proof.Machine.execAccAlloc st a s
  | .accAllocGrant p => Sys2Proof.Machine.execAccAllocGrant p s
  | .accFree st a => Sys2Proof.Machine.execAccFree st a s
  | .accSt st t a b sb sp form => Sys2Proof.Machine.execAccSt st t a b sb sp form s
  | .accLd st t a b sb sp form => Sys2Proof.Machine.execAccLd st t a b sb sp form s
  | .accLdComplete op => Sys2Proof.Machine.execAccLdComplete op s
  | .cpyk st a b => Sys2Proof.Machine.execCpyk st a b s
  | .dzk st a b => Sys2Proof.Machine.execDzk st a b s
  | .coll st a b => Sys2Proof.Machine.execColl st a b s
  | .engineChunkDone r moments only => Sys2Proof.Machine.execEngineChunkDone r moments only s
  | .engineRecordComplete r => Sys2Proof.Machine.execEngineRecordComplete r s
  | .engineRecordFault r => Sys2Proof.Machine.execEngineRecordFault r s
  | .collectiveChunkReceive c => Sys2Proof.Machine.execCollectiveChunkReceive c s
  | .collectiveComplete r => Sys2Proof.Machine.execCollectiveComplete r s
  | .blockEnd l b => Sys2Proof.Machine.execBlockEnd l b s
  | .wellAdd st c n sb => Sys2Proof.Machine.execWellAdd st c n sb s
  | .wellAddRoom p => Sys2Proof.Machine.execWellAddRoom p s
  | .wellTake st c n sb d => Sys2Proof.Machine.execWellTake st c n sb d s
  | .quiet st d => Sys2Proof.Machine.execQuiet st d s
  | .quiescenceDeclared l => Sys2Proof.Machine.execQuiescenceDeclared l s
  | .tlbw st a => Sys2Proof.Machine.execTlbw st a s
  | .tlbinv st m a => Sys2Proof.Machine.execTlbinv st m a s
  | .orig st d n => Sys2Proof.Machine.execOrig st d n s
  | .hret st a => Sys2Proof.Machine.execHret st a s
  | .trap st k => Sys2Proof.Machine.execTrap st k s
  | .ctr st d n => Sys2Proof.Machine.execCtr st d n s
  | .wspill st h a b => Sys2Proof.Machine.execWspill st h a b s
  | .pathHoldRelease p => Sys2Proof.Machine.execPathHoldRelease p s
  | .clauseWaitClear p => Sys2Proof.Machine.execClauseWaitClear p s
  | .windowRefill l b g line => Sys2Proof.Machine.execWindowRefill l b g line s
  | .windowSpill l b g line => Sys2Proof.Machine.execWindowSpill l b g line s
  | .groupEnd l b g => Sys2Proof.Machine.execGroupEnd l b g s
  | .handlerCollectorLaunch o walk depth => Sys2Proof.Machine.execHandlerCollectorLaunch o walk depth s
  | .originResume p => Sys2Proof.Machine.execOriginResume p s
  | .notifyWrite offset v => Sys2Proof.Machine.execNotifyWrite offset v s
  | .queueSlotBind => Sys2Proof.Machine.execQueueSlotBind s
  | .launchHeaderRead q => Sys2Proof.Machine.execLaunchHeaderRead q s
  | .dependenceMet l => Sys2Proof.Machine.execDependenceMet l s
  | .specialise l => Sys2Proof.Machine.execSpecialise l s
  | .blockAdmit l b => Sys2Proof.Machine.execBlockAdmit l b s
  | .blockPlace l b => Sys2Proof.Machine.execBlockPlace l b s
  | .launchComplete l => Sys2Proof.Machine.execLaunchComplete l s
  | .rampSlotBoundary telemetry => Sys2Proof.Machine.execRampSlotBoundary telemetry s
  | .governorHold => Sys2Proof.Machine.execGovernorHold s
  | .ballastIssue => Sys2Proof.Machine.execBallastIssue s
  | .governorLimitWrite v => Sys2Proof.Machine.execGovernorLimitWrite v s
  | .preempt l b cause => Sys2Proof.Machine.execPreempt l b cause s
  | .faultedBlock l b => Sys2Proof.Machine.execFaultedBlock l b s
  | .contentionPreempt core => Sys2Proof.Machine.execContentionPreempt core s
  | .meteringPeriodBoundary => Sys2Proof.Machine.execMeteringPeriodBoundary s
  | .issueThrottle o => Sys2Proof.Machine.execIssueThrottle o s
  | .rsvtimeExhausted o => Sys2Proof.Machine.execRsvtimeExhausted o s
  | .bandwidthCapHold o => Sys2Proof.Machine.execBandwidthCapHold o s
  | .throttlingVictim l b => Sys2Proof.Machine.execThrottlingVictim l b s
  | .watchdogExpire l => Sys2Proof.Machine.execWatchdogExpire l s
  | .sampleWrite core o => Sys2Proof.Machine.execSampleWrite core o s
  | .samplingSelectWrite page k v => Sys2Proof.Machine.execSamplingSelectWrite page k v s
  | .controlRegisterWrite page offset v => Sys2Proof.Machine.execControlRegisterWrite page offset v s
  | .hostWindowRead r => Sys2Proof.Machine.execHostWindowRead r s
  | .hostWindowWrite o offset bytes => Sys2Proof.Machine.execHostWindowWrite o offset bytes s
  | .poisonMark u => Sys2Proof.Machine.execPoisonMark u s
  | .correctedError u => Sys2Proof.Machine.execCorrectedError u s
  | .debugStop p cause => Sys2Proof.Machine.execDebugStop p cause s
  | .stopRecordDeferred o => Sys2Proof.Machine.execStopRecordDeferred o s
  | .debugCmdStop o slot => Sys2Proof.Machine.execDebugCmdStop o slot s
  | .debugCmdResume o slot => Sys2Proof.Machine.execDebugCmdResume o slot s
  | .debugCmdStep o slot => Sys2Proof.Machine.execDebugCmdStep o slot s
  | .debugCmdStopMode o slot => Sys2Proof.Machine.execDebugCmdStopMode o slot s
  | .stepDone p => Sys2Proof.Machine.execStepDone p s
  | .replayDiverged p => Sys2Proof.Machine.execReplayDiverged p s
  | .coldStart inlet device => Sys2Proof.Machine.execColdStart inlet device s
  | .warmStart inlet device => Sys2Proof.Machine.execWarmStart inlet device s
  | .ownerSetup o r handle => Sys2Proof.Machine.execOwnerSetup o r handle s
  | .queueSetup q r handle => Sys2Proof.Machine.execQueueSetup q r handle s
  | .communicatorFill o k c handle => Sys2Proof.Machine.execCommunicatorFill o k c handle s
  | .ownerReset o handle => Sys2Proof.Machine.execOwnerReset o handle s
  | .memberWithdrawn device remote => Sys2Proof.Machine.execMemberWithdrawn device remote s
  | .migration m handle => Sys2Proof.Machine.execMigration m handle s
  | .peerChunkRetry r => Sys2Proof.Machine.execPeerChunkRetry r s
  | .attestationRequest nonce o handle => Sys2Proof.Machine.execAttestationRequest nonce o handle s
  | .firmwareUpdate u handle => Sys2Proof.Machine.execFirmwareUpdate u handle s
  | .moduleRemoval m => Sys2Proof.Machine.execModuleRemoval m s
  | .coreSpare core uncorrectable handle => Sys2Proof.Machine.execCoreSpare core uncorrectable handle s
  | .hbmRowRemap row => Sys2Proof.Machine.execHbmRowRemap row s
  | .hbmChannelRetire channel uncorrectable => Sys2Proof.Machine.execHbmChannelRetire channel uncorrectable s
  | .titeyxLaneSpare port lane => Sys2Proof.Machine.execTiteyxLaneSpare port lane s
  | .flitCrcRetry port lane => Sys2Proof.Machine.execFlitCrcRetry port lane s
  | .titeyxPortFail port => Sys2Proof.Machine.execTiteyxPortFail port s
  | .noPortReachesMember o comm member since => Sys2Proof.Machine.execNoPortReachesMember o comm member since s
  | .pcieLinkDown => Sys2Proof.Machine.execPcieLinkDown s
  | .cxlPortOutOfService port since => Sys2Proof.Machine.execCxlPortOutOfService port since s
  | .managementFrame frame handle => Sys2Proof.Machine.execManagementFrame frame handle s
  | .controlCoreWake handle => Sys2Proof.Machine.execControlCoreWake handle s
  | .illegalInstruction detail => Sys2Proof.Machine.execIllegalInstruction detail s
  | .wellOpComplete op => Sys2Proof.Machine.execWellOpComplete op s
  | .translationEntryDrop o va => Sys2Proof.Machine.execTranslationEntryDrop o va s
  | .dieCacheEviction die line views => Sys2Proof.Machine.execDieCacheEviction die line views s
  | .pcieLinkRetrained => Sys2Proof.Machine.execPcieLinkRetrained s
  | .msixVectorUnmask vector mask => Sys2Proof.Machine.execMsixVectorUnmask vector mask s
  | .controlCorePowerGate cores => Sys2Proof.Machine.execControlCorePowerGate cores s
  | .wakeFilterWrite k offset mask value handle => Sys2Proof.Machine.execWakeFilterWrite k offset mask value handle s

end Sys2Proof.Machine
end

