-- ==== Sys2Proof/Machine/Issue.lean ====
section
/-! DEFINITION. What stands between one move of the machine and the meaning that runs: the turn of a path and its next word (R112 to R115, R129, R287,
R395, R404), the moves of the agenda, and the placing of one instruction where a step fetches it. -/

namespace Sys2Proof.Machine

/-! ### The next word -/

/-- What the test of a word for a stop reads of the debug window is charged: CTL and SELF, and the breakpoint entries while they are armed (R392, R395).
 (log 47: DESIGN CHOICE) -/
def State.chargeTest (s : State) (c : Ctx) : State :=
  let o := c.launch.owner
  if s.window o = 0 ∨ c.launch.handler.isSome then s
  else s.chargeWindow o 0 (if (s.winWord o 0).testBit 0 then 264 else 8)

/-- The word at a path's place, once its clause has begun: a stop and a replay that diverges come first (R395, R404). (log 3: DEDUCED) -/
def State.pickWord (s : State) (c : Ctx) : State × Option Instr :=
  match s.stopCause c with
  | some (n, _) => (s.chargeTest c, some (.debugStop c.ref n))
  | none =>
    let s := s.chargeTest c
    let h := c.path.here
    if s.divergesHere { c with path := { c.path with pfx := h.pfx } } h.instr then (s, some (.replayDiverged c.ref))
    else (s.updPath c.ref fun p => { p with pfx := h.pfx }, some h.instr)

/-- A path takes its turn: before its clause it stops, if a cause applies (R395), or begins it; then the word at its place is the instruction to run, in the state given. (log 3: DEDUCED) -/
def State.takeTurn (s : State) (r : PathRef) : State × Option Instr :=
  match s.ctx? r with
  | none => (s, none)
  | some c =>
    if !s.offered c then (s, none)
    else
      match (if c.path.idx = 0 then s.stopCause c else none) with
      | some (n, _) => (s.chargeTest c, some (.debugStop r n))
      | none =>
        let s1 := if c.path.idx = 0 then s.beginClause c else s
        match s1.ctx? r with
        | none => (s1, none)
        | some c1 => if c1.path.isReady && c1.path.idx != 0 then s1.pickWord c1 else (s1, none)

/-- The turn of a path `dt` cycles on, or as soon as it can issue. (log 1: DESIGN CHOICE) -/
def State.turn (s : State) (r : PathRef) (dt : Nat) : State × Option Instr :=
  State.takeTurn { (s.advance (s.waitFor r dt)).openCycle with cur := r } r

/-- An event happens: words of programs issue from paths alone. (log 2: DESIGN CHOICE) -/
def eventInstr (e : Instr) : Option Instr :=
  match e with
  | .illegalInstruction _ => none
  | _ => if encode e = [] then some e else none

/-- The state in which an event happens: a ramp slot and a metering period that are over end by themselves, unless the event is that end (R277, R300). -/
def State.openFor (s : State) (e : Instr) : State :=
  match e with
  | .rampSlotBoundary _ | .meteringPeriodBoundary => s
  | _ => s.openCycle

/-- The next move: the agenda's first, else a turn of the current path in the next cycle. (log 1, 2, 109, 110: DESIGN CHOICE) -/
def State.nextMove (s : State) : State × Option Instr :=
  match s.agenda with
  | [] => s.turn s.cur 1
  | .issue dt r :: rest => State.turn { s with agenda := rest } r dt
  | .event dt e :: rest => (State.openFor (State.advance { s with agenda := rest } dt) e, eventInstr e)

/-! ### Placing one instruction -/

/-- The CLASS of a clause that may hold a word. -/
def classFor (w : Word) : Nat := (wordKind w).elim 0 fun k => ((List.range 6).find? fun c => classPermits c k).getD 0

/-- The words of a clause that holds one instruction; a prefix is followed by `nop`. -/
def placedWords (nbits w : Nat) : List Word :=
  let w0 := BitVec.ofNat 32 (w % 2 ^ nbits)
  let w1 := BitVec.ofNat 32 (w % 2 ^ nbits / 2 ^ 32)
  if isPrefixWord w0 then w0 :: encode (.nop 0) else if hasTrailing w0 then [w0, w1] else [w0]

/-- The clause: a header whose CLASS permits the word, and the words. (log 5: DESIGN CHOICE) -/
def placedClause (nbits w : Nat) : List Word :=
  let ws := placedWords nbits w
  BitVec.ofNat 32 (ws.length + 16 * classFor (ws.headD 0)) :: ws

/-- Where the clause stands: a virtual page, mapped to the first page of the first tier. (log 5: DESIGN CHOICE) -/
def placedAt : Nat := 0x10000

/-- A group of one path whose lane 0 is present, its window lines held. (log 5: DESIGN CHOICE) -/
def placedGroup : Group :=
  { Group.entry { Header.blank with stack := 8, groups := 1, items := 1 } 0 0 0 8 placedAt 1 false with
    lines := (List.range 8).map fun n => ⟨n, false, false⟩ }

/-- A launch of one resident block with that group. (log 5: DESIGN CHOICE) -/
def placedLaunch (seq : Nat) : Launch :=
  { Launch.fresh seq 0 none { Header.blank with stack := 8, groups := 1, items := 1, blocks := 1, slots := 1 } (List.replicate 8 0) with
    stage := .placing
    placed := 1
    blocks := [{ Block.fresh 0 with cluster := some 0, groups := [placedGroup] }] }

/-- The state with one instruction as the first word of the clause that the current path begins next. (log 5: DESIGN CHOICE) -/
def State.placeWord (s : State) (nbits w : Nat) : State :=
  let s1 := s.writeAll 0 (wordBytes (placedClause nbits w))
  let s2 := s1.updOwner 0 fun o => { o with valid := true, tlb := ⟨placedAt, 0, 8192, true, true⟩ :: o.tlb }
  { s2 with
    launches := placedLaunch s.nextSeq :: s2.launches
    nextSeq := s.nextSeq + 1
    cur := ⟨s.nextSeq, 0, 0, 0⟩
    agenda := [] }

end Sys2Proof.Machine
end

