-- ==== Sys2Proof/Machine/Step.lean ====
section
/-! DEFINITION. One step of the machine: the next move, and the meaning of the instruction that it runs. -/

namespace Sys2Proof.Machine

/-- One step: an instruction runs in the state that its move has reached, or the move alone happens. -/
def step (s : State) : Host.Outcome State Fault Refusal :=
  match s.nextMove with
  | (t, some i) => exec i t
  | (t, none) => .next t

/-- The state with one instruction stored where `step` fetches the next one. (log 5: DESIGN CHOICE) -/
def State.withFetchWord (s : State) (nbits w : Nat) : State := s.placeWord nbits w

end Sys2Proof.Machine
end

