-- ==== Sys2Proof/Safety.lean ====
section
/-! DEFINITION. The terms that claims about the machine are stated in: when a word issues, where it leaves its path, what it leaves as it was,
and the form that a state keeps. -/

namespace Sys2Proof.Machine

/-! ### The form that a state keeps -/

/-- Device memory of every view is in its canonical form, in five views; the 64 owner places stand; what is remembered of earlier bytes lies before the
present moment, and every write in transit has a number that was given out. -/
structure State.Sound (s : State) : Prop where
  views : s.dies.length = 5
  memory : ∀ d ∈ s.dies, Memory.wf d.mem = true
  owners : s.owners.length = 64
  timed : ∀ d ∈ s.dies, ∀ e ∈ d.past, e.moment < s.moment ∧ ∀ i, e.id = some i → i < s.nextId
  numbered : ∀ t ∈ s.transit, t.id < s.nextId

/-! ### When a word issues -/

/-- The word `i` of the current path, whose context is `c`, meets nothing that holds or traps it before its effect: its encoding is accepted
(R136), its window lines are held (R58), interlocked operands exist (R84, R123), no stall check applies (R344), no register of it is poisoned (R378).
No asynchronous word has yet to write a private or mask scalar of the path (R63), no beat of a `shfl` or `bcast` of another path of the group is
yet to issue (R184), and it is no first access after a handler has released the path (R329). -/
structure State.Issues (s : State) (c : Ctx) (i : Instr) : Prop where
  running : s.running? = some c
  known : s.known c = c
  beats : ∀ e ∈ c.group.reaches, e.at_ ≤ s.cycle
  encoded : encDetail c.path.pfx i = none
  lines : c.missing i = []
  flagOps : s.flagOps c i = []
  interlock : c.interlock i ≤ s.cycle
  unstalled : c.launch.header.stallchk = true → s.earlyRead c i = none
  clean : c.poisonedRegs i = false
  unacquired : c.acquires i = false

/-- The word of the current path acts in lanes and none is active: it reads no operand (R161). -/
structure State.IssuesIdle (s : State) (c : Ctx) (i : Instr) : Prop where
  running : s.running? = some c
  known : s.known c = c
  encoded : encDetail c.path.pfx i = none
  lanes : actsInLanes c.path i = true
  idle : c.path.selected = 0

/-! ### Where a word leaves its path -/

/-- The place after `n` words: further on in the clause, or the header of the next clause (R113). -/
def Path.placeAfter (p : Path) (n : Nat) : Nat × Nat :=
  if p.idx + n ≤ p.count then (p.pc, p.idx + n) else ((p.pc + 4 * (p.count + 1)) % 2 ^ 64, 0)

/-- The path of context `c` has issued `i` and stands after it, ready; its next word issues `extra` cycles and the stall count after the end
cycle (R122). -/
structure Ctx.Past (s : State) (c : Ctx) (i : Instr) (extra : Nat) (c' : Ctx) : Prop where
  place : (c'.path.pc, c'.path.idx) = c.path.placeAfter (c.path.spanOf i)
  next : c'.path.nextIssue = (issueOf c i 0).ends s.cycle + 1 + stallOf i + extra
  prefixed : c'.path.pfx = none
  live : c'.path.valid = true

/-! ### What a word leaves as it was -/

/-- A group without its registers, its lane flags, its paths and its issue accounting: joins, mode, depth, counters, gang, lines held, items and tags. -/
def Group.standing (z : Group) : Group :=
  { z with
    paths := []
    scalars := []
    oper := []
    stack := []
    flags := []
    lines := z.lines.map fun l => { l with dirty := false }
    hazards := []
    flagHazards := []
    reaches := []
    logFix := []
    cWords := 0
    cBeats := 0
    wordsAt := []
    plainAt := []
    lastIssue := 0
    lastPath := 0
    yieldUntil := 0
    lastClass := 0
    ran7 := false }

/-- A path without its place, its registers, and what belongs to one word: presence, tokens, state, debug controls. -/
def Path.standing (p : Path) : Path :=
  { p.clear with
    pc := 0
    idx := 0
    fetched := []
    mask := 0
    priv := []
    l0 := []
    l1 := []
    l0Def := false
    l1Def := false
    l0At := 0
    l1At := 0
    fileFree := 0
    flagsAt := 0
    nextIssue := 0
    skipBreak := false
    stepLeft := none
    ctrSeen := []
    pipeEnd := 0
    pipeTwo := false
    pipeWeight := 0
    pipePlan := 0
    lastReady := 0
    issuedAt := none
    stallEnd := 0 }

/-- An owner without its counters, the metering of a period and the number of its next free value. -/
def Owner.unmetered (o : Owner) : Owner :=
  { o with
    counters := []
    trail := []
    issueCores := []
    handlerCores := []
    periodIssued := 0
    periodHandler := 0
    periodHbm := 0
    periodRes := 0
    capHeld := false
    free := 0 }

/-- A launch without its blocks, its issue accounting and its log position. -/
def Launch.standing (x : Launch) : Launch := { x with blocks := [], watch := 0, issued := 0, replay := none }

/-- Every byte of device memory reads as before at every view. -/
def State.SameMemory (s t : State) : Prop := ∀ view pa, t.readPhys view pa 1 = s.readPhys view pa 1

/-- `t` differs from `s` in its launches, owners, governor and memory alone. -/
def State.SameUnits (s t : State) : Prop :=
  ∃ ls os g ds m, t = { s with launches := ls, owners := os, governor := g, dies := ds, moment := m }

/-- Nothing outside the group of `c` changes among owners, launches, blocks and groups, but metering. -/
structure State.SameBeyond (s t : State) (c c' : Ctx) : Prop where
  owners : ∀ o, (t.owner o).unmetered = (s.owner o).unmetered
  groups : ∀ l b g, ¬(l = c.ref.launch ∧ b = c.ref.block ∧ g = c.ref.group) → t.group? l b g = s.group? l b g
  launches : ∀ l, l ≠ c.ref.launch → t.launch? l = s.launch? l
  launch : c'.launch.standing = c.launch.standing
  block : { c'.block with groups := [] } = { c.block with groups := [] }

/-- Nothing outside the group of `c` changes but metering: every other group, every unit of the module, every owner, all of memory (while no log is
recorded, R401). -/
structure State.SameElsewhere (s t : State) (c c' : Ctx) : Prop extends State.SameBeyond s t c c' where
  memory : c.launch.replay = none → s.SameMemory t
  units : s.SameUnits t

/-- A group without what orders its later accesses after its earlier ones (R260). -/
def Group.unordered (z : Group) : Group := { z with reads := [], wrote := [] }

/-- A path without what orders its later accesses after its earlier ones (R260). -/
def Path.unordered (p : Path) : Path := { p with before := [], own := [], horizon := 0 }

/-- Inside the group, every other path stands as it was, and so does every register that `regs` does not name. -/
structure Ctx.SameGroup (c c' : Ctx) (regs : List LaneReg) : Prop where
  paths : ∀ k, k ≠ c.ref.path → c'.group.paths[k]? = c.group.paths[k]?
  registers : ∀ r lane, lane < 96 → r ∉ regs →
    c'.group.getReg c.ref.launch c.ref.block c.ref.path r lane = c.group.getReg c.ref.launch c.ref.block c.ref.path r lane
  path : c'.path.standing = c.path.standing

/-- Inside the group, every other path stands as it was, and so does every register that `regs` does not name; the path itself but for what orders its
later accesses after its earlier ones (R260). -/
structure Ctx.SameGroupOrdered (c c' : Ctx) (regs : List LaneReg) : Prop where
  paths : ∀ k, k ≠ c.ref.path → c'.group.paths[k]? = c.group.paths[k]?
  registers : ∀ r lane, lane < 96 → r ∉ regs →
    c'.group.getReg c.ref.launch c.ref.block c.ref.path r lane = c.group.getReg c.ref.launch c.ref.block c.ref.path r lane
  path : c'.path.standing.unordered = c.path.standing.unordered

/-- The lane flags of the group stand as they were (R83). -/
def Ctx.SameFlags (c c' : Ctx) : Prop := c'.group.flags = c.group.flags

/-- The last-result file of the path stands as it was (R48). -/
def Path.SameLast (p q : Path) : Prop := q.l0 = p.l0 ∧ q.l1 = p.l1 ∧ q.l0Def = p.l0Def ∧ q.l1Def = p.l1Def

/-- The value of register `r` of the path in a lane (of a scalar: lane 0). -/
def Ctx.reg (c : Ctx) (r : LaneReg) (lane : Nat) : Word := c.group.getReg c.ref.launch c.ref.block c.ref.path r lane

/-- What a register reads after it is written (R25, R51): a live-mask word keeps only lanes that are present, `s121` to `s124` discard. -/
def LaneReg.kept (r : LaneReg) (p : Path) (v old : Word) : Word :=
  match r with
  | .scal n => if n < 121 then v else if n < 125 then old else if n < 128 then v &&& maskWord p.present (n - 125) else old
  | _ => v

/-- No write by another path to the shared scalar `r` completes later than cycle `ready`, or in it from a higher path (R125); a path's own scalars
`s108` to `s127` have no other writer. -/
def Ctx.WritesLast (c : Ctx) (r ready : Nat) : Prop :=
  r < 108 → ∀ h ∈ c.group.hazards, h.path ≠ c.ref.path → h.reg = .scal r → h.ready < ready ∨ (h.ready = ready ∧ h.path < c.ref.path)

/-- The path of `c` has issued `i` and moved to the clause header at `target`, `extra` cycles late (R113, R150). -/
structure Ctx.Jumped (s : State) (c : Ctx) (i : Instr) (extra target : Nat) (c' : Ctx) : Prop where
  place : c'.path.pc = target ∧ c'.path.idx = 0
  next : c'.path.nextIssue = (issueOf c i 0).ends s.cycle + 1 + stallOf i + extra
  prefixed : c'.path.pfx = none
  live : c'.path.valid = true

/-- The clause header `ofs` words from the header of the path's clause (R120). -/
def Path.headerAt (p : Path) (ofs : Int) : Nat := (((p.pc : Int) + 4 * ofs) % 2 ^ 64).toNat

/-- `t` differs from `s` in launches, owners, governor, memory with its marks, writes in transit, and the output of running job cards that a program has
written over (R384) alone. -/
def State.SameUnitsMem (s t : State) : Prop :=
  ∃ ls os g ds m tr id ps, ∃ lost : EngineRec → List Nat,
    t = { s with
      launches := ls, owners := os, governor := g, dies := ds, moment := m, transit := tr, nextId := id, poison := ps
      records := s.records.map fun e => { e with spoiled := lost e } }

/-- The word `i` of `c` issues and is finished, and its path goes on; it changes registers `regs` of its group alone. -/
structure State.RegisterWord (s : State) (c : Ctx) (i : Instr) (regs : List LaneReg) (t : State) (c' : Ctx) : Prop where
  answers : exec i s = .next t
  ctx : t.ctx? c.ref = some c'
  past : c.Past s i 0 c'
  elsewhere : s.SameElsewhere t c c'
  group : c.SameGroup c' regs
  standing : c'.group.standing = c.group.standing

/-- A scalar result that exists from cycle `ready` on reads back: the value, or in a live-mask word its present lanes (R25), unless another path's
write completes later (R125). -/
def Ctx.ScalarReadsAt (c c' : Ctx) (r : Nat) (v : Word) (ready : Nat) : Prop :=
  c.WritesLast r ready → c'.reg (.scal r) 0 = (LaneReg.scal r).kept c.path v (c.reg (.scal r) 0)

/-- A scalar result that exists from the next cycle on reads back. -/
def Ctx.ScalarReads (s : State) (c c' : Ctx) (r : Nat) (v : Word) : Prop := c.ScalarReadsAt c' r v (s.cycle + 1)

/-- The cycle from which the result of a word that issues now exists (R123). -/
def State.resultCycle (s : State) (c : Ctx) (i : Instr) : Nat := (latencyOf c.path.pfx i).ready ((issueOf c i 0).ends s.cycle)

/-- The vector word `i` of `c` has had its effect and its path stands past it, its next word at `hold` or later; nothing outside its group changes but
metering, and where it sets the lane flags whole the accesses in flight that were to set them (R84). Its destination `d` has `n` registers and receives
`res` lane by lane: in its active lanes, with the path's inactive lanes of issued beats kept or, with `zero`, zeroed (R28, R130); a scalar once, from the
lowest active lane (R161); or the lane flags (R84). A per-lane destination advances the last-result file (R48), with what the registers hold in each
lane that no asynchronous word has yet to write (R63). -/
structure State.VectorEffect (s : State) (c : Ctx) (i : Instr) (d n hold : Nat) (zero : Bool) (res : Nat → Nat) (t : State) (c' : Ctx) : Prop where
  ctx : t.ctx? c.ref = some c'
  place : (c'.path.pc, c'.path.idx) = c.path.placeAfter (c.path.spanOf i)
  next : c'.path.nextIssue = max ((issueOf c i 0).ends s.cycle + 1 + stallOf i) hold
  prefixed : c'.path.pfx = none
  live : c'.path.valid = true
  status : c'.path.status = c.path.status
  elsewhere : (if d = 0xCB then s.dropFlagOps c.ref (laneSet (laneList c.path.selected)) else s).SameElsewhere t c c'
  group : c.SameGroup c' (fieldRegs c.group.depth d n)
  standing : c'.group.standing = c.group.standing
  active : isS d = false → ∀ lane < 96, c.path.selected.getLsbD lane = true → ∀ j < n,
    ∀ r ∈ (fieldRegs c.group.depth d n)[j]?, c'.reg r lane = BitVec.ofNat 32 (res lane / 2 ^ (32 * j))
  zeroed : isS d = false → zero = true → ∀ lane < 96, c.path.selected.getLsbD lane = false → maskWord c.path.selected (lane / 32) ≠ 0 →
    c.path.member.getLsbD lane = true → ∀ r ∈ fieldRegs c.group.depth d n, c'.reg r lane = 0
  kept : isS d = false → ∀ lane < 96, c.path.selected.getLsbD lane = false →
    zero = false ∨ maskWord c.path.selected (lane / 32) = 0 ∨ c.path.member.getLsbD lane = false →
    ∀ r ∈ fieldRegs c.group.depth d n, c'.reg r lane = c.reg r lane
  scalar : isS d = true → ∀ lane, lowest c.path.selected = some lane → ∀ j < n,
    c.ScalarReadsAt c' (d - 0x40 + j) (BitVec.ofNat 32 (res lane / 2 ^ (32 * j))) (s.resultCycle c i)
  last : isS d = false → d ≠ 0xCB → c'.path.l1 = c.path.l0 ∧ c'.path.l1Def = c.path.l0Def ∧ c'.path.l0Def = true ∧ ∀ lane < 96,
    (c.path.selected.getLsbD lane = true ∨ ∀ u ∈ c.group.unseen, u.reg ∉ fieldRegs c.group.depth d n) →
    c'.path.l0.get lane =
      ((fieldRegs c.group.depth d n)[1]?.elim 0 fun r => c'.reg r lane) ++ ((fieldRegs c.group.depth d n)[0]?.elim 0 fun r => c'.reg r lane)
  lastKept : isS d = true ∨ d = 0xCB → c.path.SameLast c'.path

/-- The vector word `i` of `c` issues and is finished, and its path goes on. -/
structure State.VectorWord (s : State) (c : Ctx) (i : Instr) (d n hold : Nat) (zero : Bool) (res : Nat → Nat) (t : State) (c' : Ctx) : Prop
    extends State.VectorEffect s c i d n hold zero res t c' where
  answers : exec i s = .next t

/-- The flags of lanes after a word that sets `fl` in its active lanes, where `xf` was written with `v` first if it is the destination (R83, R84). -/
def Ctx.FlagsAfter (c c' : Ctx) (d : Nat) (v : Nat → Nat) (fl : Nat → Flags) : Prop :=
  ∀ lane < 96, c'.group.flags.get lane =
    if c.path.selected.getLsbD lane then (if d = 0xCB then BitVec.ofNat 6 (v lane) else c.group.flags.get lane) ||| fl lane
    else c.group.flags.get lane

/-- The hold of R333: with a trap enabled, a floating word holds its path until its flags are known. -/
def State.flagHold (s : State) (c : Ctx) (i : Instr) : Nat :=
  if modeTrapen (c.group.modeInForce s.cycle) = 0 then 0 else s.resultCycle c i

/-! ### The results of the integer words, as the manual's tables give them -/

/-- A number under a type (R140). -/
def Spec.num {w : Nat} (signed : Bool) (v : BitVec w) : Int := if signed then v.toInt else v.toNat

/-- An exact result at width w: wrapped, or clamped to the type's range (R140). -/
def Spec.close (w : Nat) (signed sat : Bool) (e : Int) : BitVec w :=
  if sat then BitVec.ofInt w (max (if signed then -2 ^ (w - 1) else 0) (min (if signed then 2 ^ (w - 1) - 1 else 2 ^ w - 1) e))
  else BitVec.ofInt w e

/-- The three-operand integer operations of R140 and R141, by the opcode's place in the table. -/
def Spec.int3 (op : Nat) (w : Nat) (signed sat : Bool) (x y : BitVec w) : BitVec w :=
  let n := Spec.num signed x
  let m := Spec.num signed y
  match op with
  | 0 => Spec.close w signed sat (n + m)
  | 1 => Spec.close w signed sat (n - m)
  | 2 => Spec.close w signed sat (n * m)
  | 3 => BitVec.ofInt w (n * m / 2 ^ w)
  | 4 => if y = 0 then BitVec.allOnes w else Spec.close w signed sat (n.tdiv m)
  | 5 => if y = 0 then x else BitVec.ofInt w (n - n.tdiv m * m)
  | 6 => x &&& y
  | 7 => x ||| y
  | 8 => x ^^^ y
  | 9 => x <<< (y.toNat % w)
  | 10 => x >>> (y.toNat % w)
  | 11 => x.sshiftRight (y.toNat % w)
  | 12 => if m < n then y else x
  | _ => if n < m then y else x

/-- The unary integer operations of R144, by SUB. -/
def Spec.int2 (sub : Nat) (w : Nat) (signed sat : Bool) (x : BitVec w) : BitVec w :=
  match sub with
  | 0 => x
  | 1 => ~~~x
  | 2 => if signed then Spec.close w true sat |x.toInt| else x
  | 3 => Spec.close w signed sat (-(Spec.num signed x))
  | 4 => BitVec.ofNat w ((List.range (w + 1)).findIdx fun k => decide (k = w) || x.getLsbD (w - 1 - k))
  | _ => BitVec.ofNat w ((List.range w).countP fun k => x.getLsbD k)

/-- Whether a condition of R119 holds under a type. -/
def Spec.holds (cond : Nat) (signed : Bool) {w : Nat} (x y : BitVec w) : Prop :=
  let n := Spec.num signed x
  let m := Spec.num signed y
  match cond with
  | 0 => n = m
  | 1 => n ≠ m
  | 2 => n < m
  | 3 => n ≤ m
  | 4 => m < n
  | _ => m ≤ n

/-- Width of a type by its code (R132). -/
def Spec.width (code : Nat) : Nat :=
  match code with
  | 1 | 5 | 13 | 14 => 8
  | 2 | 6 | 9 | 10 => 16
  | 4 | 8 | 12 => 64
  | _ => 32

/-- The registers a vector destination of a type takes. -/
def Spec.regs (code : Nat) : Nat := if Spec.width code = 64 then 2 else 1

/-- Whether a type is two's complement: `.i8` to `.i64` (R132). -/
def Spec.signed (code : Nat) : Bool := code == 1 || code == 2 || code == 3 || code == 4

/-! ### What the floating words deliver in a lane: value and flags, with the number of destination registers -/

/-- The floating word `i` of `c`, with destination `d` of `n` registers, delivers `r` (R169 to R171). -/
def State.FloatOp (s : State) (c : Ctx) (i : Instr) (d : BitVec 8) (n : Nat) (r : Nat → FRes) : Prop :=
  ∃ (a : BitVec 8) (b : BitVec 7) (f : Fmt) (op : Fmt → FpMode → Nat → Nat → Nat → FRes),
    (∃ st,
      ((i, op) ∈ [(Instr.addFloat st d a b, fun f md x y _ => f.add md x y), (.subFloat st d a b, fun f md x y _ => f.sub md x y),
          (.mulFloat st d a b, fun f md x y _ => f.mul md x y), (.fmaFloat st d a b, fun f md x y z => f.fma md x y z),
          (.divFloat st d a b, fun f md x y _ => f.div md x y), (.sqrt st d a, fun f md x _ _ => f.sqrt md x),
          (.rsq st d a, fun f md x _ _ => f.rsq md x), (.rcp st d a, fun f md x _ _ => f.rcp md x),
          (.minFloat st d a b, fun f md x y _ => f.minmax md false x y), (.maxFloat st d a b, fun f md x y _ => f.minmax md true x y)] ∧
        f = c.fmt) ∨
      ((i, op) ∈ [(Instr.addF64 st d a b, fun f md x y _ => f.add md x y), (.subF64 st d a b, fun f md x y _ => f.sub md x y),
          (.mulF64 st d a b, fun f md x y _ => f.mul md x y), (.fmaF64 st d a b, fun f md x y z => f.fma md x y z)] ∧ f = .f64)) ∧
    n = f.regs ∧ ∀ lane, r lane = op f (c.fpMode s.cycle) (s.operand c i a.toNat 0 (.flt f) lane) (s.operand c i (wide7 b) 2 (.flt f) lane)
      (s.operand c i (c.fourth d) 4 (.flt f) lane)

/-- The conversion, `cvtb` or L32 word `i` of `c`, with destination `d` of `n` registers, delivers `r` (R175 to R181, R188, R189). -/
def State.ConvertOp (s : State) (c : Ctx) (i : Instr) (d : BitVec 8) (n : Nat) (r : Nat → FRes) : Prop :=
  let md := c.fpMode s.cycle
  ∃ st a,
    let p (lane : Nat) : Nat := s.operand c i (c.fourth d) 4 (.int 32) lane
    (∃ f : BitVec 5, let x (lane : Nat) : Nat := s.operand c i a.toNat 0 (numKind f.toNat) lane
      (∃ dst mk, (dst, mk) ∈ [(Fmt.f64, Instr.cvtF64), (.f32, .cvtF32), (.f16, .cvtF16), (.bf16, .cvtBf16), (.e4m3, .cvtE4m3), (.e5m2, .cvtE5m2)] ∧
        i = mk st d a f ∧ n = dst.regs ∧ ∀ l, r l = cvtToFloat dst md f.toNat (x l) (p l)) ∨
      (i = .cvtL32 st d a f ∧ n = 1 ∧ ∀ l, r l = cvtToLog md f.toNat (x l)) ∨
      (i = .cvtInt st d a f ∧ n = Spec.regs c.vecCode ∧ ∀ l, r l = cvtToInt (intTy c.vecCode) md f.toNat (x l)) ∨
      (∃ k src, i = .cvtCode st d a k f ∧ n = 1 ∧ fmtOfCode f.toNat = some src ∧
        ∀ l, r l = toCode (if k = 0 then .t3 else if k = 1 then .q4 else .q8) src (sourceMode md src false) (x l) (p l))) ∨
    (∃ b, let x (lane : Nat) : Nat := s.operand c i a.toNat 0 .log lane
      let y (k : NumKind) (lane : Nat) : Nat := s.operand c i (wide7 b) 2 k lane
      n = 1 ∧
      ((i = .lnsmul st d a b ∧ ∀ l, r l = lMul (x l) (y .log l)) ∨ (i = .lnsdiv st d a b ∧ ∀ l, r l = lDiv (x l) (y .log l)) ∨
        (i = .lnsadd st d a b ∧ ∀ l, r l = lAdd (x l) (y .log l)) ∨ (i = .lnsroot st d a b ∧ ∀ l, r l = lRoot md.rnd (x l) (y (.int 32) l)) ∨
        (i = .lnspow st d a b ∧ ∀ l, r l = lPow (x l) (y (.int 32) l)))) ∨
    (∃ b, i = .cvtb st d a b ∧ n = 1 ∧
      let p := s.pathOperand c (wide7 b) 2
      let block (lane : Nat) : List Nat := (laneList c.path.selected).filter fun j => p % 4 == 1 || j / 32 == lane / 32
      p % 4 < 2 ∧ p / 2 ^ 8 % 256 ≠ 255 ∧ p / 2 ^ 16 % 256 ≠ 255 ∧
      ∀ l ∈ laneList c.path.selected, ∀ k : Nat, (block l)[k]? = some l →
        (cvtbBlock md (if extOf c.path.pfx = 10 then 7 else 3) (p / 2 ^ 16 % 256) (p / 2 ^ 8 % 256)
          ((block l).map fun j => s.operand c i a.toNat 0 (.flt .f32) j))[k]? = some (r l))

/-- The floating `red` or `scan.add` word `i` of `c`, with destination `d` of `n` registers, delivers `r` in its active lanes (R100, R186, R187). -/
def State.FoldOp (s : State) (c : Ctx) (i : Instr) (d : BitVec 8) (n : Nat) (r : Nat → FRes) : Prop :=
  let ty := c.floatCode
  let lanes := laneList c.path.selected
  let md := c.fpMode s.cycle
  ∃ st a f,
    let vals := lanes.map fun l => (l, s.operand c i a.toNat 0 (numKind ty) l)
    fmtOfCode ty = some f ∧ n = Spec.regs ty ∧
    ((∃ mk op root, (mk, op) ∈ [(Instr.redAdd, f.add { md with sat := false }), (.redMin, f.minmax { md with sat := false } false),
          (.redMax, f.minmax { md with sat := false } true)] ∧ i = mk st d a ∧ redRoot op (redLeaves f md vals) = some root ∧ ∀ l, r l = root) ∨
      (i = .scanAdd st d a ∧ ∀ l ∈ lanes, ⟨l, (r l).v, (r l).fl⟩ ∈ scanFloat f md none vals))

/-- The number that a finite encoding of a format stands for (R76); none for an infinity or a NaN. -/
def Spec.value (f : Fmt) (b : Nat) : Option ℚ :=
  match f.read b with
  | .fin s m => some ((if s then -1 else 1) * m.m * 2 ^ m.e)
  | _ => none

/-- A real number rounded once to a format (R77, R78), without saturation: with no overflow a finite encoding whose value no finite value of the format
betters under the mode, NX where it differs; with overflow OF and NX, and infinity (E4M3: its NaN) or the largest finite value as the mode says. -/
def Spec.RoundedOnce (f : Fmt) (r : Rnd) (exact : ℝ) (res : FRes) : Prop :=
  (res.fl.getLsbD 2 = false →
    ∃ v : ℚ, Spec.value f res.v = some v ∧ (res.fl.getLsbD 4 = true ↔ (v : ℝ) ≠ exact) ∧
      (r = .rtz → |(v : ℝ)| ≤ |exact|) ∧ (r = .rup → exact ≤ v) ∧ (r = .rdn → (v : ℝ) ≤ exact) ∧
      ∀ (b : Nat) (u : ℚ), Spec.value f b = some u →
        ((r = .rne ∨ r = .rna) → |(v : ℝ) - exact| ≤ |(u : ℝ) - exact|) ∧
        (u ≠ v → |(v : ℝ) - exact| = |(u : ℝ) - exact| → (r = .rne → res.v % 2 = 0) ∧ (r = .rna → |u| < |v|)) ∧
        (r = .rtz → ¬ (|v| < |u| ∧ |(u : ℝ)| ≤ |exact| ∧ 0 ≤ (u : ℝ) * exact)) ∧
        (r = .rup → ¬ (exact ≤ u ∧ u < v)) ∧ (r = .rdn → ¬ (v < u ∧ (u : ℝ) ≤ exact))) ∧
  (res.fl.getLsbD 2 = true → res.fl.getLsbD 4 = true ∧ (∀ v : ℚ, Spec.value f (f.largest false) = some v → (v : ℝ) < |exact|) ∧
    res.v = if r = .rne ∨ r = .rna ∨ (r = .rup ∧ 0 < exact) ∨ (r = .rdn ∧ exact < 0) then f.infinity false (f.sign res.v)
      else f.largest (f.sign res.v)) ∧
  (f.sign res.v = true ↔ exact < 0)

/-- The factor of row `row` at position `k` of a reservation (R92, R97): an integer part under the planes declared, times its group's or block's scale. -/
def Spec.factor (r : Reservation) (row k : Nat) : ℚ :=
  let c := (r.elems.get (row * r.k + k)).toNat
  let g := row * (r.k / r.blk) + k / r.blk
  let σ : ℚ := (Spec.value .f16 (leNat (Memory.read r.side (r.scaleOff + 2 * g) 2))).getD 0
  let z := (r.side.get (r.zpOff + g)).toNat
  match r.fmt with
  | 0 => (if c % 2 = 0 then 0 else if r.planes = 2 ∧ 2 ≤ c then -1 else 1) * σ
  | 1 => ((c % 2 ^ r.planes : ℕ) - (z % 16 : ℕ)) * σ
  | 2 => ((c % 2 ^ r.planes : ℕ) - (z : ℕ)) * σ
  | 3 | 4 => ((BitVec.ofNat r.planes c).toInt : ℚ)
  | 7 => (if c.testBit 15 then -1 else 1) * (c % 2 ^ 8 / 2 ^ (9 - r.planes) * 2 ^ (9 - r.planes) : ℕ) * 2 ^ (((r.exps.getD g none).getD 0 : Int) - 7)
  | _ => (if c.testBit 7 then -1 else 1) * (c % 2 ^ 4 / 2 ^ (5 - r.planes) * 2 ^ (5 - r.planes) : ℕ) * 2 ^ (((r.exps.getD g none).getD 0 : Int) - 3)

/-- `y` is `x` rounded toward zero to 48 significant bits (R98). -/
def Spec.Trunc48 (x y : ℚ) : Prop :=
  ∃ n e : Int, y = n * 2 ^ e ∧ |n| < 2 ^ 48 ∧ |y| ≤ |x| ∧ 0 ≤ x * y ∧ (y = x ∨ (2 ^ 47 ≤ |n| ∧ |x| - |y| < 2 ^ e))

/-- The tree of R98 over 64 leaves has this root. -/
def Spec.Root (leaf : Nat → ℚ) (root : ℚ) : Prop :=
  ∃ v : Nat → Nat → ℚ, (∀ k < 64, v 0 k = leaf k) ∧ (∀ l < 6, ∀ j < 2 ^ (5 - l), Spec.Trunc48 (v l (2 * j) + v l (2 * j + 1)) (v (l + 1) j)) ∧ v 6 0 = root

/-- One pass takes an element of the tile from `x` to `y` (R93, R97, R98, R226): integers are added exactly and wrap, or clamp with SAT; in the acc36
interpretation a finite element and the root are added with one rounding. An exact zero sum is +0 (log entry 128). -/
def Spec.PassAdds (sat : Bool) (a b : Reservation) (pa pb i j : Nat) (x y : BitVec 36) : Prop :=
  ∃ root, Spec.Root (fun k => Spec.factor a i (64 * pa + k) * Spec.factor b j (64 * pb + k)) root ∧
    if (a.fmt = 3 ∨ a.fmt = 4) ∧ (b.fmt = 3 ∨ b.fmt = 4) then y = Spec.close 36 true sat (x.toInt + root.num)
    else ∀ u : ℚ, Spec.value .acc36 x.toNat = some u → sat = false →
      if u + root = 0 then y = 0 else ∃ fl, Spec.RoundedOnce .acc36 .rne ((u + root : ℚ) : ℝ) ⟨y.toNat, fl⟩

/-- The passes of a joint `mma` in order (R99, R226): the reservations of each member, with the pass of operands a and b. -/
def Spec.passes (o : MmaOp) : List (Reservation × Reservation × Nat × Nat) :=
  o.members.flatMap fun m =>
    match o.inputs.find? fun r => r.q == m.args.qa, o.inputs.find? fun r => r.q == m.args.qb with
    | some a, some b =>
      (List.range (if m.args.npass = 0 then a.k / 64 - m.args.apass else m.args.npass)).map fun p => (a, b, m.args.apass + p, m.args.bpass + p)
    | _, _ => []

/-- No join record of the group is allocated. -/
def Group.NoJoins (z : Group) : Prop := ∀ q < 4, (z.joins.getD q ⟨0, false, 0⟩).alloc = false

/-! ### Access words -/

/-- What each access word asks for: kind, stored or written register, address fields, element type, scope, space, operation (R191 to R199). -/
def Spec.access : Instr → Option AccessWord
  | .ld st d a b sb ty sc sp op => some ⟨.ld st d a b sb ty sc sp op, .load, d.toNat, a.toNat, wide7 b, false, sb.toNat, accessType ty, 0, sp == 1, 0⟩
  | .gather st d a b sb ty sc sp op =>
    some ⟨.gather st d a b sb ty sc sp op, .load, d.toNat, a.toNat, wide7 b, true, sb.toNat, accessType ty, 0, sp == 1, 0⟩
  | .st st d a b sb ty sc sp op => some ⟨.st st d a b sb ty sc sp op, .store, d.toNat, a.toNat, wide7 b, false, sb.toNat, accessType ty, 0, sp == 1, 0⟩
  | .stStrong st d a b sb ty sc sp op =>
    some ⟨.stStrong st d a b sb ty sc sp op, .strong, d.toNat, a.toNat, wide7 b, false, sb.toNat, accessType ty, sc.toNat, sp == 1, 0⟩
  | .scatter st d a b sb ty sc sp op =>
    some ⟨.scatter st d a b sb ty sc sp op, .store, d.toNat, a.toNat, wide7 b, true, sb.toNat, accessType ty, 0, sp == 1, 0⟩
  | .atom st d a b sb ty sc sp op =>
    some ⟨.atom st d a b sb ty sc sp op, .atomic, d.toNat, a.toNat, wide7 b, false, sb.toNat, accessType ty, sc.toNat, sp == 1, op.toNat⟩
  | _ => none

/-- The byte that a store's lanes leave at an address: the highest lane's that covers it. -/
def Spec.storedByte (o : Op) (a : Nat) : Option Byte :=
  (o.lanes.reverse.find? fun e => decide (e.2.1 ≤ a) && decide (a < e.2.1 + o.width)).map fun e => (leBytes o.width e.2.2.1.toNat).getD (a - e.2.1) 0

/-- `t` differs from `s` in launches, owners, governor, and one operation `o` more in flight. -/
def State.StartsOp (s t : State) (o : Op) : Prop :=
  o.id = s.nextId ∧ ∃ ls os g, t = { s with launches := ls, owners := os, governor := g, ops := s.ops ++ [o], nextId := s.nextId + 1 }

/-- The group that an operation belongs to holds its block's residency, and has not ended. -/
def State.Resident (s : State) (r : PathRef) (y : Block) (z : Group) : Prop :=
  s.block? r.launch r.block = some y ∧ y.group? r.group = some z ∧ y.cluster.isSome = true ∧ z.freed = false ∧ z.done = false

/-! ### Waits -/

/-- The path of `c` waits at its word as `w` says, its place and registers as they were. -/
def Ctx.WaitsAt (s : State) (c : Ctx) (t : State) (w : Wait) : Prop :=
  ∃ c', t.ctx? c.ref = some c' ∧ c'.path.status = .waiting w ∧ c'.path.pc = c.path.pc ∧ c'.path.idx = c.path.idx ∧
    (∀ r l, l < 96 → c'.reg r l = c.reg r l) ∧ t.cycle = s.cycle

/-- The path of `c` goes on past the word that its clause holds at its place (R113). -/
def Ctx.GoesOn (s : State) (c : Ctx) (t : State) : Prop :=
  ∃ c', t.ctx? c.ref = some c' ∧ c'.path.status = .ready ∧ (c'.path.pc, c'.path.idx) = c.path.placeAfter c.path.rawSpan ∧ c'.path.pfx = none ∧
    (∀ r l, l < 96 → c'.reg r l = c.reg r l) ∧ t.cycle = s.cycle

/-- A word address in the block's scratchpad allocation, aligned (R345, R346). -/
def Ctx.InSpad (c : Ctx) (addr align : Nat) : Prop := addr % align = 0 ∧ addr < 2 ^ 21 ∧ addr % Config.spadBytes < c.spadBytes

/-- The fault of a barrier or `waita` word whose address is misaligned, or past every segment (R345). -/
def Spec.syncFault (addr align : Nat) (f : FaultCase) : Prop :=
  (addr % align ≠ 0 ∧ f = ⟨8, 1, addr, 7⟩) ∨ (addr % align = 0 ∧ 2 ^ 21 ≤ addr ∧ f = ⟨8, 3, addr, 7⟩)

/-- The barrier object of the block of `c` at an address. -/
def State.barAt (s : State) (c : Ctx) (addr : Nat) : BarObj := s.barRead c.ref.launch c.ref.block c.group.core addr

/-- No update of the present cycle that comes later in the order has been applied to the barrier object at an address (R205). -/
def State.InOrder (s : State) (c : Ctx) (addr : Nat) : Prop :=
  s.mayUpdate c.ref.launch c.ref.block addr (coreRank c.group.core c.ref.group) = true

/-- Every scratchpad byte of the block outside one barrier object reads as before. -/
def State.SameSpadBut (s t : State) (c : Ctx) (addr : Nat) : Prop :=
  ∀ a, a < addr ∨ addr + 16 ≤ a → t.spadRead c.ref.launch c.ref.block c.group.core a 1 = s.spadRead c.ref.launch c.ref.block c.group.core a 1

/-! ### Pre-emption -/

/-- A block has no residency any more, and counts as pre-empted (R336). -/
def State.Left (t : State) (v : Nat × Nat) : Prop := ∃ y, t.block? v.1 v.2 = some y ∧ y.cluster = none ∧ y.preempted = true

/-- A block is resident. -/
def State.Stands (s : State) (v : Nat × Nat) : Prop := ∃ y, s.block? v.1 v.2 = some y ∧ y.cluster.isSome = true

/-! ### The firmware -/

/-- The firmware runs, and an access of 8 bytes through a handle passes the checks of the region-checking unit, which forms the address `pa` (R412). -/
def Firmware.Reaches (f : Firmware) (h : DWord) (write : Bool) (pa : Nat) : Prop :=
  f.running = true ∧ ∃ e, f.regions.find? (fun e => e.1 == (h.extractLsb' 52 12).toNat) = some e ∧ e.2.valid = true ∧
    h.extractLsb' 36 16 = e.2.epoch ∧ h.extractLsb' 32 4 = 0 ∧ (h.extractLsb' 0 32).toNat + 8 ≤ e.2.limit ∧
    e.2.rights.getLsbD (if write then 1 else 0) = true ∧ pa = e.2.base + (h.extractLsb' 0 32).toNat

/-- The firmware has reached an address. -/
def State.reaching (s : State) (pa : Nat) : State := { s with firmware := { s.firmware with address := some pa } }

/-- A request is answered and not carried out (R301, R412, R414). -/
def State.answered (s : State) : State :=
  { s with firmware := { s.firmware with answers := s.firmware.answers ++ [if s.firmware.running then Answer.refused else Answer.failed] } }

/-- `f` of owner `o`, and no other owner, launch, memory or unit changes. -/
def State.OwnerOnly (s t : State) (o : Nat) (f : Owner → Owner) : Prop :=
  (∀ k, t.owner k = if k = o then f (s.owner o) else s.owner k) ∧ t = { s with owners := t.owners }

end Sys2Proof.Machine
end

