-- ==== Sys2Proof/Certificates/Slice0/Obligations.lean ====
section
/-! DEFINITION. The statements about the ZF-960 that are to be proved, each a proposition of its own. -/

open Sys2Proof Sys2Proof.Machine

/-! ### Scalar words -/

/-- R139, R140, R141, R143, R144: the integer scalar words complete wherever they issue; the destination reads the table's result at the width of EXT, for
`.i64` and `.n64` in an even-odd pair, and nothing else of the machine changes but issue accounting. `sel` takes its condition from its destination as
it stood before the write. At width 64 the count of `clz` or `popc` fills the even register and the odd one receives zero. -/
def Obligations.ScalarArithmetic : Prop :=
  (∀ (s : State) (c : Ctx) (st : BitVec 2) (d a : BitVec 8) (b : BitVec 7) (op : Nat) (mk : BitVec 2 → BitVec 8 → BitVec 8 → BitVec 7 → Instr),
    (op, mk) ∈ [(0, Instr.add), (1, Instr.sub), (2, Instr.mul), (3, Instr.mulh), (4, Instr.div), (5, Instr.rem), (6, Instr.and), (7, Instr.or),
      (8, Instr.xor), (9, Instr.shl), (10, Instr.shr), (11, Instr.sar), (12, Instr.min), (13, Instr.max)] →
    s.Issues c (mk st d a b) →
    let ty := typeOf 7 c.path.pfx
    let w := Spec.width ty
    let r := d.toNat - 0x40
    let v := Spec.int3 op w (Spec.signed ty) c.sat (BitVec.ofNat w (s.scalarOperand c a.toNat 0 w)) (BitVec.ofNat w (s.scalarOperand c (wide7 b) 2 w))
    ∃ t c', s.RegisterWord c (mk st d a b) ((List.range (w / 32)).map fun j => .scal (r + j)) t c' ∧ c.SameFlags c' ∧ c.path.SameLast c'.path ∧
      ∀ j < w / 32, c.ScalarReads s c' (r + j) (v.extractLsb' (32 * j) 32)) ∧
  (∀ (s : State) (c : Ctx) (st : BitVec 2) (d a : BitVec 8) (b : BitVec 7), s.Issues c (.sel st d a b) →
    let w := Spec.width (typeOf 7 c.path.pfx)
    let r := d.toNat - 0x40
    let v : BitVec w := BitVec.ofNat w
      (if s.scalarOperand c d.toNat 4 w ≠ 0 then s.scalarOperand c a.toNat 0 w else s.scalarOperand c (wide7 b) 2 w)
    ∃ t c', s.RegisterWord c (.sel st d a b) ((List.range (w / 32)).map fun j => .scal (r + j)) t c' ∧ c.SameFlags c' ∧
      c.path.SameLast c'.path ∧ ∀ j < w / 32, c.ScalarReads s c' (r + j) (v.extractLsb' (32 * j) 32)) ∧
  ∀ (s : State) (c : Ctx) (st : BitVec 2) (d a : BitVec 8) (op : Nat) (mk : BitVec 2 → BitVec 8 → BitVec 8 → Instr),
    (op, mk) ∈ [(0, Instr.mov), (1, Instr.not), (2, Instr.abs), (3, Instr.neg), (4, Instr.clz), (5, Instr.popc)] →
    s.Issues c (mk st d a) →
    let ty := typeOf 7 c.path.pfx
    let w := Spec.width ty
    let r := d.toNat - 0x40
    let v := Spec.int2 op w (Spec.signed ty) c.sat (BitVec.ofNat w (s.scalarOperand c a.toNat 0 w))
    ∃ t c', s.RegisterWord c (mk st d a) ((List.range (w / 32)).map fun j => .scal (r + j)) t c' ∧ c.SameFlags c' ∧ c.path.SameLast c'.path ∧
      ∀ j < w / 32, c.ScalarReads s c' (r + j) (v.extractLsb' (32 * j) 32)

/-- R142: `cmp` writes all ones to each word of the triple at D where the condition holds under the type's order, and zeros where it does not. -/
def Obligations.ScalarCompare : Prop :=
  ∀ (s : State) (c : Ctx) (st : BitVec 2) (k : BitVec 3) (d : BitVec 5) (a : BitVec 8) (b : BitVec 7), s.Issues c (.cmp st k d a b) →
    let ty := typeOf 7 c.path.pfx
    let w := Spec.width ty
    let x := BitVec.ofNat w (s.scalarOperand c a.toNat 0 w)
    let y := BitVec.ofNat w (s.scalarOperand c (wide7 b) 2 w)
    ∃ t c', s.RegisterWord c (.cmp st k d a b) [.scal d.toNat, .scal (d.toNat + 1), .scal (d.toNat + 2)] t c' ∧ c.SameFlags c' ∧
      c.path.SameLast c'.path ∧
      (∀ j < 3, Spec.holds k.toNat (Spec.signed ty) x y → c.ScalarReads s c' (d.toNat + j) (BitVec.allOnes 32)) ∧
      (∀ j < 3, ¬ Spec.holds k.toNat (Spec.signed ty) x y → c.ScalarReads s c' (d.toNat + j) 0)

/-- R147, R145, R156, R160: the mask words, word by word of their triples; a triple that covers the live mask keeps present lanes only (R25). The words that
write one scalar: `movk` its literal, `mpop` the number of one bits of the triple, `trip` its operand, `rdmode` the mode word in force. -/
def Obligations.MaskWords : Prop :=
  (∀ (s : State) (c : Ctx) (i : Instr) (d : BitVec 8) (v : Lanes),
    (∃ st a b, (i = .mand st d a b ∧ v = s.maskOperand c a.toNat 0 &&& s.maskOperand c (wide7 b) 3) ∨
      (i = .mor st d a b ∧ v = s.maskOperand c a.toNat 0 ||| s.maskOperand c (wide7 b) 3) ∨
      (i = .mxor st d a b ∧ v = s.maskOperand c a.toNat 0 ^^^ s.maskOperand c (wide7 b) 3) ∨
      (i = .mandn st d a b ∧ v = s.maskOperand c a.toNat 0 &&& ~~~(s.maskOperand c (wide7 b) 3)) ∨
      (i = .mmov st d a ∧ v = s.maskOperand c a.toNat 0) ∨ (i = .mnot st d a ∧ v = ~~~(s.maskOperand c a.toNat 0))) →
    s.Issues c i →
    let r := d.toNat - 0x40
    ∃ t c', s.RegisterWord c i [.scal r, .scal (r + 1), .scal (r + 2)] t c' ∧ c.SameFlags c' ∧ c.path.SameLast c'.path ∧
      ∀ j < 3, c.ScalarReads s c' (r + j) (v.extractLsb' (32 * j) 32)) ∧
  ∀ (s : State) (c : Ctx) (i : Instr) (d : BitVec 8) (v : Word),
    (∃ st a, (i = .movk st d v) ∨
      (i = .mpop st d a ∧ v.toNat = (List.range 96).countP fun k => (s.maskOperand c a.toNat 0).getLsbD k) ∨
      (i = .trip st d a ∧ v = BitVec.ofNat 32 (s.scalarOperand c a.toNat 0 32)) ∨
      (i = .rdmode st d ∧ v = c.group.modeInForce s.cycle &&& 0x3F0F)) →
    s.Issues c i →
    let r := d.toNat - 0x40
    ∃ t c', s.RegisterWord c i [.scal r] t c' ∧ c.SameFlags c' ∧ c.path.SameLast c'.path ∧ c.ScalarReads s c' r v

/-- R157, R160, R80, R342: `nop` does nothing but issue; `wrmode` gives the mode word bits [13:8] and [3:0] of its operand, in force from the next
cycle on, unless RND would be 0, 6 or 7, which traps with DETAIL 37. -/
def Obligations.ModeAndNop : Prop :=
  (∀ (s : State) (c : Ctx) (st : BitVec 2), s.Issues c (.nop st) →
    ∃ t c', s.RegisterWord c (.nop st) [] t c' ∧ c.SameFlags c' ∧ c.path.SameLast c'.path) ∧
  ∀ (s : State) (c : Ctx) (st : BitVec 2) (a : BitVec 8), s.Issues c (.wrmode st a) →
    let v : Word := BitVec.ofNat 32 (s.scalarOperand c a.toNat 0 32)
    (v.toNat % 8 ∈ [0, 6, 7] → exec (.wrmode st a) s = .next (s.illegal c 37)) ∧
    (v.toNat % 8 ∉ [0, 6, 7] → ∃ t c', exec (.wrmode st a) s = .next t ∧ t.ctx? c.ref = some c' ∧ c.Past s (.wrmode st a) 0 c' ∧
      s.SameElsewhere t c c' ∧ c.SameGroup c' [] ∧ c.SameFlags c' ∧ c.path.SameLast c'.path ∧
      c'.group.mode = v &&& 0x3F0F ∧ c'.group.modeInForce s.cycle = c.group.modeInForce s.cycle ∧
      ∀ n, s.cycle < n → c'.group.modeInForce n = v &&& 0x3F0F)

/-- R126, R127, R128, R139, R146, R37, R48, R84: what an operand gives where no result is under way: a register's value, an inline constant at the word's width, a
mask operand its three words; in a lane of a vector word a per-lane register the lane's own value, a scalar one value for every lane, `l0` the last
result, `lane` the lane's number, `xf` its flags, a constant its value at the type: an integer, or the fraction 0.5 in binary32, binary16 and
binary64. -/
def Obligations.Operands : Prop :=
  (∀ (s : State) (c : Ctx) (v slot : Nat), c.group.unseen = [] → c.group.hazards = [] →
    (isS v = true → s.scalarOperand c v slot 32 = (c.reg (.scal (v - 0x40)) 0).toNat) ∧
    (isS v = true → s.scalarOperand c v slot 64 = (c.reg (.scal (v - 0x40 + 1)) 0 ++ c.reg (.scal (v - 0x40)) 0).toNat) ∧
    (∀ n < 16, v = 0xD0 + n → ∀ w ∈ [32, 64], s.scalarOperand c v slot w = n) ∧
    (∀ n < 4, v = 0xE0 + n → ∀ w ∈ [32, 64], s.scalarOperand c v slot w = 2 ^ w - 2 ^ n) ∧
    (∀ n < 6, v = 0xE4 + n → ∀ w ∈ [32, 64], s.scalarOperand c v slot w = [16, 32, 64, 96, 128, 255].getD n 0) ∧
    (v = 0xED → ∀ w ∈ [32, 64], s.scalarOperand c v slot w = 2 ^ (w - 1)) ∧
    (v = 0xEE → ∀ w ∈ [32, 64], s.scalarOperand c v slot w = 2 ^ (w - 1) - 1) ∧
    (v = 0xEF → ∀ w ∈ [32, 64], s.scalarOperand c v slot w = 2 ^ w - 1) ∧
    (∀ j < 3, isS v = true → isS (v + j) = true → (s.maskOperand c v slot).extractLsb' (32 * j) 32 = c.reg (.scal (v - 0x40 + j)) 0) ∧
    (v = 0xEF → s.maskOperand c v slot = BitVec.allOnes 96) ∧ (v = 0xD0 → s.maskOperand c v slot = 0)) ∧
  ∀ (s : State) (c : Ctx) (i : Instr) (v slot lane : Nat), c.group.unseen = [] → c.group.hazards = [] → c.group.flagHazards = [] → lane < 96 →
    (isW v = true → c.path.served = [] → s.operand c i v slot (.int 32) lane = (c.reg (.stack (8 * c.group.depth + v)) lane).toNat) ∧
    (isO v = true → s.operand c i v slot (.int 32) lane = (c.reg (.oper (v - 0xC0)) lane).toNat) ∧
    (isS v = true → s.operand c i v slot (.int 32) lane = (c.reg (.scal (v - 0x40)) 0).toNat) ∧
    (v = 0xC8 → c.path.l0Def = true → s.operand c i v slot (.int 32) lane = (c.path.l0.get lane).toNat % 2 ^ 32) ∧
    (v = 0xC8 → c.path.l0Def = true → s.operand c i v slot (.flt .f64) lane = (c.path.l0.get lane).toNat) ∧
    (v = 0xCA → s.operand c i v slot (.int 32) lane = lane) ∧
    (v = 0xCB → s.flagsDue c.ref (laneSet [lane]) = [] → s.operand c i v slot (.int 32) lane = (c.group.flags.get lane).toNat) ∧
    (∀ n < 16, v = 0xD0 + n → ∀ w ∈ [8, 16, 32, 64], s.operand c i v slot (.int w) lane = n) ∧
    (v = 0xEA → s.operand c i v slot (.flt .f32) lane = 0x3F000000 ∧ s.operand c i v slot (.flt .f16) lane = 0x3800 ∧
      s.operand c i v slot (.flt .f64) lane = 0x3FE0000000000000)

/-! ### Control flow -/

/-- R148, R149, R150: `bra` always, `brz` where the triple is zero, `brnz` where it is not, moves the path to the clause header at its offset, two
cycles late; a branch not taken goes on at the next word or clause. Nothing else changes. -/
def Obligations.Branches : Prop :=
  ∀ (s : State) (c : Ctx) (i : Instr) (taken : Bool) (ofs : Int),
    (∃ st a, (∃ o : BitVec 23, i = .bra st o ∧ taken = true ∧ ofs = o.toInt) ∨
      (∃ o : BitVec 15, i = .brz st a o ∧ (taken = true ↔ s.maskOperand c a.toNat 0 = 0) ∧ ofs = o.toInt) ∨
      (∃ o : BitVec 15, i = .brnz st a o ∧ (taken = true ↔ s.maskOperand c a.toNat 0 ≠ 0) ∧ ofs = o.toInt)) →
    s.Issues c i →
    ∃ t c', exec i s = .next t ∧ t.ctx? c.ref = some c' ∧ s.SameElsewhere t c c' ∧ c.SameGroup c' [] ∧ c'.group.standing = c.group.standing ∧
      c.SameFlags c' ∧ c.path.SameLast c'.path ∧
      (taken = true → c.Jumped s i 2 (c.path.headerAt ofs) c') ∧ (taken = false → c.Past s i 0 c')

/-- R151: with a zero live mask `call` does nothing; with a second live path it traps with DETAIL 32; past STACK with DETAIL 33; else it writes the
frame record into the group's context image, sets the link to the next clause, slides the window and goes to its target, two cycles late. The
record is written at once (here with no other write in transit, and not into the output of a running job card, R384), or where an earlier access of the
path to its bytes is in flight, as a store of the path after it (R153, R198). While a tier cap holds the frame records of its launch the path tries again
in the next cycle (R358). That DETAIL 32 comes before 33 is the model's choice (log entry 129). -/
def Obligations.Call : Prop :=
  ∀ (s : State) (c : Ctx) (st : BitVec 2) (n : BitVec 3) (o : BitVec 20), s.Issues c (.call st n o) →
    let i : Instr := .call st n o
    let k := n.toNat + 1
    let d := c.group.depth
    let record := wordBytes [maskWord c.path.mask 0, maskWord c.path.mask 1, maskWord c.path.mask 2, s.readReg c (.scal 120) 0 0 s.cycle,
      BitVec.ofNat 32 k, 0, 0, 0]
    (c.path.mask = 0 → ∃ t c', s.RegisterWord c i [] t c' ∧ c.SameFlags c' ∧ c.path.SameLast c'.path) ∧
    (c.path.mask ≠ 0 → 2 ≤ c.group.paths.countP (·.valid) → exec i s = .next (s.illegal c 32)) ∧
    (c.path.mask ≠ 0 → c.group.paths.countP (·.valid) ≤ 1 → c.launch.header.stack < d + k + 8 → exec i s = .next (s.illegal c 33)) ∧
    (c.path.mask ≠ 0 → c.group.paths.countP (·.valid) ≤ 1 → d + k + 8 ≤ c.launch.header.stack → s.pumpHeld c.launch = true →
      exec i s = .next (s.heldByCap c.ref)) ∧
    (c.path.mask ≠ 0 → c.group.paths.countP (·.valid) ≤ 1 → d + k + 8 ≤ c.launch.header.stack → s.pumpHeld c.launch = false →
      ∃ t c', exec i s = .next t ∧ t.ctx? c.ref = some c' ∧ c.Jumped s i 2 (c.path.headerAt o.toInt) c' ∧
        s.SameBeyond t c c' ∧ c.SameFlags c' ∧ c'.path.l0Def = false ∧ c'.path.l1Def = false ∧
        c'.group.standing.unordered = { c.group.standing.unordered with depth := d + k, sb := c'.group.sb } ∧ (∀ j < 6, c'.group.sbCount j = c.group.sbCount j) ∧
        c'.path.standing.unordered = c.path.standing.unordered ∧ c'.path.mask = c.path.mask ∧
        c'.path.priv.get 120 = BitVec.ofNat 32 ((c.path.pc + 4 * (c.path.count + 1)) % 2 ^ 64) ∧
        (∀ r lane, lane < 96 → r ≠ .scal 120 → r ≠ .scal 121 → c'.reg r lane = c.reg r lane) ∧ c'.reg (.scal 121) 0 = BitVec.ofNat 32 (d + k) ∧
        ((s.frameOp c (d + k) []).after = [] → s.SameUnitsMem t) ∧
        ((s.frameOp c (d + k) []).after ≠ [] → (c.launch.replay = none → s.SameMemory t) ∧
          ∃ op : Op, t.ops = s.ops ++ [op] ∧ op.kind = .store ∧ op.path = c.ref ∧ op.after = (s.frameOp c (d + k) []).after) ∧
        ∀ pa, c.launch.replay = none → dieOf c.group.core < s.dies.length → s.transit = [] → (s.frameOp c (d + k) []).after = [] →
          (∀ j < 32, s.imagePa c.launch c.block (c.frame (d + k) + j) = some (pa + j)) →
          (∀ e ∈ s.records, ∀ j < 32, s.cardOffsets e false c.ref.launch c.ref.block (pa + j) = []) →
          t.readPhys (dieOf c.group.core) pa 32 = record ∧
            ∀ view a, ¬(view = dieOf c.group.core ∧ pa ≤ a ∧ a < pa + 32) → t.readPhys view a 1 = s.readPhys view a 1)

/-- R152, R153: `ret` traps with DETAIL 32 beside a second live path; it waits for the group's stores to the frame record; it traps with DETAIL 34 for a
slide outside 1 to 8 or past the bottom; else it goes to the link, in the 4 GiB region of its own clause, and restores link and mask, the mask
ANDed with presence. Memory changes only in the image lines that become dead (log entry 37). While a tier cap holds the frame records of its launch the path
tries again in the next cycle (R358). That the link is taken in that region (log entry 36), and that DETAIL 32 comes before 34 (log entry 129), are the
model's choices. -/
def Obligations.Return : Prop :=
  ∀ (s : State) (c : Ctx) (st : BitVec 2), s.Issues c (.ret st) →
    let d := c.group.depth
    let ws := bytesWords 8 (s.imageRead c.launch c.block c.group.core (c.frame d) 32)
    let n := (ws.getD 4 0).toNat % 16
    (2 ≤ c.group.paths.countP (·.valid) → exec (.ret st) s = .next (s.illegal c 32)) ∧
    (c.group.paths.countP (·.valid) ≤ 1 → s.framePending c ≠ [] →
      exec (.ret st) s = .next (s.setStatus c.ref (.waiting (.drain (s.framePending c))))) ∧
    (c.group.paths.countP (·.valid) ≤ 1 → s.framePending c = [] → s.pumpHeld c.launch = true → exec (.ret st) s = .next (s.heldByCap c.ref)) ∧
    (c.group.paths.countP (·.valid) ≤ 1 → s.framePending c = [] → s.pumpHeld c.launch = false → (n = 0 ∨ 8 < n ∨ d < n) → exec (.ret st) s = .next (s.illegal c 34)) ∧
    (c.group.paths.countP (·.valid) ≤ 1 → s.framePending c = [] → s.pumpHeld c.launch = false → 1 ≤ n → n ≤ 8 → n ≤ d →
      ∃ t c', exec (.ret st) s = .next t ∧ t.ctx? c.ref = some c' ∧
        c.Jumped s (.ret st) 2 ((c.path.pc / 2 ^ 32 * 2 ^ 32 + (s.readReg c (.scal 120) 0 0 s.cycle).toNat) % 2 ^ 64) c' ∧
        s.SameBeyond t c c' ∧ s.SameUnitsMem t ∧ c.SameFlags c' ∧ c'.path.l0Def = false ∧ c'.path.l1Def = false ∧
        c'.group.depth = d - n ∧ c'.path.priv.get 120 = ws.getD 3 0 ∧
        (∀ j < 3, maskWord c'.path.mask j = ws.getD j 0 &&& maskWord c.path.present j) ∧ c'.path.present = c.path.present ∧
        (∀ r lane, lane < 96 → (∀ m, r = .stack m → m < 8 * (d - n + 8) ∨ 8 * (d + 8) ≤ m) → (∀ m, r = .scal m → m < 120) →
          c'.reg r lane = c.reg r lane) ∧
        (c.launch.replay = none → (∀ e ∈ (s.owner c.launch.owner).tlb, 8192 ∣ e.va ∧ 8192 ∣ e.size) → ∀ view a,
          (∀ j < n, ∀ b < 3072, s.imagePa c.launch c.block
            (c.launch.header.ctxOf c.block.slot c.group.index + lineOff (d - n + 8 + j) + b) ≠ some a) →
          t.readPhys view a 1 = s.readPhys view a 1))

/-- R30, R31, R154: `fork` traps with DETAIL 35 with no free path entry, with DETAIL 36 with no free join record. A fork that moves no lane goes on at the
next clause, one that moves every live lane at its target; the record is free again, its generation raised, and the token is written.
R30, R31, R150: a fork that moves some live lanes and keeps others splits the path: the child, in the lowest free entry, holds the moving lanes at the
target with a copy of the parent's scalars; both hold the token, of the lowest free record, and go on two cycles late. The child of a stepping path starts
stopped, with CAUSE 2 (R399). -/
def Obligations.Fork : Prop :=
  (∀ (s : State) (c : Ctx) (st : BitVec 2) (d a : BitVec 8) (v : Word), s.Issues c (.fork st d a v) →
      let i : Instr := .fork st d a v
      let m := c.path.mask &&& s.maskOperand c a.toNat 0
      (c.group.freeEntry = none → exec i s = .next (s.illegal c 35)) ∧
      (c.group.freeEntry ≠ none → c.group.freeRecord = none → exec i s = .next (s.illegal c 36)) ∧
      ∀ e r, c.group.freeEntry = some e → c.group.freeRecord = some r → r < c.group.joins.length → m = 0 ∨ m = c.path.mask →
        let gen := (c.group.joins.getD r ⟨0, false, 0⟩).gen + 1
        ∃ t c', exec i s = .next t ∧ t.ctx? c.ref = some c' ∧ s.SameElsewhere t c c' ∧ c.SameGroup c' [.scal (d.toNat - 0x40)] ∧
          c.SameFlags c' ∧ c.path.SameLast c'.path ∧
          c'.group.standing = { c.group.standing with joins := c.group.joins.set r ⟨gen, false, 0⟩ } ∧
          c.ScalarReads s c' (d.toNat - 0x40) (BitVec.ofNat 32 (gen.toNat * 256 + r)) ∧
          (m = 0 → c.Jumped s i 0 ((c.path.pc + 4 * (c.path.count + 1)) % 2 ^ 64) c') ∧
          (m ≠ 0 → c.Jumped s i 2 (c.path.headerAt v.toInt) c')) ∧
  (∀ (s : State) (c : Ctx) (st : BitVec 2) (d a : BitVec 8) (v : Word) (e r : Nat), s.Issues c (.fork st d a v) →
      c.group.freeEntry = some e → c.group.freeRecord = some r → e < c.group.paths.length → e ≠ c.ref.path → c.path.stepLeft.isSome = true →
      let m := c.path.mask &&& s.maskOperand c a.toNat 0
      m ≠ 0 → m ≠ c.path.mask →
      ∃ t q, exec (.fork st d a v) s = .next t ∧ t.path? { c.ref with path := e } = some q ∧ q.valid = true ∧ q.stopped = some 2) ∧
  ∀ (s : State) (c : Ctx) (st : BitVec 2) (d a : BitVec 8) (v : Word) (e r : Nat), s.Issues c (.fork st d a v) → c.path.stepLeft = none →
      c.group.freeEntry = some e → c.group.freeRecord = some r → r < c.group.joins.length → e < c.group.paths.length → e ≠ c.ref.path →
      let i : Instr := .fork st d a v
      let m := c.path.mask &&& s.maskOperand c a.toNat 0
      let gen := (c.group.joins.getD r ⟨0, false, 0⟩).gen + 1
      let tok : BitVec 4 := BitVec.ofNat 4 (2 ^ r)
      m ≠ 0 → m ≠ c.path.mask →
      ∃ t c' q, exec i s = .next t ∧ t.ctx? c.ref = some c' ∧ t.path? { c.ref with path := e } = some q ∧ s.SameElsewhere t c c' ∧
        c.Jumped s i 2 ((c.path.pc + 4 * (c.path.count + 1)) % 2 ^ 64) c' ∧
        c'.path.member = c.path.member &&& ~~~m ∧ c'.path.present = c.path.present &&& ~~~m ∧ c'.path.tokens = c.path.tokens ||| tok ∧
        q.valid = true ∧ q.pc = c.path.headerAt v.toInt ∧ q.idx = 0 ∧ q.nextIssue = c'.path.nextIssue ∧ q.member = m ∧ q.present = m ∧
        q.tokens = c.path.tokens ||| tok ∧ q.status = c.path.status ∧
        (d.toNat < 0x40 + 125 → c'.path.mask = c.path.mask &&& ~~~m ∧ q.mask = m) ∧
        (∀ n, 108 ≤ n → n < 121 → n ≠ d.toNat - 0x40 → (∀ u ∈ c.group.unseen, u.reg ≠ .scal n) → q.priv.get n = c.path.priv.get n) ∧
        (∀ k, k ≠ c.ref.path → k ≠ e → c'.group.paths[k]? = c.group.paths[k]?) ∧
        c'.group.standing = { c.group.standing with joins := c.group.joins.set r ⟨gen, true, 0⟩ } ∧
        (c.WritesLast (d.toNat - 0x40) (s.cycle + 1) → d.toNat - 0x40 < 121 →
          c'.reg (.scal (d.toNat - 0x40)) 0 = BitVec.ofNat 32 (gen.toNat * 256 + r) ∧
          c'.group.getReg c.ref.launch c.ref.block e (.scal (d.toNat - 0x40)) 0 = BitVec.ofNat 32 (gen.toNat * 256 + r))

/-- R155: `join` on a token whose record is free, of another generation, or not the path's own, finishes at once.
R32: on the path's own token of the record's generation, `join` always answers: while another holder has not arrived, the path waits at its word; when the
last one arrives, and no other record is in use, the holders are one path again in the lowest entry: its membership, presence and live mask are the unions
of theirs (step 2); it keeps the tokens common to all but the record's, and its own private scalars (step 3); it stands past the lowest holder's `join`
(step 4), whose next word keeps that `join`'s STALL and comes two cycles after the last arrival (R122, R150); the others leave the table and the record is
free (step 5). -/
def Obligations.Join : Prop :=
  (∀ (s : State) (c : Ctx) (st : BitVec 2) (a : BitVec 8), s.Issues c (.join st a) →
    let tok := s.scalarOperand c a.toNat 0 32
    let j := c.group.joins.getD (tok % 4) ⟨0, false, 0⟩
    (j.alloc = false ∨ j.gen.toNat ≠ tok / 256 % 256 ∨ c.path.tokens.getLsbD (tok % 4) = false) →
    ∃ t c', s.RegisterWord c (.join st a) [] t c' ∧ c.SameFlags c' ∧ c.path.SameLast c'.path) ∧
  ∀ (s : State) (c : Ctx) (st : BitVec 2) (a : BitVec 8), s.Issues c (.join st a) →
    let tok := s.scalarOperand c a.toNat 0 32
    let r := tok % 4
    let j := c.group.joins.getD r ⟨0, false, 0⟩
    let hs := c.group.holders r
    let holder (k : Nat) : Path := c.group.paths.getD k Path.dead
    j.alloc = true → j.gen.toNat = tok / 256 % 256 → c.path.tokens.getLsbD r = true → c.ref.path < 4 → c.group.paths.length = 4 →
    c.group.joins.length = 4 → (∀ q < 4, q ≠ r → (c.group.joins.getD q ⟨0, false, 0⟩).alloc = false) →
    ∃ t z, exec (.join st a) s = .next t ∧ t.group? c.ref.launch c.ref.block c.ref.group = some z ∧
      (c.launch.replay = none → s.SameMemory t) ∧ s.SameUnits t ∧
      ((∃ k ∈ hs, k ≠ c.ref.path ∧ j.arrived.getLsbD k = false) →
        (∃ p, z.paths[c.ref.path]? = some p ∧ p.status = .waiting (.join r) ∧ p.pc = c.path.pc ∧ p.idx = c.path.idx ∧ p.tokens = c.path.tokens ∧
          (z.joins.getD r ⟨0, false, 0⟩).arrived.getLsbD c.ref.path = true) ∧
        ∀ k, k ≠ c.ref.path → z.paths[k]? = c.group.paths[k]?) ∧
      ((∀ k ∈ hs, k ≠ c.ref.path → j.arrived.getLsbD k = true) → ∀ k rest, hs = k :: rest →
        (z.joins.getD r ⟨0, false, 0⟩).alloc = false ∧ (∀ m ∈ rest, ∃ p, z.paths[m]? = some p ∧ p.valid = false) ∧
        (∀ m, m ∉ hs → z.paths[m]? = c.group.paths[m]?) ∧
        ∃ p, z.paths[k]? = some p ∧ p.valid = true ∧ p.status = .ready ∧ (p.pc, p.idx) = (holder k).placeAfter (holder k).rawSpan ∧
          p.priv = (holder k).priv ∧
          p.nextIssue = max (if k = c.ref.path then (issueOf c (.join st a) 0).ends s.cycle + 1 + stallOf (.join st a) else (holder k).nextIssue)
            (s.cycle + 1) + 2 ∧
          (∀ q < 4, p.tokens.getLsbD q = (decide (q ≠ r) && hs.all fun m => (holder m).tokens.getLsbD q)) ∧
          (∀ lane < 96, p.member.getLsbD lane = hs.any fun m => (holder m).member.getLsbD lane) ∧
          (∀ lane < 96, p.present.getLsbD lane = hs.any fun m => (holder m).present.getLsbD lane) ∧
          ∀ lane < 96, p.mask.getLsbD lane = hs.any fun m => (holder m).mask.getLsbD lane)

/-- R157: `sleep` with 0 goes on; otherwise the path sleeps until `v` cycles after its issue, past its word. A sleeping path whose deadline has passed is
made ready by SLEEP_EXPIRE, and one whose deadline has not is left. -/
def Obligations.Sleep : Prop :=
  (∀ (s : State) (c : Ctx) (st : BitVec 2) (a : BitVec 8), s.Issues c (.sleep st a) →
    let v := s.scalarOperand c a.toNat 0 32
    ∃ t c', exec (.sleep st a) s = .next t ∧ t.ctx? c.ref = some c' ∧ c.Past s (.sleep st a) v c' ∧ s.SameElsewhere t c c' ∧
      (∀ r lane, lane < 96 → c'.reg r lane = c.reg r lane) ∧ c'.group.standing = c.group.standing ∧ c.SameFlags c' ∧
      c'.path.status = if v = 0 then c.path.status else .sleeping (s.cycle + v)) ∧
  ∀ (s : State) (r : PathRef) (p : Path) (deadline : Nat), s.path? r = some p → p.valid = true → p.status = .sleeping deadline →
    (deadline ≤ s.cycle → exec (.sleepExpire r) s = .next (s.setStatus r .ready) ∧
      (s.setStatus r .ready).path? r = some { p with status := .ready }) ∧
    (s.cycle < deadline → exec (.sleepExpire r) s = .next s)

/-- R158, R204, R42: `exit` with a zero live mask goes on. Otherwise the live lanes leave presence for good, drop their well items and count as exits of
the block; a path that keeps lanes goes on with a zero live mask, and one that keeps none leaves the path table (here in a group without join
records; R32 covers those). Its lanes then count to the lowest live path, so that the live paths' memberships cover all lanes (R24; which path they count
to is the model's choice, log entry 114). -/
def Obligations.Exit : Prop :=
  ∀ (s : State) (c : Ctx) (st : BitVec 2), s.Issues c (.exit st) →
    (c.path.mask = 0 → ∃ t c', s.RegisterWord c (.exit st) [] t c' ∧ c.SameFlags c' ∧ c.path.SameLast c'.path) ∧
    (c.path.mask ≠ 0 → c.group.NoJoins →
      ∃ t y z, exec (.exit st) s = .next t ∧ (c.launch.replay = none → s.SameMemory t) ∧ s.SameUnits t ∧
        t.block? c.ref.launch c.ref.block = some y ∧ y.group? c.ref.group = some z ∧
        y.exits = (c.block.exits + (List.range 96).countP fun l => c.path.mask.getLsbD l) % 2 ^ 15 ∧
        z.items = c.group.items &&& ~~~c.path.mask ∧
        (c.path.present &&& ~~~c.path.mask ≠ 0 → (∀ k, k ≠ c.ref.path → z.paths[k]? = c.group.paths[k]?) ∧
          ∃ c', t.ctx? c.ref = some c' ∧ c.Past s (.exit st) 0 c' ∧ c'.path.present = c.path.present &&& ~~~c.path.mask ∧ c'.path.mask = 0 ∧
            c'.path.member = c.path.member) ∧
        (c.path.present &&& ~~~c.path.mask = 0 → (∃ p, z.paths[c.ref.path]? = some p ∧ p.valid = false ∧ p.tokens = 0) ∧
          ∀ k, k ≠ c.ref.path → z.paths[k]? = (c.group.paths[k]?).map fun p =>
            if ((List.range 4).find? fun j => j != c.ref.path && (c.group.paths.getD j Path.dead).valid) = some k then
              { p with member := p.member ||| c.path.member }
            else p))

/-! ### Exceptions: taking one and returning from it -/

/-- R136, R341, R129: a word whose encoding has a cause of the illegal-instruction trap takes that trap and has no other effect; a place that holds no
instruction takes it too. A prefix word gives its fields to the next word of its path, and changes nothing else. -/
def Obligations.EncodingTraps : Prop :=
  (∀ (s : State) (c : Ctx) (i : Instr) (d : Nat), s.running? = some c → encDetail c.path.pfx i = some d →
    exec i s = .next (s.illegal (s.known c) d)) ∧
  (∀ (s : State) (c : Ctx) (d : Nat), s.running? = some c → exec (.illegalInstruction d) s = .next (s.illegal (s.known c) d)) ∧
  ∀ (s : State) (c : Ctx) (m r : BitVec 3) (z : BitVec 1) (f : BitVec 8) (e : BitVec 4) (b : BitVec 1), s.running? = some c →
    ∃ t c', exec (.pfx m r z f e b) s = .next t ∧ t.ctx? c.ref = some c' ∧
      c'.path = { c.path with pfx := some ⟨m.toNat, r.toNat, z == 1, f, e.toNat, b == 1⟩ } ∧
      t = { s with launches := t.launches } ∧ (∀ k, k ≠ c.ref.path → c'.group.paths[k]? = c.group.paths[k]?)

/-- R320, R322, R326: an illegal-instruction trap that a handler receives: the path waits at its word for the handler, and its collector holds one origin
with KIND 3, the DETAIL, the tag of the naming lane and the lanes that were active, after the origins of earlier cycles; memory and every other path
stand.
R321, R330, R331: a trap that finds no handler (an owner without a pinned reserve; that such an owner has no handler, ahead of the stop of R352, is the model's choice, log
entry 70): while an earlier asynchronous word of the path is not done, the path
waits at its word (the report and the lanes' end come after it: the model's choice of order, log entry 69); else every present lane of the path ends, and interrupt cause 1 of the owner is raised, or kept while its vector is masked (here in a
group without join records). -/
def Obligations.TrapTaken : Prop :=
  (∀ (s : State) (c : Ctx) (d : Nat), s.running? = some c → c.path.status = .ready →
      let f : FaultCase := ⟨3, d, 0, 3⟩
      s.route c.launch 3 d f.va (s.faultTag c c.path.namingLane f) = .collect →
      ∃ c', (s.illegal c d).ctx? c.ref = some c' ∧ c'.path = { c.path with status := .waiting .handler, tookEffect := false } ∧
        (∃ l r, s.origins = l ++ r ∧ ((∀ g ∈ s.origins, g.at_ ≠ s.cycle) → r = []) ∧
          (s.illegal c d).origins = l ++ ⟨s.nextId, c.launch.owner, 3, BitVec.ofNat 32 d, s.faultTag c c.path.namingLane f,
            .path c.ref c.path.selected, false, c.launch.faultDepth, f.va, none, s.cycle, s.nextId, .collected, none⟩ :: r) ∧
        (s.illegal c d).dies = s.dies ∧ (s.illegal c d).owners = s.owners ∧ (s.illegal c d).links = s.links ∧
        (∀ k, k ≠ c.ref.path → c'.group.paths[k]? = c.group.paths[k]?) ∧ c'.group.standing = c.group.standing) ∧
  ∀ (s : State) (c : Ctx) (d : Nat), s.running? = some c → c.path.status = .ready → c.launch.handler = none → (s.owner c.launch.owner).record.rsvlen = 0 →
      c.group.NoJoins → c.launch.owner < 64 →
      let v := 4 * c.launch.owner + 1
      let t := s.illegal c d
      (s.earlierDone c.ref s.nextId = false → t.links = s.links ∧ (∃ c', t.ctx? c.ref = some c' ∧ c'.path = { c.path with status := .waiting .handler, tookEffect := false }) ∧
        ∃ l r g, s.origins = l ++ r ∧ t.origins = l ++ g :: r ∧ g.source = .path c.ref c.path.selected ∧ g.kind = 3 ∧ g.mark = s.nextId) ∧
      (s.earlierDone c.ref s.nextId = true →
      (∃ z p, t.group? c.ref.launch c.ref.block c.ref.group = some z ∧ z.paths[c.ref.path]? = some p ∧ p.valid = false) ∧
      t.origins = s.origins ∧
      (s.links.masked.getLsbD v = false → s.links.pcieUp = true → t.links = { s.links with sent := s.links.sent ++ [v] }) ∧
      (s.links.masked.getLsbD v = true ∨ s.links.pcieUp = false → t.links.sent = s.links.sent ∧ t.links.coalesced.getLsbD v = true))

/-- R251, R320: the words of an origin tag: address (of the KINDs 1, 2, 8 and 11; zero in the others), KIND, ACCESS, path, group, lane and core, launch,
block.
R330, R331, R351, R354: where a fault goes: in a depth-2 handler it stops the owner; with no handler in the table its lanes end and a report is
posted; with no place for handler groups it stops the owner; else a collector takes it. In a depth-1 handler an access to the pinned reserve that faults stops
it (R354). That a missing header comes before the missing place (R330 before R352, which both hold without condition) is the model's choice (log entry 70). -/
def Obligations.FaultRoutes : Prop :=
  (∀ (s : State) (c : Ctx) (lane : Nat) (f : FaultCase), f.kind < 16 → f.access < 4 → c.ref.path < 4 → c.ref.group < 128 → lane < 128 →
      c.group.core < 1024 →
      let w := s.tagOf c lane f
      w.length = 8 ∧ ((w.getD 1 0) ++ (w.getD 0 0) : BitVec 64) = (if f.kind ∈ [1, 2, 8, 11] then BitVec.ofNat 64 f.addr else 0) ∧
      (w.getD 2 0).extractLsb' 28 4 = BitVec.ofNat 4 f.kind ∧ (w.getD 2 0).extractLsb' 26 2 = BitVec.ofNat 2 f.access ∧
      (w.getD 2 0).extractLsb' 24 2 = BitVec.ofNat 2 c.ref.path ∧ (w.getD 2 0).extractLsb' 17 7 = BitVec.ofNat 7 c.ref.group ∧
      (w.getD 2 0).extractLsb' 10 7 = BitVec.ofNat 7 lane ∧ (w.getD 2 0).extractLsb' 0 10 = BitVec.ofNat 10 c.group.core ∧
      w.getD 3 0 = BitVec.ofNat 32 c.ref.launch ∧ w.getD 4 0 = BitVec.ofNat 32 c.ref.block ∧
      w.getD 6 0 = BitVec.ofNat 32 (c.path.pc + 4 * c.path.idx)) ∧
  ∀ (s : State) (x : Launch) (kind detail addr : Nat) (tag : List Word) (h : Nat),
      (∀ i, x.handler = some i → 2 ≤ i.depth → s.route x kind detail addr tag = .stop tag (BitVec.ofNat 32 detail)) ∧
      (∀ i, x.handler = some i → 1 ≤ i.depth → kind ∈ [1, 2, 8] → (s.owner x.owner).inReserve addr 1 = true →
        s.route x kind detail addr tag = .stop tag (BitVec.ofNat 32 detail)) ∧
      (x.handler = none → s.handlerOf x.owner kind = .ok 0 → s.route x kind detail addr tag = .noHandler) ∧
      (x.handler = none → s.handlerOf x.owner kind = .ok h → h ≠ 0 → (s.owner x.owner).record.rsvlines < 8 →
        s.route x kind detail addr tag = .stop tag (BitVec.ofNat 32 detail)) ∧
      (x.handler = none → s.handlerOf x.owner kind = .ok h → h ≠ 0 → 8 ≤ (s.owner x.owner).record.rsvlines →
        s.route x kind detail addr tag = .collect)

/-- R253, R322, R334: `trap` takes a KIND 6 trap with its CODE in each active lane, each lane an origin of its own in ascending order, or in a uniform clause
as one origin of the path, with the path past the word (here where a handler receives it, and no other origin was collected in the cycle). With no
active lane it does nothing. -/
def Obligations.ProgramTrap : Prop :=
  ∀ (s : State) (c : Ctx) (st : BitVec 2) (k : BitVec 8),
    (s.Issues c (.trap st k) → c.path.status = .ready → c.path.selected ≠ 0 → c.launch.handler = none → c.launch.replay = none →
      (∀ h, s.handlerOf c.launch.owner 6 = .ok h → h ≠ 0) → (∀ e, s.handlerOf c.launch.owner 6 ≠ .error e) →
      8 ≤ (s.owner c.launch.owner).record.rsvlines → (∀ g ∈ s.origins, g.at_ ≠ s.cycle) →
      ∃ t c', exec (.trap st k) s = .next t ∧ t.ctx? c.ref = some c' ∧ c.Past s (.trap st k) 0 c' ∧ c'.path.status = .waiting .handler ∧
        s.SameMemory t ∧ (∀ r lane, lane < 96 → c'.reg r lane = c.reg r lane) ∧
        ∃ os, t.origins = s.origins ++ os ∧
          os.map (fun g => (g.kind, g.detail, g.source, g.completed)) =
            if c.path.uniform then [(6, BitVec.ofNat 32 k.toNat, OriginFrom.path c.ref c.path.selected, true)]
            else (laneList c.path.selected).map fun l => (6, BitVec.ofNat 32 k.toNat, OriginFrom.lane c.ref l, true)) ∧
    (s.IssuesIdle c (.trap st k) ∨ (s.Issues c (.trap st k) ∧ c.path.selected = 0) → ∃ t c', exec (.trap st k) s = .next t ∧ t.ctx? c.ref = some c' ∧ c.Past s (.trap st k) 0 c' ∧
      t.origins = s.origins ∧ c'.path.status = c.path.status)

/-- R252, R329: `hret` of lanes that hold tags, with an action of 0 or 1 in each: every origin that a lane stands for is released, with those
coalesced behind it, no other is, and the lanes leave presence (here of origins of words and of engine records, and others on a retry; in a group
without join records, whose earlier writes are performed).
R329, R338: a path whose last origin is released goes on, once its block is resident: past the word that took full effect; in a retry of the retried
lanes of its word; else past the word, its destinations kept. A path with an origin left keeps waiting. -/
def Obligations.HandlerReturn : Prop :=
  (∀ (s : State) (c : Ctx) (st : BitVec 2) (a : BitVec 8), s.Issues c (.hret st a) → c.group.NoJoins → s.pendingWrites c.ref s.nextId = false →
      c.path.selected ≠ 0 →
      (∀ l ∈ laneList c.path.selected, s.operand c (.hret st a) a.toNat 0 (.int 32) l ≤ 1 ∧ c.group.tags.any (fun g => g.lane == l) = true) →
      (∀ l ∈ laneList c.path.selected, ∀ e ∈ c.group.tags, e.lane = l → ∀ g ∈ s.origins, g.id = e.origin ∨ g.state = .behind e.origin →
        s.operand c (.hret st a) a.toNat 0 (.int 32) l = 0 ∨ (∃ r, g.source = .engine r) ∨ (∃ r k, g.source = .lane r k) ∨ ∃ r m, g.source = .path r m) →
      ∃ t, exec (.hret st a) s = .next t ∧
        (∀ g ∈ t.origins, g ∈ s.origins) ∧
        (∀ l ∈ laneList c.path.selected, ∀ e, c.group.tags.find? (fun g => g.lane == l) = some e →
          ∀ g ∈ t.origins, g.id ≠ e.origin ∧ g.state ≠ .behind e.origin) ∧
        (∀ g ∈ s.origins, (∀ e ∈ c.group.tags, ∀ h ∈ s.origins, (h.id = e.origin ∨ h.state = .behind e.origin) → g.id ≠ h.id) → g ∈ t.origins) ∧
        ((c.path.present &&& ~~~c.path.selected = 0) → c.launch.replay = none →
          ∃ z p, t.group? c.ref.launch c.ref.block c.ref.group = some z ∧ z.paths[c.ref.path]? = some p ∧ p.valid = false)) ∧
  ∀ (s : State) (c : Ctx), s.ctx? c.ref = some c → c.path.status = .waiting .handler →
      (s.origins.any (fun g => g.ofPath c.ref) = true ∨ c.block.cluster = none → exec (.originResume c.ref) s = .next s) ∧
      (s.origins.any (fun g => g.ofPath c.ref) = false → c.block.cluster.isSome = true →
        ∃ t c', exec (.originResume c.ref) s = .next t ∧ t.ctx? c.ref = some c' ∧ t = { s with launches := t.launches } ∧
          c'.path.status = .ready ∧ (∀ r lane, lane < 96 → c'.reg r lane = c.reg r lane) ∧
          (c.path.tookEffect = true → c'.path = { c.path with status := .ready, tookEffect := false }) ∧
          (c.path.tookEffect = false → c.path.retried = true → c'.path.pc = c.path.pc ∧ c'.path.idx = c.path.idx ∧
            (c.path.idx ≠ 0 → c'.path.reexec = some c.path.retry) ∧ (c.path.idx = 0 → c'.path.fetched = [])) ∧
          (c.path.tookEffect = false → c.path.retried = false → c.path.idx ≠ 0 →
            (c'.path.pc, c'.path.idx) = c.path.placeAfter c.path.rawSpan) ∧
          (c.path.tookEffect = false → c.path.retried = false → c.path.idx = 0 →
            c'.path.pc = (c.path.pc + 4 * (c.path.count + 1)) % 2 ^ 64 ∧ c'.path.idx = 0))

/-! ### Encodings -/

/-- R120, R121, R129, R138 and the encoding tables: the bytes of any instruction word, with its trailing word, decode to it, whatever follows them: no
operand bit is dropped. -/
def Obligations.EncodingRoundTrip : Prop :=
  ∀ (i : Instr) (rest : List Byte), encode i ≠ [] → decode (encodeBytes i ++ rest) = .ok (i, rest)

/-- R134, R136: bytes that decode to an instruction are its encoding, so a word with a must-be-zero bit set, an unassigned opcode or a reserved SUB
decodes to none.
R136, R341: the unassigned opcodes decode to no instruction and trap with DETAIL 1; the reserved SUB values of the opcodes that have SUB trap with
DETAIL 2. -/
def Obligations.DecodingIsUnique : Prop :=
  (∀ (bs rest : List Byte) (i : Instr), decode bs = .ok (i, rest) → bs = encodeBytes i ++ rest) ∧
  (∀ (op : BitVec 7) (st : BitVec 2) (low : BitVec 23) (x : Word),
      op.toNat ∈ [0x1F, 0x49, 0x4A, 0x4B, 0x4C, 0x4D, 0x4E, 0x4F, 0x5F, 0x66, 0x67, 0x68, 0x69, 0x6A, 0x6B, 0x6C, 0x6D, 0x6E, 0x6F, 0x76, 0x77] →
      decodeWord (st ++ op ++ low) x = .error .unassigned ∧ Reject.unassigned.detail none = 1) ∧
    (∀ (op : BitVec 7) (st : BitVec 2) (sub : BitVec 4) (low : BitVec 19) (x : Word),
      ((op.toNat = 0x1D ∧ 4 ≤ sub.toNat) ∨ (op.toNat = 0x1E ∧ 2 ≤ sub.toNat) ∨ (op.toNat = 0x79 ∧ 7 ≤ sub.toNat) ∨
        (op.toNat = 0x7C ∧ 3 ≤ sub.toNat) ∨ (op.toNat = 0x7D ∧ 3 ≤ sub.toNat) ∨ (op.toNat = 0x7E ∧ 7 ≤ sub.toNat)) →
      decodeWord (st ++ op ++ sub ++ low) x = .error .reservedSub ∧ Reject.reservedSub.detail none = 2) ∧
    (∀ (op : BitVec 7) (st : BitVec 2) (da : BitVec 16) (b : BitVec 7) (x : Word),
      ((op.toNat = 0x10 ∧ 9 ≤ b.toNat) ∨ (op.toNat = 0x30 ∧ 6 ≤ b.toNat) ∨ (op.toNat = 0x3D ∧ b.toNat ≠ 2 ∧ b.toNat ≠ 3)) →
      decodeWord (st ++ op ++ da ++ b) x = .error .reservedSub)

/-- Worked encodings of the manual (R139, R142, R147, R151, R154 to R157, R160) and words written out from its tables, read as the instructions they
stand for: a check of the decoder on fixed words. -/
def Obligations.DecodedWords : Prop :=
  decodeTableWord 32 0x00343548 = some (.add 0 0x68 0x6A 0x48) ∧
  decodeTableWord 32 0x0834AC08 = some (.mpop 0 0x69 0x58) ∧
  decodeTableWord 32 0x0CD00007 = some (.call 0 5 7) ∧
  decodeTableWord 64 0x000000090D302C00 = some (.fork 0 0x60 0x58 9) ∧
  decodeTableWord 32 0x0D803000 = some (.join 0 0x60) ∧
  decodeTableWord 32 0x0E30A080 = some (.trip 0 0x61 0x41) ∧
  decodeTableWord 32 0x0E987300 = some (.sleep 0 0xE6) ∧
  decodeTableWord 32 0x0F034000 = some (.rdmode 0 0x68) ∧
  decodeTableWord 32 0x0F083400 = some (.wrmode 0 0x68) ∧
  decodeTableWord 32 0x3F800040 = some (.pfx 0 0 0 0 4 0) ∧
  decodeTableWord 32 0x0F800000 = none ∧
  decodeTableWord 32 0x0EA00000 = none ∧
  decodeTableWord 32 0x0E800001 = none

/-! ### A step -/

/-- R112, R113, R129: in a clause that has begun, the words at the path's place, cut from the clause as it was fetched, decode to an instruction: then a step
is that instruction's meaning, in the state in which the path has its turn, with the prefix that precedes it (none: an empty one). The path
takes its turn `dt` cycles on by the agenda, or in the next cycle where the agenda is empty, and not before its stall counts allow (R122): the agenda is
the model's choice (log entry 1). What the test for a stop reads of the owner's debug window is charged (R392; how much, log entry 47). -/
def Obligations.StepRunsDecoded : Prop :=
  ∀ (s s1 : State) (r : PathRef) (dt : Nat),
    ((s.agenda = [] ∧ r = s.cur ∧ dt = 1 ∧ s1 = s) ∨ (∃ rest, s.agenda = .issue dt r :: rest ∧ s1 = { s with agenda := rest })) →
    let u : State := { (s1.advance (s1.waitFor r dt)).openCycle with cur := r }
    ∀ c, u.ctx? r = some c → u.offered c = true → c.path.idx ≠ 0 → u.stopCause c = none → c.launch.replay = none →
      (∀ i rest, decode (wordBytes (c.path.fetched.drop c.path.idx)) = .ok (i, rest) → (∀ m rd z f e b, i ≠ .pfx m rd z f e b) →
        step s = exec i ((u.chargeTest c).updPath r fun p => { p with pfx := none })) ∧
      (∀ m rd z f e b i mid rest, decode (wordBytes (c.path.fetched.drop c.path.idx)) = .ok (.pfx m rd z f e b, mid) →
        decode mid = .ok (i, rest) → (∀ m rd z f e b, i ≠ .pfx m rd z f e b) →
        step s = exec i ((u.chargeTest c).updPath r fun p => { p with pfx := some ⟨m.toNat, rd.toNat, z == 1, f, e.toNat, b == 1⟩ }))

/-- R113, R114, R115: a path before its clause, offered issue, begins it: with its code mapped and readable, no clause check against it and the counters of
its WAIT at zero, a step runs the instruction that the bytes after the clause header decode to; where they begin with a prefix, the instruction after it,
with the prefix's fields (R129).
R114, R339, R340: a clause with a cause of the illegal-clause trap raises KIND 4 with the lowest DETAIL of its causes, in every one of its paths' words: no
word of it runs. R115, R63: a clause whose WAIT names a counter that is not zero makes the path wait. R358: while a tier cap holds the fetch the path
tries again in the next cycle.
R113, R73, R341: what a fetch gives: with the header and every word mapped, in service and unmarked at a word-aligned address, the clause is COUNT words
after its header, as the die of the path's core reads them; a header at an odd address is an address trap with DETAIL 1, a page without an entry a
miss. -/
def Obligations.StepBeginsClause : Prop :=
  (∀ (s : State) (c : Ctx) (ws : List Word) (h : Word) (i : Instr) (rest : List Byte),
      s.agenda = [] →
      let u : State := { (s.advance (s.waitFor s.cur 1)).openCycle with cur := s.cur }
      u.ctx? s.cur = some c → u.offered c = true → c.path.idx = 0 → c.path.fetched = [] → u.stopCause c = none → u.pumpHeld c.launch = false →
      u.fetchClause c = .ok (h :: ws) → clauseDetail h.toNat ws = none → c.group.waitClear h.toNat = true → c.launch.replay = none →
      (∀ c1, (u.beginClause c).ctx? s.cur = some c1 → (u.beginClause c).stopCause c1 = none) →
      (decode (wordBytes ws) = .ok (i, rest) → (∀ m rd z f e b, i ≠ .pfx m rd z f e b) →
        step s = exec i (((u.beginClause c).chargeTest c).updPath s.cur fun p => { p with pfx := none })) ∧
      ∀ m rd z f e b mid, decode (wordBytes ws) = .ok (.pfx m rd z f e b, mid) → decode mid = .ok (i, rest) → (∀ m rd z f e b, i ≠ .pfx m rd z f e b) →
        step s = exec i (((u.beginClause c).chargeTest c).updPath s.cur fun p => { p with pfx := some ⟨m.toNat, rd.toNat, z == 1, f, e.toNat, b == 1⟩ })) ∧
  (∀ (s : State) (c : Ctx), s.agenda = [] →
      let u : State := { (s.advance (s.waitFor s.cur 1)).openCycle with cur := s.cur }
      u.ctx? s.cur = some c → u.offered c = true → c.path.idx = 0 → c.path.fetched = [] → u.stopCause c = none →
      (u.pumpHeld c.launch = true → step s = .next (u.heldByCap c.ref)) ∧
      (u.pumpHeld c.launch = false → ∀ h ws, u.fetchClause c = .ok (h :: ws) →
        let v := (u.chargeCode c.launch.owner c.path.pc (4 * (ws.length + 1))).updPath c.ref fun p => { p with fetched := h :: ws }
        (∀ d, clauseDetail h.toNat ws = some d →
          step s = .next (v.faultPath { c with path := { c.path with fetched := h :: ws } } ⟨4, d, 0, 3⟩ false)) ∧
        (clauseDetail h.toNat ws = none → c.group.waitClear h.toNat = false → step s = .next (v.setStatus c.ref (.waiting .clause))))) ∧
  (∀ (h : Word) (ws : List Word),
      ((h.toNat % 16 = 0) → clauseDetail h.toNat ws = some 1) ∧
      (h.toNat % 16 ≠ 0 → 6 ≤ h.toNat / 16 % 8 → clauseDetail h.toNat ws = some 2) ∧
      (h.toNat % 16 ≠ 0 → h.toNat / 16 % 8 < 6 → 2 ^ 20 ≤ h.toNat → clauseDetail h.toNat ws = some 3) ∧
      (h.toNat % 16 ≠ 0 → h.toNat / 16 % 8 < 6 → h.toNat < 2 ^ 20 → h.toNat / 2 ^ 16 % 4 = 1 → clauseDetail h.toNat ws = some 4) ∧
      (h.toNat % 16 ≠ 0 → h.toNat / 16 % 8 < 6 → h.toNat < 2 ^ 20 → h.toNat / 2 ^ 16 % 4 ≠ 1 →
        (∀ st d a b sb ty sc sp op, h.toNat / 16 % 8 ≠ 1 → clauseDetail h.toNat (encode (.ld st d a b sb ty sc sp op)) = some 5) ∧
        (∀ st d n st' d' n', h.toNat / 16 % 8 = 5 → clauseDetail h.toNat (encode (.ctr st d n) ++ encode (.ctr st' d' n')) = some 6) ∧
        (∀ st o st', clauseDetail h.toNat (encode (.bra st o) ++ encode (.nop st')) = some 7) ∧
        (∀ m rd z f e b, clauseDetail h.toNat (encode (.pfx m rd z f e b)) = some 8) ∧
        ∀ st d a b, h.toNat / 16 % 8 ≠ 4 → h.toNat / 2 ^ 17 % 2 = 1 → clauseDetail h.toNat (encode (.addVectorInt st d a b)) = some 9)) ∧
  ∀ (s : State) (c : Ctx),
      let o := s.owner c.launch.owner
      let die := dieOf c.group.core
      (c.path.pc % 4 ≠ 0 → s.fetchClause c = .error ⟨8, 1, c.path.pc, 0⟩) ∧
      (c.path.pc % 4 = 0 → o.entry? c.path.pc = none → s.fetchClause c = .error ⟨1, 0, c.path.pc, 0⟩) ∧
      (∀ pa h, c.path.pc % 4 = 0 →
        BitVec.ofNat 32 (leNat (s.readPhys die pa 4)) = h →
        (∀ k < 4 * (1 + h.toNat % 16), o.translate (c.path.pc + k) false = .ok (pa + k) ∧ s.portUp (pa + k) = true ∧ s.poisoned (pa + k) 1 = false) →
        s.fetchClause c = .ok (bytesWords (1 + h.toNat % 16) (s.readPhys die pa (4 * (1 + h.toNat % 16)))))

/-- Every step answers a next state: every instruction of the table has a meaning, and the next move offers a word only from a path that runs (R28). An
event of the agenda happens after its cycles: a step is its meaning in the state at that time. This is the model's agenda, a choice of the model (log entries 1 and 2).
R287, R286: within one owner a path is not offered issue while a handler group on its core could issue and its own group is none, nor, in groups of one
rank, while one whose last issue is older could; nor while its word has beats and four paths of its core hold the pipes. Between two owners the one that
has issued less of its allotment in the period comes first: the reading of 'in proportion' is the model's choice (log entry 122), and so is what takes a pipe (log entry 4). -/
def Obligations.StepAnswers : Prop :=
  (∀ s : State, ∃ t, step s = .next t) ∧
  (∀ (s : State) (dt : Nat) (e : Instr) (rest : List Move), s.agenda = .event dt e :: rest → encode e = [] →
      (∀ d, e ≠ .illegalInstruction d) → step s = exec e (State.openFor (State.advance { s with agenda := rest } dt) e)) ∧
  (∀ (s : State) (c d : Ctx), s.ctx? d.ref = some d → d.path.valid = true → d.ref.path < 4 → d.group.core = c.group.core →
    (d.launch, d.block, d.group) ∈ s.groupsOn c.group.core → s.couldIssue d = true →
    ((d.launch.owner = c.launch.owner ∧ d.launch.handler.isSome = true ∧ c.launch.handler = none ∧ d.ref.launch ≠ c.ref.launch) ∨
      (d.launch.owner ≠ c.launch.owner ∧ d.ref.launch ≠ c.ref.launch ∧
        (s.owner d.launch.owner).periodIssued * (s.owner c.launch.owner).record.issuew <
          (s.owner c.launch.owner).periodIssued * (s.owner d.launch.owner).record.issuew) ∨
      (d.launch.owner = c.launch.owner ∧ d.launch.handler.isSome = c.launch.handler.isSome ∧ ¬(d.ref.launch = c.ref.launch ∧ d.ref.block = c.ref.block ∧ d.ref.group = c.ref.group) ∧
        d.group.cWords ≠ 0 ∧ c.group.cWords ≠ 0 ∧ d.group.lastIssue < c.group.lastIssue)) → s.offered c = false) ∧
  ∀ (s : State) (c : Ctx), (s.nextIssueOf c).beats ≠ 0 →
    4 ≤ s.pipesHeld c.group.core → s.offered c = false

/-! ### Reset, and what every step keeps -/

/-- R20, R405: after a cold start every owner is absent, every queue slot is free, both tiers read as zeros at every view, the cycle count is 0, and nothing is
under way: no launch, operation, write in transit, mark, reservation or tile. Memory has the
canonical form that every step keeps. -/
def Obligations.ResetState : Prop :=
  State.reset.cycle = 0 ∧ (∀ o, (State.reset.owner o).valid = false) ∧ State.reset.owners.length = 64 ∧ State.reset.queues = [] ∧
  (∀ view pa n, State.reset.readPhys view pa n = List.replicate n 0) ∧ State.reset.launches = [] ∧ State.reset.ops = [] ∧
  State.reset.transit = [] ∧ State.reset.poison = [] ∧ State.reset.reservations = [] ∧ State.reset.tiles = [] ∧ State.reset.mmas = [] ∧
  State.reset.records = [] ∧ State.reset.origins = [] ∧ State.reset.Sound

/-- From every state with 64 owner places and five views of device memory (four dies and the base die, R258), each in canonical form (addresses strictly
rising, no entry that holds the zero of an unlisted address, R20), every step leaves such a state: equal memories stay equal data. -/
def Obligations.StepKeepsSound : Prop := ∀ s t : State, s.Sound → step s = .next t → t.Sound


/-! ### Vector words -/

/-- R161, R165, R166, R168, R130, R48: the vector integer words, each the scalar word of its name in every active lane at the lane type's width, and `sel`,
which takes `a` where the fourth operand is not zero and `b` where it is; integer words set no flag.
That the lanes of other paths keep their registers under MZ is the model's choice (log entry 115). -/
def Obligations.VectorArithmetic : Prop :=
  (∀ (s : State) (c : Ctx) (st : BitVec 2) (d a : BitVec 8) (b : BitVec 7) (op : Nat) (mk : BitVec 2 → BitVec 8 → BitVec 8 → BitVec 7 → Instr),
    (op, mk) ∈ [(0, Instr.addVectorInt), (1, Instr.subVectorInt), (2, Instr.mulVectorInt), (3, Instr.mulhVectorInt), (4, Instr.divVectorInt),
      (5, Instr.remVectorInt), (6, Instr.andVector), (7, Instr.orVector), (8, Instr.xorVector), (9, Instr.shlVector), (10, Instr.shrVector),
      (11, Instr.sarVector), (12, Instr.minVectorInt), (13, Instr.maxVectorInt)] →
    let i := mk st d a b
    s.Issues c i → c.path.selected ≠ 0 →
    let ty := typeOf 3 c.path.pfx
    let w := Spec.width ty
    let res (lane : Nat) : Nat := (Spec.int3 op w (Spec.signed ty) c.sat (BitVec.ofNat w (s.operand c i a.toNat 0 (.int w) lane))
      (BitVec.ofNat w (s.operand c i (wide7 b) 2 (.int w) lane))).toNat
    ∃ t c', s.VectorWord c i d.toNat (Spec.regs ty) 0 c.mz res t c' ∧ (d ≠ 0xCB → c.SameFlags c') ∧
      (d = 0xCB → c.FlagsAfter c' d.toNat res fun _ => 0)) ∧
  (∀ (s : State) (c : Ctx) (st : BitVec 2) (d a : BitVec 8) (op : Nat) (mk : BitVec 2 → BitVec 8 → BitVec 8 → Instr),
    (op, mk) ∈ [(0, Instr.movVector), (1, Instr.notVector), (2, Instr.absVectorInt), (3, Instr.negVectorInt), (4, Instr.clzVector),
      (5, Instr.popcVector)] →
    let i := mk st d a
    s.Issues c i → c.path.selected ≠ 0 →
    let ty := typeOf 3 c.path.pfx
    let w := Spec.width ty
    let res (lane : Nat) : Nat :=
      (Spec.int2 op w (Spec.signed ty) c.sat (BitVec.ofNat w (s.operand c i a.toNat 0 (.int w) lane))).toNat
    ∃ t c', s.VectorWord c i d.toNat (Spec.regs ty) 0 c.mz res t c' ∧ (d ≠ 0xCB → c.SameFlags c') ∧
      (d = 0xCB → c.FlagsAfter c' d.toNat res fun _ => 0)) ∧
  ∀ (s : State) (c : Ctx) (st : BitVec 2) (d a : BitVec 8) (b : BitVec 7),
    let i : Instr := .selVector st d a b
    s.Issues c i → c.path.selected ≠ 0 →
    let ty := typeOf 3 c.path.pfx
    let k := NumKind.int (Spec.width ty)
    let res (lane : Nat) : Nat :=
      if s.operand c i (c.fourth d) 4 k lane ≠ 0 then s.operand c i a.toNat 0 k lane else s.operand c i (wide7 b) 2 k lane
    ∃ t c', s.VectorWord c i d.toNat (Spec.regs ty) 0 c.mz res t c' ∧ (d ≠ 0xCB → c.SameFlags c') ∧
      (d = 0xCB → c.FlagsAfter c' d.toNat res fun _ => 0)

/-- R167, R173, R333: a vector compare writes the triple of the active lanes in which its condition holds, whatever MZ holds, and no vector register. The
integer compare sets no flag; the floating one ORs its flags into its active lanes, and (no trap being enabled for them) goes on. -/
def Obligations.VectorCompares : Prop :=
  ∀ (s : State) (c : Ctx) (i : Instr) (d : BitVec 5) (holds : Nat → Bool) (fl : Nat → Flags) (hold : Nat),
    (∃ st k a b, (i = .cmpVectorInt st k d a b ∧ hold = 0 ∧ ∀ lane, fl lane = 0 ∧
        let ty := typeOf 3 c.path.pfx
        let w := Spec.width ty
        (holds lane = true ↔ Spec.holds k.toNat (Spec.signed ty) (BitVec.ofNat w (s.operand c i a.toNat 0 (.int w) lane))
          (BitVec.ofNat w (s.operand c i (wide7 b) 2 (.int w) lane)))) ∨
      (i = .cmpFloat st k d a b ∧ hold = (if c.path.selected = 0 then 0 else s.flagHold c i) ∧ ∀ lane, (holds lane, fl lane) =
        c.fmt.cmp (c.fpMode s.cycle) k.toNat (s.operand c i a.toNat 0 (.flt c.fmt) lane) (s.operand c i (wide7 b) 2 (.flt c.fmt) lane))) →
    (s.Issues c i ∨ s.IssuesIdle c i) → (∀ e ∈ c.group.reaches, e.at_ ≤ s.cycle) →
    (∀ lane < 96, c.path.selected.getLsbD lane = true → fl lane &&& modeTrapen (c.group.modeInForce s.cycle) = 0) →
    ∃ t c', exec i s = .next t ∧ t.ctx? c.ref = some c' ∧ (c'.path.pc, c'.path.idx) = c.path.placeAfter (c.path.spanOf i) ∧
      c'.path.pfx = none ∧ c'.path.nextIssue = max ((issueOf c i 0).ends s.cycle + 1 + stallOf i) hold ∧ s.SameElsewhere t c c' ∧
      c.SameGroup c' [.scal d.toNat, .scal (d.toNat + 1), .scal (d.toNat + 2)] ∧ c'.group.standing = c.group.standing ∧
      c.path.SameLast c'.path ∧ c.FlagsAfter c' 0 (fun _ => 0) fl ∧
      ∀ j < 3, ∃ v : Word, (∀ k < 32, v.getLsbD k = (c.path.selected.getLsbD (32 * j + k) && holds (32 * j + k))) ∧
        c.ScalarReadsAt c' (d.toNat + j) v ((issueOf c i 0).ends s.cycle + 1)

/-- R22, R161, R216: a word that acts in lanes and has no active lane reads no operand, takes no trap of its operands and has no effect: its path goes on in the
next cycle after its stall count. An access word may still wait for its counter (R63). Other statements cover the compares, which write their triple all
the same, the well words, and `hret`. -/
def Obligations.IdleWords : Prop :=
  ∀ (s : State) (c : Ctx) (i : Instr), s.IssuesIdle c i → (∀ k, c.group.sbCount k < 63) →
    (∀ st k d a b n sb t, i ≠ .cmpVectorInt st k d a b ∧ i ≠ .cmpFloat st k d a b ∧ i ≠ .wellAdd st a n sb ∧ i ≠ .wellTake st a n sb t ∧ i ≠ .hret st a) →
    ∃ t c', s.RegisterWord c i [] t c' ∧ c.SameFlags c' ∧ c.path.SameLast c'.path

/-- R169, R170, R171, R172, R174, R77, R81, R83, R333: the floating words deliver in every active lane what the arithmetic of their format gives under the mode in
force, set its flags there and leave the other lanes' flags; here where no flag is trapped. With a trap enabled the next word waits for the flags.
`abs` and `neg` clear or invert the sign bit and copy the rest, `class` writes the class bit of `a` ANDed with `b`; these set no flag.
What that arithmetic gives (R77, R78): for finite operands and a result that is not zero, without FTZ and SAT, `add`, `sub`, `mul`, `fma`, `div`, `sqrt`, `rcp`
and `rsq` deliver the exact sum, difference, product, a × b + c, quotient, root and their inverses, rounded once to the format.
The model's choices: lanes of other paths keep their registers under MZ (log entry 115), and a destination `xf` is written before the word's own flags are
ORed into it (log entry 25). -/
def Obligations.FloatWords : Prop :=
  (∀ (s : State) (c : Ctx) (i : Instr) (d : BitVec 8) (n : Nat) (r : Nat → FRes), s.FloatOp c i d n r → s.Issues c i → c.path.selected ≠ 0 →
    (∀ lane < 96, c.path.selected.getLsbD lane = true → (r lane).fl &&& modeTrapen (c.group.modeInForce s.cycle) = 0) →
    ∃ t c', s.VectorWord c i d.toNat n (s.flagHold c i) c.mz (fun lane => (r lane).v) t c' ∧
      c.FlagsAfter c' d.toNat (fun lane => (r lane).v) fun lane => (r lane).fl) ∧
  (∀ (s : State) (c : Ctx) (i : Instr) (d a : BitVec 8) (b : BitVec 7) (n : Nat) (op : Nat → Nat → Nat),
    (∃ st, (i = .absFloat st d a ∧ n = c.fmt.regs ∧ ∀ x < 2 ^ c.fmt.width, ∀ y, op x y = x % 2 ^ (c.fmt.width - 1)) ∨
      (i = .negFloat st d a ∧ n = c.fmt.regs ∧ ∀ x < 2 ^ c.fmt.width, ∀ y, op x y = x ^^^ 2 ^ (c.fmt.width - 1)) ∨
      (i = .classify st d a b ∧ n = 1 ∧ ∀ x < 2 ^ c.fmt.width, ∀ y, op x y = 2 ^ c.fmt.classOf x &&& y)) →
    s.Issues c i → c.path.selected ≠ 0 →
    let res (lane : Nat) : Nat := op (s.operand c i a.toNat 0 (.flt c.fmt) lane) (s.operand c i (wide7 b) 2 (.int 32) lane)
    ∃ t c', s.VectorWord c i d.toNat n 0 c.mz res t c' ∧ (d ≠ 0xCB → c.SameFlags c') ∧ (d = 0xCB → c.FlagsAfter c' d.toNat res fun _ => 0)) ∧
  ∀ (f : Fmt) (md : FpMode) (x y z : Nat) (u v w : ℚ), md.ftz = false → md.sat = false →
    Spec.value f x = some u → Spec.value f y = some v → Spec.value f z = some w →
    (u + v ≠ 0 → Spec.RoundedOnce f md.rnd ((u + v : ℚ) : ℝ) (f.add md x y)) ∧
    (u - v ≠ 0 → Spec.RoundedOnce f md.rnd ((u - v : ℚ) : ℝ) (f.sub md x y)) ∧
    (u * v ≠ 0 → Spec.RoundedOnce f md.rnd ((u * v : ℚ) : ℝ) (f.mul md x y)) ∧
    (u * v + w ≠ 0 → Spec.RoundedOnce f md.rnd ((u * v + w : ℚ) : ℝ) (f.fma md x y z)) ∧
    (u ≠ 0 → v ≠ 0 → Spec.RoundedOnce f md.rnd ((u / v : ℚ) : ℝ) (f.div md x y)) ∧
    (u ≠ 0 → Spec.RoundedOnce f md.rnd ((1 / u : ℚ) : ℝ) (f.rcp md x)) ∧
    (0 < u → Spec.RoundedOnce f md.rnd (Real.sqrt u) (f.sqrt md x) ∧ Spec.RoundedOnce f md.rnd (1 / Real.sqrt u) (f.rsq md x))

/-- R333, R322, R321: where a floating word, a conversion, an L32 word or a floating `red` or `scan.add` sets a flag that TRAPEN enables, the word has completed:
its destination and the lane flags are written as without the trap, and the path stands past it. Then each lane with such a flag, in ascending order, is an
exception of KIND 5 whose DETAIL holds those flags; where a handler receives it, its origins say that the word has completed, and the path waits. The
floating compare writes its triple before the trap too. The lanes under MZ, the order of `xf` and the flags of partial sums are the model's choices (log
entries 115, 25 and 116). -/
def Obligations.FloatTraps : Prop :=
  (∀ (s : State) (c : Ctx) (i : Instr) (d : BitVec 8) (n : Nat) (r : Nat → FRes),
    s.FloatOp c i d n r ∨ s.ConvertOp c i d n r ∨ s.FoldOp c i d n r → s.Issues c i → c.path.selected ≠ 0 →
    let trapen := modeTrapen (c.group.modeInForce s.cycle)
    let fs := ((laneList c.path.selected).filter fun l => (r l).fl &&& trapen != 0).map fun l => (l, (⟨5, ((r l).fl &&& trapen).toNat, 0, 3⟩ : FaultCase))
    ∃ u c', s.VectorEffect c i d.toNat n (s.flagHold c i) c.mz (fun l => (r l).v) u c' ∧
      c.FlagsAfter c' d.toNat (fun l => (r l).v) (fun l => (r l).fl) ∧ exec i s = .next (u.faultLanes c fs true) ∧
      (fs ≠ [] → c.launch.handler = none → c.launch.replay = none → (∀ h, s.handlerOf c.launch.owner 5 = .ok h → h ≠ 0) →
        (∀ e, s.handlerOf c.launch.owner 5 ≠ .error e) → 8 ≤ (s.owner c.launch.owner).record.rsvlines → (∀ g ∈ s.origins, g.at_ ≠ s.cycle) →
        ∃ q os, (u.faultLanes c fs true).path? c.ref = some q ∧ q.status = .waiting .handler ∧ (q.pc, q.idx) = (c'.path.pc, c'.path.idx) ∧
          (u.faultLanes c fs true).origins = s.origins ++ os ∧
          os.map (fun g => (g.kind, g.detail, g.source, g.completed)) =
            fs.map fun e => (5, BitVec.ofNat 32 e.2.detail, OriginFrom.lane c.ref e.1, true))) ∧
  ∀ (s : State) (c : Ctx) (st : BitVec 2) (k : BitVec 3) (d : BitVec 5) (a : BitVec 8) (b : BitVec 7),
    let i : Instr := .cmpFloat st k d a b
    s.Issues c i → c.path.selected ≠ 0 →
    let trapen := modeTrapen (c.group.modeInForce s.cycle)
    let x (l : Nat) : Bool × Flags :=
      c.fmt.cmp (c.fpMode s.cycle) k.toNat (s.operand c i a.toNat 0 (.flt c.fmt) l) (s.operand c i (wide7 b) 2 (.flt c.fmt) l)
    let fs := ((laneList c.path.selected).filter fun l => (x l).2 &&& trapen != 0).map fun l => (l, (⟨5, ((x l).2 &&& trapen).toNat, 0, 3⟩ : FaultCase))
    ∃ (u : State) (c' : Ctx), exec i s = .next (u.faultLanes c fs true) ∧ u.ctx? c.ref = some c' ∧ (c'.path.pc, c'.path.idx) = c.path.placeAfter (c.path.spanOf i) ∧
      c.FlagsAfter c' 0 (fun _ => 0) (fun l => (x l).2) ∧
      ∀ j < 3, ∃ v : Word, (∀ k < 32, v.getLsbD k = (c.path.selected.getLsbD (32 * j + k) && (x (32 * j + k)).1)) ∧
        c.ScalarReadsAt c' (d.toNat + j) v ((issueOf c i 0).ends s.cycle + 1)

/-- R182 to R187, R100: the words that combine lanes. `shfl` and `bcast` give a lane the register of the lane they name; `match` the size, rank and leader of
the lane's set, and zero to inactive lanes of issued beats; an integer `red` the wrapped or clamped sum, the minimum or the maximum of the active
lanes, an integer `scan.add` that sum up to the lane; floating ones go through the fixed tree of 128 leaves and the left fold,
on which SAT has no effect. The model's choices: lanes of other paths under MZ (log entry 115), the order of `xf` and the word's flags (log entry 25), and
DN of a subnormal partial sum (log entry 116). -/
def Obligations.LaneCombining : Prop :=
  ∀ (s : State) (c : Ctx) (i : Instr) (d a : BitVec 8) (n hold : Nat) (zero : Bool) (res : Nat → Nat) (fl : Nat → Flags),
    let lanes := laneList c.path.selected
    let ty := c.floatCode
    let w := Spec.width ty
    let x (lane : Nat) : Nat := s.operand c i a.toNat 0 (numKind ty) lane
    let num (lane : Nat) : Int := Spec.num (Spec.signed ty) (BitVec.ofNat w (x lane))
    let key (lane : Nat) : MatchKey := matchKey c.bitsCode (s.operand c i a.toNat 0 (numKind c.bitsCode) lane)
    let set (lane : Nat) : List Nat := lanes.filter fun j => j == lane || (key lane != .nan && key j == key lane)
    (∀ r, c.launch.replay = some r → r.replaying = false) →
    (∃ st,
      (∃ b, i = .shfl st d a b ∧ n = Spec.regs c.bitsCode ∧ hold = 0 ∧ zero = c.mz ∧ ∀ l, fl l = 0 ∧
        res l = s.fromLane c i a.toNat (s.operand c i (wide7 b) 2 (.int 32) l % 96) l) ∨
      (∃ b, i = .bcast st d a b ∧ n = Spec.regs c.bitsCode ∧ hold = 0 ∧ zero = c.mz ∧ ∀ l, fl l = 0 ∧
        res l = s.fromLane c i a.toNat (s.pathOperand c (wide7 b) 2 % 96) l) ∨
      (i = .matchKeys st d a ∧ n = 1 ∧ hold = 0 ∧ zero = true ∧ ∀ l, fl l = 0 ∧
        res l = (set l).length * 2 ^ 16 + ((set l).filter fun j => decide (j < l)).length * 2 ^ 8 + (set l).headD l) ∨
      (fmtOfCode ty = none ∧ n = Spec.regs ty ∧ hold = 0 ∧ zero = c.mz ∧ (∀ l, fl l = 0) ∧
        ((i = .redAdd st d a ∧ ∀ l, res l = (Spec.close w (Spec.signed ty) c.sat (lanes.map num).sum).toNat) ∨
          (i = .scanAdd st d a ∧ ∀ l, res l = (Spec.close w (Spec.signed ty) c.sat ((lanes.filter fun j => decide (j ≤ l)).map num).sum).toNat) ∨
          (i = .redMin st d a ∧ ∀ l, ∃ k ∈ lanes, res l = x k ∧ ∀ j ∈ lanes, num k ≤ num j) ∨
          (i = .redMax st d a ∧ ∀ l, ∃ k ∈ lanes, res l = x k ∧ ∀ j ∈ lanes, num j ≤ num k))) ∨
      (∃ r, s.FoldOp c i d n r ∧ hold = s.flagHold c i ∧ zero = c.mz ∧ ∀ l ∈ lanes, res l = (r l).v ∧ fl l = (r l).fl)) →
    s.Issues c i → c.path.selected ≠ 0 →
    (∀ lane < 96, c.path.selected.getLsbD lane = true → fl lane &&& modeTrapen (c.group.modeInForce s.cycle) = 0) →
    ∃ t c', s.VectorWord c i d.toNat n hold zero res t c' ∧ c.FlagsAfter c' d.toNat res fl

/-- R175 to R181, R188, R189: the conversions, `cvtb` and the L32 words deliver in every active lane what the conversion of their formats gives under the mode in
force, and its flags there; here where no flag is trapped. `cvtb` traps with DETAIL 38 for SPAN 2 or 3 and with DETAIL 39 for a byte of 255.
The model's choices: lanes of other paths under MZ (log entry 115), the order of `xf` and the word's flags (log entry 25), and the sum of two L32 zeros of
different sign (log entry 124). -/
def Obligations.Conversions : Prop :=
  (∀ (s : State) (c : Ctx) (i : Instr) (d : BitVec 8) (n : Nat) (r : Nat → FRes),
    s.ConvertOp c i d n r →
    s.Issues c i → c.path.selected ≠ 0 →
    (∀ lane < 96, c.path.selected.getLsbD lane = true → (r lane).fl &&& modeTrapen (c.group.modeInForce s.cycle) = 0) →
    ∃ t c', s.VectorWord c i d.toNat n (s.flagHold c i) c.mz (fun l => (r l).v) t c' ∧
      c.FlagsAfter c' d.toNat (fun l => (r l).v) fun l => (r l).fl) ∧
  ∀ (s : State) (c : Ctx) (st : BitVec 2) (d a : BitVec 8) (b : BitVec 7), s.Issues c (.cvtb st d a b) → c.path.selected ≠ 0 →
    let p := s.pathOperand c (wide7 b) 2
    (2 ≤ p % 4 → exec (.cvtb st d a b) s = .next (s.illegal c 38)) ∧
    (p % 4 < 2 → p / 2 ^ 8 % 256 = 255 ∨ p / 2 ^ 16 % 256 = 255 → exec (.cvtb st d a b) s = .next (s.illegal c 39))

/-- R76, R77, R78: a finite nonzero value rounded once to a format, without saturation or flushing, is correctly rounded: no overflow leaves a finite encoding
whose value lies on the side of the exact one that the mode names with no finite value of the format between them, or, for the nearest modes, at
least as near as every finite value of the format, a tie going to the even encoding or away from zero; NX is set where the value differs from the exact one. Overflow sets OF and NX, delivers infinity
(E4M3: its NaN) or the largest finite value as the mode says, and the exact value lies beyond the largest finite one. -/
def Obligations.CorrectRounding : Prop :=
  ∀ (f : Fmt) (r : Rnd) (sg : Bool) (m : Nat) (e : Int), 0 < m →
    let exact : ℚ := (if sg then -1 else 1) * m * 2 ^ e
    let res := f.round ⟨r, false, false⟩ sg ⟨m, e, false⟩
    (res.fl.getLsbD 2 = false →
      ∃ v, Spec.value f res.v = some v ∧ (res.fl.getLsbD 4 = true ↔ v ≠ exact) ∧ (f.sign res.v = sg) ∧
        (r = .rtz → |v| ≤ |exact|) ∧ (r = .rup → exact ≤ v) ∧ (r = .rdn → v ≤ exact) ∧
        ∀ b u, Spec.value f b = some u →
          ((r = .rne ∨ r = .rna) → |v - exact| ≤ |u - exact|) ∧
          (u ≠ v → |v - exact| = |u - exact| → (r = .rne → res.v % 2 = 0) ∧ (r = .rna → |u| < |v|)) ∧
          (r = .rtz → ¬ (|v| < |u| ∧ |u| ≤ |exact| ∧ 0 ≤ u * exact)) ∧ (r = .rup → ¬ (exact ≤ u ∧ u < v)) ∧ (r = .rdn → ¬ (v < u ∧ u ≤ exact))) ∧
    (res.fl.getLsbD 2 = true → res.fl = flagOF ||| flagNX ∧
      (∀ v, Spec.value f (f.largest false) = some v → v < |exact|) ∧
      res.v = if r = .rne ∨ r = .rna ∨ (r = .rup ∧ sg = false) ∨ (r = .rdn ∧ sg = true) then f.infinity false sg else f.largest sg)

/-! ### Memory -/

/-- R345, R346, R320, R391, R377, R378: what an address meets before an access. In device memory: misalignment, an address of 2^56 or more, a page without an
entry, a write to a page without WR, a port out of service, a marked block, in this order (the model's choice of order after protection, log entry 46). In
scratchpad: misalignment, an address of 2^21 or more, a use beyond the allocation (OFFSET at or past SPAD: KIND 9, no fault of the word), for a read a
marked word (KIND 11, DETAIL 2). Otherwise its place. A scratchpad fault has the same KIND, DETAIL, address and ACCESS in its tag: its ACCESS is kept
as four more here, which tags drop. -/
def Obligations.AddressChecks : Prop :=
  ∀ (s : State) (c : Ctx) (k : OpKind) (addr n : Nat),
    let o := s.owner c.launch.owner
    (addr % n ≠ 0 → s.devicePlace c k addr n n = .fault ⟨8, 1, addr, k.access⟩ ∧ State.spadPlace c k addr n n = .fault ⟨8, 1, addr, k.access + 4⟩) ∧
    (addr % n = 0 → 2 ^ 56 ≤ addr → s.devicePlace c k addr n n = .fault ⟨8, 2, addr, k.access⟩) ∧
    (addr % n = 0 → addr < 2 ^ 56 → o.entry? addr = none → s.devicePlace c k addr n n = .fault ⟨1, 0, addr, k.access⟩) ∧
    (addr % n = 0 → addr < 2 ^ 56 → ∀ e, o.entry? addr = some e →
      (k.writes = true → e.wr = false → s.devicePlace c k addr n n = .fault ⟨2, 0, addr, k.access⟩) ∧
      ((k.writes = false ∨ e.wr = true) → s.portUp (e.pa + (addr - e.va)) = false → s.devicePlace c k addr n n = .fault ⟨11, 6, addr, k.access⟩) ∧
      ((k.writes = false ∨ e.wr = true) → s.portUp (e.pa + (addr - e.va)) = true → k.reads = true → s.poisoned (e.pa + (addr - e.va)) n = true →
        s.devicePlace c k addr n n = .fault ⟨11, 1, addr, k.access⟩) ∧
      ((k.writes = false ∨ e.wr = true) → s.portUp (e.pa + (addr - e.va)) = true → (k.reads = false ∨ s.poisoned (e.pa + (addr - e.va)) n = false) →
        s.devicePlace c k addr n n = .at_ (e.pa + (addr - e.va)))) ∧
    (addr % n = 0 → 2 ^ 21 ≤ addr → State.spadPlace c k addr n n = .fault ⟨8, 3, addr, k.access + 4⟩) ∧
    (addr % n = 0 → addr < 2 ^ 21 → 1024 * c.launch.header.spadKiB < addr % 2 ^ 19 + n → State.spadPlace c k addr n n = .beyond addr) ∧
    (addr % n = 0 → addr < 2 ^ 21 → addr % 2 ^ 19 + n ≤ 1024 * c.launch.header.spadKiB →
      (k.reads = true → (∃ a ∈ c.block.spadPoison, a < addr + n ∧ addr < a + 4) → State.spadPlace c k addr n n = .fault ⟨11, 2, addr, k.access + 4⟩) ∧
      (k.reads = false ∨ (∀ a ∈ c.block.spadPoison, addr + n ≤ a ∨ a + 4 ≤ addr) → State.spadPlace c k addr n n = .at_ addr)) ∧
    ∀ lane kind d, (s.tagOf c lane ⟨kind, d, addr, k.access + 4⟩) = s.tagOf c lane ⟨kind, d, addr, k.access⟩

/-- R63, R192, R194 to R199, R322: an access word whose counter stands at 63 waits. Otherwise, with every lane's address at its place, the word issues, its
counter rises and one operation is in flight with the lanes' addresses and the data they store; registers and memory stand until it completes.
A word that sets the lane flags (R84) takes them from the accesses in flight that were to set them.
Where no lane's address is good, each lane is an exception of its own at the word, and MZ still zeroes the inactive lanes (here in a launch that records no log,
and not in a retry). Lanes beyond the allocation of their scratchpad store nothing, read zero, and are the block's violation, if it has none yet, with
KIND 9 and DETAIL 1 (R346). -/
def Obligations.AccessWords : Prop :=
  ∀ (s : State) (c : Ctx) (i : Instr) (w : AccessWord), Spec.access i = some w → s.Issues c i → (c.path.uniform = true ∨ c.path.selected ≠ 0) →
    (63 ≤ c.group.sbCount w.sb → exec i s = .next (s.setStatus c.ref (.waiting (.counter w.sb)))) ∧
    (c.group.sbCount w.sb < 63 → c.launch.replay = none → c.path.reexec = none → c.path.zeroedWord = false →
      (∀ addr : Nat → Nat, (∀ l ∈ c.accessLanes, s.lanePlace c w l = .at_ (addr l)) →
        let regs := if w.kind.reads then fieldRegs c.group.depth w.dst (regsOf w.ty) else []
        ∃ t c' o, exec i s = .next t ∧ t.ctx? c.ref = some c' ∧ c.Past s i 0 c' ∧ s.SameBeyond t c c' ∧
          (if w.kind.reads = true ∧ w.dst = 0xCB then s.dropFlagOps c.ref (laneSet c.accessLanes) else s).StartsOp t o ∧ c.SameGroup c' [] ∧
          (∀ l < 96, ¬(w.kind.reads = true ∧ w.dst = 0xCB ∧ l ∈ c.accessLanes) → c'.group.flags.get l = c.group.flags.get l) ∧ c.path.SameLast c'.path ∧ c'.group.sb = c.group.sb.set w.sb (c.group.sbCount w.sb + 1) ∧
          c'.group.unseen.map (fun u => (u.path, u.sb, u.reg)) = c.group.unseen.map (fun u => (u.path, u.sb, u.reg)) ++ regs.map (fun r => (c.ref.path, w.sb, r)) ∧
          o.kind = w.kind ∧ o.path = c.ref ∧ o.owner = c.launch.owner ∧ o.core = c.group.core ∧ o.sb = w.sb ∧ o.sp = w.sp ∧
          o.width = Spec.width w.ty / 8 ∧ o.ty = w.ty ∧ o.aop = w.aop ∧ o.fixed = [] ∧ o.dest = regs.head? ∧ (o.pair = true ↔ regs.length = 2) ∧
          o.logAt = none ∧
          o.lanes.map (fun e => (e.1, e.2.1)) = c.accessLanes.map (fun l => (l, addr l)) ∧
          (w.kind = .store ∨ w.kind = .strong → o.lanes.map (fun e => (e.1, e.2.2.1.toNat)) =
            c.accessLanes.map fun l => (l, s.operand c i w.dst 4 (numKind w.ty) l)) ∧
          (w.kind = .atomic → o.lanes.map (fun e => (e.1, e.2.2.1.toNat, e.2.2.2.toNat)) = c.accessLanes.map fun l =>
            (l, s.operand c i (c.fourth (BitVec.ofNat 8 w.dst)) 4 (numKind w.ty) l, s.operand c i w.dst 6 (numKind w.ty) l)) ∧
          (∀ l < 96, o.toFlags.getLsbD l = true ↔ w.kind.reads = true ∧ w.dst = 0xCB ∧ l ∈ c.accessLanes) ∧
          ∀ l < 96, o.zeroed.getLsbD l = (c.mz && !c.path.uniform && !isS w.dst && !regs.isEmpty && c.path.member.getLsbD l &&
            maskWord c.path.selected (l / 32) != 0 && !c.path.selected.getLsbD l)) ∧
      (∀ f : Nat → FaultCase, c.path.uniform = false → (∀ l ∈ c.accessLanes, s.lanePlace c w l = .fault (f l)) →
        let u := s.noteIssue c i (issueOf c i 0)
        let regs := if w.kind.reads then fieldRegs c.group.depth w.dst (regsOf w.ty) else []
        let faults := c.accessLanes.map fun l => (l, f l)
        (c.mz = false ∨ isS w.dst = true ∨ regs = [] ∨ c.path.zeroable = 0 → exec i s = .next (u.faultLanes c faults false s.nextId)) ∧
        (c.mz = true → isS w.dst = false → regs ≠ [] → c.path.zeroable ≠ 0 → ∃ o : Op, o.kind = w.kind ∧ o.path = c.ref ∧ o.sb = w.sb ∧
          o.lanes = [] ∧ o.fixed = [] ∧ o.dest = regs.head? ∧ (o.pair = true ↔ regs.length = 2) ∧ o.zeroed = c.path.zeroable ∧
          exec i s = .next (((u.updPath c.ref fun p => { p with zeroedWord := true }).startOp c o regs c.path.zeroable).faultLanes c faults false s.nextId))) ∧
      (∀ f l, c.path.uniform = true → l = c.path.namingLane → s.lanePlace c w l = .fault f →
        exec i s = .next ((s.noteIssue c i (issueOf c i 0)).faultPath c f false)) ∧
      ∀ addr : Nat → Nat, (∀ l ∈ c.accessLanes, s.lanePlace c w l = .beyond (addr l)) → isS w.dst = false →
        ∃ t c' o, exec i s = .next t ∧ t.ctx? c.ref = some c' ∧ c.Past s i 0 c' ∧ t.ops = (if w.kind.reads = true ∧ w.dst = 0xCB then
            s.dropFlagOps c.ref (laneSet c.accessLanes) else s).ops ++ [o] ∧ o.path = c.ref ∧ o.kind = w.kind ∧ o.lanes = [] ∧
          o.fixed = (if w.kind.reads then c.accessLanes.map fun l => (l, 0) else []) ∧
          c'.block.violation = c.block.violation.orElse fun _ =>
            c.accessLanes.head?.map fun l => (s.tagOf c l ⟨9, 1, addr l, w.kind.access⟩, 1))

/-- R194, R195, R198, R199, R64: a load or an atomic completes once what it must follow is done: each lane's destination receives what its address holds, a pair both
words, zeroed lanes zero, a scalar the lowest lane's value, the lane flags bits [5:0]; the counter falls, the operation is gone, and a load leaves memory. An atomic of one lane
stores the operation's new value and returns the old one (here with no earlier write to carry and no log). Until then the event does nothing. A load may have
taken a lane's value at an earlier moment, no earlier than its path's latest fence (R258, log entry 112); where none is given it takes it now. Bits that its lane's later words have set in
the flags meanwhile stay (R84). -/
def Obligations.LoadsComplete : Prop :=
  ∀ (s : State) (o : Op) (y : Block) (z : Group) (moments : List Nat), s.Sound → s.ops.find? (fun p => p.id == o.id) = some o →
    (o.kind = .load ∨ o.kind = .atomic) → s.Resident o.path y z → (∀ e ∈ o.lanes, s.opPreds o e.2.1 o.width = []) → o.logAt = none → z.logFix = [] →
    (∀ e ∈ z.reaches, e.at_ < s.cycle) →
    (s.opReady o = false → exec (.loadComplete o.id moments) s = .next s) ∧
    (s.opReady o = true →
      let held : Prop := ∀ n k, o.dest = some (.stack n) → (k = n ∨ (o.pair = true ∧ k = n + 1)) → ∃ l ∈ z.lines, l.n = k / 8
      let value (k : Nat) (e : Nat × Nat × DWord × DWord) : Nat :=
        leNat (if o.kind = .load then s.opReadAt o (s.loadMoment o e.2.1 (moments.getD k s.moment)) e.2.1 o.width else s.opRead o e.2.1 o.width)
      ∃ t z', exec (.loadComplete o.id moments) s = .next t ∧ t.group? o.path.launch o.path.block o.path.group = some z' ∧
        t.ops = s.ops.filter (fun p => p.id != o.id) ∧ z'.sb = z.sb.set o.sb (z.sbCount o.sb - 1) ∧ (o.kind = .load → held → s.SameMemory t) ∧
        (moments = [] → o.sp = false → ∀ k e, o.lanes[k]? = some e → value k e = leNat (s.opRead o e.2.1 o.width)) ∧
        ((o.lanes.map (·.1)).Nodup → o.fixed = [] → (∀ e ∈ o.lanes, e.1 < 96) →
          (o.kind = .load ∨ (o.lanes.length = 1 ∧ ∀ e ∈ o.lanes, o.sp = true ∨ s.overlapping e.2.1 o.width = [])) →
          (∀ k e, o.toFlags.getLsbD e.1 = true → o.lanes[k]? = some e → z'.flags.get e.1 = z.flags.get e.1 ||| BitVec.ofNat 6 (value k e)) ∧
          (∀ m k e, o.dest = some (.scal m) → m < 108 → o.lanes[k]? = some e → (∀ f ∈ o.lanes, e.1 ≤ f.1) →
            (∀ h ∈ z.hazards, h.path ≠ o.path.path → h.ready < s.cycle ∨ (h.ready = s.cycle ∧ h.path < o.path.path)) →
            z'.scalars.get m = BitVec.ofNat 32 (value k e % 2 ^ 64) ∧
            (o.pair = true → m < 107 → z'.scalars.get (m + 1) = BitVec.ofNat 32 (value k e / 2 ^ 32 % 2 ^ 32))) ∧
          ∀ r n, o.dest = some r → (r = .oper n ∨ r = .stack n) → held →
            (∀ k e, o.lanes[k]? = some e → o.zeroed.getLsbD e.1 = false →
              z'.getReg o.path.launch o.path.block o.path.path r e.1 = BitVec.ofNat 32 (value k e % 2 ^ 64) ∧
              (o.pair = true → z'.getReg o.path.launch o.path.block o.path.path r.next e.1 = BitVec.ofNat 32 (value k e / 2 ^ 32 % 2 ^ 32))) ∧
            (∀ l < 96, o.zeroed.getLsbD l = true → z'.getReg o.path.launch o.path.block o.path.path r l = 0) ∧
            ∀ q l, l < 96 → q ≠ r → (o.pair = true → q ≠ r.next) →
              z'.getReg o.path.launch o.path.block o.path.path q l = z.getReg o.path.launch o.path.block o.path.path q l) ∧
        (o.kind = .atomic → o.sp = false → held → ∀ l a v k, o.lanes = [(l, a, v, k)] → s.overlapping a o.width = [] → s.opDie o < s.dies.length →
          (∀ e ∈ s.records, ∀ j < o.width, s.cardOffsets e false o.path.launch o.path.block (a + j) = []) →
          t.readPhys (s.opDie o) a o.width =
            leBytes o.width (atomicNew o.ty o.aop (BitVec.ofNat 64 (leNat (s.readPhys (s.opDie o) a o.width))) v k).toNat ∧
          ∀ b, ¬(a ≤ b ∧ b < a + o.width) → t.readPhys (s.opDie o) b 1 = s.readPhys (s.opDie o) b 1))

/-- R196, R197, R198, R259, R377: a store performs its lanes' writes in ascending lane order: at the issuing die every address reads the highest lane's byte that
covers it, or as before; an ordinary store leaves the other dies, a strong store at `.pkg` or `.sys` is seen so at every die. A mark stays on no block
that the store covers whole. A scratchpad store writes the block's scratchpad. The counter falls and the operation is gone (here with no earlier write to carry, and not into the output
of a running job card, R384). The issuing die is that of the core on which the group stands now (R193, R214). -/
def Obligations.StoresPerform : Prop :=
  ∀ (s : State) (o : Op) (y : Block) (z : Group), s.ops.find? (fun p => p.id == o.id) = some o → (o.kind = .store ∨ o.kind = .strong) →
    s.Sound → s.Resident o.path y z → (∀ e ∈ o.lanes, s.opPreds o e.2.1 o.width = []) →
    (∀ e ∈ s.records, ∀ l ∈ o.lanes, ∀ j < o.width, s.cardOffsets e o.sp o.path.launch o.path.block (l.2.1 + j) = []) →
    (s.opReady o = false → exec (.storePerformed o.id) s = .next s) ∧
    (s.opReady o = true →
      ∃ t z', exec (.storePerformed o.id) s = .next t ∧ t.group? o.path.launch o.path.block o.path.group = some z' ∧
        t.ops = s.ops.filter (fun p => p.id != o.id) ∧ z'.sb = z.sb.set o.sb (z.sbCount o.sb - 1) ∧
        (∀ r l, l < 96 → z'.getReg o.path.launch o.path.block o.path.path r l = z.getReg o.path.launch o.path.block o.path.path r l) ∧
        (o.sp = false → s.opDie o < s.dies.length → ∀ view a, view < s.dies.length →
          t.readPhys view a 1 =
            if view = s.opDie o ∨ (o.kind = .strong ∧ 5 ≤ o.scope) then [(Spec.storedByte o a).getD ((s.readPhys view a 1).getD 0 0)]
            else s.readPhys view a 1) ∧
        (o.sp = false → ∀ b ∈ t.poison, b ∈ s.poison ∧ ∃ k < 64, ∀ e ∈ o.lanes, ¬(e.2.1 ≤ b + k ∧ b + k < e.2.1 + o.width)) ∧
        (o.sp = true → s.SameMemory t ∧ ((∀ e ∈ o.lanes, s.objectsIn o.path.launch o.path.block e.2.1 o.width = []) → ∀ a, t.spadRead o.path.launch o.path.block o.core a 1 =
          [(Spec.storedByte o a).getD ((s.spadRead o.path.launch o.path.block o.core a 1).getD 0 0)])))

/-! ### Ordering and barriers -/

/-- R201, R202, R259, R212, R213: a fence whose conditions hold lets its path go on, otherwise the path waits at it: for the group's earlier loads to have their
values (acquire), for its earlier writes to be performed (release). A release at `.pkg` or `.sys` leaves none of the group's writes before it in transit.
The end of the wait is FENCE_FINISH, which does nothing before the conditions hold. `waita` goes on where its word meets the condition, and waits otherwise
until WAITA_FINISH finds it met. Memory and registers stand. -/
def Obligations.FencesAndWords : Prop :=
  (∀ (s : State) (c : Ctx) (st : BitVec 2) (p : BitVec 3) (k : BitVec 2), s.Issues c (.fence st p k) →
    ((k ≠ 1 → s.pendingLoads c.ref s.nextId = false) → (k ≠ 0 → s.pendingWrites c.ref s.nextId = false) → c.launch.replay = none →
      ∃ t, exec (.fence st p k) s = .next t ∧ c.GoesOn s t ∧ (k = 0 ∨ p.toNat < 5 → s.SameMemory t) ∧
        (k ≠ 0 → 5 ≤ p.toNat → (s.transit.map (·.id)).Nodup → ∀ e ∈ c.group.wrote, e.mark ≤ s.nextId → ∀ u ∈ t.transit, u.id ∉ e.ids)) ∧
    ((k ≠ 1 ∧ s.pendingLoads c.ref s.nextId = true) ∨ ((k = 1 ∨ k = 2) ∧ s.pendingWrites c.ref s.nextId = true) → c.launch.replay = none →
      ∃ t, exec (.fence st p k) s = .next t ∧ c.WaitsAt s t (.fence k.toNat p.toNat s.nextId) ∧ s.SameMemory t)) ∧
  (∀ (s : State) (c : Ctx) (kind scope mark : Nat), s.ctx? c.ref = some c → c.path.status = .waiting (.fence kind scope mark) → kind < 3 →
    (c.block.cluster.isSome = true → (kind ≠ 1 → s.pendingLoads c.ref mark = false) → (kind ≠ 0 → s.pendingWrites c.ref mark = false) →
      ∃ t, exec (.fenceFinish c.ref) s = .next t ∧ c.GoesOn s t) ∧
    ((kind ≠ 1 ∧ s.pendingLoads c.ref mark = true) ∨ (kind ≠ 0 ∧ s.pendingWrites c.ref mark = true) → exec (.fenceFinish c.ref) s = .next s)) ∧
  (∀ (s : State) (c : Ctx) (st : BitVec 2) (k : BitVec 3) (a : BitVec 8) (b : BitVec 7), s.Issues c (.waita st k a b) → c.launch.replay = none →
    let addr := s.scalarOperand c a.toNat 0 32
    let v : Word := BitVec.ofNat 32 (s.scalarOperand c (wide7 b) 2 32)
    let w := s.spadWord c.ref.launch c.ref.block c.group.core addr
    (∀ f, Spec.syncFault addr 4 f → exec (.waita st k a b) s = .next ((s.noteIssue c (.waita st k a b) (issueOf c (.waita st k a b) 0)).faultPath c f false)) ∧
    (c.InSpad addr 4 → Spec.holds k.toNat false w v → ∃ t c', exec (.waita st k a b) s = .next t ∧ t.ctx? c.ref = some c' ∧
      c.Past s (.waita st k a b) 0 c' ∧ s.SameElsewhere t c c' ∧ c.SameGroup c' [] ∧ c'.group.standing.unordered = c.group.standing.unordered ∧
      c.SameFlags c') ∧
    (c.InSpad addr 4 → ¬ Spec.holds k.toNat false w v →
      ∃ t, exec (.waita st k a b) s = .next t ∧ c.WaitsAt s t (.word addr k.toNat v) ∧ s.SameMemory t)) ∧
  ∀ (s : State) (c : Ctx) (addr k : Nat) (v : Word), s.ctx? c.ref = some c → c.path.status = .waiting (.word addr k v) → k < 6 → c.block.cluster.isSome = true →
    let w := s.spadWord c.ref.launch c.ref.block c.group.core addr
    (Spec.holds k false w v → ∃ t, exec (.waitaFinish c.ref) s = .next t ∧ c.GoesOn s t ∧ s.SameMemory t) ∧
    (¬ Spec.holds k false w v → exec (.waitaFinish c.ref) s = .next s)

/-- R203 to R211: `bar.init` writes the whole object, an EXPECT of 0 of a lane barrier standing for the block's present lanes, and tests it. `bar.arrive` and
`bar.arrivec` wait for the group's earlier writes, then return the phase that a test leaves in force and add their lanes or their count, and the object
is tested again. The object is the bytes at its address, and where stores alone have built them the object tested after each of them (R293). A misaligned
address, or one past every segment, is a whole-path fault of the word (R345). No other scratchpad byte changes. A word whose update would
come after a later one of the cycle does not issue in this cycle (R205). `bar.wait` on the phase in force waits; on another phase it goes on, once the group's earlier loads
have their values. BAR_WAIT_FINISH lets a resident waiter go on when its barrier has another phase in force, and not before. EXIT_BARRIER_TEST tests the
lane barrier on which a path of a resident block waits. A test that finds enough arrivals and no bytes pending raises PHASE, clears ARRIVED and adds
BYTES to PENDING. The model's own: that an arrival tests before it reads the phase (log entry 38), which places are tested and in
what order updates of one cycle come (log entry 39), the lanes of a `bar.arrivec` (log entry 130). -/
def Obligations.Barriers : Prop :=
  (∀ (s : State) (c : Ctx) (st : BitVec 2) (d a : BitVec 8) (b : BitVec 7), s.Issues c (.barInit st d a b) → c.block.cluster.isSome = true →
    let addr := s.scalarOperand c a.toNat 0 32
    let p : Word := BitVec.ofNat 32 (s.scalarOperand c (wide7 b) 2 32)
    let n : Word := BitVec.ofNat 32 (s.scalarOperand c d.toNat 4 32)
    let o : BarObj :=
      if p.getLsbD 31 then ⟨p.toNat % 2 ^ 16, 0, true, 0, 0, n, n⟩
      else ⟨if p.toNat % 2 ^ 16 = 0 then c.block.presentLanes % 2 ^ 16 else p.toNat % 2 ^ 16, 0, false, c.block.exits % 2 ^ 15, 0, 0, 0⟩
    (∀ f, Spec.syncFault addr 16 f →
      exec (.barInit st d a b) s = .next ((s.noteIssue c (.barInit st d a b) (issueOf c (.barInit st d a b) 0)).faultPath c f false)) ∧
    (c.InSpad addr 16 → ¬ s.InOrder c addr → exec (.barInit st d a b) s =
      .next (s.updPath c.ref fun q => { q with nextIssue := max q.nextIssue (s.cycle + 1) })) ∧
    (c.InSpad addr 16 → s.InOrder c addr → ∃ t c', exec (.barInit st d a b) s = .next t ∧ t.ctx? c.ref = some c' ∧ c.Past s (.barInit st d a b) 0 c' ∧
      c.SameGroup c' [] ∧ t.barAt c addr = o.test c.block.exits ∧ s.SameSpadBut t c addr)) ∧
  (∀ (s : State) (c : Ctx) (i : Instr) (st : BitVec 2) (d a : BitVec 8) (n : Nat),
    (i = .barArrive st d a ∧ n = (laneList c.path.selected).length) ∨
      (∃ b, i = .barArrivec st d a b ∧ n = if c.path.selected = 0 then 0 else s.scalarOperand c (wide7 b) 2 32 % 2 ^ 16) →
    s.Issues c i → c.block.cluster.isSome = true →
    let addr := s.scalarOperand c a.toNat 0 32
    let o := ((s.nameObject c addr).barAt c addr).test c.block.exits
    (c.launch.replay = none → ∀ f, Spec.syncFault addr 16 f → exec i s = .next ((s.noteIssue c i (issueOf c i 0)).faultPath c f false)) ∧
    (c.InSpad addr 16 → c.path.released = false → s.pendingWrites c.ref s.nextId = true →
      exec i s = .next (s.setStatus c.ref (.waiting (.release 2 s.nextId)))) ∧
    (c.InSpad addr 16 → (c.path.released = true ∨ s.pendingWrites c.ref s.nextId = false) → c.launch.replay = none → s.InOrder c addr →
      ∃ t c', exec i s = .next t ∧ t.ctx? c.ref = some c' ∧ c.Past s i 0 c' ∧ c.SameGroupOrdered c' [.scal (d.toNat - 0x40)] ∧
        c.ScalarReads s c' (d.toNat - 0x40) (BitVec.ofNat 32 o.phase.toNat) ∧
        t.barAt c addr = (if n = 0 then o else ({ o with arrived := (o.arrived + n) % 2 ^ 16 } : BarObj).test c.block.exits) ∧
        s.SameSpadBut t c addr ∧ s.SameMemory t)) ∧
  (∀ (s : State) (c : Ctx) (st : BitVec 2) (a : BitVec 8) (b : BitVec 7), s.Issues c (.barWait st a b) → c.block.cluster.isSome = true →
    let addr := s.scalarOperand c a.toNat 0 32
    let phase : BitVec 16 := BitVec.ofNat 16 (s.scalarOperand c (wide7 b) 2 32)
    let o := ((s.nameObject c addr).barAt c addr).test c.block.exits
    (∀ f, Spec.syncFault addr 16 f → exec (.barWait st a b) s = .next ((s.noteIssue c (.barWait st a b) (issueOf c (.barWait st a b) 0)).faultPath c f false)) ∧
    (c.InSpad addr 16 → c.launch.replay = none →
    (o.phase = phase → ∃ t, exec (.barWait st a b) s = .next t ∧ c.WaitsAt s t (.barrier addr phase) ∧ t.barAt c addr = o ∧ s.SameMemory t) ∧
    (o.phase ≠ phase → (addr, phase) ∉ c.block.poisonPhases → s.pendingLoads c.ref s.nextId = false →
      ∃ t, exec (.barWait st a b) s = .next t ∧ c.GoesOn s t ∧ t.barAt c addr = o ∧ s.SameMemory t) ∧
    (o.phase ≠ phase → (addr, phase) ∉ c.block.poisonPhases → s.pendingLoads c.ref s.nextId = true →
      ∃ t, exec (.barWait st a b) s = .next t ∧ c.WaitsAt s t (.fence 0 2 t.nextId) ∧ t.barAt c addr = o))) ∧
  (∀ (s : State) (c : Ctx) (addr : Nat), addr ∈ c.block.objects ∨ (∀ e ∈ c.block.past, e.addr < addr ∨ addr + 16 ≤ e.addr) →
    (s.nameObject c addr).barAt c addr = s.barAt c addr) ∧
  (∀ (s : State) (c : Ctx) (addr : Nat) (phase : BitVec 16), s.ctx? c.ref = some c → c.path.status = .waiting (.barrier addr phase) →
    ((s.barAt c addr).phase = phase → exec (.barWaitFinish c.ref) s = .next s) ∧
    (c.block.cluster.isSome = true → (s.barAt c addr).phase ≠ phase → (addr, phase) ∉ c.block.poisonPhases → s.pendingLoads c.ref s.nextId = false →
      ∃ t, exec (.barWaitFinish c.ref) s = .next t ∧ c.GoesOn s t ∧ s.SameMemory t)) ∧
  (∀ (s : State) (l b k a : Nat) (y : Block), s.block? l b = some y → y.cluster = some k → y.waitedBarriers = [a] →
    ((s.barRead l b (4 * k) a).data = false → ∃ t, exec (.exitBarrierTest l b) s = .next t ∧ s.SameMemory t ∧
      t.barRead l b (4 * k) a = (s.barRead l b (4 * k) a).test y.exits) ∧
    ((s.barRead l b (4 * k) a).data = true → exec (.exitBarrierTest l b) s = .next s)) ∧
  ∀ (o : BarObj) (x : Nat),
    let need : Int := if o.data then o.expect else (o.expect : Int) - (((x : Int) - o.exitbase) % 2 ^ 15)
    (need ≤ o.arrived → o.pending.toInt ≤ 0 →
      o.test x = { o with phase := o.phase + 1, arrived := 0, pending := o.pending + o.bytes }) ∧
    (¬(need ≤ o.arrived ∧ o.pending.toInt ≤ 0) → o.test x = o)

/-! ### Matrix words -/

/-- R218, R220, R222, R223, R347: `gang` writes the group's gang register, or traps with KIND 10. `opres` takes its record and granules at once when they are
free and no older request asks for them, with STATE 1 and everything zero, and waits otherwise; a bad record traps with DETAIL 4, a record the block
holds with DETAIL 5. `opready` raises STATE to 2 once no engine record delivers into the reservation, `oprel` frees it once no pending `mma` reads it;
both trap with DETAIL 6 for a record the block does not hold. The grant and finish events end the waits of a resident block when these conditions hold, and not
before. -/
def Obligations.Reservations : Prop :=
  (∀ (s : State) (c : Ctx) (st : BitVec 2) (a : BitVec 8), s.Issues c (.gang st a) →
    let g : DWord := BitVec.ofNat 64 (s.scalarOperand c a.toNat 0 64)
    (gangOk g c.launch.header.groups c.ref.group = true → ∃ t c', exec (.gang st a) s = .next t ∧ t.ctx? c.ref = some c' ∧
      c.Past s (.gang st a) 0 c' ∧ s.SameElsewhere t c c' ∧ c.SameGroup c' [] ∧ c'.group.standing = { c.group.standing with gang := g }) ∧
    (gangOk g c.launch.header.groups c.ref.group = false →
      exec (.gang st a) s = .next ((s.noteIssue c (.gang st a) (issueOf c (.gang st a) 0)).faultPath c ⟨10, 1, 0, 3⟩ false))) ∧
  (∀ (s : State) (c : Ctx) (st : BitVec 2) (q : BitVec 4) (a : BitVec 8), s.Issues c (.opres st q a) → c.launch.replay = none →
    let i : Instr := .opres st q a
    let v := s.scalarOperand c a.toNat 0 64
    let w0 : Word := BitVec.ofNat 32 v
    let w1 : Word := BitVec.ofNat 32 (2 ^ 30 + v / 2 ^ 32 % 2 ^ 30)
    let r : Reservation := ⟨c.group.core, q.toNat, w0, w1, c.ref.launch, c.ref.block, [], [], false, false⟩
    let free := s.opresFree c.group.core (opresRequest c.ref q.toNat w0)
    let held := (s.heldReservation c c.group.core q.toNat).isSome
    (r.ok = false → exec i s = .next ((s.noteIssue c i (issueOf c i 0)).faultPath c ⟨10, 4, 0, 3⟩ false)) ∧
    (r.ok = true → held = true → exec i s = .next ((s.noteIssue c i (issueOf c i 0)).faultPath c ⟨10, 5, 0, 3⟩ false)) ∧
    (r.ok = true → held = false → free = true → ∃ t c', exec i s = .next t ∧ t.ctx? c.ref = some c' ∧ c.Past s i 0 c' ∧ c.SameGroup c' [] ∧
      s.SameMemory t ∧ t.reservations = s.reservations ++ [r] ∧ r.state = 1) ∧
    (r.ok = true → held = false → free = false → ∃ t x, exec i s = .next t ∧ c.WaitsAt s t (.opres q.toNat w0 x) ∧ s.SameMemory t ∧
      t.reservations = s.reservations)) ∧
  (∀ (s : State) (c : Ctx) (q : Nat) (w0 w1 : Word), s.ctx? c.ref = some c → c.path.status = .waiting (.opres q w0 w1) →
    ((c.block.cluster.isSome = false ∨ s.opresFree c.group.core (opresRequest c.ref q w0) = false) → exec (.opresGrant c.ref) s = .next s) ∧
    (c.block.cluster.isSome = true → s.opresFree c.group.core (opresRequest c.ref q w0) = true →
      ∃ t, exec (.opresGrant c.ref) s = .next t ∧ c.GoesOn s t ∧ s.SameMemory t ∧
        t.reservations = s.reservations ++ [grantedReservation c.group.core q w0 w1 c.ref.launch c.ref.block])) ∧
  (∀ (s : State) (c : Ctx) (st : BitVec 2) (q : BitVec 4), s.Issues c (.opready st q) → c.launch.replay = none →
    let i : Instr := .opready st q
    let held := (s.heldReservation c c.group.core q.toNat).isSome
    let busy := s.records.any fun e => e.targets c.group.core q.toNat
    (held = false → exec i s = .next ((s.noteIssue c i (issueOf c i 0)).faultPath c ⟨10, 6, 0, 3⟩ false)) ∧
    (held = true → busy = false → ∃ t c', exec i s = .next t ∧ t.ctx? c.ref = some c' ∧ c.Past s i 0 c' ∧ c.SameGroup c' [] ∧ s.SameMemory t ∧
      t.reservations = s.reservations.map fun r => if r.core = c.group.core ∧ r.q = q.toNat ∧ r.state ≤ 1 then r.setState 2 else r) ∧
    (held = true → busy = true → ∃ t, exec i s = .next t ∧ c.WaitsAt s t (.opready q.toNat) ∧ t.reservations = s.reservations)) ∧
  (∀ (s : State) (c : Ctx) (q : Nat), s.ctx? c.ref = some c → c.path.status = .waiting (.opready q) →
    let busy := s.records.any fun e => e.targets c.group.core q
    (c.block.cluster.isSome = false ∨ busy = true → exec (.opreadyFinish c.ref) s = .next s) ∧
    (c.block.cluster.isSome = true → busy = false → (s.heldReservation c c.group.core q).isSome = true → c.launch.replay = none → c.path.logged = none →
      ∃ t, exec (.opreadyFinish c.ref) s = .next t ∧ c.GoesOn s t ∧ s.SameMemory t ∧
      t.reservations = s.reservations.map fun r => if r.core = c.group.core ∧ r.q = q ∧ r.state ≤ 1 then r.setState 2 else r)) ∧
  (∀ (s : State) (c : Ctx) (st : BitVec 2) (q : BitVec 4), s.Issues c (.oprel st q) → c.launch.replay = none →
    let i : Instr := .oprel st q
    let held := (s.heldReservation c c.group.core q.toNat).isSome
    (held = false → exec i s = .next ((s.noteIssue c i (issueOf c i 0)).faultPath c ⟨10, 6, 0, 3⟩ false)) ∧
    (held = true → s.mmaReads c.group.core q.toNat = false → ∃ t c', exec i s = .next t ∧ t.ctx? c.ref = some c' ∧ c.Past s i 0 c' ∧
      c.SameGroup c' [] ∧ s.SameMemory t ∧ t.reservations = s.reservations.filter fun r => !(r.core == c.group.core && r.q == q.toNat)) ∧
    (held = true → s.mmaReads c.group.core q.toNat = true → ∃ t, exec i s = .next t ∧ c.WaitsAt s t (.oprel q.toNat) ∧
      t.reservations = s.reservations)) ∧
  ∀ (s : State) (c : Ctx) (q : Nat), s.ctx? c.ref = some c → c.path.status = .waiting (.oprel q) →
    (c.block.cluster.isSome = false ∨ s.mmaReads c.group.core q = true → exec (.oprelFinish c.ref) s = .next s) ∧
    (c.block.cluster.isSome = true → s.mmaReads c.group.core q = false → (s.heldReservation c c.group.core q).isSome = true →
      ∃ t, exec (.oprelFinish c.ref) s = .next t ∧ c.GoesOn s t ∧ s.SameMemory t ∧
        t.reservations = s.reservations.filter fun r => !(r.core == c.group.core && r.q == q))

/-- R219, R224, R226, R227, R229: an `mma` whose counter stands at 63 waits; one of a gang without its partners waits at the latch; alone it is released: with its
operands and tile as R348 asks, its counter rises and one operation is pending, its reservations are in STATE 3; otherwise its path takes KIND 10
with the lowest failing check. MMA_START starts a core's oldest operation once the cycle of its release is over, in a core that the governor does not hold
(R280), and fixes how many array cycles it executes, which zero-skipping may make fewer; MMA_COMPLETE, 24 cycles after the last of them or later, leaves
the operation's result in its tile and in no other, and the counter falls. The result: the first member's CLR zeroes the tile, then the
passes of the members are added in order, each the root of the tree of R98 over exact products, with the first member's SAT
(R93, R97, R98, R99). The model's choice: an exact zero sum is +0 (log entry 128). `mwait` waits while an `mma` of the group on the tile is pending. -/
def Obligations.MatrixMultiply : Prop :=
  (∀ (s : State) (c : Ctx) (st : BitVec 2) (t : BitVec 5) (qa qb : BitVec 4) (sb : BitVec 3) (clr : BitVec 1) (n pa pb : BitVec 9),
    let i : Instr := .mma st t qa qb sb clr n pa pb
    let args : MmaArgs := ⟨t.toNat, qa.toNat, qb.toNat, n.toNat, pa.toNat, pb.toNat, clr == 1, c.sat, sb.toNat⟩
    s.Issues c i → c.launch.replay = none →
    (63 ≤ c.group.sbCount sb.toNat → exec i s = .next (s.setStatus c.ref (.waiting (.counter sb.toNat)))) ∧
    (c.group.sbCount sb.toNat < 63 → c.path.status = .ready → (∀ z ∈ c.block.groups, z.index ≠ c.ref.group → z.arrival = none) →
      (∀ k ∈ c.group.partners, k ≠ c.ref.group → exec i s = .next (s.setStatus c.ref (.waiting (.latch args)))) ∧
      (c.group.partners = [c.ref.group] →
        let ms : List MmaMember := [⟨c.ref.group, c.ref.path, args⟩]
        (∀ k d, s.releaseFault c ms = some (k, d) → exec i s = .next (s.faultPath c ⟨k, d, 0, 3⟩ false)) ∧
        (s.releaseFault c ms = none → ∃ u c', exec i s = .next u ∧ u.ctx? c.ref = some c' ∧ (c'.path.pc, c'.path.idx) = c.path.placeAfter c.path.rawSpan ∧
          c.SameGroup c' [] ∧ s.SameMemory u ∧ c'.group.sb = c.group.sb.set sb.toNat (c.group.sbCount sb.toNat + 1) ∧ u.tiles = s.tiles ∧
          (∃ o, u.mmas = insertMma o s.mmas ∧ ((∀ m ∈ s.mmas, m.released < s.cycle) → u.mmas = s.mmas ++ [o]) ∧ o.core = c.group.core ∧ o.members = ms ∧
            o.started = none ∧ o.released = s.cycle ∧ ∀ q, q = qa.toNat ∨ q = qb.toNat → (o.inputs.find? fun r => r.q == q) = s.reservation? c.group.core q) ∧
          ∀ r ∈ s.reservations, r.core = c.group.core → (r.q = qa.toNat ∨ r.q = qb.toNat) → r.setState 3 ∈ u.reservations)))) ∧
  (∀ (s : State) (core ran : Nat),
    ((∀ m ∈ s.mmas, m.core ≠ core) → exec (.mmaStart core ran) s = .next s) ∧
    (∀ m rest, s.mmas.filter (fun m => m.core == core) = m :: rest → m.started = none →
      (m.released = s.cycle → exec (.mmaStart core ran) s = .next s) ∧
      (m.released ≠ s.cycle → (∀ o ∈ s.ops, o.kind = .accLoad → m.id ≤ o.id) →
        (s.coreHeld core = false → s.underCeiling core m.planOf = true → exec (.mmaStart core ran) s =
          .next { s with mmas := s.mmas.map fun n =>
            if n.id = m.id then { n with started := some s.cycle, ran := min m.passes (max m.least ran) } else n }) ∧
        (s.coreHeld core = true ∨ s.underCeiling core m.planOf = false → exec (.mmaStart core ran) s = .next s)))) ∧
  (∀ (s : State) (core : Nat) (m : MmaOp) (e : MmaMember) (k : Nat) (y : Block) (z : Group),
    s.mmas.find? (fun m => m.core == core && m.started.isSome) = some m → m.started = some k → m.members = [e] →
    s.Resident ⟨m.launch, m.block, e.group, e.path⟩ y z →
    (s.cycle < k + m.ran + 24 → exec (.mmaComplete core) s = .next s) ∧
    (k + m.ran + 24 ≤ s.cycle → ∃ t z', exec (.mmaComplete core) s = .next t ∧ t.group? m.launch m.block e.group = some z' ∧
      z'.sb = z.sb.set e.args.sb (z.sbCount e.args.sb - 1) ∧ s.SameMemory t ∧ t.mmas = s.mmas.filter (fun n => n.id != m.id) ∧
      t.tiles = s.tiles.map fun u =>
        if u.core = m.core ∧ u.t = e.args.tile ∧ u.launch = m.launch ∧ u.block = m.block then { u with data := m.result u.data } else u)) ∧
  (∀ (o : MmaOp) (f : MmaMember) (ms : List MmaMember) (t : Sparse 36) (i j : Nat), i < 64 → j < 64 → o.members = f :: ms →
    ∃ acc : Nat → BitVec 36, acc 0 = (if f.args.clr then 0 else t.get (64 * i + j)) ∧ (o.result t).get (64 * i + j) = acc (Spec.passes o).length ∧
      ∀ n, ∀ p ∈ (Spec.passes o)[n]?, Spec.PassAdds f.args.sat p.1 p.2.1 p.2.2.1 p.2.2.2 i j (acc n) (acc (n + 1))) ∧
  ∀ (s : State) (c : Ctx) (st : BitVec 2) (t : BitVec 5), s.Issues c (.mwait st t) → c.launch.replay = none →
    (s.mmaPending c.ref c.group.core t.toNat = false → ∃ u c', s.RegisterWord c (.mwait st t) [] u c' ∧ c.SameFlags c') ∧
    (s.mmaPending c.ref c.group.core t.toNat = true → ∃ u, exec (.mwait st t) s = .next u ∧ c.WaitsAt s u (.mwait t.toNat) ∧ s.SameMemory u)

/-- R230, R231, R233: `acc.alloc` takes the tiles of its mask that the block lacks, zeroed, when they are free and no older request asks for them, and waits
otherwise until ACC_ALLOC_GRANT; a handler group is given none (R372, the model's reading: log entry 126); `acc.free` gives up the block's tiles of its mask once no pending `mma` writes them. `acc.st` takes the bytes of its tile's
form when it issues and `acc.ld` reads its tile's bytes when ACC_LD_COMPLETE comes; both rise their counter, trap with KIND 10, DETAIL 10 for a tile
that the block does not hold, and wait at a counter of 63 (here with the transfer's addresses in place and no log). A marked tile stops `acc.st`
(R378). The model's choice: an `acc.st` takes its elements at issue (log entry 117). -/
def Obligations.Tiles : Prop :=
  (∀ (s : State) (c : Ctx) (st : BitVec 2) (a : BitVec 8), s.Issues c (.accAlloc st a) → c.launch.replay = none →
    let m : Word := if c.launch.handler.isSome then 0 else BitVec.ofNat 32 (s.scalarOperand c a.toNat 0 32)
    let lacks := (List.range 32).filter fun k => m.getLsbD k && (s.tileOf c.ref.launch c.ref.block c.group.core k).isNone
    (s.allocFree c.ref c.group.core m = true → ∃ t c', exec (.accAlloc st a) s = .next t ∧ t.ctx? c.ref = some c' ∧ c.Past s (.accAlloc st a) 0 c' ∧
      c.SameGroup c' [] ∧ s.SameMemory t ∧ t.tiles = s.tiles ++ lacks.map fun k => ⟨c.group.core, k, c.ref.launch, c.ref.block, [], false⟩) ∧
    (s.allocFree c.ref c.group.core m = false → ∃ t, exec (.accAlloc st a) s = .next t ∧ c.WaitsAt s t (.accAlloc m) ∧ t.tiles = s.tiles)) ∧
  (∀ (s : State) (c : Ctx) (m : Word), s.ctx? c.ref = some c → c.path.status = .waiting (.accAlloc m) →
    ((c.block.cluster.isSome = false ∨ s.allocFree c.ref c.group.core m = false) → exec (.accAllocGrant c.ref) s = .next s) ∧
    (c.block.cluster.isSome = true → s.allocFree c.ref c.group.core m = true →
      ∃ t, exec (.accAllocGrant c.ref) s = .next t ∧ c.GoesOn s t ∧ ∀ k < 32, m.getLsbD k = true → ∃ u ∈ t.tiles,
        u.core = c.group.core ∧ u.t = k ∧ u.launch = c.ref.launch ∧ u.block = c.ref.block)) ∧
  (∀ (s : State) (c : Ctx) (st : BitVec 2) (a : BitVec 8), s.Issues c (.accFree st a) → c.launch.replay = none →
    let m : Word := BitVec.ofNat 32 (s.scalarOperand c a.toNat 0 32)
    (s.mmaWrites c.group.core m = false → ∃ t c', exec (.accFree st a) s = .next t ∧ t.ctx? c.ref = some c' ∧ c.Past s (.accFree st a) 0 c' ∧
      c.SameGroup c' [] ∧ s.SameMemory t ∧ t.tiles = s.tiles.filter fun u =>
        !(u.core == c.group.core && m.getLsbD u.t && u.launch == c.ref.launch && u.block == c.ref.block)) ∧
    (s.mmaWrites c.group.core m = true → ∃ t, exec (.accFree st a) s = .next t ∧ c.WaitsAt s t (.accFree m) ∧ t.tiles = s.tiles)) ∧
  (∀ (s : State) (c : Ctx) (i : Instr) (k : OpKind) (st : BitVec 2) (t : BitVec 5) (a : BitVec 8) (b : BitVec 7) (sb : BitVec 3) (sp : BitVec 1)
      (form : BitVec 2), (i = .accSt st t a b sb sp form ∧ k = .accStore) ∨ (i = .accLd st t a b sb sp form ∧ k = .accLoad) →
    s.Issues c i → c.launch.replay = none →
    let w := if sp = 1 then 32 else 64
    let addr := ((s.scalarOperand c a.toNat 0 w + s.pathOperand c (wide7 b) 2 + (2 ^ w - if 2 ^ 31 ≤ s.pathOperand c (wide7 b) 2 then 2 ^ 32 else 0))) % 2 ^ w
    (63 ≤ c.group.sbCount sb.toNat → exec i s = .next (s.setStatus c.ref (.waiting (.counter sb.toNat)))) ∧
    (c.group.sbCount sb.toNat < 63 → s.tileOf c.ref.launch c.ref.block c.group.core t.toNat = none →
      exec i s = .next ((s.noteIssue c i (issueOf c i 0)).faultPath c ⟨10, 10, 0, 3⟩ false)) ∧
    (∀ tile pieces, c.group.sbCount sb.toNat < 63 → s.tileOf c.ref.launch c.ref.block c.group.core t.toNat = some tile → tile.poison = true → k = .accStore →
      s.transferPlace c k (sp == 1) addr (if form = 0 then 18432 else 16384) = .ok pieces →
      exec i s = .next ((s.noteIssue c i (issueOf c i 0)).faultPath c ⟨11, 5, 0, 3⟩ false)) ∧
    ∀ tile pieces, c.group.sbCount sb.toNat < 63 → s.tileOf c.ref.launch c.ref.block c.group.core t.toNat = some tile → (k = .accStore → tile.poison = false) →
      s.transferPlace c k (sp == 1) addr (if form = 0 then 18432 else 16384) = .ok pieces →
      ∃ u c' o, exec i s = .next u ∧ u.ctx? c.ref = some c' ∧ c.Past s i 0 c' ∧ c.SameGroup c' [] ∧ s.SameMemory u ∧ u.ops = s.ops ++ [o] ∧
        u.tiles = s.tiles ∧ c'.group.sb = c.group.sb.set sb.toNat (c.group.sbCount sb.toNat + 1) ∧ o.kind = k ∧ o.path = c.ref ∧ o.tile = t.toNat ∧
        o.form = form.toNat ∧ o.sb = sb.toNat ∧ o.lanes.map (fun e => (e.1, e.2.1, e.2.2.1.toNat)) = pieces.map (fun p => (p.1, p.2.1, p.2.2 % 2 ^ 64)) ∧
        (k = .accStore → s.mmas = [] → s.ops = [] → c.group.unseenTiles = [] → o.fixed = packBytes (tileForm form.toNat tile.data))) ∧
  ∀ (s : State) (o : Op) (y : Block) (z : Group), s.ops.find? (fun p => p.id == o.id) = some o → o.kind = .accLoad → s.Resident o.path y z →
    (∀ e ∈ o.lanes, s.opPreds o e.2.1 e.2.2.1.toNat = []) → o.logAt = none → o.lanes ≠ [] →
    (s.opReady o = false → exec (.accLdComplete o.id) s = .next s) ∧
    (s.opReady o = true → ∃ t z', exec (.accLdComplete o.id) s = .next t ∧ t.group? o.path.launch o.path.block o.path.group = some z' ∧
      z'.sb = z.sb.set o.sb (z.sbCount o.sb - 1) ∧ t.ops = s.ops.filter (fun p => p.id != o.id) ∧ s.SameMemory t ∧
      t.tiles = s.tiles.map fun u => if u.core = o.core ∧ u.t = o.tile ∧ u.launch = o.path.launch ∧ u.block = o.path.block then
        { u with data := formTile o.form (s.transferRead o), poison := false } else u)

/-! ### Engines -/

/-- R236, R241, R350, R347, R234: a word that kicks records waits for the group's earlier writes, then traps with KIND 10, DETAIL 14 for a count outside 1 to 64 or
a bad place, with the index of the first bad record and code 15 or 16, with DETAIL 6 where that record's reservation is not held (the model's
reading of R347 beside R350: log entry 60), and otherwise passes its records, as they stand in scratchpad, to their engine.
ENGINE_CHUNK_DONE delivers the next chunk of a record that runs, in a turn that no other owner's smaller part of its allotment takes (R239; the model's
reading: log entry 119): its bytes at a contiguous writable destination, PROG advanced; of a part of it, just
these bytes have landed, and nothing stops the rest (R264; the model's reading: log entry 61). A record that has come
to its end completes: RESULT, then DONEVAL at the completion word, or its last bytes counted into its barrier, and it is gone; a collective also raises
cause 2 for a status other than done. A record whose next chunk is stopped becomes an engine origin. A peer's chunk is kept, or ends a collective
whose descriptor disagrees with STATUS 8. A block whose groups and records are over ends and gives up its reservations and tiles. Each event does
nothing where its condition does not hold. -/
def Obligations.Engines : Prop :=
  (∀ (s : State) (c : Ctx) (i : Instr) (kind : RecKind) (a : BitVec 8) (b : BitVec 7),
    (∃ st, (i = .cpyk st a b ∧ kind = .copy) ∨ (i = .dzk st a b ∧ kind = .card) ∨ (i = .coll st a b ∧ kind = .coll)) → s.Issues c i → c.block.cluster.isSome = true →
    let addr := s.scalarOperand c a.toNat 0 32
    let n := s.scalarOperand c (wide7 b) 2 32
    let u := if c.path.released then s else s.fenceEffect c.ref 1 5 s.nextId
    let place := n = 0 ∨ 64 < n ∨ addr % 64 ≠ 0 ∨ spadRangeBad c addr (64 * n) = true
    let rec_ (k : Nat) : EngineRec := u.readRecord c kind (addr + 64 * k)
    let bad (k : Nat) : Bool := if kind = .coll then u.collBad c (rec_ k) else u.recordBad c (rec_ k)
    (c.path.released = false → s.pendingWrites c.ref s.nextId = true →
      exec i s = .next (s.setStatus c.ref (.waiting (.release 5 s.nextId)))) ∧
    (c.path.released = true ∨ s.pendingWrites c.ref s.nextId = false → c.launch.replay = none →
      (place → exec i s = .next ((u.noteIssue c i (issueOf c i 0)).faultPath c ⟨10, 14, 0, 3⟩ false)) ∧
      (¬ place → ∀ k < n, bad k = true → (∀ j < k, bad j = false) →
        exec i s = .next ((u.noteIssue c i (issueOf c i 0)).faultPath c ⟨10, if kind = .coll then k * 256 + 16
          else if 2 ≤ (rec_ k).dstSp ∧ u.heldReservation c (rec_ k).dstCore (rec_ k).dstQ = none then 6 else k * 256 + 15, 0, 3⟩ false)) ∧
      (¬ place → (∀ k < n, bad k = false) → ∃ t c' rs, exec i s = .next t ∧ t.ctx? c.ref = some c' ∧ c.Past s i 0 c' ∧ c.SameGroupOrdered c' [] ∧
        t.records = s.records ++ rs ∧
        rs.map (fun e => (e.kind, e.owner, e.launch, e.block, e.core, e.addr, e.prog)) =
          (List.range n).map (fun k => (kind, c.launch.owner, c.ref.launch, c.ref.block, c.group.core, addr + 64 * k, 0)) ∧
        rs.map (·.words) = (List.range n).map fun k => (List.range 16).map fun j =>
          s.spadWord c.ref.launch c.ref.block c.group.core (addr + 64 * k + 4 * j)))) ∧
  (∀ (s : State) (e : EngineRec) (y : Block), s.records.find? (fun x => x.id == e.id) = some e → s.block? e.launch e.block = some y →
    y.cluster.isSome = true →
    (s.engineRuns e = false → (∀ mo only, exec (.engineChunkDone e.id mo only) s = .next s) ∧ exec (.engineRecordFault e.id) s = .next s) ∧
    (s.engineTurn e = false → ∀ mo only, exec (.engineChunkDone e.id mo only) s = .next s) ∧
    ((∀ f ∈ s.records, f.kind = e.kind → f.owner ≠ e.owner → (s.owner e.owner).periodEngine * (s.owner f.owner).record.engw ≤
      (s.owner f.owner).periodEngine * (s.owner e.owner).record.engw) → s.engineTurn e = true) ∧
    (∀ mo only x, s.engineRuns e = true → s.nextChunk e mo = .error x → exec (.engineChunkDone e.id mo only) s = .next s) ∧
    (∀ ch, s.engineRuns e = true → s.nextChunk e [] = .ok ch → exec (.engineRecordFault e.id) s = .next s) ∧
    (∀ mo ch, s.engineRuns e = true → s.engineTurn e = true → s.nextChunk e mo = .ok ch →
      (ch.bad = false → ∃ t r, exec (.engineChunkDone e.id mo []) s = .next t ∧ r ∈ t.records ∧ r.id = e.id ∧ r.prog = e.prog + ch.bytes.length ∧
        r.landed = [] ∧ r.chunk = none ∧
        (s.Sound → e.kind = .copy → e.dstSp = 0 → e.force = false → e.toBarrier = false → e.chunk = none → e.landed = [] → s.transit = [] → dieOf (y.homeCore e.core) < s.dies.length → ∀ pa,
          (∀ k < ch.bytes.length, (s.owner e.owner).translate (e.dst + e.prog + k) true = .ok (pa + k)) →
          let die := dieOf (y.homeCore e.core)
          (∀ k < ch.bytes.length, t.readPhys die (pa + k) 1 = [ch.bytes.getD k 0]) ∧
          ∀ q, q < pa ∨ pa + ch.bytes.length ≤ q → t.readPhys die q 1 = s.readPhys die q 1)) ∧
      (ch.bad = true → ∃ t r, exec (.engineChunkDone e.id mo []) s = .next t ∧ r ∈ t.records ∧ r.id = e.id ∧ r.status = some 6) ∧
      (∀ only, only ≠ [] → ch.bad = false → e.force = false → (e.toDevice = true ∨ e.dstSp = 1) →
        ∃ t r, exec (.engineChunkDone e.id mo only) s = .next t ∧ r ∈ t.records ∧ r.id = e.id ∧ r.prog = e.prog ∧ r.chunk = some ch ∧
          ∀ k, k ∈ r.landed ↔ k ∈ e.landed ∨ (k ∈ only ∧ k < ch.bytes.length))) ∧
    (∀ f x, s.engineRuns e = true → s.nextChunk e [] = .error (.origin f) → s.launch? e.launch = some x →
      s.route x f.kind f.detail (if f.access < 4 then f.addr else 2 ^ 64) (e.tag f) = .collect →
      ∃ t r, exec (.engineRecordFault e.id) s = .next t ∧ r ∈ t.records ∧ r.id = e.id ∧ r.faulted = true ∧ t.dies = s.dies ∧
        ∃ g ∈ t.origins, ∃ l q, s.origins.map (·.id) = l ++ q ∧ t.origins.map (·.id) = l ++ g.id :: q ∧ g.kind = f.kind ∧ g.source = .engine e.id ∧
          g.owner = e.owner)) ∧
  (∀ (s : State) (e : EngineRec) (y : Block) (i : Instr), s.records.find? (fun x => x.id == e.id) = some e → s.block? e.launch e.block = some y →
    y.cluster.isSome = true → (e.toBarrier = false → s.objectsIn e.launch e.block (e.w 7) 4 = []) →
    (e.kind ≠ .coll ∧ i = .engineRecordComplete e.id) ∨ (e.kind = .coll ∧ i = .collectiveComplete e.id) →
    (s.endStatus e = none ∨ e.halted = true → exec i s = .next s) ∧
    (∀ n, s.endStatus e = some n → e.halted = false → ∃ t, exec i s = .next t ∧ (∀ r ∈ t.records, r ∈ s.records ∧ r.id ≠ e.id) ∧ s.SameMemory t ∧
      (e.toBarrier = false → t.spadWord e.launch e.block e.core (e.w 7) = e.words.getD 8 0 ∧
        (e.w 7 + 4 ≤ e.addr + 44 ∨ e.addr + 48 ≤ e.w 7 → n < 16 → t.spadWord e.launch e.block e.core (e.addr + 44) = BitVec.ofNat 32 (n * 2 ^ 28))) ∧
      (e.toBarrier = true → e.w 7 + 16 ≤ e.addr + 44 ∨ e.addr + 48 ≤ e.w 7 →
        t.barRead e.launch e.block e.core (e.w 7) =
          ({ s.barRead e.launch e.block e.core (e.w 7) with
            pending := (s.barRead e.launch e.block e.core (e.w 7)).pending - BitVec.ofNat 32 (s.recTotal e - s.counted e) } : BarObj).test y.exits) ∧
      (e.kind ≠ .coll ∨ n = 1 → t.links = s.links) ∧
      (e.kind = .coll → n ≠ 1 → e.owner < 64 → s.links.masked.getLsbD (4 * e.owner + 2) = false → s.links.pcieUp = true →
        t.links = { s.links with sent := s.links.sent ++ [4 * e.owner + 2] }))) ∧
  (∀ (s : State) (p : PeerChunk) (e : EngineRec),
    ((∀ r ∈ s.records, r.kind = .coll → r.owner = p.owner → r.comm = p.comm → r.index ≠ p.index) → exec (.collectiveChunkReceive p) s = .next s) ∧
    (s.records.find? (fun r => r.kind == .coll && r.owner == p.owner && r.comm == p.comm && r.index == p.index) = some e → e.status = none →
      e.halted = false → (s.owner e.owner).migrating = none → p.rank < (s.commOf e).members → p.rank ≠ (s.commOf e).rank →
      (p.op = e.op → p.red = e.red → p.ty = e.ty → p.count = e.count → p.root = e.root →
        exec (.collectiveChunkReceive p) s = .next (s.updRecord e.id fun r => { r with parts := r.parts ++ [(p.rank, p.offset, p.bytes)] })) ∧
      (p.op ≠ e.op ∨ p.red ≠ e.red ∨ p.ty ≠ e.ty ∨ p.count ≠ e.count ∨ p.root ≠ e.root →
        ∃ t r, exec (.collectiveChunkReceive p) s = .next t ∧ r ∈ t.records ∧ r.id = e.id ∧ r.status = some 8))) ∧
  ∀ (s : State) (l b : Nat) (y : Block), s.block? l b = some y → (s.reservations.map fun r => (r.core, r.q)).Nodup →
    (s.blockOver y l = false → exec (.blockEnd l b) s = .next s) ∧
    (s.blockOver y l = true → ∃ t y', exec (.blockEnd l b) s = .next t ∧ t.block? l b = some y' ∧ y'.ended = true ∧ y'.cluster = none ∧ y'.spad = [] ∧
      t.reservations = s.reservations.filter (fun r => !(r.launch == l && r.block == b)) ∧
      t.tiles = s.tiles.filter fun u => !(u.launch == l && u.block == b))

/-! ### Wells -/

/-- R40, R42, R245, R247, R110, R248, R43: `well.add` and `well.take` wait at a counter of 63, trap with KIND 10, DETAIL 17 outside the launch's set and, `well.add`,
with DETAIL 20 for more lanes than the well can hold. `well.add` waits for room, then starts one operation that carries a lane's item to each slot after
TAIL; `well.take` hands the items after HEAD to the lowest active lanes and advances HEAD,
after a take in the cycle by a group of its block with a higher index in the next cycle (R41). WELL_OP_COMPLETE makes the items visible at every die and
advances TAIL, or writes the items and the triple of the lanes that received one. `quiet` drops the lanes' items and waits; QUIESCENCE_DECLARED ends the
wait with all ones when the launch is quiescent, and does nothing otherwise (here with the slots in place and no log). The model's readings: a word
with no active lane (log entry 27), what wakes a `quiet` (log entry 40), when an item becomes visible (log entry 66). -/
def Obligations.Wells : Prop :=
  (∀ (s : State) (c : Ctx) (i : Instr) (d : BitVec 8) (n : BitVec 6) (sb : BitVec 3) (st : BitVec 2),
    let add : Instr := .wellAdd st d n sb
    s.Issues c i → c.launch.replay = none →
    (i = add ∨ ∃ t, i = .wellTake st d n sb t) →
    (63 ≤ c.group.sbCount sb.toNat → exec i s = .next (s.setStatus c.ref (.waiting (.counter sb.toNat)))) ∧
    (c.group.sbCount sb.toNat < 63 → s.launchWell c n.toNat = none →
      exec i s = .next ((s.noteIssue c i (issueOf c i 0)).faultPath c ⟨10, 17, 0, 3⟩ false)) ∧
    ∀ w, c.group.sbCount sb.toNat < 63 → s.launchWell c n.toNat = some w →
      let lanes := laneList c.path.selected
      (i = add → 2 ^ w.capl2 < lanes.length → exec i s = .next ((s.noteIssue c i (issueOf c i 0)).faultPath c ⟨10, 20, 0, 3⟩ false)) ∧
      (i = add → lanes = [] → ∃ t c', s.RegisterWord c i [] t c') ∧
      (i = add → lanes ≠ [] → lanes.length ≤ 2 ^ w.capl2 → s.wellRoom c.launch.owner n.toNat lanes.length = false →
        exec i s = .next (s.setStatus c.ref (.waiting (.wellRoom n.toNat)))) ∧
      (∀ pas, i = add → lanes ≠ [] → lanes.length ≤ 2 ^ w.capl2 → s.wellRoom c.launch.owner n.toNat lanes.length = true →
        s.slotsOf c .wellAdd w (w.tail + BitVec.ofNat 32 (s.wellPending c.launch.owner n.toNat)) lanes.length = .ok pas →
        ∃ t c' o, exec i s = .next t ∧ t.ctx? c.ref = some c' ∧ c.Past s i 0 c' ∧ c.SameGroup c' [] ∧ s.SameBeyond t c c' ∧ s.StartsOp t o ∧
          c'.group.sb = c.group.sb.set sb.toNat (c.group.sbCount sb.toNat + 1) ∧ o.kind = .wellAdd ∧ o.tile = n.toNat ∧ o.sb = sb.toNat ∧
          o.lanes.map (fun e => (e.1, e.2.1, e.2.2.1)) =
            (lanes.zip pas).map fun e => (e.1, e.2, BitVec.ofNat 64 (s.operand c i d.toNat 0 (.int 64) e.1))) ∧
      (∀ t, i = .wellTake st d n sb t →
        (∃ e ∈ w.taken, e.1 = s.cycle ∧ e.2.launch = c.ref.launch ∧ e.2.block = c.ref.block ∧ c.ref.group < e.2.group) →
        exec i s = .next (s.updPath c.ref fun p => { p with nextIssue := max p.nextIssue (s.cycle + 1) })) ∧
      (∀ t pas, i = .wellTake st d n sb t →
        (∀ e ∈ w.taken, e.1 = s.cycle → e.2.launch = c.ref.launch → e.2.block = c.ref.block → e.2.group ≤ c.ref.group) → let k := min lanes.length w.held
        s.slotsOf c .wellTake w w.head k = .ok pas →
        ∃ u c' o, exec i s = .next u ∧ u.ctx? c.ref = some c' ∧ c.Past s i 0 c' ∧ c.SameGroupOrdered c' [] ∧ s.SameMemory u ∧ u.ops = s.ops ++ [o] ∧
          c'.group.sb = c.group.sb.set sb.toNat (c.group.sbCount sb.toNat + 1) ∧ o.kind = .wellTake ∧ o.aop = t.toNat ∧
          o.fixed = (lanes.zip pas).map (fun e => (e.1, BitVec.ofNat 64 (leNat (s.readPhys (dieOf c.group.core) e.2 8)))) ∧
          (u.owner c.launch.owner).wells = (s.owner c.launch.owner).wells.map (fun x =>
            if x.n = n.toNat ∧ lanes ≠ [] then
              { x with head := x.head + BitVec.ofNat 32 k, taken := (x.taken.filter fun e => e.1 == s.cycle) ++ [(s.cycle, c.ref)] } else x) ∧
          c'.group.items = (c.group.items &&& ~~~c.path.selected) ||| laneSet (o.fixed.map (·.1)))) ∧
  (∀ (s : State) (c : Ctx) (n : Nat), s.ctx? c.ref = some c → c.path.status = .waiting (.wellRoom n) →
    (s.wellRoom c.launch.owner n (laneCount c.path.selected) = false → exec (.wellAddRoom c.ref) s = .next s) ∧
    (s.wellRoom c.launch.owner n (laneCount c.path.selected) = true → exec (.wellAddRoom c.ref) s = .next (s.setStatus c.ref .ready))) ∧
  (∀ (s : State) (o : Op) (y : Block) (z : Group), s.ops.find? (fun p => p.id == o.id) = some o → s.Resident o.path y z → o.logAt = none →
    s.transit = [] → (o.kind = .wellAdd ∨ o.kind = .wellTake) → o.toFlags = 0 → (∀ e ∈ z.reaches, e.at_ < s.cycle) →
    (∀ h ∈ z.hazards, h.path ≠ o.path.path → h.ready < s.cycle ∨ (h.ready = s.cycle ∧ h.path < o.path.path)) →
    (s.opReady o = false → exec (.wellOpComplete o.id) s = .next s) ∧
    (s.opReady o = true → ∃ t z', exec (.wellOpComplete o.id) s = .next t ∧ t.group? o.path.launch o.path.block o.path.group = some z' ∧
      z'.sb = z.sb.set o.sb (z.sbCount o.sb - 1) ∧ t.ops = s.ops.filter (fun p => p.id != o.id) ∧
      (o.kind = .wellAdd → (∀ x ∈ s.launches, x.quietPaths = []) → o.owner < s.owners.length →
        (t.owner o.owner).wells = (s.owner o.owner).wells.map (fun x =>
          if x.n = o.tile then { x with tail := x.tail + BitVec.ofNat 32 o.lanes.length } else x) ∧
        ∀ l a v k, o.lanes = [(l, a, v, k)] → (∀ e ∈ s.records, e.kind ≠ .card) → ∀ view < s.dies.length, t.readPhys view a 8 = leBytes 8 v.toNat ∧
          ∀ q, q < a ∨ a + 8 ≤ q → t.readPhys view q 1 = s.readPhys view q 1) ∧
      (o.kind = .wellTake → o.aop + 2 < 108 → (∀ j < 3, z'.scalars.get (o.aop + j) = maskWord (laneSet (o.fixed.map (·.1))) j)) ∧
      (∀ r n, o.kind = .wellTake → o.dest = some r → o.pair = true → o.zeroed = 0 → (r = .oper n ∨ (r = .stack n ∧ n % 2 = 0 ∧ ∃ l ∈ z.lines, l.n = n / 8)) →
        (o.fixed.map (·.1)).Nodup → ∀ e ∈ o.fixed, e.1 < 96 →
          z'.getReg 0 0 0 r e.1 = e.2.setWidth 32 ∧ z'.getReg 0 0 0 r.next e.1 = (e.2 >>> 32).setWidth 32))) ∧
  (∀ (s : State) (c : Ctx) (st : BitVec 2) (d : BitVec 8), s.Issues c (.quiet st d) → c.launch.replay = none →
    ∃ t c', exec (.quiet st d) s = .next t ∧ t.ctx? c.ref = some c' ∧ c.WaitsAt s t (.quiet (d.toNat - 0x40)) ∧ s.SameMemory t ∧
      c'.group.items = c.group.items &&& ~~~c.path.present) ∧
  ∀ (s : State) (x : Launch), s.launch? x.seq = some x →
    (s.quiescentNow x = false → exec (.quiescenceDeclared x.seq) s = .next s) ∧
    (∀ c d, s.quiescentNow x = true → x.quietPaths = [c.ref] → s.ctx? c.ref = some c → c.path.status = .waiting (.quiet d) → c.block.cluster.isSome = true → c.path.logged = none →
      c.group.freed = false → (∀ e ∈ c.group.reaches, e.at_ < s.cycle) →
      (∀ h ∈ c.group.hazards, h.path ≠ c.ref.path → h.ready < s.cycle ∨ (h.ready = s.cycle ∧ h.path < c.ref.path)) → d + 2 < 108 → ∃ t c', exec (.quiescenceDeclared x.seq) s = .next t ∧ t.ctx? c.ref = some c' ∧ c'.path.status = .ready ∧
        (c'.path.pc, c'.path.idx) = c.path.placeAfter c.path.rawSpan ∧ s.SameMemory t ∧
        (∀ j < 3, c'.reg (.scal (d + j)) 0 = BitVec.allOnes 32) ∧
        ∀ r l, l < 96 → r ∉ [LaneReg.scal d, .scal (d + 1), .scal (d + 2)] → c'.reg r l = c.reg r l)

/-! ### System words -/

/-- R249, R250, R251, R254, R255, R355: a lane of `tlbw` whose entry is acceptable installs it in place of every entry that overlaps it, a page that is not the
owner's is reported and an exception of its lane with KIND 2, an entry unacceptable otherwise with KIND 10, DETAIL 18, which comes first in a uniform
clause (R339); `tlbinv` removes the entries that map an address, or all, but the permanent ones, and waits while an
access that used one is in flight; the machine may drop an entry of its own accord. `orig` reads a word of each active lane's tag, zero without one;
`ctr` the counter of its number, of an owner counter a value that may trail by 64 cycles and never falls (R315); `wspill` writes the dirty lines of its range to the context image and
leaves them clean; while a tier cap holds the pump's writes the path waits at it (R292, R358; the model's reading: log entry 53). The model's
choice: a read of an owner counter may hold events of its own cycle (log entry 131). -/
def Obligations.SystemWords : Prop :=
  (∀ (s : State) (c : Ctx) (st : BitVec 2) (a : BitVec 8) (l : Nat), s.Issues c (.tlbw st a) → c.launch.replay = none → laneList c.path.selected = [l] →
    let i : Instr := .tlbw st a
    let f := s.fillWord c i a.toNat l
    let o := s.owner c.launch.owner
    let u := s.noteIssue c i (issueOf c i 0)
    (f.bad o = true → c.path.uniform = true → exec i s = .next (u.faultPath c ⟨10, 18, 0, 3⟩ false)) ∧
    (f.bad o = true → c.path.uniform = false → (f.low % 4 = 3 ∨ inTier f.pa = false ∨ s.refusedPage c.launch.owner f = none) →
      exec i s = .next (u.faultLanes c [(l, ⟨10, 18, 0, 3⟩)] false)) ∧
    (∀ pa, f.low % 4 ≠ 3 → inTier f.pa = true → s.refusedPage c.launch.owner f = some pa →
      (c.path.uniform = false →
        exec i s = .next ((u.report c.launch.owner (u.tagOf c l ⟨2, 0, pa, 7⟩) 0 1 c.launch.header.imageid).faultLanes c [(l, ⟨2, 0, pa, 7⟩)] false)) ∧
      (c.path.uniform = true → f.bad o = false → exec i s = .next
        ((u.report c.launch.owner (u.tagOf c c.path.namingLane ⟨2, 0, pa, 7⟩) 0 1 c.launch.header.imageid).faultPath c ⟨2, 0, pa, 7⟩ false))) ∧
    (f.bad o = false → (∀ k < f.size / 8192, s.pageAccepted c.launch.owner (f.pa + 8192 * k) f.wr = true) → c.launch.owner < s.owners.length →
      ∃ t c', exec i s = .next t ∧ t.ctx? c.ref = some c' ∧ c.Past s i 0 c' ∧ c.SameGroup c' [] ∧ s.SameMemory t ∧
        (t.owner c.launch.owner).tlb = ⟨f.va, f.pa, f.size, f.wr, false⟩ ::
          o.tlb.filter (fun e => e.permanent || !(decide (e.va < f.va + f.size) && decide (f.va < e.va + e.size))) ∧
        ∀ k, k ≠ c.launch.owner → (t.owner k).tlb = (s.owner k).tlb)) ∧
  (∀ (s : State) (c : Ctx) (st m : BitVec 2) (a : BitVec 8), s.Issues c (.tlbinv st m a) → c.launch.replay = none →
    let va := s.scalarOperand c a.toNat 0 64
    let gone (e : TlbEntry) : Bool := !e.permanent && (m == 1 || (decide (e.va ≤ va) && decide (va < e.va + e.size)))
    let busy := (s.ops.filter fun p => p.owner == c.launch.owner && p.uses ((s.owner c.launch.owner).tlb.filter gone)).map (·.id)
    ∃ t c', exec (.tlbinv st m a) s = .next t ∧ t.ctx? c.ref = some c' ∧ c.Past s (.tlbinv st m a) 0 c' ∧ (busy = [] → c.SameGroup c' []) ∧
      (∀ r lane, lane < 96 → c'.reg r lane = c.reg r lane) ∧ s.SameMemory t ∧
      (t.owner c.launch.owner).tlb = (s.owner c.launch.owner).tlb.filter (fun e => !gone e) ∧
      c'.path.status = if busy = [] then c.path.status else .waiting (.drain busy)) ∧
  (∀ (s : State) (o va : Nat), exec (.translationEntryDrop o va) s =
    .next (s.updOwner o fun w => { w with tlb := w.tlb.filter fun e => e.permanent || !(decide (e.va ≤ va) && decide (va < e.va + e.size)) })) ∧
  (∀ (s : State) (c : Ctx) (st : BitVec 2) (d : BitVec 8) (n : BitVec 3), s.Issues c (.orig st d n) →
    let i : Instr := .orig st d n
    let word (l : Nat) : Word := ((c.group.tags.find? fun t => t.lane == l).map fun t => t.words.getD n.toNat 0).getD 0
    ∃ t c', s.RegisterWord c i (if c.path.selected = 0 then [] else fieldRegs c.group.depth d.toNat 1) t c' ∧ c.SameFlags c' ∧ c.path.SameLast c'.path ∧
      (isS d.toNat = false → ∀ r ∈ fieldRegs c.group.depth d.toNat 1, ∀ l < 96, c'.reg r l = if c.path.selected.getLsbD l then word l else c.reg r l) ∧
      (isS d.toNat = true → ∀ l, lowest c.path.selected = some l → c.ScalarReadsAt c' (d.toNat - 0x40) (word l) ((issueOf c i 0).ends s.cycle + 1))) ∧
  (∀ (s : State) (c : Ctx) (st : BitVec 2) (d : BitVec 8) (n : BitVec 6), s.Issues c (.ctr st d n) → c.launch.replay = none →
    let o := s.owner c.launch.owner
    let now := (o.counters.get n.toNat).toNat
    ∃ t c', ∃ v : DWord, s.RegisterWord c (.ctr st d n) [.scal (d.toNat - 0x40), .scal (d.toNat - 0x40 + 1)] t c' ∧ c.SameFlags c' ∧
      c.path.SameLast c'.path ∧ (∀ j < 2, c.ScalarReads s c' (d.toNat - 0x40 + j) (v.extractLsb' (32 * j) 32)) ∧
      (n = 0 → v = BitVec.ofNat 64 s.cycle) ∧ (n = 3 → v = BitVec.ofNat 64 c.group.cResident) ∧ (n = 4 → v = BitVec.ofNat 64 c.group.cNoready) ∧
      (n = 5 → v = BitVec.ofNat 64 c.group.cHeld) ∧ (n = 48 → v = BitVec.ofNat 64 s.governor.limit) ∧ (n = 50 → v = BitVec.ofNat 64 s.governor.slot) ∧
      (((6 ≤ n.toNat ∧ n.toNat ≤ 15) ∨ n.toNat = 31 ∨ (36 ≤ n.toNat ∧ n.toNat ≤ 47) ∨ 51 ≤ n.toNat) → v = 0) ∧
      (16 ≤ n.toNat → n.toNat ≤ 30 → v.toNat ≤ now ∧ ((c.path.ctrSeen.get n.toNat).toNat ≤ now → (c.path.ctrSeen.get n.toNat).toNat ≤ v.toNat) ∧
        ∀ e, (o.trail.filter fun e => decide (e.1 + 64 ≤ s.cycle)).getLast? = some e → (e.2.get n.toNat).toNat ≤ now →
          (e.2.get n.toNat).toNat ≤ v.toNat)) ∧
  ∀ (s : State) (c : Ctx) (st : BitVec 2) (h : BitVec 1) (a : BitVec 8) (b : BitVec 7), s.Issues c (.wspill st h a b) → c.launch.replay = none →
    let i : Instr := .wspill st h a b
    let lo := s.scalarOperand c a.toNat 0 32
    let n := s.scalarOperand c (wide7 b) 2 32
    let hit (k : Nat) : Bool := decide (k < c.launch.header.stack) && (n == 0 || (decide (lo ≤ k) && decide (k < lo + n)))
    (c.launch.handler = none → (s.owner c.launch.owner).capHeld = true →
      ∃ t areas, exec i s = .next t ∧ c.WaitsAt s t (.wspill lo n areas) ∧ s.SameMemory t ∧ (h = 0 → areas = [])) ∧
    (c.launch.handler.isSome = true ∨ (s.owner c.launch.owner).capHeld = false →
    ∃ t c', exec i s = .next t ∧ t.ctx? c.ref = some c' ∧ c.Past s i 0 c' ∧ c.SameFlags c' ∧ (∀ r lane, lane < 96 → c'.reg r lane = c.reg r lane) ∧
      (∀ (k : Nat) (p : Path), c.group.paths[k]? = some p → ∃ p' : Path, c'.group.paths[k]? = some p' ∧ p'.standing.unordered = p.standing.unordered) ∧
      c'.group.lines = c.group.lines.map (fun l => { l with dirty := l.dirty && !hit l.n }) ∧
      ∀ k pa, h = 0 → s.Sound → s.transit = [] → c.group.unseen = [] → dieOf c.group.core < s.dies.length → (∀ j, j ≠ k → hit j = true → ∀ l ∈ c.group.lines, l.n = j → l.dirty = false) →
        hit k = true → (∃ l ∈ c.group.lines, l.n = k ∧ l.dirty = true) →
        (∀ j < 3072, s.imagePa c.launch c.block (c.launch.header.ctxOf c.block.slot c.group.index + lineOff k + j) = some (pa + j)) →
        t.readPhys (dieOf c.group.core) pa 3072 = c.group.lineBytes k ∧
        ∀ view q, ¬(view = dieOf c.group.core ∧ pa ≤ q ∧ q < pa + 3072) → t.readPhys view q 1 = s.readPhys view q 1)


/-! ### Lines, held paths, groups and handler groups -/

/-- R53, R58, R60, R362: the pump brings a line that is needed or lies in the window into a free place: it enters clean, as zeros when it was never
spilled, which a tier cap does not hold, else as its image holds it; other registers and memory stand, and paths that wait for it go on. Where the next
call could overflow the allotment it writes the lowest dirty line below the window to the image and leaves it clean (when that is: log entry 50). R115, R63, R153, R229, R231, R250, R347: a held path of a resident block goes on once what it waits for has drained, and waits on until then. R159, R259,
R291: a group without a present lane ends once its counters read zero: its lines are dropped unwritten and its writes reach every die (here with at
most one write in transit, and no report or waiting partner). -/
def Obligations.PumpAndGroups : Prop :=
  (∀ (s : State) (x : Launch) (y : Block) (z : Group) (l b g line : Nat), s.launch? l = some x → s.block? l b = some y → s.group? l b g = some z →
    y.cluster.isSome = true → z.freed = false →
    ((∀ e ∈ z.lines, e.n ≠ line) → s.pumpHeld x = true → line ∈ z.spilled → exec (.windowRefill l b g line) s = .next s) ∧
    ((∀ e ∈ z.lines, e.n ≠ line) → line < x.header.stack → (s.pumpHeld x = false ∨ line ∉ z.spilled) → z.done = false → z.lines.length < z.allot → s.linesHeld z.core < Config.storeLines →
      (z.needs line = true ∨ z.inWindow line = true) →
      ∃ t z', exec (.windowRefill l b g line) s = .next t ∧ t.group? l b g = some z' ∧ s.SameMemory t ∧
        z'.lines = z.lines ++ [⟨line, false, z.spilled.contains line && s.linePoisoned x y z line⟩] ∧
        (∀ n lane, n / 8 ≠ line → lane < 96 → z'.getReg 0 0 0 (.stack n) lane = z.getReg 0 0 0 (.stack n) lane) ∧
        (∀ j < 8, ∀ lane < 96, z'.getReg 0 0 0 (.stack (8 * line + j)) lane =
          if z.spilled.contains line then
            (bytesWords 768 (s.imageRead x y z.core (x.header.ctxOf y.slot z.index + lineOff line) 3072)).getD (96 * j + lane) 0
          else 0) ∧
        ∀ (k : Nat) (p : Path), z.paths[k]? = some p → ∃ p', z'.paths[k]? = some p' ∧
          (∀ ls, p.status = .waiting (.pump ls) → line ∈ ls → p' = { p with status := .ready }) ∧
          ((∀ ls, p.status = .waiting (.pump ls) → line ∉ ls) → p' = p)) ∧
    (z.lines.length + 8 ≤ z.allot ∨ z.depth ≤ line ∨ (∀ e ∈ z.lines, e.n = line → e.dirty = false) ∨ (∃ e ∈ z.lines, e.dirty = true ∧ e.n < line) ∨
      s.pumpHeld x = true → exec (.windowSpill l b g line) s = .next s) ∧
    ((∃ e ∈ z.lines, e.n = line ∧ e.dirty = true) → line < x.header.stack → line < z.depth → z.allot < z.lines.length + 8 →
      (∀ e ∈ z.lines, e.dirty = true → line ≤ e.n) → s.pumpHeld x = false → z.done = false → z.unseen = [] → s.transit = [] → s.Sound →
      ∃ t z', exec (.windowSpill l b g line) s = .next t ∧ t.group? l b g = some z' ∧ line ∈ z'.spilled ∧
        z'.lines = z.lines.map (fun e => { e with dirty := e.dirty && e.n != line }) ∧
        (∀ r lane, z'.getReg 0 0 0 r lane = z.getReg 0 0 0 r lane) ∧
        ∀ pa, (∀ j < 3072, s.imagePa x y (x.header.ctxOf y.slot z.index + lineOff line + j) = some (pa + j)) → dieOf z.core < s.dies.length →
          t.readPhys (dieOf z.core) pa 3072 = z.lineBytes line ∧
          ∀ view q, ¬(view = dieOf z.core ∧ pa ≤ q ∧ q < pa + 3072) → t.readPhys view q 1 = s.readPhys view q 1)) ∧
  (∀ (s : State) (c : Ctx), s.ctx? c.ref = some c → c.block.cluster = none → exec (.pathHoldRelease c.ref) s = .next s) ∧
  (∀ (s : State) (c : Ctx), s.ctx? c.ref = some c → c.block.cluster.isSome = true →
    (∀ k, c.path.status = .waiting (.counter k) → exec (.pathHoldRelease c.ref) s = .next (if c.group.sbCount k < 63 then s.setStatus c.ref .ready else s)) ∧
    (∀ ls, c.path.status = .waiting (.pump ls) → exec (.pathHoldRelease c.ref) s =
      .next (if ∀ n ∈ ls, n ∈ c.path.served ∨ ∃ e ∈ c.group.lines, e.n = n then s.setStatus c.ref .ready else s)) ∧
    (∀ lo n areas, c.path.status = .waiting (.wspill lo n areas) →
      (s.pumpHeld c.launch = true → exec (.pathHoldRelease c.ref) s = .next s) ∧
      (s.pumpHeld c.launch = false → ∃ t, exec (.pathHoldRelease c.ref) s = .next t ∧ c.GoesOn s t)) ∧
    (∀ ids, c.path.status = .waiting (.drain ids) → exec (.pathHoldRelease c.ref) s =
      .next (if ∃ o ∈ s.ops, o.id ∈ ids then s else s.setStatus c.ref .ready)) ∧
    (∀ k, c.path.status = .waiting (.mwait k) →
      (s.mmaPending c.ref c.group.core k = true → exec (.pathHoldRelease c.ref) s = .next s) ∧
      (s.mmaPending c.ref c.group.core k = false → ∃ t, exec (.pathHoldRelease c.ref) s = .next t ∧ c.GoesOn s t ∧ t.tiles = s.tiles)) ∧
    (∀ m, c.path.status = .waiting (.accFree m) →
      (s.mmaWrites c.group.core m = true → exec (.pathHoldRelease c.ref) s = .next s) ∧
      (s.mmaWrites c.group.core m = false → ∃ t, exec (.pathHoldRelease c.ref) s = .next t ∧ c.GoesOn s t ∧
        ∀ u ∈ s.tiles, u ∈ t.tiles ↔ ¬(u.core = c.group.core ∧ m.getLsbD u.t = true ∧ u.launch = c.ref.launch ∧ u.block = c.ref.block))) ∧
    (∀ m, c.path.status = .waiting (.latch m) → c.block.orphan c.group c.path = true →
      exec (.pathHoldRelease c.ref) s = .next (s.faultPath c ⟨10, 3, 0, 3⟩ false)) ∧
    (c.path.status = .waiting .clause →
      (c.group.waitClear c.path.header = false → exec (.clauseWaitClear c.ref) s = .next s) ∧
      (c.group.waitClear c.path.header = true → ∃ t c', exec (.clauseWaitClear c.ref) s = .next t ∧ t.ctx? c.ref = some c' ∧
        c'.path = { c.path with status := .ready } ∧ t = { s with launches := t.launches }))) ∧
  ∀ (s : State) (x : Launch) (y : Block) (z : Group) (l b g : Nat), s.launch? l = some x → s.block? l b = some y → s.group? l b g = some z →
    (z.done = false ∨ z.freed = true ∨ (∃ n ∈ z.sb, n ≠ 0) → exec (.groupEnd l b g) s = .next s) ∧
    (z.done = true → z.freed = false → (∀ n ∈ z.sb, n = 0) → y.violation = none → (∀ e ∈ y.groups, ∀ p ∈ e.paths, y.orphan e p = false) →
      ∃ t x' z', exec (.groupEnd l b g) s = .next t ∧ t.launch? l = some x' ∧ t.group? l b g = some z' ∧ z'.freed = true ∧ z'.lines = [] ∧
        x'.stamps = (if x'.allEnded then x.stamps.set 6 s.cycle else x.stamps) ∧ (s.transit = [] → s.SameMemory t) ∧
        ∀ w, s.transit = [w] → ofGroup ⟨l, b, g, 0⟩ w = true → w.atomic = false → s.dies.length = 5 → t.transit = [] ∧
          (∀ view < 5, view ∉ w.applied → t.readPhys view w.addr w.bytes.length = w.bytes) ∧
          ∀ view q, q < w.addr ∨ w.addr + w.bytes.length ≤ q → t.readPhys view q 1 = s.readPhys view q 1)

/-- R324 to R328, R330, R351 to R354: a collector that is empty, not due, or whose owner is not served, launches nothing; a fault that stops its owner stops
it; with no handler in the table the origins leave. One that is due, with a handler, a free
slot of its depth, a valid header and a core with room, launches one handler group: lane i stands for origin i, has its tag, and its DETAIL in `o0`;
the origins are in the handler's hands. A reserve that cannot be read, or a header that breaks its rules, stops the owner. -/
def Obligations.HandlerLaunch : Prop :=
  ∀ (s : State) (o depth : Nat) (walk : Bool),
    let i : Instr := .handlerCollectorLaunch o walk depth
    let all := s.collector o walk depth
    let gs := all.take 96
    (s.served o = false ∨ all = [] → exec i s = .next s) ∧
    (s.served o = true → all ≠ [] → ∀ t d image, s.stopOf all = some (t, d, image) → exec i s = .next (s.stopOwner o t d image)) ∧
    (s.served o = true → all ≠ [] → s.stopOf all = none →
      (∀ e, s.handlerOf o (if walk then 1 else 0) = .error e → exec i s = .next (s.stopOwner o (reserveTag e) (BitVec.ofNat 32 e.2.1) 0)) ∧
      (s.handlerOf o (if walk then 1 else 0) = .ok 0 → exec i s = .next (s.abandonAll o)) ∧
      (∀ va, s.handlerOf o (if walk then 1 else 0) = .ok va → va ≠ 0 → s.collectorDue gs = false → exec i s = .next s) ∧
      ∀ va slot bs, s.handlerOf o (if walk then 1 else 0) = .ok va → va ≠ 0 → s.collectorDue gs = true →
        ((s.owner o).slotsOf depth).find? (fun n => !((s.handlersOf o).any fun e => e.2.slot == n)) = some slot →
        (va % 64 ≠ 0 ∨ (s.owner o).withinReserve va 256 = false → exec i s =
          .next (s.stopOwner o (plainTag 12 (BitVec.ofNat 32 va) (BitVec.ofNat 32 (va / 2 ^ 32)) 0 0) 13 0)) ∧
        (va % 64 = 0 → (s.owner o).withinReserve va 256 = true → s.reserveRead o va 256 = .ok bs →
        let h := Header.ofWords (bytesWords 64 bs)
        ((s.owner o).handlerBad va h slot = true ∨ s.imageInside o h = false → exec i s =
          .next (s.stopOwner o (plainTag 12 (BitVec.ofNat 32 va) (BitVec.ofNat 32 (va / 2 ^ 32)) 0 0) 13 h.imageid)) ∧
        ∀ core, (s.owner o).handlerBad va h slot = false → s.imageInside o h = true → s.handlerCore o depth h.spadKiB gs = some core →
          (∀ q ∈ s.launches, q.seq ≠ s.nextSeq) →
          ∃ t x y z p, exec i s = .next t ∧ t.launches = s.launches ++ [x] ∧ x.seq = s.nextSeq ∧ t.nextSeq = s.nextSeq + 1 ∧ x.owner = o ∧
            x.handler = some ⟨walk, depth, slot, core⟩ ∧ x.blocks = [y] ∧ y.cluster = some (core / 4) ∧ y.groups = [z] ∧ z.core = core ∧
            z.paths[0]? = some p ∧ p.valid = true ∧ p.pc = h.image ∧ p.present = laneSet (List.range gs.length) ∧ s.SameMemory t ∧
            (∀ n g, gs[n]? = some g → ⟨n, g.id, g.detail, g.tag⟩ ∈ z.tags ∧ z.getReg 0 0 0 (.oper 0) n = g.detail) ∧
            t.origins = s.origins.map fun g => if g.id ∈ gs.map (·.id) then { g with state := .handled s.nextSeq } else g))


/-! ### Launches -/

/-- R305, R306, R391: a notify write at a queue's register moves TAIL: further on, back to what has not been read, or, past the ring's size, not at all,
and then raises cause 1 once in a metering period; it does nothing while the link is down or at an offset that is no queue's. R307: a slot that falls
free is freed before anything meets its queue, and a free slot takes the pending queue that has waited longest of the owner with the fewest slots for
its ISSUEW (here with distinct queue numbers). -/
def Obligations.HostQueues : Prop :=
  (∀ (s : State) (x : Queue) (v : Word), s.freeSlots.queue? x.n = some x →
    let u := s.freeSlots
    let i : Instr := .notifyWrite (notifyAt x.n) v
    let d := x.upTo v
    let lives := u.links.pcieUp = true ∧ (u.owner x.owner).valid = true
    (¬lives → exec i s = .next u) ∧
    (lives → d ≤ 2 ^ x.sizel2 → ∃ t x', exec i s = .next t ∧ t = { u with queues := t.queues } ∧ t.queue? x.n = some x' ∧
      (∀ q, q ≠ x.n → t.queue? q = u.queue? q) ∧ x'.head = x.head ∧ x'.bound = x.bound ∧
      x'.tail = (if x.upTo x.tail ≤ d then v else x.head + BitVec.ofNat 32 (max d (if x.reading.isSome then 1 else 0))) ∧
      x'.pendingSince = (if x.upTo x.tail = 0 then u.cycle else x.pendingSince) ∧
      ∀ j, x.upTo x.tail ≤ j → j < d → ((x.head + BitVec.ofNat 32 j).toNat, u.cycle) ∈ x'.announced) ∧
    (lives → 2 ^ x.sizel2 < d → x.n ∈ (u.owner x.owner).reportedQueues → exec i s = .next u) ∧
    (lives → 2 ^ x.sizel2 < d → x.n ∉ (u.owner x.owner).reportedQueues → x.owner < u.owners.length →
      ∃ t, exec i s = .next t ∧ t.queues = u.queues ∧ x.n ∈ (t.owner x.owner).reportedQueues ∧
        (u.links.masked.getLsbD (4 * x.owner + 1) = false → t.links.sent = u.links.sent ++ [4 * x.owner + 1]))) ∧
  (∀ (s : State) (offset : Nat) (v : Word), (∀ x ∈ s.queues, notifyAt x.n ≠ offset) → exec (.notifyWrite offset v) s = .next s.freeSlots) ∧
  (∀ s : State, (s.queues.map (·.n)).Nodup →
    let u := s.freeSlots
    let full := Config.queueSlots ≤ u.queues.countP (·.bound)
    (full ∨ u.nextOwner.bind u.nextQueue = none → exec .queueSlotBind s = .next u) ∧
    (∀ x, ¬full → u.nextOwner.bind u.nextQueue = some x → ∃ t, exec .queueSlotBind s = .next t ∧ t = { u with queues := t.queues } ∧
      t.queue? x.n = some { x with bound := true, readHere := 0 } ∧ ∀ q, q ≠ x.n → t.queue? q = u.queue? q) ∧
    ∀ x ∈ s.queues, u.queue? x.n = some (if s.slotFrees x then { x with bound := false, readHere := 0, pendingSince := s.cycle } else x)) ∧
  ∀ s : State,
    (∀ x, s.slotFrees x = true ↔ x.bound = true ∧ x.reading = none ∧ ((x.head = x.tail ∧ s.allPlaced x.n = true) ∨
      64 ≤ x.readHere ∧ ∃ y ∈ s.queues, y.pending = true ∧ y.owner ≠ x.owner ∧ s.served y.owner = true)) ∧
    (∀ x o, s.nextQueue o = some x → x ∈ s.queues ∧ x.pending = true ∧ x.owner = o ∧
      ∀ y ∈ s.queues, y.pending = true → y.owner = o → x.pendingSince ≤ y.pendingSince) ∧
    ∀ o, (∀ p, s.served p = true → 0 < (s.owner p).record.issuew) → s.nextOwner = some o →
      let waits (p : Nat) : Prop := s.served p = true ∧ ∃ x ∈ s.queues, x.pending = true ∧ x.owner = p
      waits o ∧ ∀ p < Config.owners, waits p →
        s.boundSlots o * (s.owner p).record.issuew ≤ s.boundSlots p * (s.owner o).record.issuew

/-- R268, R270, R304, R305, R332: the entry at HEAD of a bound queue names a header: HEAD advances and its launch enters stage 3, or is refused. R246, R271: a
launch holds its wells from its first test in stage 3 and leaves it once its dependence word has reached DEPVAL. R272 to R276, R356, R366: stage 4 finds the launch's code in the
cache, or writes what the specialiser builds to a free place and notes it there. -/
def Obligations.LaunchStages : Prop :=
  (∀ (s : State) (x : Queue), s.freeSlots.queue? x.n = some x →
    let i : Instr := .launchHeaderRead x.n
    let u := s.freeSlots
    let seq := x.reading.elim s.nextSeq (·.1)
    (x.bound = false ∨ x.head = x.tail ∨ s.served x.owner = false ∨ (∃ g ∈ s.origins, g.source = .headerRead x.n) → exec i s = .next u) ∧
    ∀ ws, x.bound = true → x.head ≠ x.tail → s.served x.owner = true → (∀ g ∈ s.origins, g.source ≠ .headerRead x.n) →
      s.stageWords x.owner (x.ring + 16 * (x.head.toNat % 2 ^ x.sizel2)) 2 = .ok ws →
      let addr := dwordAt ws 0
      (addr % 64 ≠ 0 → ∃ t x', exec i s = .next t ∧ t.launches = s.launches ∧ t.queue? x.n = some x' ∧ x'.head = x.head + 1 ∧ x'.reading = none) ∧
      ∀ hs, addr % 64 = 0 → s.stageWords x.owner addr 64 = .ok hs → (∀ y ∈ s.launches, y.seq ≠ seq) →
        ∃ t x' l, exec i s = .next t ∧ t.queue? x.n = some x' ∧ x'.head = x.head + 1 ∧ x'.reading = none ∧ t.launch? seq = some l ∧
          l.owner = x.owner ∧ l.queue = some x.n ∧ l.header = Header.ofWords hs ∧ l.blocks = [] ∧
          l.stage = if u.headerDetail x.owner (Header.ofWords hs) = none then .dependence else .refused) ∧
  (∀ (s : State) (x : Launch), s.launch? x.seq = some x →
    let i : Instr := .dependenceMet x.seq
    let wells := if x.wellsHeld then .ok [] else s.newWells x
    let held (ws : List WellState) (x' : Launch) (t : State) : Prop :=
      exec i s = .next t ∧ t.launch? x.seq = some x' ∧ (t.owner x.owner).wells = (s.owner x.owner).wells ++ ws
    let going (ws : List WellState) : Prop :=
      ∃ t, held ws { x with wellsHeld := true, stage := .specialise, stamps := x.stamps.set 2 s.cycle } t
    (x.stage ≠ .dependence ∨ s.served x.owner = false → exec i s = .next s) ∧
    (x.stage = .dependence → s.served x.owner = true → (∀ g ∈ s.origins, g.source ≠ .launchRead x.seq) →
      (wells = .error .broken → ∃ t l, exec i s = .next t ∧ t.launch? x.seq = some l ∧ l.stage = .refused) ∧
      ∀ ws, wells = .ok ws →
        (x.header.depaddr = 0 → going ws) ∧
        ∀ v, x.header.depaddr ≠ 0 → s.stageWords x.owner x.header.depaddr 1 = .ok [v] →
          (v.toNat < x.header.depval.toNat → ∃ t, held ws { x with wellsHeld := true } t ∧ s.SameMemory t) ∧
          (x.header.depval.toNat ≤ v.toNat → going ws))) ∧
  ∀ (s : State) (x : Launch), s.launch? x.seq = some x →
    let i : Instr := .specialise x.seq
    let o := s.owner x.owner
    (x.stage ≠ .specialise ∨ s.served x.owner = false ∨ o.throttled = true → exec i s = .next s) ∧
    (x.stage = .specialise → s.served x.owner = true → o.throttled = false → (∀ g ∈ s.origins, g.source ≠ .launchRead x.seq) →
      (∀ e, o.cache.find? (fun e => e.key == x.header.key) = some e → ∃ t, exec i s = .next t ∧ s.SameMemory t ∧
        t.launch? x.seq = some { x with
          stage := .ramp, cacheHit := true, cacheKey := some e.key, entryProd := e.entryProd, entryCons := e.entryCons, maxClass := e.maxClass
          stamps := x.stamps.set 3 s.cycle }) ∧
      ∀ cs r a, o.cache.find? (fun e => e.key == x.header.key) = none → s.reach x.owner 262144 [x.header.entries.1, x.header.entries.2] [] = .ok cs →
        clauseWords cs ≤ 65536 → specialise x.header cs (loopCount cs) = some r → o.place (12 * r.code.length) = some a →
        ∃ t l e, exec i s = .next t ∧ t.launch? x.seq = some l ∧ l.stage = .ramp ∧ l.cacheHit = false ∧ l.entryProd = a + 4 * r.entryProd ∧
          l.entryCons = a + 4 * r.entryCons ∧ l.cacheKey = some x.header.key ∧ (t.owner x.owner).cache = o.cache ++ [e] ∧ e.key = x.header.key ∧
          e.base = a ∧ e.words = r.code.length ∧
          ∀ pa, (∀ j < r.bytes.length, s.vaRead x.owner (a + j) = some (pa + j)) → ∀ view < s.dies.length,
            t.readPhys view pa r.bytes.length = r.bytes)

/-- R279, R282, R283, R368: the next block in order enters stage 6 while the steps admitted in the ramp slot, and the rises expected in it, stay within
LIMIT; a pinned launch enters whole in a slot begun after it left stage 4, whatever waits before it, or is refused. R39, R232, R269, R283 to R285, R332,
R336, R360: a placed block takes its cluster, image slot and entry state; a launch that can fit no more is refused; a co-resident launch is placed
whole; a returning block comes back with its tiles (here without marked storage). What rises are expected: log entry 82. R240, R271, R309, R319: once every block of a launch has ended, its
engine records included, its completion word is written at every observer, and cause 0 raised if the word reached memory. -/
def Obligations.BlocksAndCompletion : Prop :=
  (∀ (s : State) (x : Launch) (b : Nat), s.launch? x.seq = some x →
    let i : Instr := .blockAdmit x.seq b
    let g := s.governor
    let pinned := x.header.pinned = true ∧ x.blocks = []
    let total := x.step * x.header.blocks
    (¬pinned → s.nextAdmit ≠ some (x.seq, b) ∨ 100 * g.limit < g.admitted + s.expectedRises + x.step → exec i s = .next s) ∧
    (¬pinned → s.nextAdmit = some (x.seq, b) → g.admitted + s.expectedRises + x.step ≤ 100 * g.limit →
      ∃ t y, exec i s = .next t ∧ t.governor = { g with admitted := g.admitted + x.step } ∧
        t.block? x.seq b = some y ∧ y.admitted = some g.slot ∧ s.SameMemory t) ∧
    (pinned → s.pinnedWaits x = false → exec i s = .next s) ∧
    (pinned → s.pinnedWaits x = true →
      (g.admittedPinned + total ≤ 100 * g.limit →
        ∃ t, exec i s = .next t ∧ t.governor = { g with admitted := g.admitted + total, admittedPinned := g.admittedPinned + total } ∧
          ∀ n < x.header.blocks, ∃ y, t.block? x.seq n = some y ∧ y.admitted = some g.slot) ∧
      (100 * g.limit < g.admittedPinned + total → ∃ t l, exec i s = .next t ∧ t.launch? x.seq = some l ∧ l.stage = .refused ∧ t.governor = g)) ∧
    (s.pinnedWaits x = true ↔ pinned ∧ x.handler = none ∧ x.stage = .ramp ∧ s.served x.owner = true ∧ x.stamps.getD 3 0 ≤ g.slotStart)) ∧
  (∀ (s : State) (x : Launch) (y : Block), s.launch? x.seq = some x → s.block? x.seq y.index = some y →
    let i : Instr := .blockPlace x.seq y.index
    let first := s.inStages.find? fun u => s.canPlace u
    (s.fitsNoMore x y = true → ∃ t l, exec i s = .next t ∧ t.launch? x.seq = some l ∧ l.stage = .refused) ∧
    (s.fitsNoMore x y = false →
      (∀ n va kind, s.lookupNext x = some (n, va, kind) → exec i s = .next (if n = y.index then s.lookupMiss x y.index va kind else s)) ∧
      (s.lookupNext x = none → (∀ u, first = some u → u.seq ≠ x.seq) → exec i s = .next s) ∧
      (s.lookupNext x = none → first = some x → x.header.coresident = true →
        ∃ t, exec i s = .next t ∧ ∀ u ∈ x.together, ∃ u', t.block? x.seq u.index = some u' ∧ u'.cluster.isSome = true) ∧
      (s.lookupNext x = none → first = some x → x.header.coresident = false → s.headBlock x = some y →
        (∀ slot images k, y.unplaced = true → x.freeSlot = some slot → s.lookupImages x slot = .ok images → s.roomFor x y = some k →
          ∃ t y', exec i s = .next t ∧ t.block? x.seq y.index = some y' ∧ y'.cluster = some k ∧ y'.slot = slot ∧ y'.images = images ∧ y'.spad = [] ∧
            s.SameMemory t ∧ y'.groups.map (fun z => (z.index, z.core)) = (List.range x.header.groups).map (fun n => (n, 4 * k + n % 4)) ∧
            ∀ z ∈ y'.groups, z.mode = x.header.mode ∧ ∃ p, z.paths[0]? = some p ∧ p.present = x.header.presentOf z.index ∧
              (z.done = true ↔ x.header.presentOf z.index = 0) ∧ (z.done = false → p.valid = true ∧ p.pc = x.entryOf z.index)) ∧
        (∀ k, y.unplaced = false → s.roomFor x y = some k → s.poison = [] → (∀ z ∈ y.groups, ∀ r ∈ z.lines, r.poison = false) →
          ∃ t y', exec i s = .next t ∧ t.block? x.seq y.index = some y' ∧ y'.cluster = some k ∧ y'.savedTiles = [] ∧
            t.tiles.length = s.tiles.length + y.savedTiles.length)))) ∧
  ∀ (s : State) (x : Launch), s.launch? x.seq = some x →
    let i : Instr := .launchComplete x.seq
    let a := x.header.doneaddr
    (x.stage ≠ .placing ∨ x.handler.isSome = true ∨ x.over = false ∨ s.served x.owner = false → exec i s = .next s) ∧
    (x.stage = .placing → x.handler = none → x.over = true → s.served x.owner = true →
      ∃ t, exec i s = .next t ∧ t.launch? x.seq = some { x with stage := .complete, stamps := x.stamps.set 7 s.cycle } ∧
        (a = 0 ∨ (∃ j < 4, s.vaWrite x.owner (a + j) = none) → t.links = s.links) ∧
        (a ≠ 0 → (∀ j < 4, s.vaWrite x.owner (a + j) ≠ none) → s.links.masked.getLsbD (4 * x.owner) = false → s.links.pcieUp = true →
          t.links.sent = s.links.sent ++ [4 * x.owner]) ∧
        ∀ pa, a ≠ 0 → (∀ j < 4, s.vaWrite x.owner (a + j) = some (pa + j)) → ∀ view < s.dies.length,
          t.readPhys view pa 4 = leBytes 4 x.header.doneval.toNat)


/-! ### The governor -/

/-- R277, R278, R282: a ramp slot that is over ends with the larger of its sum and the telemetry as its estimate; LIMIT, bits [8:0] clamped to 40 to 400, changes
at a slot boundary, where every pinned launch that waits enters or is refused. R280, R282, R288: once in a cycle the governor plans its draw and, in
rotation from the core held last, holds cores without a pinned launch until the plan fits the ceiling or none is left; the beats due on a held core
come a cycle later. R281: while the draw lies below the floor, ballast issues on behalf of waiting groups, on pipes that no word holds or wants, until
the floor is reached, counted to owner and launch. -/
def Obligations.PowerGovernor : Prop :=
  (∀ (s : State) (w : Nat), let g := s.governor
    (s.cycle < g.slotStart + 3000 → exec (.rampSlotBoundary w) s = .next s) ∧
    (g.slotStart + 3000 ≤ s.cycle → ∃ t, exec (.rampSlotBoundary w) s = .next t ∧ t.governor.slot = g.slot + 1 ∧
      t.governor.slotStart = g.slotStart + 3000 ∧ t.governor.previous = g.estimate ∧ t.governor.estimate = max g.sum (3000 * w) ∧
      t.governor.sum = 0 ∧ t.governor.limit = g.limitNext.getD g.limit ∧ t.governor.limitNext = none ∧
      t.governor.admitted = t.governor.admittedPinned ∧ t.governor.admittedPinned ≤ 100 * t.governor.limit ∧
      ∀ x, s.launch? x.seq = some x → x.header.pinned = true → x.handler = none → x.stage = .ramp → x.blocks = [] → s.served x.owner = true →
        x.stamps.getD 3 0 ≤ g.slotStart + 3000 → 0 < x.header.blocks →
        ∃ x', t.launch? x.seq = some x' ∧ (x'.stage = .placing ∨ x'.stage = .refused))) ∧
  (∀ (s : State) (v : Word), ∃ t n, exec (.governorLimitWrite v) s = .next t ∧ t = { s with governor := t.governor } ∧
    t.governor = { s.governor with limitNext := some n } ∧ (v.toNat % 512 < 40 → n = 40) ∧ (400 < v.toNat % 512 → n = 400) ∧
    (40 ≤ v.toNat % 512 → v.toNat % 512 ≤ 400 → n = v.toNat % 512)) ∧
  (∀ s : State,
    let planned := s.fixedDraw + (s.busyCores.map s.corePlan).sum
    let mayHold (c : Nat) : Prop := s.pinnedCore c = false ∧ 0 < s.corePlan c
    (s.governor.heldAt = s.cycle → exec .governorHold s = .next s) ∧
    (s.governor.heldAt ≠ s.cycle →
      ∃ t H, exec .governorHold s = .next t ∧ s.SameMemory t ∧ t.governor.heldAt = s.cycle ∧ t.governor.heldCores = H ∧ H.Nodup ∧
        (∀ c ∈ H, c ∈ s.busyCores ∧ mayHold c) ∧ (planned * 3000 ≤ s.governor.ceiling → H = []) ∧
        ((planned - (H.map s.corePlan).sum) * 3000 ≤ s.governor.ceiling ∨ ∀ c ∈ s.busyCores, mayHold c → c ∈ H) ∧
        t.governor.lastHeld = H.getLast?.getD s.governor.lastHeld ∧
        (∀ c ∈ H, c ≤ s.governor.lastHeld → ∀ d ∈ s.busyCores, mayHold d → s.governor.lastHeld < d → d ∈ H) ∧
        (H = [] → t.launches = s.launches) ∧
        ∀ c, H = [c] → ∀ e ∈ s.groupsOn c, e.1.owner < s.owners.length →
          (t.owner e.1.owner).counters.get 17 = (s.owner e.1.owner).counters.get 17 + 1 ∧
          ∀ d d', s.ctx? d.ref = some d → d.ref.launch = e.1.seq → d.ref.block = e.2.1.index → d.ref.group = e.2.2.index → t.ctx? d.ref = some d' →
            (d.path.beatDue s.cycle = true → d'.path.nextIssue = d.path.nextIssue + 1 ∧ d'.path.pipeEnd = d.path.pipeEnd + 1) ∧
            (d.path.beatDue s.cycle = false → d'.path = d.path))) ∧
  ∀ s : State,
    let g := s.governor
    (g.ballastAt = s.cycle ∨ g.floor ≤ s.draw * 3000 → exec .ballastIssue s = .next s) ∧
    (g.ballastAt ≠ s.cycle → s.draw * 3000 < g.floor →
      ∃ t beats rest, exec .ballastIssue s = .next t ∧ s.SameMemory t ∧ s.ballastBeats = beats ++ rest ∧
        (rest = [] ∨ g.floor ≤ (s.draw + (beats.map (·.2)).sum) * 3000) ∧
        (∀ bs b, beats = bs ++ [b] → (s.draw + (bs.map (·.2)).sum) * 3000 < g.floor) ∧
        t.governor.ballastAt = s.cycle ∧ t.governor.sum = g.sum + (beats.map (·.2)).sum ∧
        (∀ o < s.owners.length, (t.owner o).counters.get 18 = (s.owner o).counters.get 18 +
          beats.countP (fun b => (s.launch? b.1).elim false fun x => x.owner == o)) ∧
        ∀ x, s.launch? x.seq = some x → t.launch? x.seq = some { x with ballast := x.ballast + beats.countP fun b => b.1 == x.seq }) ∧
    (∀ b ∈ s.ballastBeats, ∃ core ∈ s.busyCores, ∃ e ∈ s.groupsOn core, e.2.2.allWait = true ∧ b = (e.1.seq, classWeight e.2.2.lastClass) ∧
      0 < b.2 ∧ 0 < s.freePipes core) ∧
    ∀ core, s.coreHeld core = false → s.freePipes core ≤ 4 - s.pipesHeld core


/-! ### Owner services -/

/-- R335, R336, R354, R388, R390, R408: a block whose owner is stopped, reset or migrating, or whose core is in repair, loses its residency, its tiles and its
reservations, a co-resident launch whole. R44, R284, R335, R352, R359: so do the faulted, quiet, throttled or lower-PRIO victims that make room for the
first waiting block of which any do, a throttled one only where it makes that room by itself. R364: so does a younger block that holds what the oldest request of a core has waited for through 3000 cycles.
R337: 60,000 stuck cycles make a block faulted. -/
def Obligations.Preemption : Prop :=
  (∀ (s : State) (x : Launch) (y : Block) (cause : PreemptCause), s.launch? x.seq = some x → s.block? x.seq y.index = some y →
    cause = .ownerStop ∨ cause = .ownerReset ∨ cause = .migration ∨ cause = .repair →
    let i : Instr := .preempt x.seq y.index cause
    let must := y.cluster.isSome = true ∧ x.handler = none ∧
      ((cause = .ownerStop ∧ (s.owner x.owner).stopped = true) ∨ (cause = .ownerReset ∧ (s.owner x.owner).valid = false) ∨
       (cause = .migration ∧ (s.owner x.owner).migrating.isSome = true ∧ s.handlersOf x.owner = []) ∨
       (cause = .repair ∧ ∃ c, s.firmware.inRepair = some c ∧ y.cluster = some (c / 4)))
    (¬must → exec i s = .next s) ∧
    (must → ∃ t, exec i s = .next t ∧
      ∀ v, v = (x.seq, y.index) ∧ x.header.coresident = false ∨
        (∃ u ∈ x.blocks, x.header.coresident = true ∧ u.unfinished = true ∧ v = (x.seq, u.index) ∧ s.block? x.seq u.index = some u ∧
          u.cluster.isSome = true) →
        t.Left v ∧ (∀ u ∈ t.tiles, ¬(u.launch = v.1 ∧ u.block = v.2)) ∧ ∀ u ∈ t.reservations, ¬(u.launch = v.1 ∧ u.block = v.2))) ∧
  (∀ (s : State) (v : Nat × Nat) (cause : PreemptCause), s.Stands v →
    cause = .faulted ∧ (∀ q, s.padPlan = some q → v ∉ q) ∨ cause = .quiet ∨ cause = .throttling ∨ cause = .prio →
    (∀ p, s.preemptPlan = some (cause, p) → v ∈ p → ∃ t, exec (.preempt v.1 v.2 cause) s = .next t ∧ ∀ u ∈ p, s.Stands u → t.Left u) ∧
    ((∀ p, s.preemptPlan = some (cause, p) → v ∉ p) → exec (.preempt v.1 v.2 cause) s = .next s)) ∧
  (∀ (s : State) (v : Nat × Nat) (p : List (Nat × Nat)), s.Stands v → s.padPlan = some p → v ∈ p →
    ∃ t, exec (.preempt v.1 v.2 .faulted) s = .next t ∧ ∀ u ∈ p, s.Stands u → t.Left u) ∧
  (∀ (s : State) (v : Nat × Nat),
    (∀ p, s.preemptPlan = some (.throttling, p) → v ∈ p → ∃ t, exec (.throttlingVictim v.1 v.2) s = .next t ∧ ∀ u ∈ p, s.Stands u → t.Left u) ∧
    ((∀ p, s.preemptPlan = some (.throttling, p) → v ∉ p) → exec (.throttlingVictim v.1 v.2) s = .next s)) ∧
  (∀ (s : State) (cause : PreemptCause) (p : List (Nat × Nat)), s.preemptPlan = some (cause, p) → ∃ w ∈ s.waiters, s.planFor w cause = some p ∧
    (∀ c q, s.planFor w c = some q → c = cause ∨ cause = .faulted ∨ c = .prio ∨ (c = .throttling ∧ cause = .quiet)) ∧
    ∀ v ∈ p, ∃ x ∈ s.launches, v.1 = x.seq ∧ x.handler = none ∧ ∃ y ∈ x.blocks, y.cluster.isSome = true ∧
      (v.2 = y.index ∨ x.header.coresident = true) ∧
      (cause = .throttling → x.owner ≠ w.owner ∧ (s.owner x.owner).throttled = true ∧ 60000 ≤ (s.owner x.owner).throttledFor ∧
        x.header.pinned = false ∧ x.header.coresident = false ∧ ∃ k, y.cluster = some k ∧ (s.preemptBlock x.seq y.index).roomOn w.seq k = true) ∧
      (cause = .prio → x.owner = w.owner ∧ x.header.prio < w.header.prio ∧ x.header.pinned = false) ∧
      (cause = .quiet → x.seq = w.seq ∧ x.header.coresident = false ∧ s.blockQuiet x y = true) ∧
      (cause = .faulted → y.faulted = true ∨ 60000 ≤ y.stall ∧ s.stuck x y = true)) ∧
  (∀ (s : State) (core : Nat),
    (s.longOldest core = none → exec (.contentionPreempt core) s = .next s) ∧
    (∀ r, s.longOldest core = some r →
      s.oldestRequest core = some r.ref ∧ r ∈ s.requests core ∧ ∃ n, 3000 ≤ n ∧ (core, r.ref, n) ∈ s.contention) ∧
    ∀ (r : Request) (w x : Launch) (y : Block), s.longOldest core = some r → s.launch? r.ref.launch = some w → s.launch? x.seq = some x →
      s.block? x.seq y.index = some y → y.holds (core / 4) = true → x.handler = none → x.header.pinned = false → x.header.coresident = false →
      (x.seq, y.index) ≠ (r.ref.launch, r.ref.block) → lexLt (w.ageKey ++ [r.ref.block]) (x.ageKey ++ [y.index]) = true →
      s.holdsFor core r x.seq y.index = true →
      (∃ t, exec (.contentionPreempt core) s = .next t ∧ t.Left (x.seq, y.index)) ∧
      ((∀ c < core, s.longOldest c = none) → core < Config.cores →
        ∃ t, exec (.preempt x.seq y.index .contention) s = .next t ∧ t.Left (x.seq, y.index))) ∧
  ∀ (s : State) (x : Launch) (l b : Nat) (y : Block), s.launch? l = some x → s.block? l b = some y →
    (60000 ≤ y.stall → s.stuck x y = true →
      ∃ t, exec (.faultedBlock l b) s = .next t ∧ t = { s with launches := t.launches } ∧ t.block? l b = some { y with faulted := true }) ∧
    (y.stall < 60000 ∨ s.stuck x y = false →
      ∃ t, exec (.faultedBlock l b) s = .next t ∧ t = { s with launches := t.launches } ∧ t.block? l b = some y)

/-- R300, R316, R356 to R358, R392: at a period boundary the caps reset and the written controls take effect; an owner that reaches ISSUECAP is throttled, one whose
handlers reach RSVTIME while it is throttled is held altogether, one that reaches a tier's cap has its traffic held. R369 to R371: a launch whose watch
count reaches its owner's limit ends: every group ends, and the owner is told. -/
def Obligations.CapsAndWatchdog : Prop :=
  (∀ (s : State), (s.cycle < (s.period + 1) * 300000 → exec .meteringPeriodBoundary s = .next s) ∧
    ((s.period + 1) * 300000 ≤ s.cycle → ∃ t, exec .meteringPeriodBoundary s = .next t ∧ t = { s with period := s.period + 1, owners := t.owners, launches := t.launches } ∧
      (∀ (r : PathRef) (x : Launch) (p : Path), s.launch? r.launch = some x → s.path? r = some p → ∃ q : Path, t.path? r = some q ∧
        q = { p with ctrSeen := q.ctrSeen } ∧
        ∀ k, q.ctrSeen.get (32 + k) = if k ∈ (s.owner x.owner).selWritten then 0 else p.ctrSeen.get (32 + k)) ∧
      ∀ o, ((s.owner o).valid = false → t.owner o = s.owner o) ∧
        ((s.owner o).valid = true →
          (t.owner o).controls = { (s.owner o).pending with dwin := (s.owner o).windowBase (s.owner o).pending.dwin } ∧
          (t.owner o).throttled = false ∧ (t.owner o).throttledFor = 0 ∧ (t.owner o).rsvSpent = false ∧ (t.owner o).capHeld = false ∧
          (t.owner o).periodIssued = 0 ∧ (t.owner o).periodHbm = 0 ∧ (t.owner o).periodRes = 0 ∧ (t.owner o).periodHandler = 0 ∧ (t.owner o).periodEngine = 0 ∧
          (t.owner o).reportedQueues = [] ∧ (t.owner o).reportedPages = [] ∧
          ∀ k, (t.owner o).counters.get (32 + k) = if k ∈ (s.owner o).selWritten then 0 else (s.owner o).counters.get (32 + k)))) ∧
  (∀ (s : State) (o : Nat), o < s.owners.length → let w := s.owner o
    (∃ t, exec (.issueThrottle o) s = .next t ∧ s.OwnerOnly t o fun w => { w with
      throttled := w.throttled || (w.valid && decide (w.record.issuecap ≠ 0 ∧ w.record.issuecap ≤ w.periodIssued)) }) ∧
    (∃ t, exec (.rsvtimeExhausted o) s = .next t ∧ s.OwnerOnly t o fun w => { w with
      rsvSpent := w.rsvSpent || (w.throttled && decide (w.record.rsvtime ≤ w.periodHandler)) }) ∧
    ∃ t, exec (.bandwidthCapHold o) s = .next t ∧ s.OwnerOnly t o fun _ => { w with
      capHeld := w.capHeld || (w.valid && decide ((w.record.hbmbw ≠ 0 ∧ w.record.hbmbw * 100000 ≤ w.periodHbm) ∨
        (w.record.resbw ≠ 0 ∧ w.record.resbw * 100000 ≤ w.periodRes))) }) ∧
  ∀ (s : State) (x : Launch), s.launch? x.seq = some x →
    let w := (s.owner x.owner).record.wdog
    let due := w ≠ 0 ∧ 2 ^ (if 24 ≤ w ∧ w ≤ 40 then w else 40) ≤ x.watch ∧ x.handler = none ∧ x.stage ≠ .refused ∧ x.stage ≠ .complete
    (¬due → exec (.watchdogExpire x.seq) s = .next s) ∧
    (due → ∃ t x', exec (.watchdogExpire x.seq) s = .next t ∧ t.launch? x.seq = some x' ∧ x'.stage = .refused ∧
      (∀ y ∈ x'.blocks, ∀ z ∈ y.groups, z.done = true) ∧
      (s.links.masked.getLsbD (4 * x.owner + 1) = false → s.links.pcieUp = true → t.links.sent = s.links.sent ++ [4 * x.owner + 1]))


/-! ### Host windows, controls and samples -/

/-- R317, R318: a sample of a core is taken every 256 × SPERIOD cycles and written to the owner's ring with its index advanced, or, where the ring is full,
counted as dropped. R316, R392: a written selection or control register waits for the next period boundary, and nothing is written while the link is
down. R305: a read of a notify register gives HEAD. R303, R387: a window gives and takes the bytes of pages the owner holds; others read as zero and
keep their bytes (of memory here where no report lands in it; of bytes behind a port out of service, or marked, nothing is said). The model's
choices: which path a sample names and its reason (log entry 93), values out of range of a control (log entry 94), a ring without a translation (log
entry 132). -/
def Obligations.HostAccess : Prop :=
  (∀ (s : State) (core o : Nat), let k := (s.owner o).controls
    let i : Instr := .sampleWrite core o
    (k.speriod = 0 ∨ s.cycle % (256 * k.speriod) ≠ 0 → exec i s = .next s) ∧
    ∀ c w r, k.speriod ≠ 0 → s.cycle % (256 * k.speriod) = 0 → s.samplePath core o (s.cycle / (256 * k.speriod)) = some c →
      s.wordVirt o k.sring = some w → s.wordVirt o (k.sring + 4) = some r →
      ((w - r).toNat = 2 ^ k.srsize → ∃ t, exec i s = .next t ∧ s.SameMemory t ∧
        (t.owner o).counters.get 30 = (s.owner o).counters.get 30 + 1) ∧
      ((w - r).toNat ≠ 2 ^ k.srsize → ∃ t, exec i s = .next t ∧ t.launches = s.launches ∧
        ∀ pa pb, (∀ j < 32, s.vaWrite o (k.sring + 64 + 32 * (w.toNat % 2 ^ k.srsize) + j) = some (pa + j)) →
          (∀ j < 4, s.vaWrite o (k.sring + j) = some (pb + j)) → pa + 32 ≤ pb ∨ pb + 4 ≤ pa → ∀ view < s.dies.length,
          t.readPhys view pa 32 = s.sampleRecord c ∧ t.readPhys view pb 4 = leBytes 4 (w + 1).toNat)) ∧
  (∀ (s : State) (page k offset o : Nat) (v : Word), s.pageOwner page = some o → o < s.owners.length →
    (s.links.pcieUp = false → exec (.samplingSelectWrite page k v) s = .next s ∧ exec (.controlRegisterWrite page offset v) s = .next s) ∧
    (s.links.pcieUp = true → k < 4 → (s.owner o).pending.sel.length = 4 → ∃ t, exec (.samplingSelectWrite page k v) s = .next t ∧
      t = { s with owners := t.owners } ∧ (t.owner o).controls = (s.owner o).controls ∧ k ∈ (t.owner o).selWritten ∧
      (t.owner o).pending.sel[k]? = some (v.toNat % 256) ∧ ∀ j, j ≠ k → (t.owner o).pending.sel[j]? = (s.owner o).pending.sel[j]?) ∧
    (s.links.pcieUp = true → ∃ t, exec (.controlRegisterWrite page offset v) s = .next t ∧ t = { s with owners := t.owners } ∧
      (t.owner o).controls = (s.owner o).controls ∧ (t.owner o).pending.sel = (s.owner o).pending.sel ∧
      (t.owner o).pending.speriod = (if offset = 0x810 then v.toNat % 2 ^ 24 else (s.owner o).pending.speriod) ∧
      (t.owner o).pending.srsize = (if offset = 0x820 then v.toNat % 32 else (s.owner o).pending.srsize) ∧
      (t.owner o).pending.trsize = (if offset = 0x830 then v.toNat % 32 else (s.owner o).pending.trsize) ∧
      (offset = 0x818 → (t.owner o).pending.sring = (s.owner o).pending.sring / 2 ^ 32 * 2 ^ 32 + v.toNat) ∧
      (offset = 0x81C → (t.owner o).pending.sring = v.toNat * 2 ^ 32 + (s.owner o).pending.sring % 2 ^ 32) ∧
      (offset = 0x828 → (t.owner o).pending.tring = (s.owner o).pending.tring / 2 ^ 32 * 2 ^ 32 + v.toNat) ∧
      (offset = 0x82C → (t.owner o).pending.tring = v.toNat * 2 ^ 32 + (s.owner o).pending.tring % 2 ^ 32) ∧
      (offset = 0x840 → (t.owner o).pending.dwin = (s.owner o).pending.dwin / 2 ^ 32 * 2 ^ 32 + v.toNat) ∧
      (offset = 0x844 → (t.owner o).pending.dwin = v.toNat * 2 ^ 32 + (s.owner o).pending.dwin % 2 ^ 32))) ∧
  (∀ (s : State) (x : Queue), s.queue? x.n = some x →
    (s.links.pcieUp = false → exec (.hostWindowRead (.notify (notifyAt x.n))) s = .next s) ∧
    (s.links.pcieUp = true → exec (.hostWindowRead (.notify (notifyAt x.n))) s =
      .next { s with links := { s.links with hostRead := leBytes 4 x.head.toNat } })) ∧
  ∀ (s : State) (o offset : Nat), let pa := (s.owner o).record.winbase + offset
    let untold (n : Nat) : Prop := s.refusedPages o pa n = [] ∨ (s.owner o).valid = false ∨ (s.owner o).record.rsvlen = 0
    (∀ n, s.windowOpen o offset n = false → exec (.hostWindowRead (.window o offset n)) s = .next s) ∧
    (∀ n, s.windowOpen o offset n = true → ∃ t, exec (.hostWindowRead (.window o offset n)) s = .next t ∧ t.launches = s.launches ∧
      t.links.hostRead.length = n ∧ (untold n → s.SameMemory t) ∧
      ∀ i < n, (s.holdsPage o (pa + i) = false → t.links.hostRead[i]? = some 0) ∧
        (s.holdsPage o (pa + i) = true → s.portUp (pa + i) = true → s.poisoned (pa + i) 1 = false →
          t.links.hostRead[i]? = some ((s.readPhys 4 (pa + i) 1).headD 0))) ∧
    (∀ bs : List Byte, (s.windowOpen o offset bs.length = false → exec (.hostWindowWrite o offset bs) s = .next s) ∧
      (s.windowOpen o offset bs.length = true → untold bs.length →
        ∃ t, exec (.hostWindowWrite o offset bs) s = .next t ∧ t.launches = s.launches ∧
          (∀ i b, bs[i]? = some b → ∀ view < s.dies.length,
            (s.holdsPage o (pa + i) = false → t.readPhys view (pa + i) 1 = s.readPhys view (pa + i) 1) ∧
            (s.holdsPage o (pa + i) = true → s.portUp (pa + i) = true → t.readPhys view (pa + i) 1 = [b])) ∧
          ∀ view q, q < pa ∨ pa + bs.length ≤ q → t.readPhys view q 1 = s.readPhys view q 1)) ∧
    ∀ n, s.windowOpen o offset n = true ↔ s.links.pcieUp = true ∧ o < 64 ∧ offset + n ≤ 2 ^ 28


/-! ### Links, peers and errors -/

/-- R309, R391: while the host link is down, and while a vector is masked, interrupts are kept; retraining sends those of unmasked vectors, unless the port was lowered for a removal (R411), unmasking sends its
own; a mask written while the link is down does not arrive. R311, R391, R408: a port that fails leaves service, a CXL port whose link has been down for 1 ms too; CRC retries are counted, and 64 on one lane within 1 ms switch it to the port's spare. R389,
R391: descriptors of a communicator with a member that no port has reached for 50 µs end with STATUS 4, those of one whose member has withdrawn with STATUS 3.
R376, R377: an uncorrectable error marks its unit: the 64-byte block of a tier, the word of a scratchpad, a register line, an operand file, a reservation or
a tile, and no value changes; a corrected error is logged and has no other effect. R259: an eviction from a die's cache carries that die's writes of the
line to other places where memory is applied (here with at most one write in transit). The model's readings: what arrives over a link that is down, and
which ports reach a member (log entry 96), a retried chunk (log entry 65). -/
def Obligations.LinksAndErrors : Prop :=
  ((∀ (s : State), (∃ t, exec .pcieLinkDown s = .next t ∧ t = { s with links := { s.links with pcieUp := false } }) ∧
      (s.firmware.portsLowered = true → exec .pcieLinkRetrained s = .next s) ∧
      (s.firmware.portsLowered = false → ∃ t, exec .pcieLinkRetrained s = .next t ∧ t = { s with links := t.links } ∧ t.links.pcieUp = true ∧ t.links.masked = s.links.masked ∧
        t.links.sent = s.links.sent ++ (List.range 256).filter (fun v => s.links.coalesced.getLsbD v && !s.links.masked.getLsbD v) ∧
        ∀ v < 256, t.links.coalesced.getLsbD v = (s.links.coalesced.getLsbD v && s.links.masked.getLsbD v)) ∧
      (∀ v mask, s.links.pcieUp = false ∨ 256 ≤ v → exec (.msixVectorUnmask v mask) s = .next s) ∧
      ∀ v < 256, s.links.pcieUp = true →
        (∃ t, exec (.msixVectorUnmask v true) s = .next t ∧ t = { s with links := { s.links with masked := t.links.masked } } ∧
          ∀ k < 256, t.links.masked.getLsbD k = (s.links.masked.getLsbD k || k == v)) ∧
        ∃ t, exec (.msixVectorUnmask v false) s = .next t ∧ t = { s with links := t.links } ∧
          (∀ k < 256, t.links.masked.getLsbD k = (s.links.masked.getLsbD k && k != v)) ∧
          t.links.sent = (if s.links.coalesced.getLsbD v = true then s.links.sent ++ [v] else s.links.sent) ∧
          ∀ k < 256, t.links.coalesced.getLsbD k = (s.links.coalesced.getLsbD k && k != v)) ∧
    (∀ (s : State) (port lane : Nat),
      (∃ t, exec (.flitCrcRetry port lane) s = .next t ∧ t = { s with links := t.links } ∧ t.laneRetries port lane = s.laneRetries port lane + 1 ∧
        ∀ p l, (p, l) ≠ (port, lane) → t.laneRetries p l = s.laneRetries p l) ∧
      (s.laneRetries port lane < 64 ∨ s.firmware.mayRepair = false ∨ (∃ e ∈ s.links.sparedLanes, e.1 = port) →
        exec (.titeyxLaneSpare port lane) s = .next s) ∧
      (64 ≤ s.laneRetries port lane → s.firmware.mayRepair = true → (∀ e ∈ s.links.sparedLanes, e.1 ≠ port) → ∃ t, exec (.titeyxLaneSpare port lane) s = .next t ∧
        t = { s with links := t.links } ∧ t.links.sparedLanes = s.links.sparedLanes ++ [(port, lane)] ∧ t.laneRetries port lane = 0) ∧
      (16 ≤ port → exec (.titeyxPortFail port) s = .next s) ∧
      (port < 16 → ∃ t, exec (.titeyxPortFail port) s = .next t ∧ t = { s with links := t.links } ∧
        ∀ k < 16, t.links.titeyx.getLsbD k = (s.links.titeyx.getLsbD k && k != port)) ∧
      ∀ since, (4 ≤ port ∨ s.cycle < since + 3000000 ∨ s.firmware.mayRepair = false → exec (.cxlPortOutOfService port since) s = .next s) ∧
      (port < 4 → since + 3000000 ≤ s.cycle → s.firmware.mayRepair = true → ∃ t, exec (.cxlPortOutOfService port since) s = .next t ∧ t = { s with links := t.links } ∧
        ∀ k < 4, t.links.cxl.getLsbD k = (s.links.cxl.getLsbD k && k != port))) ∧
    (∀ (s : State) (o comm member since : Nat) (c : Nat × Communicator), (s.owner o).comms.find? (fun e => e.1 == comm) = some c →
      let cut := member < c.2.members ∧ member ≠ c.2.rank ∧ since + 150000 ≤ s.cycle
      (¬cut → exec (.noPortReachesMember o comm member since) s = .next s) ∧
      (cut → ∃ t, exec (.noPortReachesMember o comm member since) s = .next t ∧
        ∀ e ∈ s.records, e.kind = .coll → e.owner = o → e.comm = comm → e.status = none → ∃ f ∈ t.records, f.id = e.id ∧ f.status = some 4)) ∧
    ∀ (s : State) (device remote r : Nat), exec (.peerChunkRetry r) s = .next s ∧
      ∃ t, exec (.memberWithdrawn device remote) s = .next t ∧ t.launches = s.launches ∧
        ∀ o < 64, ∀ c ∈ (s.owner o).comms, (device, remote) ∈ c.2.peers → c.1 ∈ (t.owner o).withdrawn ∧
          ∀ e ∈ s.records, e.kind = .coll → e.owner = o → e.comm = c.1 → e.status = none → ∃ f ∈ t.records, f.id = e.id ∧ f.status = some 3) ∧
  (∀ (s : State) (u : PoisonUnit), (∃ t, exec (.correctedError u) s = .next t ∧ t = { s with firmware := t.firmware } ∧
        t.firmware = { s.firmware with corrected := s.firmware.corrected ++ [⟨u, s.storeCore u, s.cycle⟩] }) ∧
      ∃ t, exec (.poisonMark u) s = .next t ∧ s.SameMemory t ∧ t.owners = s.owners ∧
        (∀ pa, u = .memory pa → inTier pa = true → t.poisoned pa 1 = true ∧ ∀ q, q / 64 ≠ pa / 64 → t.poisoned q 1 = s.poisoned q 1) ∧
        (∀ l b a y, u = .scratchpad l b a → s.block? l b = some y → ∃ y', t.block? l b = some y' ∧ y'.spad = y.spad ∧
          ∀ q, q ∈ y'.spadPoison ↔ q ∈ y.spadPoison ∨ q = a / 4 * 4) ∧
        (∀ l b g n z, u = .line l b g n → s.group? l b g = some z → ∃ z', t.group? l b g = some z' ∧ z'.stack = z.stack ∧
          z'.lines = z.lines.map fun r => if r.n = n then { r with poison := true } else r) ∧
        (∀ l b g z, u = .operandFile l b g → s.group? l b g = some z → t.group? l b g = some { z with operPoison := true }) ∧
        (∀ core q, u = .reservation core q → t.reservations = s.reservations.map fun r => if r.core = core ∧ r.q = q then { r with poison := true } else r) ∧
        ∀ core k, u = .tile core k → t.tiles = s.tiles.map fun r => if r.core = core ∧ r.t = k then { r with poison := true } else r) ∧
    ∀ (s : State) (die line : Nat) (views : List Nat),
      ∃ t, exec (.dieCacheEviction die line views) s = .next t ∧ t.launches = s.launches ∧ t.owners = s.owners ∧
      (s.transit = [] → s.SameMemory t) ∧
      ∀ w, s.transit = [w] → s.dies.length = 5 → (w.atomic = true → ∀ d ∈ s.dies, d.past = []) →
        (w.die ≠ die ∨ w.addr + w.bytes.length ≤ 64 * line ∨ 64 * line + 64 ≤ w.addr → s.SameMemory t) ∧
        (w.die = die → 64 * line < w.addr + w.bytes.length → w.addr < 64 * line + 64 →
          ((∀ view < 5, view ∈ w.applied ∨ view ∈ views) → t.transit = []) ∧
          (∀ view < 5, view ∈ views → view ∉ w.applied → t.readPhys view w.addr w.bytes.length = w.bytes) ∧
          ∀ view q, view ∉ views ∨ view ∈ w.applied ∨ q < w.addr ∨ w.addr + w.bytes.length ≤ q → t.readPhys view q 1 = s.readPhys view q 1)


/-! ### Debugging -/

/-- R394 to R397, R399: a ready path of a resident block stops before its next word for the cause that applies, its place and registers as they were, with
its record posted or kept behind those that wait; it does not stop for another. R396: a kept record is written once the ring has room. R404: where the
next word differs from its log record, the path stops with CAUSE 5, or without a window the launch ends. Which cause stops a path, and when, is log entry 98. -/
def Obligations.DebugStops : Prop :=
  (∀ (s : State) (c : Ctx) (cause : Nat), s.ctx? c.ref = some c →
    (s.stopCause c = none → exec (.debugStop c.ref cause) s = .next s ∧ exec (.stepDone c.ref) s = .next s) ∧
    ∀ n bk, s.stopCause c = some (n, bk) →
      (n ≠ cause → exec (.debugStop c.ref cause) s = .next s) ∧ (n ≠ 2 → exec (.stepDone c.ref) s = .next s) ∧
      ∀ i, (i = .debugStop c.ref cause ∧ n = cause) ∨ (i = .stepDone c.ref ∧ n = 2) → c.block.cluster.isSome = true →
        ∃ t c', exec i s = .next t ∧ t.ctx? c.ref = some c' ∧
          c'.path = { c.path with stopped := some n, stopSoon := none, stepLeft := none, own := c'.path.own } ∧ (∀ r l, l < 96 → c'.reg r l = c.reg r l) ∧
          (c.group.stopMode = false → (s.owner c.launch.owner).deferredStops ≠ [] →
            (t.owner c.launch.owner).deferredStops = (s.owner c.launch.owner).deferredStops ++ [s.stopRecord c n bk]) ∧
          (c.group.stopMode = true → ∀ k < 4, ∀ p, c.group.paths[k]? = some p → p.isReady = true → k ≠ c.ref.path →
            p.skipBreak = true → p.stepLeft = none → p.stopSoon = none → ∃ q, c'.group.paths[k]? = some q ∧ q.stopped = some 4)) ∧
  (∀ (s : State) (o : Nat), let ring := s.window o + 0x200
    ((s.owner o).deferredStops = [] ∨ s.window o = 0 → exec (.stopRecordDeferred o) s = .next s) ∧
    ∀ ws rest w r, (s.owner o).deferredStops = ws :: rest → s.window o ≠ 0 → s.wordVirt o ring = some w → s.wordVirt o (ring + 4) = some r →
      ((w - r).toNat = 32 → exec (.stopRecordDeferred o) s = .next s) ∧
      ((w - r).toNat ≠ 32 → ∃ t, exec (.stopRecordDeferred o) s = .next t ∧ t.launches = s.launches ∧ (t.owner o).deferredStops = rest ∧
        ∀ pa pb, ws.length = 16 → (∀ j < 64, s.vaWrite o (ring + 64 + 64 * (w.toNat % 32) + j) = some (pa + j)) →
          (∀ j < 4, s.vaWrite o (ring + j) = some (pb + j)) → pa + 64 ≤ pb ∨ pb + 4 ≤ pa → ∀ view < s.dies.length,
          t.readPhys view pa 64 = wordBytes ws ∧ t.readPhys view pb 4 = leBytes 4 (w + 1).toNat)) ∧
  ∀ (s : State) (c : Ctx), s.ctx? c.ref = some c →
    let off := s.divergesHere { c with path := { c.path with pfx := c.path.here.pfx } } c.path.here.instr
    (c.path.isReady = false ∨ c.path.idx = 0 ∨ off = false → exec (.replayDiverged c.ref) s = .next s) ∧
    (c.path.isReady = true → c.path.idx ≠ 0 → off = true → c.block.cluster.isSome = true →
      (s.window c.launch.owner = 0 → ∃ t x, exec (.replayDiverged c.ref) s = .next t ∧ t.launch? c.ref.launch = some x ∧ x.stage = .refused) ∧
      (s.debuggable c = true → ∃ t c', exec (.replayDiverged c.ref) s = .next t ∧ t.ctx? c.ref = some c' ∧
        c'.path = { c.path with stopped := some 5, stopSoon := none, stepLeft := none, own := c'.path.own }))

/-- R397 to R399: a posted command is answered 3 where it breaks R398's table or names no running target, else carried out and answered 2: a stop stops the
path it names, at once or after its wait; a resume or a step makes a stopped path ready, with its count of words; a stop-mode command sets the
group's mode. A lower posted slot comes first. The order of slots and a resume of a path that is not stopped are log entry 99. -/
def Obligations.DebugCommands : Prop :=
  ∀ (s : State) (o slot : Nat) (i : Instr) (op : Nat),
    (i = .debugCmdStop o slot ∧ op = 1) ∨ (i = .debugCmdResume o slot ∧ op = 2) ∨ (i = .debugCmdStep o slot ∧ op = 3) ∨
      (i = .debugCmdStopMode o slot ∧ op = 4) →
    let d := s.readCmd o slot
    (s.window o = 0 ∨ 4 ≤ slot ∨ d.state ≠ 1 ∨ (∃ k < slot, (s.readCmd o k).state = 1) → exec i s = .next s) ∧
    (s.window o ≠ 0 → slot < 4 → d.state = 1 → (∀ k < slot, (s.readCmd o k).state ≠ 1) →
      let answers (t : State) (n : Nat) : Prop := ∀ pa, (∀ j < 4, s.vaWrite o (s.slotAddr o slot + j) = some (pa + j)) → 4 < s.dies.length →
        ∃ low < 2 ^ 28, ∀ view < s.dies.length, t.readPhys view pa 4 = leBytes 4 (n * 2 ^ 28 + low)
      (s.cmdRefused o d = true → ∃ t, exec i s = .next t ∧ t.launches = s.launches ∧ answers t 3) ∧
      (s.cmdRefused o d = false → d.op ≠ op → exec i s = .next s) ∧
      (s.cmdRefused o d = false → d.op = op → ∃ t, exec i s = .next t ∧ answers t 2 ∧
        (∀ c, op = 1 → s.ctx? c.ref = some c → s.cmdPaths d = [c.ref] → c.path.stopped = none → ∃ c', t.ctx? c.ref = some c' ∧
          c'.path = if c.path.isReady && c.block.cluster.isSome then { c.path with stopped := some 3, stopSoon := none, stepLeft := none, own := c'.path.own }
            else { c.path with stopSoon := some (min 3 (c.path.stopSoon.getD 3)) }) ∧
        (∀ c, op = 2 ∨ op = 3 → s.ctx? c.ref = some c → c.ref ∈ s.cmdPaths d → c.path.stopped.isSome = true → ∃ c', t.ctx? c.ref = some c' ∧
          c'.path.stopped = none ∧ c'.path.skipBreak = true ∧ c'.path.stepLeft = (if op = 3 then some d.n else none) ∧
          c'.path.pc = c.path.pc ∧ c'.path.idx = c.path.idx ∧
          (d.reload = false → ∀ r l, l < 96 → c'.reg r l = c.reg r l) ∧
          (d.reload = true → ∀ n, 108 ≤ n → n < 121 → ∀ pa, c.ref.path < 4 → dieOf c.group.core < s.dies.length →
            (∀ j < 4, s.imagePa c.launch c.block (c.launch.header.ctxOf c.block.slot c.ref.group + 128 * c.ref.path + 0x20 + 4 * (n - 108) + j) = some (pa + j)) →
            c'.path.priv.get n = BitVec.ofNat 32 (leNat (s.readPhys (dieOf c.group.core) pa 4)))) ∧
        ∀ z, op = 4 → s.group? d.launch d.block d.group = some z → t.group? d.launch d.block d.group = some { z with stopMode := d.n == 1 }))


/-! ### Starts, owners and firmware requests -/

/-- R20, R311, R405 to R407, R411, R414: a cold start with a good image leaves both tiers clear, every owner absent and nothing under way, and saves the
inlet temperature's band; a warm start keeps the tiers' contents and their marks, and skips training while the saved record is valid, but after the module
has been out of its slot it is a cold one; with an image that fails, the module stays in its boot ROM. R388, R412: an owner that is reset is stopped, and
once no access of it is in flight nothing of it is left: its launches, records, queues and pages. R390, R412: a migration starts, flips once the
owner is drained and in time, and is abandoned after 200 ms; what has left arrives with its origins in order and its records where they stopped. The
model's readings: log entries 100, 102, 103 and 104. -/
def Obligations.StartsAndResets : Prop :=
  (∀ (s : State) (inlet : Int) (device : BitVec 12), let f := s.firmware
    let good := Config.sm2Verify (sm3 f.image) f.signature = true ∧ f.rollback ≤ f.version
    let gone (t : State) : Prop := t.cycle = 0 ∧ (∀ o, (t.owner o).valid = false) ∧ t.launches = [] ∧ t.queues = [] ∧ t.records = [] ∧ t.ops = [] ∧
      t.origins = [] ∧ t.reservations = [] ∧ t.tiles = [] ∧ t.firmware.spareMap = f.spareMap ∧ ∀ e ∈ t.firmware.wake, e.valid = false
    (∃ t, exec (.coldStart inlet device) s = .next t ∧ gone t ∧ (t.firmware.running = true ↔ good) ∧ t.firmware.warm = false ∧
      (good → t.links.pcieUp = true ∧ t.links.deviceNumber = device ∧ t.poison = [] ∧ t.firmware.training = some (f.version, inlet / 50) ∧
        t.firmware.removed = false ∧ ∀ view pa, t.readPhys view pa 1 = [0])) ∧
    (f.removed = true → exec (.warmStart inlet device) s = exec (.coldStart inlet device) s) ∧
    (f.removed = false → ∃ t, exec (.warmStart inlet device) s = .next t ∧ gone t ∧ (t.firmware.running = true ↔ good) ∧ t.firmware.warm = true ∧
      t.poison = s.poison ∧ (s.transit = [] → s.SameMemory t) ∧
      let saved := f.training = some (f.version, inlet / 50)
      (good → saved → t.links = { s.links with deviceNumber := device } ∧ t.firmware.training = f.training) ∧
      (good → ¬saved → t.links = { Links.start with deviceNumber := device } ∧ t.firmware.training = some (f.version, inlet / 50)))) ∧
  (∀ (s : State) (o : Nat) (handle : DWord), let f := s.firmware
    let i : Instr := .ownerReset o handle
    ((∀ pa, ¬f.Reaches handle true pa) → exec i s = .next s.answered) ∧
    ∀ pa, f.Reaches handle true pa →
    let stopped := (s.reaching pa).stopOwner o (plainTag 0 0 0 0 0) 0 0
    ((s.owner o).valid = false → exec i s = .next (s.reaching pa)) ∧
    ((s.owner o).valid = true → stopped.ownerBusy o = true → exec i s = .next stopped) ∧
    ((s.owner o).valid = true → stopped.ownerBusy o = false → ∃ t, exec i s = .next t ∧ (t.owner o).valid = false ∧ (t.owner o).tlb = [] ∧
      (∀ x ∈ t.launches, x.owner ≠ o) ∧ (∀ q ∈ t.queues, q.owner ≠ o) ∧ (∀ e ∈ t.records, e.owner ≠ o) ∧ (∀ g ∈ t.origins, g.owner ≠ o) ∧
      (∀ k, k ≠ o → (t.owner k).valid = (s.owner k).valid ∧
        ∀ e, e ∈ (t.owner k).tlb ↔ e ∈ (s.owner k).tlb ∧ (e.permanent = true ∨ ∀ n ∈ s.pagesOf o, e.mapsPage (pagePa n) = false)) ∧
      ∀ n, (t.ownership.get n).getLsbD 31 = true → (t.ownership.get n).extractLsb' 24 6 ≠ BitVec.ofNat 6 o ∨ 64 ≤ o)) ∧
  ∀ (s : State) (o : Nat) (handle : DWord), let w := s.owner o
    ((∀ pa, ¬s.firmware.Reaches handle true pa) → ∀ m, exec (.migration m handle) s = .next s.answered) ∧
    ∀ pa, s.firmware.Reaches handle true pa →
      let u := s.reaching pa
      (w.valid = false ∨ w.stopped = true ∨ w.migrating.isSome = true → exec (.migration (.start o) handle) s = .next u) ∧
      (w.valid = true → w.stopped = false → w.migrating = none → ∃ t, exec (.migration (.start o) handle) s = .next t ∧
        (t.owner o).migrating = some s.cycle ∧
        (s.handlersOf o = [] → ∀ x ∈ s.launches, x.owner = o → s.launch? x.seq = some x → x.handler = none → ∀ y ∈ x.blocks,
          x.block? y.index = some y → y.cluster.isSome = true → y.unfinished = true → t.Left (x.seq, y.index))) ∧
      (w.migrating = none → exec (.migration (.flip o) handle) s = .next u ∧ exec (.migration (.abandon o) handle) s = .next u) ∧
      (∀ c, w.migrating = some c →
        (s.drained o = true → s.cycle ≤ c + 600000000 → ∃ t d, exec (.migration (.flip o) handle) s = .next t ∧ (t.owner o).valid = false ∧
          (∀ x ∈ t.launches, x.owner ≠ o) ∧ (t.departed.find? fun e => e.num == o) = some d ∧ d.owner = { w with migrating := none } ∧
          d.origins = s.origins.filter (fun g => g.owner == o) ∧ d.records = s.records.filter (fun e => e.owner == o) ∧
          ∀ n ∈ s.pagesOf o, (n, s.ownership.get n) ∈ d.pages) ∧
        (s.drained o = false ∨ c + 600000000 < s.cycle → exec (.migration (.flip o) handle) s = .next u) ∧
        (s.cycle < c + 600000000 → exec (.migration (.abandon o) handle) s = .next u) ∧
        (c + 600000000 ≤ s.cycle → ∃ t, exec (.migration (.abandon o) handle) s = .next t ∧ (t.owner o).migrating = none ∧ t.launches = s.launches)) ∧
      ∀ pages,
        ((∀ d ∈ s.departed, d.num = o → s.canArrive d pages = false) → exec (.migration (.arrive o pages) handle) s = .next u) ∧
        ∀ d, (s.departed.find? fun e => e.num == o) = some d → s.canArrive d pages = true → o < s.owners.length →
          ∃ t, exec (.migration (.arrive o pages) handle) s = .next t ∧ (t.owner o).valid = d.owner.valid ∧
            t.origins = s.origins ++ d.origins.map (fun g => { g with at_ := s.cycle }) ∧
            t.records.map (fun e => (e.id, e.prog, e.inprog, e.words)) = (s.records ++ d.records).map (fun e => (e.id, e.prog, e.inprog, e.words)) ∧
            (∀ e ∈ t.departed, e.num ≠ o) ∧ ∀ k, k ≠ o → (t.owner k).valid = (s.owner k).valid

/-- R299, R301, R304, R308, R312, R353, R407, R412: a request outside its limits, or through a bad region handle, is refused and changes no table; one that changes the
entry of a page in use waits; a good one sets the owner's record with the permanent entries of its reserve and its specialisation cache, whose pages
become the owner's and, if they were not, zero, no owner mapping a changed page any more; or a queue; or a communicator, which forgets a member's
withdrawal. The model's readings: log entries 101 and 102. -/
def Obligations.FirmwareRequests : Prop :=
  (∀ (s : State) (o : Nat) (r : OwnerRequest) (handle : DWord), let f := s.firmware
    let i : Instr := .ownerSetup o r handle
    let good := o < Config.owners ∧ (f.refusing = true → (s.owner o).valid = true) ∧
      r.inRange = true ∧ s.reservesFit o r = true ∧ s.pagesFree o r = true ∧ ((s.owner o).valid = true → ∀ e ∈ (s.owner o).record.entries, e ∈ r.entries)
    let inUse := ∃ e ∈ s.entryChanges o r, s.pageInUse (pagePa e.1) = true
    ((∀ pa, ¬f.Reaches handle true pa) → exec i s = .next s.answered) ∧
    ∀ pa, f.Reaches handle true pa →
    (¬good → exec i s = .next (s.reaching pa).answered) ∧
    (good → inUse → exec i s = .next (s.reaching pa)) ∧
    (good → ¬inUse → o < s.owners.length → ∃ t, exec i s = .next t ∧ (t.owner o).valid = true ∧
      (t.owner o).record = { r with clusters := withoutClusters r.clusters f.withdrawn } ∧ (∀ e ∈ r.entries, e ∈ (t.owner o).tlb) ∧
      (∀ k, k ≠ o → t.owner k = { s.owner k with tlb := (t.owner k).tlb } ∧
        ∀ e ∈ (t.owner k).tlb, e ∈ (s.owner k).tlb ∧ ∀ c ∈ s.entryChanges o r, c.1 < 322265625 → e.permanent = true ∨ e.mapsPage (pagePa c.1) = false) ∧
      t.launches = s.launches ∧ (∀ q, q ∈ t.queues ↔ q ∈ s.queues ∧ (q.owner = o → r.qblocks.getLsbD (q.n / 16) = true)) ∧
      (∀ n ∈ r.own, n < 322265625 → t.ownership.get n = ownershipEntry o 0 true ∧
        (s.transit = [] → (s.ownership.get n).getLsbD 31 = false → ∀ view, ∀ j < 8192, t.readPhys view (pagePa n + j) 1 = [0])) ∧
      ((r.granted.map (·.1)).Nodup → ∀ e ∈ r.granted, e.1 < 322265625 → t.ownership.get e.1 = ownershipEntry o e.2 false))) ∧
  (∀ (s : State) (q : Nat) (r : QueueRequest) (handle : DWord), let f := s.firmware
    let w := s.owner r.owner
    let good := f.running = true ∧ q < Config.queues ∧ w.valid = true ∧ w.record.qblocks.getLsbD (q / 16) = true ∧ r.ring % 4096 = 0 ∧ 4 ≤ r.sizel2 ∧
      r.sizel2 ≤ 16 ∧ r.headaddr % 4 = 0
    (¬good → exec (.queueSetup q r handle) s = .next s.answered) ∧
    (good → (∀ pa, ¬f.Reaches handle true pa) → ∃ t, exec (.queueSetup q r handle) s = .next t ∧ t.queues = s.queues ∧
      t.firmware = s.answered.firmware) ∧
    (∀ pa, good → f.Reaches handle true pa → ∃ t, exec (.queueSetup q r handle) s = .next t ∧ t = { s.reaching pa with queues := t.queues } ∧
      t.queue? q = some ⟨q, r.owner, r.ring, r.sizel2, r.headaddr, 0, 0, false, 0, 0, [], none⟩ ∧ ∀ k, k ≠ q → t.queue? k = s.queue? k)) ∧
  ∀ (s : State) (o k : Nat) (c : Communicator) (handle : DWord), let f := s.firmware
    let good := f.running = true ∧ k < 1024 ∧ (s.owner o).valid = true ∧ 2 ≤ c.members ∧ c.members ≤ 4096 ∧ c.rank < c.members ∧
      c.peers.length = c.members
    (¬good → exec (.communicatorFill o k c handle) s = .next s.answered) ∧
    (good → (∀ pa, ¬f.Reaches handle true pa) → ∃ t, exec (.communicatorFill o k c handle) s = .next t ∧ (t.owner o).comms = (s.owner o).comms ∧
      t.firmware = s.answered.firmware) ∧
    (∀ pa, good → f.Reaches handle true pa → ∃ t, exec (.communicatorFill o k c handle) s = .next t ∧ t = { s.reaching pa with owners := t.owners } ∧
      (t.owner o).comms.find? (fun e => e.1 == k) = some (k, c) ∧ k ∉ (t.owner o).withdrawn ∧
      (∀ j, j ≠ k → (t.owner o).comms.find? (fun e => e.1 == j) = (s.owner o).comms.find? (fun e => e.1 == j)) ∧
      ∀ j, j ≠ o → t.owner j = s.owner j)


/-! ### Repair, update, removal, the wake filter and attestation -/

/-- R408, R409: a core's repair begins after an uncorrectable error or 16 corrected ones in its register store within 1 s, one repair at a time, and ends, once no
group is on it, with a spare of its die in its place, or its cluster out of every owner's set; a row of 4 corrected errors within 1 h is remapped while
its channel has a spare row, and a channel is retired into enough free pages, or stays and the operator is told. R410, R412, R414: an update takes a
verified image, which becomes active once all four control cores run it; an entry of the region table that is freed answers to no handle given for it. R411: a module without owners can be
removed; one that is pulled starts cold. R413: the wake filter chooses the frames that wake a gated complex, and holds up to four of them. R412: what is read through a bad
handle is refused. R415: an attestation report names the nonce, the running image, the owner and the signature over them. The model's readings: log entries
100, 102, 105, 106 and 107. -/
def Obligations.RepairAndManagement : Prop :=
  (∀ (s : State) (core : Nat) (unc : Bool) (handle : DWord), let f := s.firmware
    let i : Instr := .coreSpare core unc handle
    let left := { f with corrected := f.corrected.filter fun e => e.core != some core }
    (f.running = false ∨ Config.cores ≤ core → exec i s = .next s) ∧
    (f.running = true → core < Config.cores →
      (f.inRepair = none → unc = false → s.coreErrors core < 16 → exec i s = .next s) ∧
      (f.inRepair = none → unc = true ∨ 16 ≤ s.coreErrors core → ∃ t, exec i s = .next t ∧ t.firmware = { left with inRepair := some core } ∧
        (∀ e ∈ s.groupsOn core, e.1.handler = none → e.1.header.coresident = false → s.Stands (e.1.seq, e.2.1.index) → t.Left (e.1.seq, e.2.1.index)) ∧
        ∀ e ∈ s.groupsOn core, e.1.handler = none → e.1.header.coresident = true → ∀ u ∈ e.1.blocks, s.block? e.1.seq u.index = some u →
          u.cluster.isSome = true → u.unfinished = true → t.Left (e.1.seq, u.index)) ∧
      (∀ c, f.inRepair = some c → c ≠ core ∨ s.groupsOn core ≠ [] → exec i s = .next s) ∧
      (∀ p, f.inRepair = some core → s.groupsOn core = [] → f.freeSpare (dieOf core) = some p → ∃ t, exec i s = .next t ∧
        t = { s with firmware := t.firmware } ∧ t.firmware.inRepair = none ∧ t.firmware.spareMap.find? (fun e => e.1 == core) = some (core, p) ∧
        p ∈ t.firmware.sparesUsed ∧ 96 * (core / 88) + 88 ≤ p ∧ p < 96 * (core / 88) + 96) ∧
      (f.inRepair = some core → s.groupsOn core = [] → f.freeSpare (dieOf core) = none →
        ((∀ pa, ¬f.Reaches handle true pa) → exec i s = .next s) ∧
        ∀ pa, f.Reaches handle true pa → ∃ t, exec i s = .next t ∧ t.firmware.inRepair = none ∧ t.firmware.address = some pa ∧
          t.firmware.spareMap.find? (fun e => e.1 == core) = none ∧ t.launches = s.launches ∧
          ∀ o < s.owners.length, ∀ k < 88, (t.owner o).record.clusters.getLsbD k = ((s.owner o).record.clusters.getLsbD k && k != core / 4)))) ∧
  (∀ (s : State) (n : Nat), let f := s.firmware
    let free := f.running = true ∧ f.inRepair = none
    let due := 4 ≤ s.rowErrors n ∧ f.rowsUsed (Config.hbmChannel n) < Config.rowSpares
    (¬(free ∧ due) → exec (.hbmRowRemap n) s = .next s) ∧
    (free → due → ∃ t, exec (.hbmRowRemap n) s = .next t ∧ t = { s with firmware := t.firmware } ∧ t.rowErrors n = 0 ∧
      ∀ k, t.firmware.remappedRows.count k = f.remappedRows.count k + if k = n then 1 else 0) ∧
    ∀ unc, let broken := unc = true ∨ Config.rowSpares ≤ f.rowsUsed n
      (¬(free ∧ broken) → exec (.hbmChannelRetire n unc) s = .next s) ∧
      (free → broken → (s.pagesIn n).length ≤ (s.freePages n).length → ∃ t, exec (.hbmChannelRetire n unc) s = .next t ∧ t = { s with firmware := t.firmware } ∧
        (∀ k, k ∈ t.firmware.retiredChannels ↔ k ∈ f.retiredChannels ∨ k = n) ∧
        ∀ page ∈ s.pagesIn n, ∃ place ∈ s.freePages n, (page, place) ∈ t.firmware.backing) ∧
      (free → broken → (s.freePages n).length < (s.pagesIn n).length → ∃ t, exec (.hbmChannelRetire n unc) s = .next t ∧
        t = { s with firmware := { f with operatorTold := true } })) ∧
  (∀ (s : State) (handle : DWord), let f := s.firmware
    ((∀ pa, ¬f.Reaches handle false pa) → ∀ u, exec (.firmwareUpdate u handle) s = .next s.answered) ∧
    ∀ pa, f.Reaches handle false pa →
    let u := s.reaching pa
    (∀ image version signature,
      let good := Config.sm2Verify (sm3 image) signature = true ∧ f.rollback ≤ version ∧ f.onStandby = 0
      (¬good → exec (.firmwareUpdate (.offer image version signature) handle) s = .next u) ∧
      (good → exec (.firmwareUpdate (.offer image version signature) handle) s =
        .next { u with firmware := { u.firmware with standby := some (image, version, signature) } })) ∧
    (∀ k, f.standby = none → exec (.firmwareUpdate (.switchCore k) handle) s = .next u) ∧
    (∀ k, 4 ≤ k → f.onStandby ≠ 0xF → exec (.firmwareUpdate (.switchCore k) handle) s = .next u) ∧
    (∀ k image version signature, k < 4 → f.standby = some (image, version, signature) → ∃ t, exec (.firmwareUpdate (.switchCore k) handle) s = .next t ∧
      t = { s with firmware := t.firmware } ∧
      ((∀ j < 4, j ≠ k → f.onStandby.getLsbD j = true) → t.firmware.image = image ∧ t.firmware.version = version ∧ t.firmware.standby = none ∧
        t.firmware.onStandby = 0) ∧
      ((∃ j < 4, j ≠ k ∧ f.onStandby.getLsbD j = false) → t.firmware.image = f.image ∧ t.firmware.standby = f.standby ∧
        ∀ j < 4, t.firmware.onStandby.getLsbD j = (f.onStandby.getLsbD j || j == k))) ∧
    (∀ k base limit rights, k < 4096 → (f.region k).valid = false → base % 4096 = 0 → base < 2 ^ 52 → 0 < limit → limit < 2 ^ 32 →
      ∃ t, exec (.firmwareUpdate (.install k base limit rights) handle) s = .next t ∧ t = { s with firmware := t.firmware } ∧
        t.firmware.region k = ⟨true, base, limit, rights, (f.region k).epoch⟩ ∧ ∀ j, j ≠ k → t.firmware.region j = f.region j) ∧
    ∀ k, (f.region k).valid = true → ∃ t, exec (.firmwareUpdate (.free k) handle) s = .next t ∧ t = { s with firmware := t.firmware } ∧
      t.firmware.region k = { f.region k with valid := false, epoch := (f.region k).epoch + 1 } ∧ ∀ j, j ≠ k → t.firmware.region j = f.region j) ∧
  (∀ (s : State),
    (s.firmware.running = false ∨ (∃ w ∈ s.owners, w.valid = true) → exec (.moduleRemoval .prepare) s = .next s) ∧
    (s.firmware.running = true → (∀ w ∈ s.owners, w.valid = false) → ∃ t, exec (.moduleRemoval .prepare) s = .next t ∧ t.firmware.refusing = true ∧
      t.firmware.portsLowered = true ∧ t.firmware.indicator = true ∧ t.links.pcieUp = false ∧ t.links.titeyx = 0 ∧ s.SameMemory t) ∧
    ∃ t, exec (.moduleRemoval .pull) s = .next t ∧ t.firmware.removed = true ∧ t.firmware.running = false ∧ (∀ o, (t.owner o).valid = false) ∧
      t.launches = [] ∧ t.links.pcieUp = false ∧ ∀ view pa, t.readPhys view pa 1 = [0]) ∧
  (∀ (s : State) (frame : List Byte) (handle : DWord), let f := s.firmware
    let i : Instr := .managementFrame frame handle
    let meets := frame.length ≤ 1518 ∧ ∃ e ∈ f.wake, e.valid = true ∧ e.offset.toNat + 8 ≤ frame.length ∧
      BitVec.ofNat 64 (leNat ((frame.drop e.offset.toNat).take 8)) &&& e.mask = e.value
    (f.gated ≠ 0xF → ∀ pa, f.Reaches handle false pa → exec i s = .next { s with firmware := { f with address := some pa, processed := f.processed ++ [frame] } }) ∧
    (f.gated ≠ 0xF → (∀ pa, ¬f.Reaches handle false pa) → exec i s = .next s.answered) ∧
    (f.gated = 0xF → f.waking = false → meets → exec i s = .next { s with firmware := { f with waking := true, held := [frame] } }) ∧
    (f.gated = 0xF → f.waking = false → ¬meets → exec i s = .next { s with firmware := { f with droppedFrames := f.droppedFrames + 1 } }) ∧
    (f.gated = 0xF → f.waking = true → f.held.length < 4 → frame.length ≤ 1518 → exec i s = .next { s with firmware := { f with held := f.held ++ [frame] } }) ∧
    (f.gated = 0xF → f.waking = true → 4 ≤ f.held.length ∨ 1518 < frame.length → exec i s = .next s)) ∧
  ∀ (s : State) (handle : DWord), let f := s.firmware
    (f.waking = false → exec (.controlCoreWake handle) s = .next s) ∧
    (f.waking = true → ∃ t, exec (.controlCoreWake handle) s = .next t ∧ t = { s with firmware := t.firmware } ∧ t.firmware.waking = false ∧
      t.firmware.gated = f.gated &&& 0xE ∧ t.firmware.held = [] ∧
      (∀ pa, f.Reaches handle false pa → t.firmware.processed = f.processed ++ f.held ∧ t.firmware.answers = f.answers) ∧
      ((∀ pa, ¬f.Reaches handle false pa) → t.firmware.processed = f.processed ∧
        t.firmware.answers = f.answers ++ List.replicate f.held.length (if f.running then Answer.refused else Answer.failed))) ∧
    (∀ cores, f.running = false → exec (.controlCorePowerGate cores) s = .next s) ∧
    (∀ cores, f.running = true → ∃ t, exec (.controlCorePowerGate cores) s = .next t ∧ t = { s with firmware := { f with gated := t.firmware.gated } } ∧
      ((∃ e ∈ f.wake, e.valid = true) → t.firmware.gated = f.gated ||| cores) ∧
      ((∀ e ∈ f.wake, e.valid = false) → f.gated ≠ 0xF → t.firmware.gated ≠ 0xF ∧ t.firmware.gated &&& ~~~(f.gated ||| cores) = 0)) ∧
    (∀ k offset mask value, k < 8 → f.wake.length = 8 →
      let i : Instr := .wakeFilterWrite k offset mask value handle
      (f.gated = 0xF → exec i s = .next s) ∧
      (f.gated ≠ 0xF → (∀ pa, ¬f.Reaches handle false pa) → exec i s = .next s.answered) ∧
      (f.gated ≠ 0xF → ∀ pa, f.Reaches handle false pa → ∃ t, exec i s = .next t ∧ t = { s with firmware := { f with address := some pa, wake := t.firmware.wake } } ∧
        t.firmware.wake[k]? = some ⟨true, offset, mask, value⟩ ∧ ∀ j, j ≠ k → t.firmware.wake[j]? = f.wake[j]?)) ∧
    ∀ nonce o, ((∀ pa, ¬f.Reaches handle false pa) → exec (.attestationRequest nonce o handle) s = .next s.answered) ∧
      ∀ pa, f.Reaches handle false pa → ∃ t r, exec (.attestationRequest nonce o handle) s = .next t ∧
        t = { s with firmware := { f with address := some pa, reports := f.reports ++ [r] } } ∧
        r.nonce = nonce ∧ r.fwdigest = sm3 f.image ∧ r.version = BitVec.ofNat 32 f.version ∧ r.rollback = BitVec.ofNat 32 f.rollback ∧
        r.start = (if f.warm then 1 else 0) ∧ r.owner = o ∧
        r.ownerdigest = (if o.toNat < 64 then sm3 (s.owner o.toNat).recordBytes else 0)
end

