-- ==== Sys2Proof/Laws/State.lean ====
section
/-! SUPPORT. What each basic update of the state leaves as it is: one lemma for each field and update. -/

namespace Sys2Proof.Machine

/-! ### `updOwner` -/

@[simp] theorem State.updOwner_cycle (s : State) (o : Nat) (f : Owner → Owner) : (s.updOwner o f).cycle = s.cycle := rfl
@[simp] theorem State.updOwner_dies (s : State) (o : Nat) (f : Owner → Owner) : (s.updOwner o f).dies = s.dies := rfl
@[simp] theorem State.updOwner_transit (s : State) (o : Nat) (f : Owner → Owner) : (s.updOwner o f).transit = s.transit := rfl
@[simp] theorem State.updOwner_poison (s : State) (o : Nat) (f : Owner → Owner) : (s.updOwner o f).poison = s.poison := rfl
@[simp] theorem State.updOwner_ops (s : State) (o : Nat) (f : Owner → Owner) : (s.updOwner o f).ops = s.ops := rfl
@[simp] theorem State.updOwner_nextId (s : State) (o : Nat) (f : Owner → Owner) : (s.updOwner o f).nextId = s.nextId := rfl
@[simp] theorem State.updOwner_moment (s : State) (o : Nat) (f : Owner → Owner) : (s.updOwner o f).moment = s.moment := rfl
@[simp] theorem State.updOwner_ownership (s : State) (o : Nat) (f : Owner → Owner) : (s.updOwner o f).ownership = s.ownership := rfl
@[simp] theorem State.updOwner_shares (s : State) (o : Nat) (f : Owner → Owner) : (s.updOwner o f).shares = s.shares := rfl
@[simp] theorem State.updOwner_queues (s : State) (o : Nat) (f : Owner → Owner) : (s.updOwner o f).queues = s.queues := rfl
@[simp] theorem State.updOwner_launches (s : State) (o : Nat) (f : Owner → Owner) : (s.updOwner o f).launches = s.launches := rfl
@[simp] theorem State.updOwner_nextSeq (s : State) (o : Nat) (f : Owner → Owner) : (s.updOwner o f).nextSeq = s.nextSeq := rfl
@[simp] theorem State.updOwner_reservations (s : State) (o : Nat) (f : Owner → Owner) : (s.updOwner o f).reservations = s.reservations := rfl
@[simp] theorem State.updOwner_tiles (s : State) (o : Nat) (f : Owner → Owner) : (s.updOwner o f).tiles = s.tiles := rfl
@[simp] theorem State.updOwner_mmas (s : State) (o : Nat) (f : Owner → Owner) : (s.updOwner o f).mmas = s.mmas := rfl
@[simp] theorem State.updOwner_records (s : State) (o : Nat) (f : Owner → Owner) : (s.updOwner o f).records = s.records := rfl
@[simp] theorem State.updOwner_collIndex (s : State) (o : Nat) (f : Owner → Owner) : (s.updOwner o f).collIndex = s.collIndex := rfl
@[simp] theorem State.updOwner_origins (s : State) (o : Nat) (f : Owner → Owner) : (s.updOwner o f).origins = s.origins := rfl
@[simp] theorem State.updOwner_departed (s : State) (o : Nat) (f : Owner → Owner) : (s.updOwner o f).departed = s.departed := rfl
@[simp] theorem State.updOwner_governor (s : State) (o : Nat) (f : Owner → Owner) : (s.updOwner o f).governor = s.governor := rfl
@[simp] theorem State.updOwner_period (s : State) (o : Nat) (f : Owner → Owner) : (s.updOwner o f).period = s.period := rfl
@[simp] theorem State.updOwner_contention (s : State) (o : Nat) (f : Owner → Owner) : (s.updOwner o f).contention = s.contention := rfl
@[simp] theorem State.updOwner_links (s : State) (o : Nat) (f : Owner → Owner) : (s.updOwner o f).links = s.links := rfl
@[simp] theorem State.updOwner_firmware (s : State) (o : Nat) (f : Owner → Owner) : (s.updOwner o f).firmware = s.firmware := rfl
@[simp] theorem State.updOwner_cur (s : State) (o : Nat) (f : Owner → Owner) : (s.updOwner o f).cur = s.cur := rfl
@[simp] theorem State.updOwner_agenda (s : State) (o : Nat) (f : Owner → Owner) : (s.updOwner o f).agenda = s.agenda := rfl
@[simp] theorem State.updOwner_free (s : State) (o : Nat) (f : Owner → Owner) : (s.updOwner o f).free = s.free := rfl

/-! ### `updLaunch` -/

@[simp] theorem State.updLaunch_cycle (s : State) (l : Nat) (f : Launch → Launch) : (s.updLaunch l f).cycle = s.cycle := rfl
@[simp] theorem State.updLaunch_dies (s : State) (l : Nat) (f : Launch → Launch) : (s.updLaunch l f).dies = s.dies := rfl
@[simp] theorem State.updLaunch_transit (s : State) (l : Nat) (f : Launch → Launch) : (s.updLaunch l f).transit = s.transit := rfl
@[simp] theorem State.updLaunch_poison (s : State) (l : Nat) (f : Launch → Launch) : (s.updLaunch l f).poison = s.poison := rfl
@[simp] theorem State.updLaunch_ops (s : State) (l : Nat) (f : Launch → Launch) : (s.updLaunch l f).ops = s.ops := rfl
@[simp] theorem State.updLaunch_nextId (s : State) (l : Nat) (f : Launch → Launch) : (s.updLaunch l f).nextId = s.nextId := rfl
@[simp] theorem State.updLaunch_moment (s : State) (l : Nat) (f : Launch → Launch) : (s.updLaunch l f).moment = s.moment := rfl
@[simp] theorem State.updLaunch_ownership (s : State) (l : Nat) (f : Launch → Launch) : (s.updLaunch l f).ownership = s.ownership := rfl
@[simp] theorem State.updLaunch_shares (s : State) (l : Nat) (f : Launch → Launch) : (s.updLaunch l f).shares = s.shares := rfl
@[simp] theorem State.updLaunch_owners (s : State) (l : Nat) (f : Launch → Launch) : (s.updLaunch l f).owners = s.owners := rfl
@[simp] theorem State.updLaunch_queues (s : State) (l : Nat) (f : Launch → Launch) : (s.updLaunch l f).queues = s.queues := rfl
@[simp] theorem State.updLaunch_nextSeq (s : State) (l : Nat) (f : Launch → Launch) : (s.updLaunch l f).nextSeq = s.nextSeq := rfl
@[simp] theorem State.updLaunch_reservations (s : State) (l : Nat) (f : Launch → Launch) : (s.updLaunch l f).reservations = s.reservations := rfl
@[simp] theorem State.updLaunch_tiles (s : State) (l : Nat) (f : Launch → Launch) : (s.updLaunch l f).tiles = s.tiles := rfl
@[simp] theorem State.updLaunch_mmas (s : State) (l : Nat) (f : Launch → Launch) : (s.updLaunch l f).mmas = s.mmas := rfl
@[simp] theorem State.updLaunch_records (s : State) (l : Nat) (f : Launch → Launch) : (s.updLaunch l f).records = s.records := rfl
@[simp] theorem State.updLaunch_collIndex (s : State) (l : Nat) (f : Launch → Launch) : (s.updLaunch l f).collIndex = s.collIndex := rfl
@[simp] theorem State.updLaunch_origins (s : State) (l : Nat) (f : Launch → Launch) : (s.updLaunch l f).origins = s.origins := rfl
@[simp] theorem State.updLaunch_departed (s : State) (l : Nat) (f : Launch → Launch) : (s.updLaunch l f).departed = s.departed := rfl
@[simp] theorem State.updLaunch_governor (s : State) (l : Nat) (f : Launch → Launch) : (s.updLaunch l f).governor = s.governor := rfl
@[simp] theorem State.updLaunch_period (s : State) (l : Nat) (f : Launch → Launch) : (s.updLaunch l f).period = s.period := rfl
@[simp] theorem State.updLaunch_contention (s : State) (l : Nat) (f : Launch → Launch) : (s.updLaunch l f).contention = s.contention := rfl
@[simp] theorem State.updLaunch_links (s : State) (l : Nat) (f : Launch → Launch) : (s.updLaunch l f).links = s.links := rfl
@[simp] theorem State.updLaunch_firmware (s : State) (l : Nat) (f : Launch → Launch) : (s.updLaunch l f).firmware = s.firmware := rfl
@[simp] theorem State.updLaunch_cur (s : State) (l : Nat) (f : Launch → Launch) : (s.updLaunch l f).cur = s.cur := rfl
@[simp] theorem State.updLaunch_agenda (s : State) (l : Nat) (f : Launch → Launch) : (s.updLaunch l f).agenda = s.agenda := rfl
@[simp] theorem State.updLaunch_free (s : State) (l : Nat) (f : Launch → Launch) : (s.updLaunch l f).free = s.free := rfl

/-! ### `updBlock` -/

@[simp] theorem State.updBlock_cycle (s : State) (l b : Nat) (f : Block → Block) : (s.updBlock l b f).cycle = s.cycle := rfl
@[simp] theorem State.updBlock_dies (s : State) (l b : Nat) (f : Block → Block) : (s.updBlock l b f).dies = s.dies := rfl
@[simp] theorem State.updBlock_transit (s : State) (l b : Nat) (f : Block → Block) : (s.updBlock l b f).transit = s.transit := rfl
@[simp] theorem State.updBlock_poison (s : State) (l b : Nat) (f : Block → Block) : (s.updBlock l b f).poison = s.poison := rfl
@[simp] theorem State.updBlock_ops (s : State) (l b : Nat) (f : Block → Block) : (s.updBlock l b f).ops = s.ops := rfl
@[simp] theorem State.updBlock_nextId (s : State) (l b : Nat) (f : Block → Block) : (s.updBlock l b f).nextId = s.nextId := rfl
@[simp] theorem State.updBlock_moment (s : State) (l b : Nat) (f : Block → Block) : (s.updBlock l b f).moment = s.moment := rfl
@[simp] theorem State.updBlock_ownership (s : State) (l b : Nat) (f : Block → Block) : (s.updBlock l b f).ownership = s.ownership := rfl
@[simp] theorem State.updBlock_shares (s : State) (l b : Nat) (f : Block → Block) : (s.updBlock l b f).shares = s.shares := rfl
@[simp] theorem State.updBlock_owners (s : State) (l b : Nat) (f : Block → Block) : (s.updBlock l b f).owners = s.owners := rfl
@[simp] theorem State.updBlock_queues (s : State) (l b : Nat) (f : Block → Block) : (s.updBlock l b f).queues = s.queues := rfl
@[simp] theorem State.updBlock_nextSeq (s : State) (l b : Nat) (f : Block → Block) : (s.updBlock l b f).nextSeq = s.nextSeq := rfl
@[simp] theorem State.updBlock_reservations (s : State) (l b : Nat) (f : Block → Block) : (s.updBlock l b f).reservations = s.reservations := rfl
@[simp] theorem State.updBlock_tiles (s : State) (l b : Nat) (f : Block → Block) : (s.updBlock l b f).tiles = s.tiles := rfl
@[simp] theorem State.updBlock_mmas (s : State) (l b : Nat) (f : Block → Block) : (s.updBlock l b f).mmas = s.mmas := rfl
@[simp] theorem State.updBlock_records (s : State) (l b : Nat) (f : Block → Block) : (s.updBlock l b f).records = s.records := rfl
@[simp] theorem State.updBlock_collIndex (s : State) (l b : Nat) (f : Block → Block) : (s.updBlock l b f).collIndex = s.collIndex := rfl
@[simp] theorem State.updBlock_origins (s : State) (l b : Nat) (f : Block → Block) : (s.updBlock l b f).origins = s.origins := rfl
@[simp] theorem State.updBlock_departed (s : State) (l b : Nat) (f : Block → Block) : (s.updBlock l b f).departed = s.departed := rfl
@[simp] theorem State.updBlock_governor (s : State) (l b : Nat) (f : Block → Block) : (s.updBlock l b f).governor = s.governor := rfl
@[simp] theorem State.updBlock_period (s : State) (l b : Nat) (f : Block → Block) : (s.updBlock l b f).period = s.period := rfl
@[simp] theorem State.updBlock_contention (s : State) (l b : Nat) (f : Block → Block) : (s.updBlock l b f).contention = s.contention := rfl
@[simp] theorem State.updBlock_links (s : State) (l b : Nat) (f : Block → Block) : (s.updBlock l b f).links = s.links := rfl
@[simp] theorem State.updBlock_firmware (s : State) (l b : Nat) (f : Block → Block) : (s.updBlock l b f).firmware = s.firmware := rfl
@[simp] theorem State.updBlock_cur (s : State) (l b : Nat) (f : Block → Block) : (s.updBlock l b f).cur = s.cur := rfl
@[simp] theorem State.updBlock_agenda (s : State) (l b : Nat) (f : Block → Block) : (s.updBlock l b f).agenda = s.agenda := rfl
@[simp] theorem State.updBlock_free (s : State) (l b : Nat) (f : Block → Block) : (s.updBlock l b f).free = s.free := rfl

/-! ### `updGroup` -/

@[simp] theorem State.updGroup_cycle (s : State) (l b g : Nat) (f : Group → Group) : (s.updGroup l b g f).cycle = s.cycle := rfl
@[simp] theorem State.updGroup_dies (s : State) (l b g : Nat) (f : Group → Group) : (s.updGroup l b g f).dies = s.dies := rfl
@[simp] theorem State.updGroup_transit (s : State) (l b g : Nat) (f : Group → Group) : (s.updGroup l b g f).transit = s.transit := rfl
@[simp] theorem State.updGroup_poison (s : State) (l b g : Nat) (f : Group → Group) : (s.updGroup l b g f).poison = s.poison := rfl
@[simp] theorem State.updGroup_ops (s : State) (l b g : Nat) (f : Group → Group) : (s.updGroup l b g f).ops = s.ops := rfl
@[simp] theorem State.updGroup_nextId (s : State) (l b g : Nat) (f : Group → Group) : (s.updGroup l b g f).nextId = s.nextId := rfl
@[simp] theorem State.updGroup_moment (s : State) (l b g : Nat) (f : Group → Group) : (s.updGroup l b g f).moment = s.moment := rfl
@[simp] theorem State.updGroup_ownership (s : State) (l b g : Nat) (f : Group → Group) : (s.updGroup l b g f).ownership = s.ownership := rfl
@[simp] theorem State.updGroup_shares (s : State) (l b g : Nat) (f : Group → Group) : (s.updGroup l b g f).shares = s.shares := rfl
@[simp] theorem State.updGroup_owners (s : State) (l b g : Nat) (f : Group → Group) : (s.updGroup l b g f).owners = s.owners := rfl
@[simp] theorem State.updGroup_queues (s : State) (l b g : Nat) (f : Group → Group) : (s.updGroup l b g f).queues = s.queues := rfl
@[simp] theorem State.updGroup_nextSeq (s : State) (l b g : Nat) (f : Group → Group) : (s.updGroup l b g f).nextSeq = s.nextSeq := rfl
@[simp] theorem State.updGroup_reservations (s : State) (l b g : Nat) (f : Group → Group) : (s.updGroup l b g f).reservations = s.reservations := rfl
@[simp] theorem State.updGroup_tiles (s : State) (l b g : Nat) (f : Group → Group) : (s.updGroup l b g f).tiles = s.tiles := rfl
@[simp] theorem State.updGroup_mmas (s : State) (l b g : Nat) (f : Group → Group) : (s.updGroup l b g f).mmas = s.mmas := rfl
@[simp] theorem State.updGroup_records (s : State) (l b g : Nat) (f : Group → Group) : (s.updGroup l b g f).records = s.records := rfl
@[simp] theorem State.updGroup_collIndex (s : State) (l b g : Nat) (f : Group → Group) : (s.updGroup l b g f).collIndex = s.collIndex := rfl
@[simp] theorem State.updGroup_origins (s : State) (l b g : Nat) (f : Group → Group) : (s.updGroup l b g f).origins = s.origins := rfl
@[simp] theorem State.updGroup_departed (s : State) (l b g : Nat) (f : Group → Group) : (s.updGroup l b g f).departed = s.departed := rfl
@[simp] theorem State.updGroup_governor (s : State) (l b g : Nat) (f : Group → Group) : (s.updGroup l b g f).governor = s.governor := rfl
@[simp] theorem State.updGroup_period (s : State) (l b g : Nat) (f : Group → Group) : (s.updGroup l b g f).period = s.period := rfl
@[simp] theorem State.updGroup_contention (s : State) (l b g : Nat) (f : Group → Group) : (s.updGroup l b g f).contention = s.contention := rfl
@[simp] theorem State.updGroup_links (s : State) (l b g : Nat) (f : Group → Group) : (s.updGroup l b g f).links = s.links := rfl
@[simp] theorem State.updGroup_firmware (s : State) (l b g : Nat) (f : Group → Group) : (s.updGroup l b g f).firmware = s.firmware := rfl
@[simp] theorem State.updGroup_cur (s : State) (l b g : Nat) (f : Group → Group) : (s.updGroup l b g f).cur = s.cur := rfl
@[simp] theorem State.updGroup_agenda (s : State) (l b g : Nat) (f : Group → Group) : (s.updGroup l b g f).agenda = s.agenda := rfl
@[simp] theorem State.updGroup_free (s : State) (l b g : Nat) (f : Group → Group) : (s.updGroup l b g f).free = s.free := rfl

/-! ### `updPathGroup` -/

@[simp] theorem State.updPathGroup_cycle (s : State) (r : PathRef) (f : Group → Group) : (s.updPathGroup r f).cycle = s.cycle := rfl
@[simp] theorem State.updPathGroup_dies (s : State) (r : PathRef) (f : Group → Group) : (s.updPathGroup r f).dies = s.dies := rfl
@[simp] theorem State.updPathGroup_transit (s : State) (r : PathRef) (f : Group → Group) : (s.updPathGroup r f).transit = s.transit := rfl
@[simp] theorem State.updPathGroup_poison (s : State) (r : PathRef) (f : Group → Group) : (s.updPathGroup r f).poison = s.poison := rfl
@[simp] theorem State.updPathGroup_ops (s : State) (r : PathRef) (f : Group → Group) : (s.updPathGroup r f).ops = s.ops := rfl
@[simp] theorem State.updPathGroup_nextId (s : State) (r : PathRef) (f : Group → Group) : (s.updPathGroup r f).nextId = s.nextId := rfl
@[simp] theorem State.updPathGroup_moment (s : State) (r : PathRef) (f : Group → Group) : (s.updPathGroup r f).moment = s.moment := rfl
@[simp] theorem State.updPathGroup_ownership (s : State) (r : PathRef) (f : Group → Group) : (s.updPathGroup r f).ownership = s.ownership := rfl
@[simp] theorem State.updPathGroup_shares (s : State) (r : PathRef) (f : Group → Group) : (s.updPathGroup r f).shares = s.shares := rfl
@[simp] theorem State.updPathGroup_owners (s : State) (r : PathRef) (f : Group → Group) : (s.updPathGroup r f).owners = s.owners := rfl
@[simp] theorem State.updPathGroup_queues (s : State) (r : PathRef) (f : Group → Group) : (s.updPathGroup r f).queues = s.queues := rfl
@[simp] theorem State.updPathGroup_nextSeq (s : State) (r : PathRef) (f : Group → Group) : (s.updPathGroup r f).nextSeq = s.nextSeq := rfl
@[simp] theorem State.updPathGroup_reservations (s : State) (r : PathRef) (f : Group → Group) : (s.updPathGroup r f).reservations = s.reservations := rfl
@[simp] theorem State.updPathGroup_tiles (s : State) (r : PathRef) (f : Group → Group) : (s.updPathGroup r f).tiles = s.tiles := rfl
@[simp] theorem State.updPathGroup_mmas (s : State) (r : PathRef) (f : Group → Group) : (s.updPathGroup r f).mmas = s.mmas := rfl
@[simp] theorem State.updPathGroup_records (s : State) (r : PathRef) (f : Group → Group) : (s.updPathGroup r f).records = s.records := rfl
@[simp] theorem State.updPathGroup_collIndex (s : State) (r : PathRef) (f : Group → Group) : (s.updPathGroup r f).collIndex = s.collIndex := rfl
@[simp] theorem State.updPathGroup_origins (s : State) (r : PathRef) (f : Group → Group) : (s.updPathGroup r f).origins = s.origins := rfl
@[simp] theorem State.updPathGroup_departed (s : State) (r : PathRef) (f : Group → Group) : (s.updPathGroup r f).departed = s.departed := rfl
@[simp] theorem State.updPathGroup_governor (s : State) (r : PathRef) (f : Group → Group) : (s.updPathGroup r f).governor = s.governor := rfl
@[simp] theorem State.updPathGroup_period (s : State) (r : PathRef) (f : Group → Group) : (s.updPathGroup r f).period = s.period := rfl
@[simp] theorem State.updPathGroup_contention (s : State) (r : PathRef) (f : Group → Group) : (s.updPathGroup r f).contention = s.contention := rfl
@[simp] theorem State.updPathGroup_links (s : State) (r : PathRef) (f : Group → Group) : (s.updPathGroup r f).links = s.links := rfl
@[simp] theorem State.updPathGroup_firmware (s : State) (r : PathRef) (f : Group → Group) : (s.updPathGroup r f).firmware = s.firmware := rfl
@[simp] theorem State.updPathGroup_cur (s : State) (r : PathRef) (f : Group → Group) : (s.updPathGroup r f).cur = s.cur := rfl
@[simp] theorem State.updPathGroup_agenda (s : State) (r : PathRef) (f : Group → Group) : (s.updPathGroup r f).agenda = s.agenda := rfl
@[simp] theorem State.updPathGroup_free (s : State) (r : PathRef) (f : Group → Group) : (s.updPathGroup r f).free = s.free := rfl

/-! ### `updPath` -/

@[simp] theorem State.updPath_cycle (s : State) (r : PathRef) (f : Path → Path) : (s.updPath r f).cycle = s.cycle := rfl
@[simp] theorem State.updPath_dies (s : State) (r : PathRef) (f : Path → Path) : (s.updPath r f).dies = s.dies := rfl
@[simp] theorem State.updPath_transit (s : State) (r : PathRef) (f : Path → Path) : (s.updPath r f).transit = s.transit := rfl
@[simp] theorem State.updPath_poison (s : State) (r : PathRef) (f : Path → Path) : (s.updPath r f).poison = s.poison := rfl
@[simp] theorem State.updPath_ops (s : State) (r : PathRef) (f : Path → Path) : (s.updPath r f).ops = s.ops := rfl
@[simp] theorem State.updPath_nextId (s : State) (r : PathRef) (f : Path → Path) : (s.updPath r f).nextId = s.nextId := rfl
@[simp] theorem State.updPath_moment (s : State) (r : PathRef) (f : Path → Path) : (s.updPath r f).moment = s.moment := rfl
@[simp] theorem State.updPath_ownership (s : State) (r : PathRef) (f : Path → Path) : (s.updPath r f).ownership = s.ownership := rfl
@[simp] theorem State.updPath_shares (s : State) (r : PathRef) (f : Path → Path) : (s.updPath r f).shares = s.shares := rfl
@[simp] theorem State.updPath_owners (s : State) (r : PathRef) (f : Path → Path) : (s.updPath r f).owners = s.owners := rfl
@[simp] theorem State.updPath_queues (s : State) (r : PathRef) (f : Path → Path) : (s.updPath r f).queues = s.queues := rfl
@[simp] theorem State.updPath_nextSeq (s : State) (r : PathRef) (f : Path → Path) : (s.updPath r f).nextSeq = s.nextSeq := rfl
@[simp] theorem State.updPath_reservations (s : State) (r : PathRef) (f : Path → Path) : (s.updPath r f).reservations = s.reservations := rfl
@[simp] theorem State.updPath_tiles (s : State) (r : PathRef) (f : Path → Path) : (s.updPath r f).tiles = s.tiles := rfl
@[simp] theorem State.updPath_mmas (s : State) (r : PathRef) (f : Path → Path) : (s.updPath r f).mmas = s.mmas := rfl
@[simp] theorem State.updPath_records (s : State) (r : PathRef) (f : Path → Path) : (s.updPath r f).records = s.records := rfl
@[simp] theorem State.updPath_collIndex (s : State) (r : PathRef) (f : Path → Path) : (s.updPath r f).collIndex = s.collIndex := rfl
@[simp] theorem State.updPath_origins (s : State) (r : PathRef) (f : Path → Path) : (s.updPath r f).origins = s.origins := rfl
@[simp] theorem State.updPath_departed (s : State) (r : PathRef) (f : Path → Path) : (s.updPath r f).departed = s.departed := rfl
@[simp] theorem State.updPath_governor (s : State) (r : PathRef) (f : Path → Path) : (s.updPath r f).governor = s.governor := rfl
@[simp] theorem State.updPath_period (s : State) (r : PathRef) (f : Path → Path) : (s.updPath r f).period = s.period := rfl
@[simp] theorem State.updPath_contention (s : State) (r : PathRef) (f : Path → Path) : (s.updPath r f).contention = s.contention := rfl
@[simp] theorem State.updPath_links (s : State) (r : PathRef) (f : Path → Path) : (s.updPath r f).links = s.links := rfl
@[simp] theorem State.updPath_firmware (s : State) (r : PathRef) (f : Path → Path) : (s.updPath r f).firmware = s.firmware := rfl
@[simp] theorem State.updPath_cur (s : State) (r : PathRef) (f : Path → Path) : (s.updPath r f).cur = s.cur := rfl
@[simp] theorem State.updPath_agenda (s : State) (r : PathRef) (f : Path → Path) : (s.updPath r f).agenda = s.agenda := rfl
@[simp] theorem State.updPath_free (s : State) (r : PathRef) (f : Path → Path) : (s.updPath r f).free = s.free := rfl

/-! ### `setStatus` -/

@[simp] theorem State.setStatus_cycle (s : State) (r : PathRef) (st : PathStatus) : (s.setStatus r st).cycle = s.cycle := rfl
@[simp] theorem State.setStatus_dies (s : State) (r : PathRef) (st : PathStatus) : (s.setStatus r st).dies = s.dies := rfl
@[simp] theorem State.setStatus_transit (s : State) (r : PathRef) (st : PathStatus) : (s.setStatus r st).transit = s.transit := rfl
@[simp] theorem State.setStatus_poison (s : State) (r : PathRef) (st : PathStatus) : (s.setStatus r st).poison = s.poison := rfl
@[simp] theorem State.setStatus_ops (s : State) (r : PathRef) (st : PathStatus) : (s.setStatus r st).ops = s.ops := rfl
@[simp] theorem State.setStatus_nextId (s : State) (r : PathRef) (st : PathStatus) : (s.setStatus r st).nextId = s.nextId := rfl
@[simp] theorem State.setStatus_moment (s : State) (r : PathRef) (st : PathStatus) : (s.setStatus r st).moment = s.moment := rfl
@[simp] theorem State.setStatus_ownership (s : State) (r : PathRef) (st : PathStatus) : (s.setStatus r st).ownership = s.ownership := rfl
@[simp] theorem State.setStatus_shares (s : State) (r : PathRef) (st : PathStatus) : (s.setStatus r st).shares = s.shares := rfl
@[simp] theorem State.setStatus_owners (s : State) (r : PathRef) (st : PathStatus) : (s.setStatus r st).owners = s.owners := rfl
@[simp] theorem State.setStatus_queues (s : State) (r : PathRef) (st : PathStatus) : (s.setStatus r st).queues = s.queues := rfl
@[simp] theorem State.setStatus_nextSeq (s : State) (r : PathRef) (st : PathStatus) : (s.setStatus r st).nextSeq = s.nextSeq := rfl
@[simp] theorem State.setStatus_reservations (s : State) (r : PathRef) (st : PathStatus) : (s.setStatus r st).reservations = s.reservations := rfl
@[simp] theorem State.setStatus_tiles (s : State) (r : PathRef) (st : PathStatus) : (s.setStatus r st).tiles = s.tiles := rfl
@[simp] theorem State.setStatus_mmas (s : State) (r : PathRef) (st : PathStatus) : (s.setStatus r st).mmas = s.mmas := rfl
@[simp] theorem State.setStatus_records (s : State) (r : PathRef) (st : PathStatus) : (s.setStatus r st).records = s.records := rfl
@[simp] theorem State.setStatus_collIndex (s : State) (r : PathRef) (st : PathStatus) : (s.setStatus r st).collIndex = s.collIndex := rfl
@[simp] theorem State.setStatus_origins (s : State) (r : PathRef) (st : PathStatus) : (s.setStatus r st).origins = s.origins := rfl
@[simp] theorem State.setStatus_departed (s : State) (r : PathRef) (st : PathStatus) : (s.setStatus r st).departed = s.departed := rfl
@[simp] theorem State.setStatus_governor (s : State) (r : PathRef) (st : PathStatus) : (s.setStatus r st).governor = s.governor := rfl
@[simp] theorem State.setStatus_period (s : State) (r : PathRef) (st : PathStatus) : (s.setStatus r st).period = s.period := rfl
@[simp] theorem State.setStatus_contention (s : State) (r : PathRef) (st : PathStatus) : (s.setStatus r st).contention = s.contention := rfl
@[simp] theorem State.setStatus_links (s : State) (r : PathRef) (st : PathStatus) : (s.setStatus r st).links = s.links := rfl
@[simp] theorem State.setStatus_firmware (s : State) (r : PathRef) (st : PathStatus) : (s.setStatus r st).firmware = s.firmware := rfl
@[simp] theorem State.setStatus_cur (s : State) (r : PathRef) (st : PathStatus) : (s.setStatus r st).cur = s.cur := rfl
@[simp] theorem State.setStatus_agenda (s : State) (r : PathRef) (st : PathStatus) : (s.setStatus r st).agenda = s.agenda := rfl
@[simp] theorem State.setStatus_free (s : State) (r : PathRef) (st : PathStatus) : (s.setStatus r st).free = s.free := rfl

/-! ### `takeFree` -/

@[simp] theorem State.takeFree_cycle (s : State) (n : Nat) : (s.takeFree n).cycle = s.cycle := rfl
@[simp] theorem State.takeFree_dies (s : State) (n : Nat) : (s.takeFree n).dies = s.dies := rfl
@[simp] theorem State.takeFree_transit (s : State) (n : Nat) : (s.takeFree n).transit = s.transit := rfl
@[simp] theorem State.takeFree_poison (s : State) (n : Nat) : (s.takeFree n).poison = s.poison := rfl
@[simp] theorem State.takeFree_ops (s : State) (n : Nat) : (s.takeFree n).ops = s.ops := rfl
@[simp] theorem State.takeFree_nextId (s : State) (n : Nat) : (s.takeFree n).nextId = s.nextId := rfl
@[simp] theorem State.takeFree_moment (s : State) (n : Nat) : (s.takeFree n).moment = s.moment := rfl
@[simp] theorem State.takeFree_ownership (s : State) (n : Nat) : (s.takeFree n).ownership = s.ownership := rfl
@[simp] theorem State.takeFree_shares (s : State) (n : Nat) : (s.takeFree n).shares = s.shares := rfl
@[simp] theorem State.takeFree_owners (s : State) (n : Nat) : (s.takeFree n).owners = s.owners := rfl
@[simp] theorem State.takeFree_queues (s : State) (n : Nat) : (s.takeFree n).queues = s.queues := rfl
@[simp] theorem State.takeFree_launches (s : State) (n : Nat) : (s.takeFree n).launches = s.launches := rfl
@[simp] theorem State.takeFree_nextSeq (s : State) (n : Nat) : (s.takeFree n).nextSeq = s.nextSeq := rfl
@[simp] theorem State.takeFree_reservations (s : State) (n : Nat) : (s.takeFree n).reservations = s.reservations := rfl
@[simp] theorem State.takeFree_tiles (s : State) (n : Nat) : (s.takeFree n).tiles = s.tiles := rfl
@[simp] theorem State.takeFree_mmas (s : State) (n : Nat) : (s.takeFree n).mmas = s.mmas := rfl
@[simp] theorem State.takeFree_records (s : State) (n : Nat) : (s.takeFree n).records = s.records := rfl
@[simp] theorem State.takeFree_collIndex (s : State) (n : Nat) : (s.takeFree n).collIndex = s.collIndex := rfl
@[simp] theorem State.takeFree_origins (s : State) (n : Nat) : (s.takeFree n).origins = s.origins := rfl
@[simp] theorem State.takeFree_departed (s : State) (n : Nat) : (s.takeFree n).departed = s.departed := rfl
@[simp] theorem State.takeFree_governor (s : State) (n : Nat) : (s.takeFree n).governor = s.governor := rfl
@[simp] theorem State.takeFree_period (s : State) (n : Nat) : (s.takeFree n).period = s.period := rfl
@[simp] theorem State.takeFree_contention (s : State) (n : Nat) : (s.takeFree n).contention = s.contention := rfl
@[simp] theorem State.takeFree_links (s : State) (n : Nat) : (s.takeFree n).links = s.links := rfl
@[simp] theorem State.takeFree_firmware (s : State) (n : Nat) : (s.takeFree n).firmware = s.firmware := rfl
@[simp] theorem State.takeFree_cur (s : State) (n : Nat) : (s.takeFree n).cur = s.cur := rfl
@[simp] theorem State.takeFree_agenda (s : State) (n : Nat) : (s.takeFree n).agenda = s.agenda := rfl

/-! ### `takeFreeOf` -/

@[simp] theorem State.takeFreeOf_cycle (s : State) (o n : Nat) : (s.takeFreeOf o n).cycle = s.cycle := rfl
@[simp] theorem State.takeFreeOf_dies (s : State) (o n : Nat) : (s.takeFreeOf o n).dies = s.dies := rfl
@[simp] theorem State.takeFreeOf_transit (s : State) (o n : Nat) : (s.takeFreeOf o n).transit = s.transit := rfl
@[simp] theorem State.takeFreeOf_poison (s : State) (o n : Nat) : (s.takeFreeOf o n).poison = s.poison := rfl
@[simp] theorem State.takeFreeOf_ops (s : State) (o n : Nat) : (s.takeFreeOf o n).ops = s.ops := rfl
@[simp] theorem State.takeFreeOf_nextId (s : State) (o n : Nat) : (s.takeFreeOf o n).nextId = s.nextId := rfl
@[simp] theorem State.takeFreeOf_moment (s : State) (o n : Nat) : (s.takeFreeOf o n).moment = s.moment := rfl
@[simp] theorem State.takeFreeOf_ownership (s : State) (o n : Nat) : (s.takeFreeOf o n).ownership = s.ownership := rfl
@[simp] theorem State.takeFreeOf_shares (s : State) (o n : Nat) : (s.takeFreeOf o n).shares = s.shares := rfl
@[simp] theorem State.takeFreeOf_queues (s : State) (o n : Nat) : (s.takeFreeOf o n).queues = s.queues := rfl
@[simp] theorem State.takeFreeOf_launches (s : State) (o n : Nat) : (s.takeFreeOf o n).launches = s.launches := rfl
@[simp] theorem State.takeFreeOf_nextSeq (s : State) (o n : Nat) : (s.takeFreeOf o n).nextSeq = s.nextSeq := rfl
@[simp] theorem State.takeFreeOf_reservations (s : State) (o n : Nat) : (s.takeFreeOf o n).reservations = s.reservations := rfl
@[simp] theorem State.takeFreeOf_tiles (s : State) (o n : Nat) : (s.takeFreeOf o n).tiles = s.tiles := rfl
@[simp] theorem State.takeFreeOf_mmas (s : State) (o n : Nat) : (s.takeFreeOf o n).mmas = s.mmas := rfl
@[simp] theorem State.takeFreeOf_records (s : State) (o n : Nat) : (s.takeFreeOf o n).records = s.records := rfl
@[simp] theorem State.takeFreeOf_collIndex (s : State) (o n : Nat) : (s.takeFreeOf o n).collIndex = s.collIndex := rfl
@[simp] theorem State.takeFreeOf_origins (s : State) (o n : Nat) : (s.takeFreeOf o n).origins = s.origins := rfl
@[simp] theorem State.takeFreeOf_departed (s : State) (o n : Nat) : (s.takeFreeOf o n).departed = s.departed := rfl
@[simp] theorem State.takeFreeOf_governor (s : State) (o n : Nat) : (s.takeFreeOf o n).governor = s.governor := rfl
@[simp] theorem State.takeFreeOf_period (s : State) (o n : Nat) : (s.takeFreeOf o n).period = s.period := rfl
@[simp] theorem State.takeFreeOf_contention (s : State) (o n : Nat) : (s.takeFreeOf o n).contention = s.contention := rfl
@[simp] theorem State.takeFreeOf_links (s : State) (o n : Nat) : (s.takeFreeOf o n).links = s.links := rfl
@[simp] theorem State.takeFreeOf_firmware (s : State) (o n : Nat) : (s.takeFreeOf o n).firmware = s.firmware := rfl
@[simp] theorem State.takeFreeOf_cur (s : State) (o n : Nat) : (s.takeFreeOf o n).cur = s.cur := rfl
@[simp] theorem State.takeFreeOf_agenda (s : State) (o n : Nat) : (s.takeFreeOf o n).agenda = s.agenda := rfl
@[simp] theorem State.takeFreeOf_free (s : State) (o n : Nat) : (s.takeFreeOf o n).free = s.free := rfl

/-! ### `charge` -/

@[simp] theorem State.charge_cycle (s : State) (o pa n : Nat) : (s.charge o pa n).cycle = s.cycle := rfl
@[simp] theorem State.charge_dies (s : State) (o pa n : Nat) : (s.charge o pa n).dies = s.dies := rfl
@[simp] theorem State.charge_transit (s : State) (o pa n : Nat) : (s.charge o pa n).transit = s.transit := rfl
@[simp] theorem State.charge_poison (s : State) (o pa n : Nat) : (s.charge o pa n).poison = s.poison := rfl
@[simp] theorem State.charge_ops (s : State) (o pa n : Nat) : (s.charge o pa n).ops = s.ops := rfl
@[simp] theorem State.charge_nextId (s : State) (o pa n : Nat) : (s.charge o pa n).nextId = s.nextId := rfl
@[simp] theorem State.charge_moment (s : State) (o pa n : Nat) : (s.charge o pa n).moment = s.moment := rfl
@[simp] theorem State.charge_ownership (s : State) (o pa n : Nat) : (s.charge o pa n).ownership = s.ownership := rfl
@[simp] theorem State.charge_shares (s : State) (o pa n : Nat) : (s.charge o pa n).shares = s.shares := rfl
@[simp] theorem State.charge_queues (s : State) (o pa n : Nat) : (s.charge o pa n).queues = s.queues := rfl
@[simp] theorem State.charge_launches (s : State) (o pa n : Nat) : (s.charge o pa n).launches = s.launches := rfl
@[simp] theorem State.charge_nextSeq (s : State) (o pa n : Nat) : (s.charge o pa n).nextSeq = s.nextSeq := rfl
@[simp] theorem State.charge_reservations (s : State) (o pa n : Nat) : (s.charge o pa n).reservations = s.reservations := rfl
@[simp] theorem State.charge_tiles (s : State) (o pa n : Nat) : (s.charge o pa n).tiles = s.tiles := rfl
@[simp] theorem State.charge_mmas (s : State) (o pa n : Nat) : (s.charge o pa n).mmas = s.mmas := rfl
@[simp] theorem State.charge_records (s : State) (o pa n : Nat) : (s.charge o pa n).records = s.records := rfl
@[simp] theorem State.charge_collIndex (s : State) (o pa n : Nat) : (s.charge o pa n).collIndex = s.collIndex := rfl
@[simp] theorem State.charge_origins (s : State) (o pa n : Nat) : (s.charge o pa n).origins = s.origins := rfl
@[simp] theorem State.charge_departed (s : State) (o pa n : Nat) : (s.charge o pa n).departed = s.departed := rfl
@[simp] theorem State.charge_governor (s : State) (o pa n : Nat) : (s.charge o pa n).governor = s.governor := rfl
@[simp] theorem State.charge_period (s : State) (o pa n : Nat) : (s.charge o pa n).period = s.period := rfl
@[simp] theorem State.charge_contention (s : State) (o pa n : Nat) : (s.charge o pa n).contention = s.contention := rfl
@[simp] theorem State.charge_links (s : State) (o pa n : Nat) : (s.charge o pa n).links = s.links := rfl
@[simp] theorem State.charge_firmware (s : State) (o pa n : Nat) : (s.charge o pa n).firmware = s.firmware := rfl
@[simp] theorem State.charge_cur (s : State) (o pa n : Nat) : (s.charge o pa n).cur = s.cur := rfl
@[simp] theorem State.charge_agenda (s : State) (o pa n : Nat) : (s.charge o pa n).agenda = s.agenda := rfl
@[simp] theorem State.charge_free (s : State) (o pa n : Nat) : (s.charge o pa n).free = s.free := rfl

/-! ### `writeView` -/

@[simp] theorem State.writeView_cycle (s : State) (v pa : Nat) (bs : List Byte) : (s.writeView v pa bs).cycle = s.cycle := rfl
@[simp] theorem State.writeView_transit (s : State) (v pa : Nat) (bs : List Byte) : (s.writeView v pa bs).transit = s.transit := rfl
@[simp] theorem State.writeView_poison (s : State) (v pa : Nat) (bs : List Byte) : (s.writeView v pa bs).poison = s.poison := rfl
@[simp] theorem State.writeView_ops (s : State) (v pa : Nat) (bs : List Byte) : (s.writeView v pa bs).ops = s.ops := rfl
@[simp] theorem State.writeView_nextId (s : State) (v pa : Nat) (bs : List Byte) : (s.writeView v pa bs).nextId = s.nextId := rfl
@[simp] theorem State.writeView_ownership (s : State) (v pa : Nat) (bs : List Byte) : (s.writeView v pa bs).ownership = s.ownership := rfl
@[simp] theorem State.writeView_shares (s : State) (v pa : Nat) (bs : List Byte) : (s.writeView v pa bs).shares = s.shares := rfl
@[simp] theorem State.writeView_owners (s : State) (v pa : Nat) (bs : List Byte) : (s.writeView v pa bs).owners = s.owners := rfl
@[simp] theorem State.writeView_queues (s : State) (v pa : Nat) (bs : List Byte) : (s.writeView v pa bs).queues = s.queues := rfl
@[simp] theorem State.writeView_launches (s : State) (v pa : Nat) (bs : List Byte) : (s.writeView v pa bs).launches = s.launches := rfl
@[simp] theorem State.writeView_nextSeq (s : State) (v pa : Nat) (bs : List Byte) : (s.writeView v pa bs).nextSeq = s.nextSeq := rfl
@[simp] theorem State.writeView_reservations (s : State) (v pa : Nat) (bs : List Byte) : (s.writeView v pa bs).reservations = s.reservations := rfl
@[simp] theorem State.writeView_tiles (s : State) (v pa : Nat) (bs : List Byte) : (s.writeView v pa bs).tiles = s.tiles := rfl
@[simp] theorem State.writeView_mmas (s : State) (v pa : Nat) (bs : List Byte) : (s.writeView v pa bs).mmas = s.mmas := rfl
@[simp] theorem State.writeView_records (s : State) (v pa : Nat) (bs : List Byte) : (s.writeView v pa bs).records = s.records := rfl
@[simp] theorem State.writeView_collIndex (s : State) (v pa : Nat) (bs : List Byte) : (s.writeView v pa bs).collIndex = s.collIndex := rfl
@[simp] theorem State.writeView_origins (s : State) (v pa : Nat) (bs : List Byte) : (s.writeView v pa bs).origins = s.origins := rfl
@[simp] theorem State.writeView_departed (s : State) (v pa : Nat) (bs : List Byte) : (s.writeView v pa bs).departed = s.departed := rfl
@[simp] theorem State.writeView_governor (s : State) (v pa : Nat) (bs : List Byte) : (s.writeView v pa bs).governor = s.governor := rfl
@[simp] theorem State.writeView_period (s : State) (v pa : Nat) (bs : List Byte) : (s.writeView v pa bs).period = s.period := rfl
@[simp] theorem State.writeView_contention (s : State) (v pa : Nat) (bs : List Byte) : (s.writeView v pa bs).contention = s.contention := rfl
@[simp] theorem State.writeView_links (s : State) (v pa : Nat) (bs : List Byte) : (s.writeView v pa bs).links = s.links := rfl
@[simp] theorem State.writeView_firmware (s : State) (v pa : Nat) (bs : List Byte) : (s.writeView v pa bs).firmware = s.firmware := rfl
@[simp] theorem State.writeView_cur (s : State) (v pa : Nat) (bs : List Byte) : (s.writeView v pa bs).cur = s.cur := rfl
@[simp] theorem State.writeView_agenda (s : State) (v pa : Nat) (bs : List Byte) : (s.writeView v pa bs).agenda = s.agenda := rfl
@[simp] theorem State.writeView_free (s : State) (v pa : Nat) (bs : List Byte) : (s.writeView v pa bs).free = s.free := rfl

/-! ### `writeAll` -/

@[simp] theorem State.writeAll_cycle (s : State) (pa : Nat) (bs : List Byte) : (s.writeAll pa bs).cycle = s.cycle := rfl
@[simp] theorem State.writeAll_transit (s : State) (pa : Nat) (bs : List Byte) : (s.writeAll pa bs).transit = s.transit := rfl
@[simp] theorem State.writeAll_poison (s : State) (pa : Nat) (bs : List Byte) : (s.writeAll pa bs).poison = s.poison := rfl
@[simp] theorem State.writeAll_ops (s : State) (pa : Nat) (bs : List Byte) : (s.writeAll pa bs).ops = s.ops := rfl
@[simp] theorem State.writeAll_nextId (s : State) (pa : Nat) (bs : List Byte) : (s.writeAll pa bs).nextId = s.nextId := rfl
@[simp] theorem State.writeAll_ownership (s : State) (pa : Nat) (bs : List Byte) : (s.writeAll pa bs).ownership = s.ownership := rfl
@[simp] theorem State.writeAll_shares (s : State) (pa : Nat) (bs : List Byte) : (s.writeAll pa bs).shares = s.shares := rfl
@[simp] theorem State.writeAll_owners (s : State) (pa : Nat) (bs : List Byte) : (s.writeAll pa bs).owners = s.owners := rfl
@[simp] theorem State.writeAll_queues (s : State) (pa : Nat) (bs : List Byte) : (s.writeAll pa bs).queues = s.queues := rfl
@[simp] theorem State.writeAll_launches (s : State) (pa : Nat) (bs : List Byte) : (s.writeAll pa bs).launches = s.launches := rfl
@[simp] theorem State.writeAll_nextSeq (s : State) (pa : Nat) (bs : List Byte) : (s.writeAll pa bs).nextSeq = s.nextSeq := rfl
@[simp] theorem State.writeAll_reservations (s : State) (pa : Nat) (bs : List Byte) : (s.writeAll pa bs).reservations = s.reservations := rfl
@[simp] theorem State.writeAll_tiles (s : State) (pa : Nat) (bs : List Byte) : (s.writeAll pa bs).tiles = s.tiles := rfl
@[simp] theorem State.writeAll_mmas (s : State) (pa : Nat) (bs : List Byte) : (s.writeAll pa bs).mmas = s.mmas := rfl
@[simp] theorem State.writeAll_records (s : State) (pa : Nat) (bs : List Byte) : (s.writeAll pa bs).records = s.records := rfl
@[simp] theorem State.writeAll_collIndex (s : State) (pa : Nat) (bs : List Byte) : (s.writeAll pa bs).collIndex = s.collIndex := rfl
@[simp] theorem State.writeAll_origins (s : State) (pa : Nat) (bs : List Byte) : (s.writeAll pa bs).origins = s.origins := rfl
@[simp] theorem State.writeAll_departed (s : State) (pa : Nat) (bs : List Byte) : (s.writeAll pa bs).departed = s.departed := rfl
@[simp] theorem State.writeAll_governor (s : State) (pa : Nat) (bs : List Byte) : (s.writeAll pa bs).governor = s.governor := rfl
@[simp] theorem State.writeAll_period (s : State) (pa : Nat) (bs : List Byte) : (s.writeAll pa bs).period = s.period := rfl
@[simp] theorem State.writeAll_contention (s : State) (pa : Nat) (bs : List Byte) : (s.writeAll pa bs).contention = s.contention := rfl
@[simp] theorem State.writeAll_links (s : State) (pa : Nat) (bs : List Byte) : (s.writeAll pa bs).links = s.links := rfl
@[simp] theorem State.writeAll_firmware (s : State) (pa : Nat) (bs : List Byte) : (s.writeAll pa bs).firmware = s.firmware := rfl
@[simp] theorem State.writeAll_cur (s : State) (pa : Nat) (bs : List Byte) : (s.writeAll pa bs).cur = s.cur := rfl
@[simp] theorem State.writeAll_agenda (s : State) (pa : Nat) (bs : List Byte) : (s.writeAll pa bs).agenda = s.agenda := rfl
@[simp] theorem State.writeAll_free (s : State) (pa : Nat) (bs : List Byte) : (s.writeAll pa bs).free = s.free := rfl

/-! ### `clearPoison` -/

@[simp] theorem State.clearPoison_cycle (s : State) (rs : List (Nat × Nat)) : (s.clearPoison rs).cycle = s.cycle := rfl
@[simp] theorem State.clearPoison_dies (s : State) (rs : List (Nat × Nat)) : (s.clearPoison rs).dies = s.dies := rfl
@[simp] theorem State.clearPoison_transit (s : State) (rs : List (Nat × Nat)) : (s.clearPoison rs).transit = s.transit := rfl
@[simp] theorem State.clearPoison_ops (s : State) (rs : List (Nat × Nat)) : (s.clearPoison rs).ops = s.ops := rfl
@[simp] theorem State.clearPoison_nextId (s : State) (rs : List (Nat × Nat)) : (s.clearPoison rs).nextId = s.nextId := rfl
@[simp] theorem State.clearPoison_moment (s : State) (rs : List (Nat × Nat)) : (s.clearPoison rs).moment = s.moment := rfl
@[simp] theorem State.clearPoison_ownership (s : State) (rs : List (Nat × Nat)) : (s.clearPoison rs).ownership = s.ownership := rfl
@[simp] theorem State.clearPoison_shares (s : State) (rs : List (Nat × Nat)) : (s.clearPoison rs).shares = s.shares := rfl
@[simp] theorem State.clearPoison_owners (s : State) (rs : List (Nat × Nat)) : (s.clearPoison rs).owners = s.owners := rfl
@[simp] theorem State.clearPoison_queues (s : State) (rs : List (Nat × Nat)) : (s.clearPoison rs).queues = s.queues := rfl
@[simp] theorem State.clearPoison_launches (s : State) (rs : List (Nat × Nat)) : (s.clearPoison rs).launches = s.launches := rfl
@[simp] theorem State.clearPoison_nextSeq (s : State) (rs : List (Nat × Nat)) : (s.clearPoison rs).nextSeq = s.nextSeq := rfl
@[simp] theorem State.clearPoison_reservations (s : State) (rs : List (Nat × Nat)) : (s.clearPoison rs).reservations = s.reservations := rfl
@[simp] theorem State.clearPoison_tiles (s : State) (rs : List (Nat × Nat)) : (s.clearPoison rs).tiles = s.tiles := rfl
@[simp] theorem State.clearPoison_mmas (s : State) (rs : List (Nat × Nat)) : (s.clearPoison rs).mmas = s.mmas := rfl
@[simp] theorem State.clearPoison_records (s : State) (rs : List (Nat × Nat)) : (s.clearPoison rs).records = s.records := rfl
@[simp] theorem State.clearPoison_collIndex (s : State) (rs : List (Nat × Nat)) : (s.clearPoison rs).collIndex = s.collIndex := rfl
@[simp] theorem State.clearPoison_origins (s : State) (rs : List (Nat × Nat)) : (s.clearPoison rs).origins = s.origins := rfl
@[simp] theorem State.clearPoison_departed (s : State) (rs : List (Nat × Nat)) : (s.clearPoison rs).departed = s.departed := rfl
@[simp] theorem State.clearPoison_governor (s : State) (rs : List (Nat × Nat)) : (s.clearPoison rs).governor = s.governor := rfl
@[simp] theorem State.clearPoison_period (s : State) (rs : List (Nat × Nat)) : (s.clearPoison rs).period = s.period := rfl
@[simp] theorem State.clearPoison_contention (s : State) (rs : List (Nat × Nat)) : (s.clearPoison rs).contention = s.contention := rfl
@[simp] theorem State.clearPoison_links (s : State) (rs : List (Nat × Nat)) : (s.clearPoison rs).links = s.links := rfl
@[simp] theorem State.clearPoison_firmware (s : State) (rs : List (Nat × Nat)) : (s.clearPoison rs).firmware = s.firmware := rfl
@[simp] theorem State.clearPoison_cur (s : State) (rs : List (Nat × Nat)) : (s.clearPoison rs).cur = s.cur := rfl
@[simp] theorem State.clearPoison_agenda (s : State) (rs : List (Nat × Nat)) : (s.clearPoison rs).agenda = s.agenda := rfl
@[simp] theorem State.clearPoison_free (s : State) (rs : List (Nat × Nat)) : (s.clearPoison rs).free = s.free := rfl

/-! ### `updQueue` -/

@[simp] theorem State.updQueue_cycle (s : State) (q : Nat) (f : Queue → Queue) : (s.updQueue q f).cycle = s.cycle := rfl
@[simp] theorem State.updQueue_dies (s : State) (q : Nat) (f : Queue → Queue) : (s.updQueue q f).dies = s.dies := rfl
@[simp] theorem State.updQueue_transit (s : State) (q : Nat) (f : Queue → Queue) : (s.updQueue q f).transit = s.transit := rfl
@[simp] theorem State.updQueue_poison (s : State) (q : Nat) (f : Queue → Queue) : (s.updQueue q f).poison = s.poison := rfl
@[simp] theorem State.updQueue_ops (s : State) (q : Nat) (f : Queue → Queue) : (s.updQueue q f).ops = s.ops := rfl
@[simp] theorem State.updQueue_nextId (s : State) (q : Nat) (f : Queue → Queue) : (s.updQueue q f).nextId = s.nextId := rfl
@[simp] theorem State.updQueue_moment (s : State) (q : Nat) (f : Queue → Queue) : (s.updQueue q f).moment = s.moment := rfl
@[simp] theorem State.updQueue_ownership (s : State) (q : Nat) (f : Queue → Queue) : (s.updQueue q f).ownership = s.ownership := rfl
@[simp] theorem State.updQueue_shares (s : State) (q : Nat) (f : Queue → Queue) : (s.updQueue q f).shares = s.shares := rfl
@[simp] theorem State.updQueue_owners (s : State) (q : Nat) (f : Queue → Queue) : (s.updQueue q f).owners = s.owners := rfl
@[simp] theorem State.updQueue_launches (s : State) (q : Nat) (f : Queue → Queue) : (s.updQueue q f).launches = s.launches := rfl
@[simp] theorem State.updQueue_nextSeq (s : State) (q : Nat) (f : Queue → Queue) : (s.updQueue q f).nextSeq = s.nextSeq := rfl
@[simp] theorem State.updQueue_reservations (s : State) (q : Nat) (f : Queue → Queue) : (s.updQueue q f).reservations = s.reservations := rfl
@[simp] theorem State.updQueue_tiles (s : State) (q : Nat) (f : Queue → Queue) : (s.updQueue q f).tiles = s.tiles := rfl
@[simp] theorem State.updQueue_mmas (s : State) (q : Nat) (f : Queue → Queue) : (s.updQueue q f).mmas = s.mmas := rfl
@[simp] theorem State.updQueue_records (s : State) (q : Nat) (f : Queue → Queue) : (s.updQueue q f).records = s.records := rfl
@[simp] theorem State.updQueue_collIndex (s : State) (q : Nat) (f : Queue → Queue) : (s.updQueue q f).collIndex = s.collIndex := rfl
@[simp] theorem State.updQueue_origins (s : State) (q : Nat) (f : Queue → Queue) : (s.updQueue q f).origins = s.origins := rfl
@[simp] theorem State.updQueue_departed (s : State) (q : Nat) (f : Queue → Queue) : (s.updQueue q f).departed = s.departed := rfl
@[simp] theorem State.updQueue_governor (s : State) (q : Nat) (f : Queue → Queue) : (s.updQueue q f).governor = s.governor := rfl
@[simp] theorem State.updQueue_period (s : State) (q : Nat) (f : Queue → Queue) : (s.updQueue q f).period = s.period := rfl
@[simp] theorem State.updQueue_contention (s : State) (q : Nat) (f : Queue → Queue) : (s.updQueue q f).contention = s.contention := rfl
@[simp] theorem State.updQueue_links (s : State) (q : Nat) (f : Queue → Queue) : (s.updQueue q f).links = s.links := rfl
@[simp] theorem State.updQueue_firmware (s : State) (q : Nat) (f : Queue → Queue) : (s.updQueue q f).firmware = s.firmware := rfl
@[simp] theorem State.updQueue_cur (s : State) (q : Nat) (f : Queue → Queue) : (s.updQueue q f).cur = s.cur := rfl
@[simp] theorem State.updQueue_agenda (s : State) (q : Nat) (f : Queue → Queue) : (s.updQueue q f).agenda = s.agenda := rfl
@[simp] theorem State.updQueue_free (s : State) (q : Nat) (f : Queue → Queue) : (s.updQueue q f).free = s.free := rfl

/-! ### `updRecord` -/

@[simp] theorem State.updRecord_cycle (s : State) (n : Nat) (f : EngineRec → EngineRec) : (s.updRecord n f).cycle = s.cycle := rfl
@[simp] theorem State.updRecord_dies (s : State) (n : Nat) (f : EngineRec → EngineRec) : (s.updRecord n f).dies = s.dies := rfl
@[simp] theorem State.updRecord_transit (s : State) (n : Nat) (f : EngineRec → EngineRec) : (s.updRecord n f).transit = s.transit := rfl
@[simp] theorem State.updRecord_poison (s : State) (n : Nat) (f : EngineRec → EngineRec) : (s.updRecord n f).poison = s.poison := rfl
@[simp] theorem State.updRecord_ops (s : State) (n : Nat) (f : EngineRec → EngineRec) : (s.updRecord n f).ops = s.ops := rfl
@[simp] theorem State.updRecord_nextId (s : State) (n : Nat) (f : EngineRec → EngineRec) : (s.updRecord n f).nextId = s.nextId := rfl
@[simp] theorem State.updRecord_moment (s : State) (n : Nat) (f : EngineRec → EngineRec) : (s.updRecord n f).moment = s.moment := rfl
@[simp] theorem State.updRecord_ownership (s : State) (n : Nat) (f : EngineRec → EngineRec) : (s.updRecord n f).ownership = s.ownership := rfl
@[simp] theorem State.updRecord_shares (s : State) (n : Nat) (f : EngineRec → EngineRec) : (s.updRecord n f).shares = s.shares := rfl
@[simp] theorem State.updRecord_owners (s : State) (n : Nat) (f : EngineRec → EngineRec) : (s.updRecord n f).owners = s.owners := rfl
@[simp] theorem State.updRecord_queues (s : State) (n : Nat) (f : EngineRec → EngineRec) : (s.updRecord n f).queues = s.queues := rfl
@[simp] theorem State.updRecord_launches (s : State) (n : Nat) (f : EngineRec → EngineRec) : (s.updRecord n f).launches = s.launches := rfl
@[simp] theorem State.updRecord_nextSeq (s : State) (n : Nat) (f : EngineRec → EngineRec) : (s.updRecord n f).nextSeq = s.nextSeq := rfl
@[simp] theorem State.updRecord_reservations (s : State) (n : Nat) (f : EngineRec → EngineRec) : (s.updRecord n f).reservations = s.reservations := rfl
@[simp] theorem State.updRecord_tiles (s : State) (n : Nat) (f : EngineRec → EngineRec) : (s.updRecord n f).tiles = s.tiles := rfl
@[simp] theorem State.updRecord_mmas (s : State) (n : Nat) (f : EngineRec → EngineRec) : (s.updRecord n f).mmas = s.mmas := rfl
@[simp] theorem State.updRecord_collIndex (s : State) (n : Nat) (f : EngineRec → EngineRec) : (s.updRecord n f).collIndex = s.collIndex := rfl
@[simp] theorem State.updRecord_origins (s : State) (n : Nat) (f : EngineRec → EngineRec) : (s.updRecord n f).origins = s.origins := rfl
@[simp] theorem State.updRecord_departed (s : State) (n : Nat) (f : EngineRec → EngineRec) : (s.updRecord n f).departed = s.departed := rfl
@[simp] theorem State.updRecord_governor (s : State) (n : Nat) (f : EngineRec → EngineRec) : (s.updRecord n f).governor = s.governor := rfl
@[simp] theorem State.updRecord_period (s : State) (n : Nat) (f : EngineRec → EngineRec) : (s.updRecord n f).period = s.period := rfl
@[simp] theorem State.updRecord_contention (s : State) (n : Nat) (f : EngineRec → EngineRec) : (s.updRecord n f).contention = s.contention := rfl
@[simp] theorem State.updRecord_links (s : State) (n : Nat) (f : EngineRec → EngineRec) : (s.updRecord n f).links = s.links := rfl
@[simp] theorem State.updRecord_firmware (s : State) (n : Nat) (f : EngineRec → EngineRec) : (s.updRecord n f).firmware = s.firmware := rfl
@[simp] theorem State.updRecord_cur (s : State) (n : Nat) (f : EngineRec → EngineRec) : (s.updRecord n f).cur = s.cur := rfl
@[simp] theorem State.updRecord_agenda (s : State) (n : Nat) (f : EngineRec → EngineRec) : (s.updRecord n f).agenda = s.agenda := rfl
@[simp] theorem State.updRecord_free (s : State) (n : Nat) (f : EngineRec → EngineRec) : (s.updRecord n f).free = s.free := rfl

/-! ### `updReplay` -/

@[simp] theorem State.updReplay_cycle (s : State) (l : Nat) (f : Replay → Replay) : (s.updReplay l f).cycle = s.cycle := rfl
@[simp] theorem State.updReplay_dies (s : State) (l : Nat) (f : Replay → Replay) : (s.updReplay l f).dies = s.dies := rfl
@[simp] theorem State.updReplay_transit (s : State) (l : Nat) (f : Replay → Replay) : (s.updReplay l f).transit = s.transit := rfl
@[simp] theorem State.updReplay_poison (s : State) (l : Nat) (f : Replay → Replay) : (s.updReplay l f).poison = s.poison := rfl
@[simp] theorem State.updReplay_ops (s : State) (l : Nat) (f : Replay → Replay) : (s.updReplay l f).ops = s.ops := rfl
@[simp] theorem State.updReplay_nextId (s : State) (l : Nat) (f : Replay → Replay) : (s.updReplay l f).nextId = s.nextId := rfl
@[simp] theorem State.updReplay_moment (s : State) (l : Nat) (f : Replay → Replay) : (s.updReplay l f).moment = s.moment := rfl
@[simp] theorem State.updReplay_ownership (s : State) (l : Nat) (f : Replay → Replay) : (s.updReplay l f).ownership = s.ownership := rfl
@[simp] theorem State.updReplay_shares (s : State) (l : Nat) (f : Replay → Replay) : (s.updReplay l f).shares = s.shares := rfl
@[simp] theorem State.updReplay_owners (s : State) (l : Nat) (f : Replay → Replay) : (s.updReplay l f).owners = s.owners := rfl
@[simp] theorem State.updReplay_queues (s : State) (l : Nat) (f : Replay → Replay) : (s.updReplay l f).queues = s.queues := rfl
@[simp] theorem State.updReplay_nextSeq (s : State) (l : Nat) (f : Replay → Replay) : (s.updReplay l f).nextSeq = s.nextSeq := rfl
@[simp] theorem State.updReplay_reservations (s : State) (l : Nat) (f : Replay → Replay) : (s.updReplay l f).reservations = s.reservations := rfl
@[simp] theorem State.updReplay_tiles (s : State) (l : Nat) (f : Replay → Replay) : (s.updReplay l f).tiles = s.tiles := rfl
@[simp] theorem State.updReplay_mmas (s : State) (l : Nat) (f : Replay → Replay) : (s.updReplay l f).mmas = s.mmas := rfl
@[simp] theorem State.updReplay_records (s : State) (l : Nat) (f : Replay → Replay) : (s.updReplay l f).records = s.records := rfl
@[simp] theorem State.updReplay_collIndex (s : State) (l : Nat) (f : Replay → Replay) : (s.updReplay l f).collIndex = s.collIndex := rfl
@[simp] theorem State.updReplay_origins (s : State) (l : Nat) (f : Replay → Replay) : (s.updReplay l f).origins = s.origins := rfl
@[simp] theorem State.updReplay_departed (s : State) (l : Nat) (f : Replay → Replay) : (s.updReplay l f).departed = s.departed := rfl
@[simp] theorem State.updReplay_governor (s : State) (l : Nat) (f : Replay → Replay) : (s.updReplay l f).governor = s.governor := rfl
@[simp] theorem State.updReplay_period (s : State) (l : Nat) (f : Replay → Replay) : (s.updReplay l f).period = s.period := rfl
@[simp] theorem State.updReplay_contention (s : State) (l : Nat) (f : Replay → Replay) : (s.updReplay l f).contention = s.contention := rfl
@[simp] theorem State.updReplay_links (s : State) (l : Nat) (f : Replay → Replay) : (s.updReplay l f).links = s.links := rfl
@[simp] theorem State.updReplay_firmware (s : State) (l : Nat) (f : Replay → Replay) : (s.updReplay l f).firmware = s.firmware := rfl
@[simp] theorem State.updReplay_cur (s : State) (l : Nat) (f : Replay → Replay) : (s.updReplay l f).cur = s.cur := rfl
@[simp] theorem State.updReplay_agenda (s : State) (l : Nat) (f : Replay → Replay) : (s.updReplay l f).agenda = s.agenda := rfl
@[simp] theorem State.updReplay_free (s : State) (l : Nat) (f : Replay → Replay) : (s.updReplay l f).free = s.free := rfl

/-! ### `writeScalarReg` -/

@[simp] theorem State.writeScalarReg_cycle (s : State) (c : Ctx) (r : Nat) (v : Word) (n : Nat) (b : Bool) : (s.writeScalarReg c r v n b).cycle = s.cycle := rfl
@[simp] theorem State.writeScalarReg_dies (s : State) (c : Ctx) (r : Nat) (v : Word) (n : Nat) (b : Bool) : (s.writeScalarReg c r v n b).dies = s.dies := rfl
@[simp] theorem State.writeScalarReg_transit (s : State) (c : Ctx) (r : Nat) (v : Word) (n : Nat) (b : Bool) : (s.writeScalarReg c r v n b).transit = s.transit := rfl
@[simp] theorem State.writeScalarReg_poison (s : State) (c : Ctx) (r : Nat) (v : Word) (n : Nat) (b : Bool) : (s.writeScalarReg c r v n b).poison = s.poison := rfl
@[simp] theorem State.writeScalarReg_ops (s : State) (c : Ctx) (r : Nat) (v : Word) (n : Nat) (b : Bool) : (s.writeScalarReg c r v n b).ops = s.ops := rfl
@[simp] theorem State.writeScalarReg_nextId (s : State) (c : Ctx) (r : Nat) (v : Word) (n : Nat) (b : Bool) : (s.writeScalarReg c r v n b).nextId = s.nextId := rfl
@[simp] theorem State.writeScalarReg_moment (s : State) (c : Ctx) (r : Nat) (v : Word) (n : Nat) (b : Bool) : (s.writeScalarReg c r v n b).moment = s.moment := rfl
@[simp] theorem State.writeScalarReg_ownership (s : State) (c : Ctx) (r : Nat) (v : Word) (n : Nat) (b : Bool) : (s.writeScalarReg c r v n b).ownership = s.ownership := rfl
@[simp] theorem State.writeScalarReg_shares (s : State) (c : Ctx) (r : Nat) (v : Word) (n : Nat) (b : Bool) : (s.writeScalarReg c r v n b).shares = s.shares := rfl
@[simp] theorem State.writeScalarReg_owners (s : State) (c : Ctx) (r : Nat) (v : Word) (n : Nat) (b : Bool) : (s.writeScalarReg c r v n b).owners = s.owners := rfl
@[simp] theorem State.writeScalarReg_queues (s : State) (c : Ctx) (r : Nat) (v : Word) (n : Nat) (b : Bool) : (s.writeScalarReg c r v n b).queues = s.queues := rfl
@[simp] theorem State.writeScalarReg_nextSeq (s : State) (c : Ctx) (r : Nat) (v : Word) (n : Nat) (b : Bool) : (s.writeScalarReg c r v n b).nextSeq = s.nextSeq := rfl
@[simp] theorem State.writeScalarReg_reservations (s : State) (c : Ctx) (r : Nat) (v : Word) (n : Nat) (b : Bool) : (s.writeScalarReg c r v n b).reservations = s.reservations := rfl
@[simp] theorem State.writeScalarReg_tiles (s : State) (c : Ctx) (r : Nat) (v : Word) (n : Nat) (b : Bool) : (s.writeScalarReg c r v n b).tiles = s.tiles := rfl
@[simp] theorem State.writeScalarReg_mmas (s : State) (c : Ctx) (r : Nat) (v : Word) (n : Nat) (b : Bool) : (s.writeScalarReg c r v n b).mmas = s.mmas := rfl
@[simp] theorem State.writeScalarReg_records (s : State) (c : Ctx) (r : Nat) (v : Word) (n : Nat) (b : Bool) : (s.writeScalarReg c r v n b).records = s.records := rfl
@[simp] theorem State.writeScalarReg_collIndex (s : State) (c : Ctx) (r : Nat) (v : Word) (n : Nat) (b : Bool) : (s.writeScalarReg c r v n b).collIndex = s.collIndex := rfl
@[simp] theorem State.writeScalarReg_origins (s : State) (c : Ctx) (r : Nat) (v : Word) (n : Nat) (b : Bool) : (s.writeScalarReg c r v n b).origins = s.origins := rfl
@[simp] theorem State.writeScalarReg_departed (s : State) (c : Ctx) (r : Nat) (v : Word) (n : Nat) (b : Bool) : (s.writeScalarReg c r v n b).departed = s.departed := rfl
@[simp] theorem State.writeScalarReg_governor (s : State) (c : Ctx) (r : Nat) (v : Word) (n : Nat) (b : Bool) : (s.writeScalarReg c r v n b).governor = s.governor := rfl
@[simp] theorem State.writeScalarReg_period (s : State) (c : Ctx) (r : Nat) (v : Word) (n : Nat) (b : Bool) : (s.writeScalarReg c r v n b).period = s.period := rfl
@[simp] theorem State.writeScalarReg_contention (s : State) (c : Ctx) (r : Nat) (v : Word) (n : Nat) (b : Bool) : (s.writeScalarReg c r v n b).contention = s.contention := rfl
@[simp] theorem State.writeScalarReg_links (s : State) (c : Ctx) (r : Nat) (v : Word) (n : Nat) (b : Bool) : (s.writeScalarReg c r v n b).links = s.links := rfl
@[simp] theorem State.writeScalarReg_firmware (s : State) (c : Ctx) (r : Nat) (v : Word) (n : Nat) (b : Bool) : (s.writeScalarReg c r v n b).firmware = s.firmware := rfl
@[simp] theorem State.writeScalarReg_cur (s : State) (c : Ctx) (r : Nat) (v : Word) (n : Nat) (b : Bool) : (s.writeScalarReg c r v n b).cur = s.cur := rfl
@[simp] theorem State.writeScalarReg_agenda (s : State) (c : Ctx) (r : Nat) (v : Word) (n : Nat) (b : Bool) : (s.writeScalarReg c r v n b).agenda = s.agenda := rfl
@[simp] theorem State.writeScalarReg_free (s : State) (c : Ctx) (r : Nat) (v : Word) (n : Nat) (b : Bool) : (s.writeScalarReg c r v n b).free = s.free := rfl

end Sys2Proof.Machine
end

