-- ==== Sys2Proof/Laws/Store.lean ====
section
/-! SUPPORT. Laws of sparse maps and byte memory: read after write, writes elsewhere, and the canonical form. -/

namespace Sys2Proof.Machine

/-! ### Sparse maps -/

@[simp] theorem Sparse.get_nil {w : Nat} (n : Nat) : Sparse.get ([] : Sparse w) n = 0 := rfl

theorem Sparse.get_insert {w : Nat} (m : Sparse w) (n : Nat) (x : BitVec w) (k : Nat) :
    (m.insert n x).get k = if k = n then x else m.get k := by
  induction m with
  | nil => simp only [Sparse.insert, Sparse.get]
  | cons e r ih =>
    obtain ⟨a, v⟩ := e
    simp only [Sparse.insert]
    split
    · simp only [Sparse.get]
      split
      · rfl
      · rw [if_neg (by omega)]
    · split
      · simp only [Sparse.get]
      · simp only [Sparse.get, ih]
        split
        · rw [if_neg (by omega)]
        · rfl

/-- Entries whose key a test drops read as zero, the others as before. -/
theorem Sparse.get_filter {w : Nat} (m : Sparse w) (f : Nat → Bool) (k : Nat) :
    Sparse.get (m.filter fun e => f e.1) k = if f k then Sparse.get m k else 0 := by
  induction m with
  | nil => simp
  | cons e r ih =>
    obtain ⟨a, v⟩ := e
    by_cases h : f a
    · simp only [List.filter_cons, h, if_true, Sparse.get]
      by_cases hk : k = a
      · subst hk; simp [h]
      · simp [hk, ih]
    · simp only [List.filter_cons, h, Sparse.get]
      by_cases hk : k = a
      · subst hk; simp [h, ih]
      · simp [hk, ih]

theorem Sparse.get_put {w : Nat} (m : Sparse w) (n : Nat) (x : BitVec w) (k : Nat) :
    (m.put n x).get k = if k = n then x else m.get k := by
  unfold Sparse.put
  split
  · rename_i h
    rw [Sparse.get_filter (f := fun a => a != n)]
    by_cases hk : k = n <;> simp [hk, h]
  · exact Sparse.get_insert m n x k

@[simp] theorem Sparse.get_put_same {w : Nat} (m : Sparse w) (n : Nat) (x : BitVec w) : (m.put n x).get n = x := by
  simp [Sparse.get_put]

theorem Sparse.get_put_other {w : Nat} (m : Sparse w) {n k : Nat} (x : BitVec w) (h : k ≠ n) : (m.put n x).get k = m.get k := by
  simp [Sparse.get_put, h]

theorem Sparse.get_clear {w : Nat} (m : Sparse w) (lo hi k : Nat) :
    (m.clear lo hi).get k = if lo ≤ k ∧ k < hi then 0 else m.get k := by
  unfold Sparse.clear
  rw [Sparse.get_filter (f := fun a => !(decide (lo ≤ a) && decide (a < hi)))]
  by_cases h : lo ≤ k ∧ k < hi
  · simp [h]
  · simp only [if_neg h]; rw [if_pos (by simp; omega)]

theorem Sparse.get_slice {w : Nat} (m : Sparse w) (lo hi k : Nat) :
    (m.slice lo hi).get k = if lo ≤ k ∧ k < hi then m.get k else 0 := by
  unfold Sparse.slice
  rw [Sparse.get_filter (f := fun a => decide (lo ≤ a) && decide (a < hi))]
  by_cases h : lo ≤ k ∧ k < hi <;> simp [h]

/-- A key that a list of writes does not name reads as before. -/
theorem Sparse.get_puts_other {w : Nat} (es : List (Nat × BitVec w)) (m : Sparse w) (k : Nat) (h : ∀ e ∈ es, e.1 ≠ k) :
    (m.puts es).get k = m.get k := by
  induction es generalizing m with
  | nil => rfl
  | cons e r ih =>
    have hr := ih (m.put e.1 e.2) fun x hx => h x (List.mem_cons_of_mem _ hx)
    have he : k ≠ e.1 := fun hk => h e (by simp) hk.symm
    simpa [Sparse.puts, Sparse.get_put_other m e.2 he] using hr

/-! ### The canonical form -/

theorem Sparse.wfFrom_mono {w : Nat} (m : Sparse w) {a b : Nat} (hab : a ≤ b) (h : m.wfFrom b) : m.wfFrom a := by
  cases m with
  | nil => rfl
  | cons e r => simp only [Sparse.wfFrom, Bool.and_eq_true, decide_eq_true_eq] at h ⊢; exact ⟨⟨by omega, h.1.2⟩, h.2⟩

theorem Sparse.wfFrom_filter {w : Nat} (m : Sparse w) (f : Nat × BitVec w → Bool) {b : Nat} (h : m.wfFrom b) :
    Sparse.wfFrom b (m.filter f) := by
  induction m generalizing b with
  | nil => rfl
  | cons e r ih =>
    simp only [Sparse.wfFrom, Bool.and_eq_true, decide_eq_true_eq] at h
    simp only [List.filter_cons]
    split
    · simp only [Sparse.wfFrom, Bool.and_eq_true, decide_eq_true_eq]; exact ⟨h.1, ih h.2⟩
    · exact Sparse.wfFrom_mono _ (by omega) (ih h.2)

theorem Sparse.wfFrom_insert {w : Nat} (m : Sparse w) (n : Nat) {x : BitVec w} (hx : x ≠ 0) {b : Nat} (hb : b ≤ n) (h : m.wfFrom b) :
    Sparse.wfFrom b (m.insert n x) := by
  have hx : ¬x = 0#w := hx
  induction m generalizing b with
  | nil => simp [Sparse.insert, Sparse.wfFrom, hx, hb]
  | cons e r ih =>
    obtain ⟨a, v⟩ := e
    simp only [Sparse.wfFrom, Bool.and_eq_true, decide_eq_true_eq] at h
    simp only [Sparse.insert]
    split
    · subst_vars; simp [Sparse.wfFrom, hx, hb, h.2]
    · split
      · simp only [Sparse.wfFrom, Bool.and_eq_true, decide_eq_true_eq]
        exact ⟨⟨hb, by simp [hx]⟩, ⟨by omega, h.1.2⟩, h.2⟩
      · simp only [Sparse.wfFrom, Bool.and_eq_true, decide_eq_true_eq]
        exact ⟨h.1, ih (by omega) h.2⟩

theorem Sparse.wf_put {w : Nat} (m : Sparse w) (n : Nat) (x : BitVec w) (h : m.wf) : (m.put n x).wf := by
  unfold Sparse.put
  split
  · exact Sparse.wfFrom_filter m _ h
  · rename_i hx; exact Sparse.wfFrom_insert m n hx (Nat.zero_le n) h

theorem Sparse.wf_puts {w : Nat} (es : List (Nat × BitVec w)) (m : Sparse w) (h : m.wf) : (m.puts es).wf := by
  induction es generalizing m with
  | nil => exact h
  | cons e r ih => exact ih _ (Sparse.wf_put m e.1 e.2 h)

theorem Sparse.wf_clear {w : Nat} (m : Sparse w) (lo hi : Nat) (h : m.wf) : (m.clear lo hi).wf := Sparse.wfFrom_filter m _ h

theorem Sparse.wf_slice {w : Nat} (m : Sparse w) (lo hi : Nat) (h : m.wf) : (m.slice lo hi).wf := Sparse.wfFrom_filter m _ h

/-! ### Memory -/

/-- Every memory operation keeps the canonical form. -/
theorem Memory.wf_write (bs : List Byte) (m : Memory) (a : Nat) (h : Memory.wf m) : Memory.wf (Memory.write m a bs) := by
  induction bs generalizing m a with
  | nil => exact h
  | cons b r ih => exact ih _ _ (Sparse.wf_put (w := 8) m a b h)

/-- A byte after a write: the byte written, or the byte before. -/
theorem Memory.get_write (bs : List Byte) (m : Memory) (a k : Nat) :
    Sparse.get (w := 8) (Memory.write m a bs) k = if a ≤ k ∧ k < a + bs.length then bs.getD (k - a) 0 else Sparse.get (w := 8) m k := by
  induction bs generalizing m a with
  | nil => simp [Memory.write]
  | cons b r ih =>
    simp only [Memory.write, ih, Sparse.get_put, List.length_cons]
    by_cases h1 : a + 1 ≤ k ∧ k < a + 1 + r.length
    · rw [if_pos h1, if_pos (by omega), show k - a = (k - (a + 1)) + 1 by omega, List.getD_cons_succ]
    · rw [if_neg h1]
      by_cases h2 : k = a
      · subst h2; simp
      · rw [if_neg h2, if_neg (by omega)]

/-- What is read where it was written. -/
theorem Memory.read_write_same (bs : List Byte) (m : Memory) (a : Nat) : Memory.read (Memory.write m a bs) a bs.length = bs := by
  apply List.ext_getElem
  · simp [Memory.read]
  · intro i h1 h2
    simp only [Memory.read, List.getElem_map, List.getElem_range, Memory.get_write]
    rw [if_pos (by omega), show a + i - a = i by omega]
    simp [List.getD_eq_getElem?_getD, h2]

/-- A write leaves every other place as it was. -/
theorem Memory.read_write_other (bs : List Byte) (m : Memory) (a k n : Nat) (h : k + n ≤ a ∨ a + bs.length ≤ k) :
    Memory.read (Memory.write m a bs) k n = Memory.read m k n := by
  simp only [Memory.read]
  apply List.map_congr_left
  intro i hi
  rw [List.mem_range] at hi
  rw [Memory.get_write, if_neg (by omega)]

end Sys2Proof.Machine
end

