-- ==== Sys2Proof/Laws/Access.lean ====
section
/-! SUPPORT. What is found after an update of a launch, a block, a group or a path, and what an update of one leaves elsewhere. -/

namespace Sys2Proof.Machine

/-! ### One list of numbered things -/

theorem find_map_same {α : Type} (key : α → Nat) (k : Nat) (f : α → α) (hf : ∀ x, key x = k → key (f x) = k) (l : List α) :
    ((l.map fun x => if key x = k then f x else x).find? fun x => key x == k) = (l.find? fun x => key x == k).map f := by
  induction l with
  | nil => rfl
  | cons x r ih =>
    by_cases h : key x = k
    · simp [h, hf x h]
    · simpa [h, List.find?_cons] using ih

theorem find_map_other {α : Type} (key : α → Nat) (k j : Nat) (hj : j ≠ k) (f : α → α) (hf : ∀ x, key x = k → key (f x) = k) (l : List α) :
    ((l.map fun x => if key x = k then f x else x).find? fun x => key x == j) = l.find? fun x => key x == j := by
  induction l with
  | nil => rfl
  | cons x r ih =>
    by_cases h : key x = k
    · have h1 : ¬ k = j := fun e => hj e.symm
      simpa [h, hf x h, List.find?_cons, h1] using ih
    · by_cases h2 : key x = j
      · simp [h2, hj]
      · simpa [h, List.find?_cons, h2] using ih

/-! ### Owners -/

@[simp] theorem State.owner_updOwner_same (s : State) (o : Nat) (f : Owner → Owner) (h : o < s.owners.length) :
    (s.updOwner o f).owner o = f (s.owner o) := by
  simp [State.owner, State.updOwner, List.getD_eq_getElem?_getD, h]

@[simp] theorem State.owner_updOwner_other (s : State) (o k : Nat) (f : Owner → Owner) (h : k ≠ o) :
    (s.updOwner o f).owner k = s.owner k := by
  have h1 : ¬ o = k := fun e => h e.symm
  simp [State.owner, State.updOwner, List.getD_eq_getElem?_getD, h1]

/-! ### Launches, blocks, groups -/

theorem State.launch?_updLaunch_same (s : State) (l : Nat) (f : Launch → Launch) (hf : ∀ x, x.seq = l → (f x).seq = l) :
    (s.updLaunch l f).launch? l = (s.launch? l).map f := find_map_same Launch.seq l f hf s.launches

theorem State.launch?_updLaunch_other (s : State) (l k : Nat) (f : Launch → Launch) (hk : k ≠ l) (hf : ∀ x, x.seq = l → (f x).seq = l) :
    (s.updLaunch l f).launch? k = s.launch? k := find_map_other Launch.seq l k hk f hf s.launches

theorem Launch.block?_updBlock_same (x : Launch) (b : Nat) (f : Block → Block) (hf : ∀ y, y.index = b → (f y).index = b) :
    (x.updBlock b f).block? b = (x.block? b).map f := find_map_same Block.index b f hf x.blocks

theorem Launch.block?_updBlock_other (x : Launch) (b k : Nat) (f : Block → Block) (hk : k ≠ b) (hf : ∀ y, y.index = b → (f y).index = b) :
    (x.updBlock b f).block? k = x.block? k := find_map_other Block.index b k hk f hf x.blocks

theorem Block.group?_updGroup_same (y : Block) (g : Nat) (f : Group → Group) (hf : ∀ z, z.index = g → (f z).index = g) :
    (y.updGroup g f).group? g = (y.group? g).map f := find_map_same Group.index g f hf y.groups

theorem Block.group?_updGroup_other (y : Block) (g k : Nat) (f : Group → Group) (hk : k ≠ g) (hf : ∀ z, z.index = g → (f z).index = g) :
    (y.updGroup g f).group? k = y.group? k := find_map_other Group.index g k hk f hf y.groups

/-! ### The context of a path -/

/-- The context after a change of the group. -/
def Ctx.withGroup (c : Ctx) (f : Group → Group) (p : Path) : Ctx :=
  ⟨c.ref, c.launch.updBlock c.ref.block fun y => y.updGroup c.ref.group f, c.block.updGroup c.ref.group f, f c.group, p⟩

/-- What a context is made of. -/
theorem State.ctx?_parts {s : State} {r : PathRef} {c : Ctx} (h : s.ctx? r = some c) :
    c.ref = r ∧ s.launch? r.launch = some c.launch ∧ c.launch.block? r.block = some c.block ∧ c.block.group? r.group = some c.group ∧
      c.group.paths[r.path]? = some c.path ∧ c.path.valid = true := by
  unfold State.ctx? at h
  split at h
  · cases h
  · rename_i x hx
    split at h
    · cases h
    · rename_i y hy
      split at h
      · cases h
      · rename_i z hz
        split at h
        · cases h
        · rename_i p hp
          split at h
          · cases h; exact ⟨rfl, hx, hy, hz, hp, ‹_›⟩
          · cases h

theorem State.ctx?_of_parts {s : State} {r : PathRef} {x : Launch} {y : Block} {z : Group} {p : Path} (hx : s.launch? r.launch = some x)
    (hy : x.block? r.block = some y) (hz : y.group? r.group = some z) (hp : z.paths[r.path]? = some p) (hv : p.valid = true) :
    s.ctx? r = some ⟨r, x, y, z, p⟩ := by
  simp [State.ctx?, hx, hy, hz, hp, hv]

/-- A change of the group of a path, which keeps the group's index and leaves a live path in the entry. -/
theorem State.ctx?_updPathGroup {s : State} {r : PathRef} {c : Ctx} (h : s.ctx? r = some c) (f : Group → Group)
    (hf : ∀ z : Group, z.index = r.group → (f z).index = r.group) {p : Path} (hp : (f c.group).paths[r.path]? = some p) (hv : p.valid = true) :
    (s.updPathGroup r f).ctx? r = some (c.withGroup f p) := by
  obtain ⟨hr, hx, hy, hz, -, -⟩ := State.ctx?_parts h
  subst hr
  have hseq : ∀ x : Launch, x.seq = c.ref.launch → (x.updBlock c.ref.block fun y => y.updGroup c.ref.group f).seq = c.ref.launch :=
    fun x hx => hx
  have hidx : ∀ y : Block, y.index = c.ref.block → (y.updGroup c.ref.group f).index = c.ref.block := fun y hy => hy
  refine State.ctx?_of_parts (s := s.updPathGroup c.ref f) (x := c.launch.updBlock c.ref.block fun y => y.updGroup c.ref.group f)
    (y := c.block.updGroup c.ref.group f) (z := f c.group) ?_ ?_ ?_ hp hv
  · exact (State.launch?_updLaunch_same s c.ref.launch _ hseq).trans (by rw [hx]; rfl)
  · exact (Launch.block?_updBlock_same c.launch c.ref.block _ hidx).trans (by rw [hy]; rfl)
  · exact (Block.group?_updGroup_same c.block c.ref.group f hf).trans (by rw [hz]; rfl)

/-- A change of a path. -/
theorem State.ctx?_updPath {s : State} {r : PathRef} {c : Ctx} (h : s.ctx? r = some c) (f : Path → Path) (hv : (f c.path).valid = true) :
    (s.updPath r f).ctx? r = some (c.withGroup (fun z => z.updPath r.path f) (f c.path)) := by
  obtain ⟨hr, -, -, -, hp, -⟩ := State.ctx?_parts h
  refine State.ctx?_updPathGroup h (fun z => z.updPath r.path f) (fun z hz => hz) ?_ hv
  simp [Group.updPath, hp]

/-- A change of a launch that keeps its number and its blocks. -/
theorem State.ctx?_updLaunch {s : State} {r : PathRef} {c : Ctx} (h : s.ctx? r = some c) (f : Launch → Launch)
    (hs : ∀ x : Launch, (f x).seq = x.seq) (hb : ∀ x : Launch, (f x).blocks = x.blocks) :
    (s.updLaunch r.launch f).ctx? r = some { c with launch := f c.launch } := by
  obtain ⟨hr, hx, hy, hz, hp, hv⟩ := State.ctx?_parts h
  subst hr
  refine State.ctx?_of_parts (s := s.updLaunch c.ref.launch f) (x := f c.launch) ?_ ?_ hz hp hv
  · exact (State.launch?_updLaunch_same s c.ref.launch f fun x hx => by rw [hs, hx]).trans (by rw [hx]; rfl)
  · simpa only [Launch.block?, hb] using hy

/-- The context depends on the launches alone. -/
theorem State.ctx?_congr {s t : State} (h : t.launches = s.launches) (r : PathRef) : t.ctx? r = s.ctx? r := by
  simp only [State.ctx?, State.launch?, h]

theorem State.group?_congr {s t : State} (h : t.launches = s.launches) (l b g : Nat) : t.group? l b g = s.group? l b g := by
  simp only [State.group?, State.block?, State.launch?, h]

/-! ### Other launches, blocks and groups -/

/-- A change of one group leaves every other group as it is. -/
theorem State.group?_updGroup_other (s : State) (l b g l' b' g' : Nat) (f : Group → Group) (hf : ∀ z : Group, z.index = g → (f z).index = g)
    (h : ¬ (l' = l ∧ b' = b ∧ g' = g)) : (s.updGroup l b g f).group? l' b' g' = s.group? l' b' g' := by
  simp only [State.group?, State.block?, State.updGroup, State.updBlock]
  by_cases hl : l' = l
  · subst hl
    rw [State.launch?_updLaunch_same _ _ _ (by intro x hx; exact hx)]
    cases hx : s.launch? l' with
    | none => rfl
    | some x =>
      simp only [Option.map_some, Option.bind_some]
      by_cases hb : b' = b
      · subst hb
        rw [Launch.block?_updBlock_same _ _ _ (by intro y hy; exact hy)]
        cases hy : x.block? b' with
        | none => rfl
        | some y =>
          simp only [Option.map_some, Option.bind_some]
          exact Block.group?_updGroup_other _ _ _ _ (fun e => h ⟨rfl, rfl, e⟩) hf
      · rw [Launch.block?_updBlock_other _ _ _ _ hb (by intro y hy; exact hy)]
  · rw [State.launch?_updLaunch_other _ _ _ _ hl (by intro x hx; exact hx)]

end Sys2Proof.Machine
end

