-- ==== Sys2Proof/Laws/Issue.lean ====
section
/-! SUPPORT. What the issue of a word does, said once: the gate that it passes, the metering and log that surround it, and the context that it
leaves. -/

namespace Sys2Proof.Machine

/-! ### The gate -/

theorem State.running?_ctx {s : State} {c : Ctx} (h : s.running? = some c) : s.ctx? s.cur = some c ∧ c.block.cluster.isSome = true := by
  unfold State.running? at h
  split at h
  · cases h
  · rename_i d hd
    split at h
    · cases h; exact ⟨hd, ‹_›⟩
    · cases h

theorem State.Issues.ctx {s : State} {c : Ctx} {i : Instr} (h : s.Issues c i) : s.ctx? c.ref = some c := by
  have h1 := (State.running?_ctx h.running).1
  rw [(State.ctx?_parts h1).1]
  exact h1

theorem State.Issues.gate {s : State} {c : Ctx} {i : Instr} (h : s.Issues c i) : s.gate c i = .go := by
  have h1 : ¬ s.cycle < c.interlock i := Nat.not_lt.mpr h.interlock
  cases hs : c.launch.header.stallchk <;> simp [State.gate, h.encoded, h.lines, h.flagOps, h1, hs, h.unstalled, h.clean]

/-- A word that issues has its effect. -/
theorem State.Issues.word {s : State} {c : Ctx} {i : Instr} (h : s.Issues c i) (eff : Ctx → State → State) :
    s.word i eff = .next (eff c s) := by
  simp [State.word, State.afterAcquire, h.running, h.known, h.gate, h.unacquired]

theorem State.IssuesIdle.word {s : State} {c : Ctx} {i : Instr} (h : s.IssuesIdle c i) (eff : Ctx → State → State) :
    s.word i eff = .next (eff c s) := by
  simp [State.word, State.afterAcquire, Ctx.acquires, State.gate, h.running, h.known, h.encoded, h.lanes, h.idle]

/-- A word whose encoding is not accepted takes the illegal-instruction trap. -/
theorem State.word_trap {s : State} {c : Ctx} {i : Instr} {d : Nat} (hr : s.running? = some c) (hk : s.known c = c)
    (hd : encDetail c.path.pfx i = some d) (eff : Ctx → State → State) : s.word i eff = .next (s.illegal c d) := by
  simp [State.word, State.gate, hr, hk, hd]

/-! ### Metering and logging -/

theorem State.SameUnits.trans {s t u : State} (h : s.SameUnits t) (k : t.SameUnits u) : s.SameUnits u := by
  obtain ⟨ls, os, g, ds, n, rfl⟩ := h
  obtain ⟨ls', os', g', ds', n', rfl⟩ := k
  exact ⟨ls', os', g', ds', n', rfl⟩

theorem State.SameUnits.updPathGroup (s : State) (r : PathRef) (f : Group → Group) : s.SameUnits (s.updPathGroup r f) :=
  ⟨_, s.owners, s.governor, s.dies, s.moment, rfl⟩

/-- `t` differs from `s` in metering, memory and the log position of launch `l` alone. -/
structure State.Metered (l : Nat) (s t : State) : Prop where
  units : s.SameUnits t
  owners : ∀ o, (t.owner o).unmetered = (s.owner o).unmetered
  launches : ∃ g : Launch → Launch, (∀ x, (g x).seq = x.seq ∧ (g x).blocks = x.blocks ∧ (g x).standing = x.standing ∧ (g x).owner = x.owner ∧
      (x.replay = none → (g x).replay = none)) ∧
    t.launches = s.launches.map fun x => if x.seq = l then g x else x

theorem State.Metered.rfl' (l : Nat) (s : State) : State.Metered l s s := by
  refine ⟨⟨s.launches, s.owners, s.governor, s.dies, s.moment, rfl⟩, fun _ => rfl, fun x => x, fun x => ⟨rfl, rfl, rfl, rfl, id⟩, ?_⟩
  simp

theorem State.Metered.trans {l : Nat} {s t u : State} (h : State.Metered l s t) (k : State.Metered l t u) : State.Metered l s u := by
  obtain ⟨⟨ls, os, g, ds, n, rfl⟩, ho, f, hf, hl⟩ := h
  obtain ⟨⟨ls', os', g', ds', n', rfl⟩, ho', f', hf', hl'⟩ := k
  refine ⟨⟨ls', os', g', ds', n', rfl⟩, fun o => (ho' o).trans (ho o), fun x => f' (f x), fun x => ?_, ?_⟩
  · obtain ⟨a, b, c, d, e⟩ := hf x
    obtain ⟨a', b', c', d', e'⟩ := hf' (f x)
    exact ⟨a'.trans a, b'.trans b, c'.trans c, d'.trans d, fun h => e' (e h)⟩
  · rw [hl', hl, List.map_map]
    refine List.map_congr_left fun x _ => ?_
    by_cases hx : x.seq = l
    · simp [hx, (hf x).1]
    · simp [hx]

theorem Owner.unmetered_bump (o : Owner) (n v : Nat) : (o.bump n v).unmetered = o.unmetered := rfl

/-- An owner's change of metering alone. -/
theorem State.Metered.updOwner (l : Nat) (s : State) (o : Nat) (f : Owner → Owner) (hf : ∀ x, (f x).unmetered = x.unmetered) :
    State.Metered l s (s.updOwner o f) := by
  refine ⟨⟨s.launches, _, s.governor, s.dies, s.moment, rfl⟩, fun k => ?_, fun x => x, fun x => ⟨rfl, rfl, rfl, rfl, id⟩, ?_⟩
  · by_cases hk : k = o
    · subst hk
      by_cases hl : k < s.owners.length
      · rw [State.owner_updOwner_same s k f hl, hf]
      · have : s.updOwner k f = s := by
          have h1 : s.owners.modify k f = s.owners := by
            apply List.ext_getElem?
            intro i
            rw [List.getElem?_modify]
            by_cases hi : k = i
            · subst hi; simp [Nat.le_of_not_lt hl]
            · simp [hi]
          simp [State.updOwner, h1]
        rw [this]
    · rw [State.owner_updOwner_other s o k f hk]
  · simp

theorem State.Metered.updLaunch (l : Nat) (s : State) (f : Launch → Launch)
    (hf : ∀ x, (f x).seq = x.seq ∧ (f x).blocks = x.blocks ∧ (f x).standing = x.standing ∧ (f x).owner = x.owner ∧
      (x.replay = none → (f x).replay = none)) :
    State.Metered l s (s.updLaunch l f) :=
  ⟨⟨_, s.owners, s.governor, s.dies, s.moment, rfl⟩, fun _ => rfl, f, hf, rfl⟩

theorem State.Metered.updReplay (l : Nat) (s : State) (f : Replay → Replay) : State.Metered l s (s.updReplay l f) :=
  State.Metered.updLaunch l s _ fun _ => ⟨rfl, rfl, rfl, rfl, fun h => by simp [h]⟩

theorem State.Metered.writeAll (l : Nat) (s : State) (pa : Nat) (bs : List Byte) : State.Metered l s (s.writeAll pa bs) :=
  ⟨⟨s.launches, s.owners, s.governor, _, _, rfl⟩, fun _ => rfl, fun x => x, fun x => ⟨rfl, rfl, rfl, rfl, id⟩, by simp⟩

theorem State.Metered.charge (l : Nat) (s : State) (o pa n : Nat) : State.Metered l s (s.charge o pa n) :=
  State.Metered.updOwner l s o _ fun x => by split <;> rfl

theorem State.Metered.foldl {α : Type} (l : Nat) (f : State → α → State) (hf : ∀ s a, State.Metered l s (f s a)) (as : List α) (s : State) :
    State.Metered l s (as.foldl f s) := by
  induction as generalizing s with
  | nil => exact .rfl' l s
  | cons a r ih => exact (hf s a).trans (ih (f s a))

theorem State.Metered.writeVirt (l : Nat) (s : State) (o va : Nat) (bs : List Byte) : State.Metered l s (s.writeVirt o va bs) := by
  refine State.Metered.foldl l _ (fun s i => ?_) _ s
  split
  · exact .rfl' l s
  · exact (State.Metered.writeAll l s _ _).trans (.charge l _ _ _ _)

theorem State.Metered.amendVirt (l : Nat) (s : State) (o va : Nat) (bs : List Byte) : State.Metered l s (s.amendVirt o va bs) := by
  refine State.Metered.foldl l _ (fun s i => ?_) _ s
  cases s.vaWrite o (va + i) with
  | none => exact .rfl' l s
  | some pa => exact .writeAll l s _ _

theorem State.Metered.logRecord (s : State) (ty : Nat) (p : PathRef) (addr : Nat) (bs : List Byte) :
    State.Metered p.launch s (s.logRecord ty p addr bs).1 := by
  unfold State.logRecord
  split
  · exact .rfl' _ s
  · split
    · exact .rfl' _ s
    · split
      · exact .rfl' _ s
      · dsimp only
        split
        · dsimp only
          split
          · exact .updReplay _ s _
          · exact (State.Metered.updReplay _ s _).trans (.writeVirt _ _ _ _ _)
        · exact (State.Metered.writeVirt _ s _ _ _).trans (.updReplay _ _ _)

theorem State.Metered.logTurn (s : State) (p : PathRef) (addr : Nat) : State.Metered p.launch s (s.logTurn p addr) := by
  unfold State.logTurn
  split
  · exact .rfl' _ s
  · split
    · exact .rfl' _ s
    · dsimp only
      split
      · exact .rfl' _ s
      · exact (State.Metered.logRecord s _ p addr _).trans (.updReplay _ _ _)

theorem State.Metered.logSwitch (s : State) (p : PathRef) (addr : Nat) : State.Metered p.launch s (s.logSwitch p addr) :=
  (State.Metered.logTurn s p addr).trans (.updReplay _ _ _)

/-- Where nothing is recorded, accounting for a word leaves memory alone. -/
theorem State.logSwitch_dies {s : State} {p : PathRef} {x : Launch} (hx : s.launch? p.launch = some x) (hr : x.replay = none) (addr : Nat) :
    (s.logSwitch p addr).dies = s.dies := by
  simp [State.logSwitch, State.logTurn, hx, hr]

theorem Owner.unmetered_noteIssue (o : Owner) (core t : Nat) (b held : Bool) : (o.noteIssue core t b held).unmetered = o.unmetered := by
  unfold Owner.noteIssue
  dsimp only
  split <;> split <;> rfl

theorem State.Metered.noteDraw (l : Nat) (s : State) (weight plan : Nat) (piped : Bool) : State.Metered l s (s.noteDraw weight plan piped) := by
  unfold State.noteDraw
  split
  · exact .rfl' l s
  · exact ⟨⟨s.launches, s.owners, _, s.dies, s.moment, rfl⟩, fun _ => rfl, fun x => x, fun _ => ⟨rfl, rfl, rfl, rfl, id⟩, by simp⟩

/-- The group of a path once it has accounted for a word. -/
abbrev Ctx.noted (c : Ctx) (s : State) (i : Instr) (extra : Nat) : Group :=
  c.group.noteIssue c.ref.path c.path (c.path.spanOf i) (issueOf c i extra) s.cycle (s.owner c.launch.owner).free

/-- The issue of a word: the group and path account for it, and the rest is metering. -/
theorem State.noteIssue_metered (s : State) (c : Ctx) (i : Instr) (w : Issue) :
    State.Metered c.ref.launch
      (s.updPathGroup c.ref fun z => z.noteIssue c.ref.path c.path (c.path.spanOf i) w s.cycle (s.owner c.launch.owner).free) (s.noteIssue c i w) := by
  unfold State.noteIssue
  refine State.Metered.trans ?_ (.noteDraw _ _ _ _ _)
  refine State.Metered.trans ?_ (.updOwner _ _ _ _ fun x => Owner.unmetered_noteIssue x _ _ _ _)
  refine State.Metered.trans ?_ (.updLaunch c.ref.launch _ (Launch.noteIssue (s.issueCounted c)) fun _ => ⟨rfl, rfl, rfl, rfl, id⟩)
  split
  · exact .rfl' _ _
  · exact .logSwitch _ c.ref _

theorem State.updPathGroup_id (s : State) (r : PathRef) : (s.updPathGroup r fun z => z) = s := by
  simp [State.updPathGroup, State.updGroup, State.updBlock, State.updLaunch, Launch.updBlock, Block.updGroup]

/-- Before a path goes on, the values of its group's log records that have changed are written: metering but for the list of them, and nothing at all
where nothing is recorded. -/
theorem State.flushLog_metered (s : State) (r : PathRef) : ∃ u, State.Metered r.launch s u ∧
    (∃ fx : Group → List (Nat × Word), s.flushLog r = u.updPathGroup r fun z => { z with logFix := fx z }) ∧
    ∀ x, s.launch? r.launch = some x → x.replay = none → u = s := by
  have same : ∃ fx : Group → List (Nat × Word), s = s.updPathGroup r fun z => { z with logFix := fx z } :=
    ⟨fun z => z.logFix, (State.updPathGroup_id s r).symm⟩
  unfold State.flushLog
  split
  · rename_i z x hz hx
    split
    · exact ⟨s, .rfl' _ s, same, fun _ _ _ => rfl⟩
    · rename_i hn
      have hm := State.Metered.foldl r.launch (fun s (e : Nat × Word) => s.amendVirt x.owner e.1 (leBytes 4 e.2.toNat))
        (fun s e => .amendVirt _ s _ _ _) z.logFix s
      refine ⟨_, hm, ⟨fun _ => [], rfl⟩, fun x' hx' hr => ?_⟩
      rw [hx] at hx'
      cases hx'
      simp [hr] at hn
  · exact ⟨s, .rfl' _ s, same, fun _ _ _ => rfl⟩

/-! ### Contexts under metering, and changes of a group in a row -/

theorem State.Metered.launch? {l : Nat} {s t : State} (h : State.Metered l s t) {x : Launch} (hx : s.launch? l = some x) :
    ∃ x', t.launch? l = some x' ∧ x'.seq = x.seq ∧ x'.blocks = x.blocks ∧ x'.standing = x.standing ∧ x'.owner = x.owner ∧
      (x.replay = none → x'.replay = none) := by
  obtain ⟨-, -, g, hg, hl⟩ := h
  refine ⟨g x, ?_, hg x⟩
  have h1 := find_map_same Launch.seq l g (fun x hx => (hg x).1.trans hx) s.launches
  rw [← hl] at h1
  exact h1.trans (by
    have h2 : s.launches.find? (fun x => x.seq == l) = some x := hx
    rw [h2]; rfl)

theorem State.Metered.launch?_other {l : Nat} {s t : State} (h : State.Metered l s t) {k : Nat} (hk : k ≠ l) :
    t.launch? k = s.launch? k := by
  obtain ⟨-, -, g, hg, hl⟩ := h
  have h1 := find_map_other Launch.seq l k hk g (fun x hx => (hg x).1.trans hx) s.launches
  rw [← hl] at h1
  exact h1

theorem State.Metered.group? {l : Nat} {s t : State} (h : State.Metered l s t) (k b g : Nat) : t.group? k b g = s.group? k b g := by
  by_cases hk : k = l
  · subst hk
    cases hx : s.launch? k with
    | none =>
      obtain ⟨-, -, f, hf, hl⟩ := h
      have h1 := find_map_same Launch.seq k f (fun x hx => (hf x).1.trans hx) s.launches
      rw [← hl] at h1
      have h2 : t.launch? k = none := h1.trans (by
        have h3 : s.launches.find? (fun x => x.seq == k) = none := hx
        rw [h3]; rfl)
      simp [State.group?, State.block?, hx, h2]
    | some x =>
      obtain ⟨x', h1, -, h2, -, -, -⟩ := h.launch? hx
      simp [State.group?, State.block?, hx, h1, Launch.block?, h2]
  · simp only [State.group?, State.block?, h.launch?_other hk]

/-- The context of a path under metering: only the launch's own accounting differs. -/
theorem State.Metered.ctx? {s t : State} {r : PathRef} {c : Ctx} (h : State.Metered r.launch s t) (hc : s.ctx? r = some c) :
    ∃ x', t.ctx? r = some { c with launch := x' } ∧ x'.seq = c.launch.seq ∧ x'.blocks = c.launch.blocks ∧
      x'.standing = c.launch.standing ∧ x'.owner = c.launch.owner ∧ (c.launch.replay = none → x'.replay = none) := by
  obtain ⟨hr, hx, hy, hz, hp, hv⟩ := State.ctx?_parts hc
  obtain ⟨x', h1, h2, h3, h4, h5⟩ := h.launch? hx
  refine ⟨x', ?_, h2, h3, h4, h5⟩
  subst hr
  exact State.ctx?_of_parts h1 (by simpa only [Launch.block?, h3] using hy) hz hp hv

/-- Two changes of a group in a row are one. -/
theorem State.updPathGroup_twice (s : State) (r : PathRef) (f g : Group → Group) (hf : ∀ z : Group, (f z).index = z.index) :
    (s.updPathGroup r f).updPathGroup r g = s.updPathGroup r fun z => g (f z) := by
  have h1 : ∀ y : Block, (y.updGroup r.group f).updGroup r.group g = y.updGroup r.group fun z => g (f z) := by
    intro y
    simp only [Block.updGroup, List.map_map]
    congr 1
    refine List.map_congr_left fun z _ => ?_
    by_cases hz : z.index = r.group
    · simp [hz, hf]
    · simp [hz]
  have h2 : ∀ x : Launch, (x.updBlock r.block fun y => y.updGroup r.group f).updBlock r.block (fun y => y.updGroup r.group g) =
      x.updBlock r.block fun y => y.updGroup r.group fun z => g (f z) := by
    intro x
    simp only [Launch.updBlock, List.map_map]
    congr 1
    refine List.map_congr_left fun y _ => ?_
    by_cases hy : y.index = r.block
    · have : (y.updGroup r.group f).index = r.block := hy
      simp [hy, this, h1]
    · simp [hy]
  simp only [State.updPathGroup, State.updGroup, State.updBlock, State.updLaunch, List.map_map]
  congr 1
  refine List.map_congr_left fun x _ => ?_
  by_cases hx : x.seq = r.launch
  · have : (x.updBlock r.block fun y => y.updGroup r.group f).seq = r.launch := hx
    simp [hx, this, h2]
  · simp [hx]

end Sys2Proof.Machine
end

