-- ==== Sys2Proof/Laws/Words.lean ====
section
/-! SUPPORT. The words that issue, change their own group, and go on: what such a word leaves. -/

namespace Sys2Proof.Machine

@[simp] theorem Path.advance_valid (p : Path) (n : Nat) : (p.advance n).valid = p.valid := by
  unfold Path.advance
  split <;> rfl

@[simp] theorem Path.advance_pfx (p : Path) (n : Nat) : (p.advance n).pfx = none := by
  unfold Path.advance
  split <;> rfl

@[simp] theorem Path.advance_nextIssue (p : Path) (n : Nat) : (p.advance n).nextIssue = p.nextIssue := by
  unfold Path.advance
  split <;> rfl

@[simp] theorem Path.advance_status (p : Path) (n : Nat) : (p.advance n).status = p.status := by
  unfold Path.advance
  split <;> rfl

@[simp] theorem Path.advance_mask (p : Path) (n : Nat) : (p.advance n).mask = p.mask := by
  unfold Path.advance
  split <;> rfl

@[simp] theorem Path.advance_priv (p : Path) (n : Nat) : (p.advance n).priv = p.priv := by
  unfold Path.advance
  split <;> rfl

@[simp] theorem Path.advance_standing (p : Path) (n : Nat) : (p.advance n).standing = p.standing := by
  unfold Path.advance
  split <;> rfl

/-- Where a path stands after `n` words. -/
theorem Path.advance_place (p : Path) (n : Nat) : ((p.advance n).pc, (p.advance n).idx) = p.placeAfter n := by
  unfold Path.advance Path.placeAfter
  by_cases h : p.count < p.idx + n
  · have h1 : ¬ p.idx + n ≤ p.count := by omega
    simp [h, h1, Path.goto, Path.nextPc]
  · have h1 : p.idx + n ≤ p.count := by omega
    simp [h, h1, Path.clear]

/-- The issue of a word keeps the registers of its group. -/
theorem Group.noteIssue_paths (z : Group) (k : Nat) (p : Path) (n : Nat) (w : Issue) (t free : Nat) :
    (z.noteIssue k p n w t free).paths = z.paths.modify k fun q => q.noteIssue w t free := rfl

@[simp] theorem Group.noteIssue_index (z : Group) (k : Nat) (p : Path) (n : Nat) (w : Issue) (t free : Nat) :
    (z.noteIssue k p n w t free).index = z.index := rfl

@[simp] theorem Group.noteIssue_standing (z : Group) (k : Nat) (p : Path) (n : Nat) (w : Issue) (t free : Nat) :
    (z.noteIssue k p n w t free).standing = z.standing := rfl

theorem State.readPhys_congr {s t : State} (h : t.dies = s.dies) (v pa n : Nat) : t.readPhys v pa n = s.readPhys v pa n := by
  simp only [State.readPhys, State.view, h]

/-- A word that issues, changes its own group by `f`, and goes on: the log aside (R401), its group is `f` of the group that has accounted for it. -/
theorem State.completes_group {s : State} {c : Ctx} (h : s.ctx? c.ref = some c) (i : Instr) (extra : Nat) (f : Group → Group)
    (hf : ∀ z : Group, (f z).index = z.index) {p : Path} (hp : (f (c.noted s i extra)).paths[c.ref.path]? = some p) (hv : p.valid = true) :
    ∃ c' lf, (s.completes c i extra fun s1 => s1.updPathGroup c.ref f).ctx? c.ref = some c' ∧ c'.ref = c.ref ∧
      c'.group = { f (c.noted s i extra) with logFix := lf }.updPath c.ref.path (fun q => q.advance (c.path.spanOf i)) ∧
      c'.path = p.advance (c.path.spanOf i) ∧
      s.SameElsewhere (s.completes c i extra fun s1 => s1.updPathGroup c.ref f) c c' := by
  obtain ⟨-, hx, hy, hz, hp0, hv0⟩ := State.ctx?_parts h
  -- the group accounts for the word
  have hn : (c.noted s i extra).paths[c.ref.path]? =
      some (c.path.noteIssue (issueOf c i extra) s.cycle (s.owner c.launch.owner).free) := by
    rw [Group.noteIssue_paths, List.getElem?_modify, hp0]; simp
  have h1 := State.ctx?_updPathGroup h (fun z => z.noteIssue c.ref.path c.path (c.path.spanOf i) (issueOf c i extra) s.cycle
    (s.owner c.launch.owner).free) (fun z hz => hz) hn hv0
  -- metering, the body, and the log
  have hm := State.noteIssue_metered s c i (issueOf c i extra)
  obtain ⟨x', h2, hs2, hb2, ht2, ho2, hr2⟩ := hm.ctx? h1
  have h3 := State.ctx?_updPathGroup h2 f (fun z hz => (hf z).trans hz) hp hv
  obtain ⟨u, hu, ⟨fx, hfx⟩, hus⟩ := State.flushLog_metered ((s.noteIssue c i (issueOf c i extra)).updPathGroup c.ref f) c.ref
  obtain ⟨x'', h4, hs4, hb4, ht4, ho4, hr4⟩ := hu.ctx? h3
  -- the path goes on
  let g : Group → Group := fun z => { z with logFix := fx z }.updPath c.ref.path fun q => q.advance (c.path.spanOf i)
  have ht : (s.completes c i extra fun s1 => s1.updPathGroup c.ref f) = u.updPathGroup c.ref g := by
    simp only [State.completes, State.finish, hfx]
    exact State.updPathGroup_twice u c.ref _ _ fun z => rfl
  have hg : (g (f (c.noted s i extra))).paths[c.ref.path]? = some (p.advance (c.path.spanOf i)) := by
    have hp' : ({ f (c.noted s i extra) with logFix := fx (f (c.noted s i extra)) } : Group).paths[c.ref.path]? = some p := hp
    simp only [g, Group.updPath, List.getElem?_modify, hp']
    simp
  have h5 := State.ctx?_updPathGroup h4 g (fun z hz => hz) hg ((Path.advance_valid p _).trans hv)
  rw [ht]
  refine ⟨_, fx (f (c.noted s i extra)), h5, rfl, rfl, rfl, ⟨⟨fun o => (hu.owners o).trans (hm.owners o), fun l b k hne => ?_, fun l hne => ?_, ?_, rfl⟩,
    fun hr v pa => ?_, ?_⟩⟩
  · have e1 := State.group?_updGroup_other u c.ref.launch c.ref.block c.ref.group l b k g (fun z hz => hz) hne
    have e2 := State.group?_updGroup_other (s.noteIssue c i (issueOf c i extra)) c.ref.launch c.ref.block c.ref.group l b k f
      (fun z hz => (hf z).trans hz) hne
    have e3 := State.group?_updGroup_other s c.ref.launch c.ref.block c.ref.group l b k
      (fun z => z.noteIssue c.ref.path c.path (c.path.spanOf i) (issueOf c i extra) s.cycle (s.owner c.launch.owner).free) (fun z hz => hz) hne
    exact (((e1.trans (hu.group? l b k)).trans e2).trans (hm.group? l b k)).trans e3
  · have k1 := State.launch?_updLaunch_other u c.ref.launch l (fun x => x.updBlock c.ref.block fun y => y.updGroup c.ref.group g)
      hne (fun x hx => hx)
    have k2 := State.launch?_updLaunch_other (s.noteIssue c i (issueOf c i extra)) c.ref.launch l
      (fun x => x.updBlock c.ref.block fun y => y.updGroup c.ref.group f) hne (fun x hx => hx)
    have k3 := State.launch?_updLaunch_other s c.ref.launch l
      (fun x => x.updBlock c.ref.block fun y => y.updGroup c.ref.group fun z =>
        z.noteIssue c.ref.path c.path (c.path.spanOf i) (issueOf c i extra) s.cycle (s.owner c.launch.owner).free) hne (fun x hx => hx)
    exact (((k1.trans (hu.launch?_other hne)).trans k2).trans (hm.launch?_other hne)).trans k3
  · have e1 : x''.standing = c.launch.standing := ht4.trans ht2
    simpa [Ctx.withGroup, Launch.standing, Launch.updBlock] using e1
  · refine State.readPhys_congr ?_ v pa 1
    have hx3 := (State.ctx?_parts h3).2.1
    have hu' : u = _ := hus _ hx3 (hr2 hr)
    have hd : ∀ (u : State) (w p : Nat) (b : Bool), (u.noteDraw w p b).dies = u.dies := fun u w p b => by
      unfold State.noteDraw; split <;> rfl
    have hx1 := (State.ctx?_parts h1).2.1
    have := State.logSwitch_dies (p := c.ref) hx1 hr c.path.wordAddr
    rw [State.updPathGroup_dies, hu']
    cases hcn : c.path.counted <;> simp [State.noteIssue, hd, hcn, this]
  · exact ((((State.SameUnits.updPathGroup s _ _).trans hm.units).trans (.updPathGroup _ _ _)).trans hu.units).trans (.updPathGroup _ _ _)

end Sys2Proof.Machine
end

