-- ==== Sys2Proof/Laws/Registers.lean ====
section
/-! SUPPORT. Registers: what a write of one register or of a result leaves to read, and what it leaves alone. -/

namespace Sys2Proof.Machine

/-! ### Mask words -/

theorem maskWord_ofMaskWords (a b c : Word) (j : Nat) :
    maskWord (ofMaskWords a b c) j = if j = 0 then a else if j = 1 then b else if j = 2 then c else 0 := by
  apply BitVec.eq_of_toNat_eq
  have ha := a.isLt; have hb := b.isLt; have hc := c.isLt
  simp only [maskWord, ofMaskWords, BitVec.toNat_ofNat]
  rcases j with _ | _ | _ | j
  · simp; omega
  · simp; omega
  · simp; omega
  · have h1 : (a.toNat + 2 ^ 32 * b.toNat + 2 ^ 64 * c.toNat) % 2 ^ 96 < 2 ^ (32 * (j + 1 + 1 + 1)) :=
      lt_of_lt_of_le (Nat.mod_lt _ (by norm_num)) (Nat.pow_le_pow_right (by norm_num) (by omega))
    rw [Nat.div_eq_of_lt h1]
    simp

theorem maskWord_high (m : Lanes) (j : Nat) (h : 3 ≤ j) : maskWord m j = 0 := by
  have h1 : m.toNat < 2 ^ (32 * j) := lt_of_lt_of_le m.isLt (Nat.pow_le_pow_right (by norm_num) (by omega))
  simp [maskWord, Nat.div_eq_of_lt h1]

theorem Path.maskWord_setMaskWord (p : Path) (j : Nat) (v : Word) (i : Nat) (hi : i < 3) :
    maskWord (p.setMaskWord j v).mask i = if i = j then v &&& maskWord p.present i else maskWord p.mask i := by
  simp only [Path.setMaskWord, maskWord_ofMaskWords]
  rcases i with _ | _ | _ | i
  · simp
  · simp
  · simp
  · omega

/-! ### Writing one register -/

@[simp] theorem Group.writeScalar_index (z : Group) (k r : Nat) (v : Word) : (z.writeScalar k r v).index = z.index := by
  unfold Group.writeScalar; split <;> [rfl; split <;> [rfl; split <;> rfl]]

@[simp] theorem Group.putReg_index (z : Group) (k : Nat) (r : LaneReg) (lane : Nat) (v : Word) : (z.putReg k r lane v).index = z.index := by
  cases r <;> simp [Group.putReg, Group.dirtyLine]

@[simp] theorem Group.putReg_hazards (z : Group) (k : Nat) (r : LaneReg) (lane : Nat) (v : Word) : (z.putReg k r lane v).hazards = z.hazards := by
  cases r with
  | scal n => simp only [Group.putReg, Group.writeScalar]; split <;> [rfl; split <;> [rfl; split <;> rfl]]
  | _ => rfl

@[simp] theorem Group.putReg_flags (z : Group) (k : Nat) (r : LaneReg) (lane : Nat) (v : Word) : (z.putReg k r lane v).flags = z.flags := by
  cases r with
  | scal n => simp only [Group.putReg, Group.writeScalar]; split <;> [rfl; split <;> [rfl; split <;> rfl]]
  | _ => rfl

@[simp] theorem Group.putReg_standing (z : Group) (k : Nat) (r : LaneReg) (lane : Nat) (v : Word) :
    (z.putReg k r lane v).standing = z.standing := by
  cases r with
  | scal n => simp only [Group.putReg, Group.writeScalar]; split <;> [rfl; split <;> [rfl; split <;> rfl]]
  | stack n =>
    simp only [Group.putReg, Group.dirtyLine, Group.standing, List.map_map, Group.mk.injEq, true_and, and_true]
    refine List.map_congr_left fun l _ => ?_
    simp only [Function.comp]
    split <;> rfl
  | oper n => rfl

/-- Two states of a path that differ in its own registers alone. -/
structure Path.SameButRegs (p q : Path) : Prop where
  standing : q.standing = p.standing
  valid : q.valid = p.valid
  nextIssue : q.nextIssue = p.nextIssue
  present : q.present = p.present
  last : p.SameLast q
  pc : q.pc = p.pc
  idx : q.idx = p.idx
  fetched : q.fetched = p.fetched

theorem Path.SameButRegs.rfl' (p : Path) : p.SameButRegs p := ⟨rfl, rfl, rfl, rfl, ⟨rfl, rfl, rfl, rfl⟩, rfl, rfl, rfl⟩

theorem Path.SameButRegs.trans {p q r : Path} (h : p.SameButRegs q) (k : q.SameButRegs r) : p.SameButRegs r :=
  ⟨k.1.trans h.1, k.2.trans h.2, k.3.trans h.3, k.4.trans h.4,
    ⟨k.5.1.trans h.5.1, k.5.2.1.trans h.5.2.1, k.5.2.2.1.trans h.5.2.2.1, k.5.2.2.2.trans h.5.2.2.2⟩, k.6.trans h.6, k.7.trans h.7, k.8.trans h.8⟩

/-- Writing a word of the live mask changes the live mask alone. -/
theorem Path.setMaskWord_keeps (p : Path) (j : Nat) (v : Word) : p.SameButRegs (p.setMaskWord j v) := by
  unfold Path.setMaskWord
  generalize ofMaskWords _ _ _ = m
  exact ⟨rfl, rfl, rfl, rfl, ⟨rfl, rfl, rfl, rfl⟩, rfl, rfl, rfl⟩

/-- The paths of a group after a register is written: only the writing path's own scalars change. -/
theorem Group.putReg_paths (z : Group) (k : Nat) (r : LaneReg) (lane : Nat) (v : Word) :
    ∃ f : Path → Path, (∀ p : Path, p.SameButRegs (f p)) ∧ (z.putReg k r lane v).paths = z.paths.modify k f := by
  have hid : z.paths = z.paths.modify k fun p => p := by
    apply List.ext_getElem?; intro i; simp [List.getElem?_modify]
  cases r with
  | scal n =>
    simp only [Group.putReg, Group.writeScalar]
    split
    · exact ⟨fun p => p, fun p => .rfl' p, hid⟩
    · split
      · exact ⟨fun p => { p with priv := p.priv.put n v }, fun p => ⟨rfl, rfl, rfl, rfl, ⟨rfl, rfl, rfl, rfl⟩, rfl, rfl, rfl⟩, rfl⟩
      · split
        · exact ⟨fun p => p.setMaskWord (n - 125) v, fun p => Path.setMaskWord_keeps p (n - 125) v, rfl⟩
        · exact ⟨fun p => p, fun p => .rfl' p, hid⟩
  | stack n => exact ⟨fun p => p, fun p => .rfl' p, hid⟩
  | oper n => exact ⟨fun p => p, fun p => .rfl' p, hid⟩

/-- Read after write of the same register and lane. -/
theorem Group.getReg_putReg_same (z : Group) (l b k : Nat) (r : LaneReg) (lane : Nat) (v : Word) (p : Path) (hp : z.paths[k]? = some p) :
    (z.putReg k r lane v).getReg l b k r lane = r.kept p v (z.getReg l b k r lane) := by
  have hk : k < z.paths.length := (List.getElem?_eq_some_iff.mp hp).1
  cases r with
  | stack n => simp [Group.putReg, Group.dirtyLine, Group.getReg, LaneReg.kept, Sparse.get_put_same]
  | oper n => simp [Group.putReg, Group.getReg, LaneReg.kept, Sparse.get_put_same]
  | scal n =>
    simp only [Group.putReg, Group.writeScalar, Group.getReg, LaneReg.kept, readScalar]
    by_cases h1 : n < 108
    · have h2 : n < 121 := by omega
      simp [h1, h2, Sparse.get_put_same]
    · by_cases h2 : n < 121
      · simp [h1, h2, Group.updPath, List.getD_eq_getElem?_getD, hp, Sparse.get_put_same]
      · by_cases h3 : n < 125
        · have h4 : ¬ 125 ≤ n := by omega
          simp [h1, h2, h3, h4]
        · have h4 : 125 ≤ n := by omega
          have h5 : n ≠ 121 ∧ n ≠ 122 ∧ n ≠ 123 ∧ n ≠ 124 := by omega
          by_cases h6 : n < 128
          · have h7 : n - 125 < 3 := by omega
            simp [h1, h2, h3, h4, h5, h6, Group.updPath, List.getD_eq_getElem?_getD, hp, Path.maskWord_setMaskWord _ _ _ _ h7]
          · have h7 : 3 ≤ n - 125 := by omega
            simp [h1, h2, h3, h4, h5, h6, maskWord_high _ _ h7]

/-- A write leaves every other register and lane as it reads. -/
theorem Group.getReg_putReg_other (z : Group) (l b k : Nat) (r q : LaneReg) (lane i : Nat) (v : Word)
    (h : q ≠ r ∨ ((∀ n, r ≠ .scal n) ∧ i ≠ lane)) (hl : lane < 96) (hi : i < 96) :
    (z.putReg k r lane v).getReg l b k q i = z.getReg l b k q i := by
  cases r with
  | stack n =>
    cases q with
    | stack m =>
      have hne : 96 * m + i ≠ 96 * n + lane := by
        rcases h with h | h
        · have : m ≠ n := fun e => h (by rw [e])
          omega
        · omega
      simp [Group.putReg, Group.dirtyLine, Group.getReg, Sparse.get_put_other _ _ hne]
    | _ => rfl
  | oper n =>
    cases q with
    | oper m =>
      have hne : 96 * m + i ≠ 96 * n + lane := by
        rcases h with h | h
        · have : m ≠ n := fun e => h (by rw [e])
          omega
        · omega
      simp [Group.putReg, Group.getReg, Sparse.get_put_other _ _ hne]
    | _ => rfl
  | scal n =>
    have h' : q ≠ .scal n := by
      rcases h with h | h
      · exact h
      · exact absurd rfl (h.1 n)
    cases q with
    | scal m =>
      have hmn : m ≠ n := fun e => h' (by rw [e])
      simp only [Group.putReg, Group.writeScalar, Group.getReg, readScalar]
      by_cases h1 : n < 108
      · simp [h1, Sparse.get_put_other _ _ hmn]
      · by_cases h2 : n < 121
        · by_cases hk : k < z.paths.length
          · simp [h1, h2, Group.updPath, List.getD_eq_getElem?_getD, hk, Sparse.get_put_other _ _ hmn]
          · simp [h1, h2, Group.updPath, List.getD_eq_getElem?_getD, hk]
        · by_cases h4 : 125 ≤ n
          · by_cases hk : k < z.paths.length
            · by_cases h7 : m - 125 < 3
              · by_cases h8 : m < 125
                · by_cases hm1 : m < 108
                  · simp [h1, h2, h4, hm1, Group.updPath]
                  · by_cases hm2 : m < 121
                    · simp [h1, h2, h4, hm1, hm2, Group.updPath, List.getD_eq_getElem?_getD, hk, Path.setMaskWord]
                    · have h9 : m = 121 ∨ m = 122 ∨ m = 123 ∨ m = 124 := by omega
                      rcases h9 with rfl | rfl | rfl | rfl <;> simp [h1, h2, h4, Group.updPath]
                · have h10 : m - 125 ≠ n - 125 := by omega
                  have h11 : ¬ m < 108 ∧ ¬ m < 121 ∧ m ≠ 121 ∧ m ≠ 122 ∧ m ≠ 123 ∧ m ≠ 124 := by omega
                  simp [h1, h2, h4, h11, Group.updPath, List.getD_eq_getElem?_getD, hk, Path.maskWord_setMaskWord _ _ _ _ h7, h10]
              · have h9 : 3 ≤ m - 125 := by omega
                have h10 : ¬ m < 108 ∧ ¬ m < 121 ∧ m ≠ 121 ∧ m ≠ 122 ∧ m ≠ 123 ∧ m ≠ 124 := by omega
                simp [h1, h2, h4, h10, Group.updPath, List.getD_eq_getElem?_getD, hk, maskWord_high _ _ h9]
            · simp [h1, h2, h4, Group.updPath, List.getD_eq_getElem?_getD, hk]
          · simp [h1, h2, h4]
    | _ =>
      simp only [Group.putReg, Group.writeScalar, Group.getReg]
      split <;> [rfl; split <;> [rfl; split <;> rfl]]

/-! ### A result (R125, R161) -/

/-- A change of group that touches only registers and result times, of path `k`. -/
structure Group.RegisterChange (k : Nat) (z y : Group) : Prop where
  index : y.index = z.index
  standing : y.standing = z.standing
  flags : y.flags = z.flags
  paths : ∃ f : Path → Path, (∀ p : Path, p.SameButRegs (f p)) ∧ y.paths = z.paths.modify k f

theorem Group.RegisterChange.rfl' (k : Nat) (z : Group) : Group.RegisterChange k z z :=
  ⟨rfl, rfl, rfl, fun p => p, fun p => .rfl' p, by
    apply List.ext_getElem?; intro i; simp [List.getElem?_modify]⟩

theorem Group.RegisterChange.trans {k : Nat} {x y z : Group} (h : Group.RegisterChange k x y) (g : Group.RegisterChange k y z) :
    Group.RegisterChange k x z := by
  obtain ⟨h1, h2, h3, f, hf, hp⟩ := h
  obtain ⟨g1, g2, g3, f', hf', hp'⟩ := g
  refine ⟨g1.trans h1, g2.trans h2, g3.trans h3, fun p => f' (f p), fun p => (hf p).trans (hf' (f p)), ?_⟩
  · rw [hp', hp]
    apply List.ext_getElem?
    intro i
    simp only [List.getElem?_modify]
    by_cases hi : k = i
    · cases x.paths[i]? <;> simp [hi]
    · cases x.paths[i]? <;> simp [hi]

theorem Group.RegisterChange.putReg (k : Nat) (z : Group) (r : LaneReg) (lane : Nat) (v : Word) :
    Group.RegisterChange k z (z.putReg k r lane v) :=
  ⟨z.putReg_index k r lane v, z.putReg_standing k r lane v, z.putReg_flags k r lane v, z.putReg_paths k r lane v⟩

theorem Group.RegisterChange.hazards (k : Nat) (z : Group) (hs : List Hazard) : Group.RegisterChange k z { z with hazards := hs } :=
  ⟨rfl, rfl, rfl, fun p => p, fun p => .rfl' p, by
    apply List.ext_getElem?; intro i; simp [List.getElem?_modify]⟩

theorem Group.RegisterChange.putRegs (k : Nat) (r : LaneReg) (vals : List (Nat × Word)) (z : Group) :
    Group.RegisterChange k z (vals.foldl (fun z e => z.putReg k r e.1 e.2) z) := by
  induction vals generalizing z with
  | nil => exact .rfl' k z
  | cons e es ih => exact (Group.RegisterChange.putReg k z r e.1 e.2).trans (ih _)

/-! Beats of `shfl` and `bcast` that are yet to issue (R184) -/

@[simp] theorem Group.putReg_reaches (z : Group) (k : Nat) (r : LaneReg) (lane : Nat) (v : Word) : (z.putReg k r lane v).reaches = z.reaches := by
  cases r with
  | scal n => simp only [Group.putReg, Group.writeScalar]; split <;> [rfl; split <;> [rfl; split <;> rfl]]
  | _ => rfl

theorem Group.putRegs_reaches (k : Nat) (r : LaneReg) (vals : List (Nat × Word)) (z : Group) :
    (vals.foldl (fun z e => z.putReg k r e.1 e.2) z).reaches = z.reaches := by
  induction vals generalizing z with
  | nil => rfl
  | cons e es ih => exact (ih _).trans (z.putReg_reaches k r e.1 e.2)

/-- Where no beat is yet to issue, a result reaches nothing else. -/
theorem Group.reachInto_nil {z : Group} (h : z.reaches = []) (k : Nat) (r : Option LaneReg) (val : Reach → Option Word) (ready : Nat) :
    z.reachInto k r val ready = z := by
  simp [Group.reachInto, h]

@[simp] theorem Group.putDest_index (z : Group) (k : Nat) (r : Option LaneReg) (lane : Nat) (v : Word) : (z.putDest k r lane v).index = z.index := by
  cases r with
  | none => rfl
  | some r => exact Group.putReg_index z k r lane v

@[simp] theorem Group.reachInto_index (z : Group) (k : Nat) (r : Option LaneReg) (val : Reach → Option Word) (ready : Nat) :
    (z.reachInto k r val ready).index = z.index := by
  unfold Group.reachInto
  generalize (z.reaches.filter _) = es
  induction es generalizing z with
  | nil => rfl
  | cons e es ih =>
    rw [List.foldl_cons, ih]
    split
    · rfl
    · dsimp only
      split <;> exact Group.putDest_index z _ _ _ _

/-- A result keeps the group's number. -/
@[simp] theorem Group.produce_index (z : Group) (l b k : Nat) (r : LaneReg) (vals : List (Nat × Word)) (ready : Nat) (covered : Bool) :
    (z.produce l b k r vals ready covered).index = z.index := by
  unfold Group.produce
  dsimp only
  split
  · rfl
  · rw [Group.reachInto_index]
    exact (Group.RegisterChange.putRegs k _ vals z).index

/-- A result changes registers and result times alone, where no beat is yet to issue. -/
theorem Group.RegisterChange.produce {z : Group} (hz : z.reaches = []) (l b k : Nat) (r : LaneReg) (vals : List (Nat × Word)) (ready : Nat)
    (covered : Bool) : Group.RegisterChange k z (z.produce l b k r vals ready covered) := by
  unfold Group.produce
  dsimp only
  split
  · exact .hazards k z _
  · rw [Group.reachInto_nil (by exact (Group.putRegs_reaches k _ vals z).trans hz)]
    exact (Group.RegisterChange.putRegs k _ vals z).trans (.hazards k _ _)

theorem Group.getReg_putRegs_other (l b k : Nat) (r q : LaneReg) (i : Nat) (hi : i < 96) (vals : List (Nat × Word))
    (hv : ∀ e ∈ vals, e.1 < 96) (h : q ≠ r ∨ ((∀ n, r ≠ .scal n) ∧ ∀ e ∈ vals, i ≠ e.1)) (z : Group) :
    (vals.foldl (fun z e => z.putReg k r e.1 e.2) z).getReg l b k q i = z.getReg l b k q i := by
  induction vals generalizing z with
  | nil => rfl
  | cons e es ih =>
    rw [List.foldl_cons, ih (fun e he => hv e (List.mem_cons_of_mem _ he))
      (h.imp id fun h => ⟨h.1, fun e he => h.2 e (List.mem_cons_of_mem _ he)⟩)]
    exact Group.getReg_putReg_other z l b k r q e.1 i e.2
      (h.imp id fun h => ⟨h.1, h.2 e (List.mem_cons_self ..)⟩) (hv e (List.mem_cons_self ..)) hi

theorem Group.getReg_hazards (z : Group) (hs : List Hazard) (l b k : Nat) (q : LaneReg) (i : Nat) :
    Group.getReg { z with hazards := hs } l b k q i = z.getReg l b k q i := by
  cases q <;> rfl

/-- A result leaves other registers, and lanes it does not name, as they read. -/
theorem Group.getReg_produce_other {z : Group} (hz : z.reaches = []) (l b k : Nat) (r q : LaneReg) (vals : List (Nat × Word)) (ready : Nat)
    (covered : Bool) (i : Nat) (hi : i < 96) (hv : ∀ e ∈ vals, e.1 < 96) (h : q ≠ r ∨ ((∀ n, r ≠ .scal n) ∧ ∀ e ∈ vals, i ≠ e.1)) :
    (z.produce l b k r vals ready covered).getReg l b k q i = z.getReg l b k q i := by
  unfold Group.produce
  dsimp only
  split
  · exact Group.getReg_hazards z _ l b k q i
  · rw [Group.reachInto_nil (by exact (Group.putRegs_reaches k _ vals z).trans hz), Group.getReg_hazards]
    exact Group.getReg_putRegs_other l b k _ q i hi vals hv h z

/-- A result in one lane (of a scalar: its value) reads back, unless another path's write to the scalar completes later (R125). -/
theorem Group.getReg_produce_same {z : Group} (hz : z.reaches = []) (l b k : Nat) (r : LaneReg) (lane : Nat) (v : Word) (ready : Nat)
    (covered : Bool) (p : Path) (hp : z.paths[k]? = some p)
    (hw : r.shared = true → ∀ h ∈ z.hazards, h.path ≠ k → h.reg = r → h.ready < ready ∨ (h.ready = ready ∧ h.path < k)) :
    (z.produce l b k r [(lane, v)] ready covered).getReg l b k r lane = r.kept p v (z.getReg l b k r lane) := by
  have hl : (r.shared && z.hazards.any fun h => h.path != k && h.reg == r &&
      (decide (ready < h.ready) || (decide (h.ready = ready) && decide (k < h.path)))) = false := by
    cases hsh : r.shared
    · rfl
    rw [Bool.true_and, List.any_eq_false]
    intro h hh
    simp only [Bool.and_eq_true, Bool.or_eq_true, bne_iff_ne, beq_iff_eq, decide_eq_true_eq, not_and, not_or, and_imp]
    intro h1 h2
    have := hw hsh h hh h1 h2
    omega
  unfold Group.produce
  dsimp only
  rw [hl]
  split
  · contradiction
  · rw [Group.reachInto_nil (by simpa using hz), Group.getReg_hazards]
    exact Group.getReg_putReg_same z l b k _ lane v p hp

/-! ### Words that change registers alone -/

/-- Reading a register depends on the registers and the reading path's own scalars. -/
theorem Group.getReg_congr {y z : Group} {l b k : Nat} (hs : y.scalars = z.scalars) (ho : y.oper = z.oper) (ht : y.stack = z.stack)
    (hd : y.depth = z.depth) (hp : (y.paths.getD k Path.dead).priv = (z.paths.getD k Path.dead).priv)
    (hm : (y.paths.getD k Path.dead).mask = (z.paths.getD k Path.dead).mask) (r : LaneReg) (i : Nat) :
    y.getReg l b k r i = z.getReg l b k r i := by
  cases r with
  | stack n => simp [Group.getReg, ht]
  | oper n => simp [Group.getReg, ho]
  | scal n => simp only [Group.getReg, readScalar, hs, hd, hp, hm]

/-- The issue of a word leaves every register as it reads. -/
theorem Group.getReg_noteIssue (z : Group) (k : Nat) (p : Path) (n : Nat) (w : Issue) (t free : Nat) (l b : Nat) (r : LaneReg) (i : Nat) :
    (z.noteIssue k p n w t free).getReg l b k r i = z.getReg l b k r i := by
  refine Group.getReg_congr (y := z.noteIssue k p n w t free) (z := z) rfl rfl rfl rfl ?_ ?_ r i <;>
  · simp only [Group.noteIssue_paths, List.getD_eq_getElem?_getD, List.getElem?_modify]
    cases z.paths[k]? <;> simp [Path.noteIssue]

theorem Group.getReg_logFix (z : Group) (lf : List (Nat × Word)) (l b k : Nat) (q : LaneReg) (i : Nat) :
    Group.getReg { z with logFix := lf } l b k q i = z.getReg l b k q i := by
  cases q <;> rfl

/-- The path that goes on leaves every register as it reads. -/
theorem Group.getReg_advance (z : Group) (k n : Nat) (l b : Nat) (r : LaneReg) (i : Nat) :
    (z.updPath k fun q => q.advance n).getReg l b k r i = z.getReg l b k r i := by
  refine Group.getReg_congr (y := z.updPath k fun q => q.advance n) (z := z) rfl rfl rfl rfl ?_ ?_ r i <;>
  · simp only [Group.updPath, List.getD_eq_getElem?_getD, List.getElem?_modify]
    cases z.paths[k]? <;> simp

/-- A word that issues, changes registers `regs` of its group alone, and goes on. -/
theorem State.Issues.registerWord {s : State} {c : Ctx} {i : Instr} (h : s.Issues c i) (f : Group → Group) (regs : List LaneReg)
    (hx : exec i s = .next (s.completes c i 0 fun s1 => s1.updPathGroup c.ref f))
    (hi : ∀ z : Group, (f z).index = z.index) (hf : ∀ z : Group, z.reaches = [] → Group.RegisterChange c.ref.path z (f z))
    (hr : ∀ (z : Group) (r : LaneReg) (lane : Nat), z.reaches = [] → lane < 96 → r ∉ regs →
      (f z).getReg c.ref.launch c.ref.block c.ref.path r lane = z.getReg c.ref.launch c.ref.block c.ref.path r lane) :
    ∃ t c', s.RegisterWord c i regs t c' ∧ c.SameFlags c' ∧ c.path.SameLast c'.path ∧
      ∀ r lane, c'.reg r lane = (f (c.noted s i 0)).getReg
        c.ref.launch c.ref.block c.ref.path r lane := by
  have hc := h.ctx
  obtain ⟨-, -, -, -, hp0, hv0⟩ := State.ctx?_parts hc
  let z1 := c.noted s i 0
  have hz0 : z1.reaches = [] := List.filter_eq_nil_iff.mpr fun e he => by simpa using h.beats e he
  obtain ⟨h1, h2, h3, g, hg, hpaths⟩ := hf z1 hz0
  obtain ⟨a1, a2, a3, a4, a5, a6, a7, a8⟩ := hg (c.path.noteIssue (issueOf c i 0) s.cycle (s.owner c.launch.owner).free)
  have hz1 : z1.paths[c.ref.path]? = some (c.path.noteIssue (issueOf c i 0) s.cycle (s.owner c.launch.owner).free) := by
    simp only [z1, Group.noteIssue_paths, List.getElem?_modify, hp0]; simp
  have hp : (f z1).paths[c.ref.path]? = some (g (c.path.noteIssue (issueOf c i 0) s.cycle (s.owner c.launch.owner).free)) := by
    rw [hpaths, List.getElem?_modify, hz1]; simp
  have hv : (g (c.path.noteIssue (issueOf c i 0) s.cycle (s.owner c.launch.owner).free)).valid = true := a2.trans hv0
  obtain ⟨c', lf, e1, e2, e3, e4, e5⟩ := State.completes_group hc i 0 f hi hp hv
  refine ⟨_, c', ⟨hx, e1, ⟨?_, ?_, ?_, ?_⟩, e5, ⟨fun k hk => ?_, fun r lane hl hr' => ?_, ?_⟩, ?_⟩, ?_, ?_, fun r lane => ?_⟩
  · rw [e4, Path.advance_place]
    simp only [Path.placeAfter, Path.count, Path.header, a6, a7, a8]
    rfl
  · rw [e4, Path.advance_nextIssue, a3]
    rfl
  · rw [e4]; simp
  · rw [e4]; simpa using hv
  · rw [e3]
    have hk' : ¬ c.ref.path = k := fun e => hk e.symm
    simp only [Group.updPath, List.getElem?_modify, hpaths, z1, Group.noteIssue_paths, hk', if_false]
    cases c.group.paths[k]? <;> rfl
  · rw [e3, Group.getReg_advance, Group.getReg_logFix, hr _ _ _ hz0 hl hr', Group.getReg_noteIssue]
  · rw [e4, Path.advance_standing, a1]
    rfl
  · rw [e3]
    exact h2
  · show c'.group.flags = c.group.flags
    rw [e3]
    exact h3
  · rw [e4]
    obtain ⟨b1, b2, b3, b4⟩ := a5
    unfold Path.advance Path.SameLast
    split <;> exact ⟨b1, b2, b3, b4⟩
  · simp only [Ctx.reg, e2]
    rw [e3, Group.getReg_advance, Group.getReg_logFix]

end Sys2Proof.Machine
end

