-- ==== Sys2Proof/Tests/Slice0.lean ====
section
/-! SUPPORT. Tests: words of the manual's encodings read by the decoder, ill-formed words refused, single steps on a small state, and for each
statement states and operands that meet its hypotheses together. -/

namespace Sys2Proof.Tests

open Sys2Proof Sys2Proof.Machine

set_option maxRecDepth 100000
set_option Elab.async false

/-! ### Small states -/

/-- The path of every small state. -/
def r0 : PathRef := ⟨0, 0, 0, 0⟩

/-- A state in which one path has begun a clause of the given words. -/
def begun (ws : List Word) : State :=
  let s := (State.reset.placeWord 0 0).writeAll 0 (wordBytes (BitVec.ofNat 32 (ws.length + 16 * classFor (ws.headD 0)) :: ws))
  match s.running? with
  | some c => s.beginClause c
  | none => s

/-- A state whose path stands at one instruction. -/
def on (i : Instr) : State := begun (encode i)

/-- The context of the path. -/
def here (s : State) : Ctx := s.running?.getD ⟨r0, placedLaunch 0, Block.fresh 0, placedGroup, Path.dead⟩

/-- Everything that `State.Issues` asks for, as a test. -/
def check (s : State) (i : Instr) : Bool :=
  s.running?.isSome && s.known (here s) == here s && (here s).group.reaches.all (fun e => decide (e.at_ ≤ s.cycle)) &&
    (encDetail (here s).path.pfx i).isNone && ((here s).missing i).isEmpty && (s.flagOps (here s) i).isEmpty && decide ((here s).interlock i ≤ s.cycle) &&
    (!(here s).launch.header.stallchk || (s.earlyRead (here s) i).isNone) && !(here s).poisonedRegs i &&
    !(here s).acquires i

theorem running_here (s : State) (h : s.running?.isSome = true) : s.running? = some (here s) := by
  unfold here
  cases hr : s.running? with
  | none => simp [hr] at h
  | some c => rfl

theorem goes {s : State} {i : Instr} (h : check s i = true) : s.Issues (here s) i := by
  simp only [check, Bool.and_eq_true, decide_eq_true_eq, beq_iff_eq, List.all_eq_true, Option.isNone_iff_eq_none, List.isEmpty_iff, Bool.or_eq_true,
    Bool.not_eq_true'] at h
  obtain ⟨⟨⟨⟨⟨⟨⟨⟨⟨h1, hk⟩, hb⟩, h2⟩, h3⟩, hf⟩, h4⟩, h5⟩, h6⟩, h7⟩ := h
  exact ⟨running_here s h1, hk, hb, h2, h3, hf, h4, fun hs => h5.resolve_left (by simp [hs]), h6, h7⟩

/-- Changes to parts of a small state. -/
def path (s : State) (f : Path → Path) : State := s.updPath r0 f
def group (s : State) (f : Group → Group) : State := s.updGroup 0 0 0 f
def block (s : State) (f : Block → Block) : State := s.updBlock 0 0 f
def launch (s : State) (f : Launch → Launch) : State := s.updLaunch 0 f
def owner (s : State) (f : Owner → Owner) : State := s.updOwner 0 f

/-- Set a shared scalar. -/
def scal (s : State) (n : Nat) (v : Word) : State := group s fun z => { z with scalars := z.scalars.put n v }

/-- Set the present lanes and the live mask. -/
def lanes (s : State) (m : Lanes) : State := path s fun p => { p with present := m, mask := m }

/-- Room on the stack, a scratchpad of 1 KiB, and mapped image pages. -/
def roomy (s : State) : State :=
  let room (x : Launch) : Launch := { x with header := { x.header with stack := 20, spadKiB := 1 } }
  block (launch s room) fun y => { y with images := (List.range 60).map fun n => (8192 * n, 8192 * n + 2 ^ 20) }

/-- Nothing that holds a word up, with no lane active. -/
def idle (s : State) (i : Instr) : Bool :=
  s.running?.isSome && s.known (here s) == here s && (encDetail (here s).path.pfx i).isNone && actsInLanes (here s).path i && (here s).path.selected == 0

theorem rests {s : State} {i : Instr} (h : idle s i = true) : s.IssuesIdle (here s) i := by
  simp only [idle, Bool.and_eq_true, Option.isNone_iff_eq_none, beq_iff_eq] at h
  obtain ⟨⟨⟨⟨h1, hk⟩, h2⟩, h3⟩, h4⟩ := h
  exact ⟨running_here s h1, hk, h2, h3, h4⟩

/-- The form that a state keeps, as a test. -/
def sound (s : State) : Bool :=
  s.dies.length == 5 && s.owners.length == 64 && s.transit.all (fun t => decide (t.id < s.nextId)) && s.dies.all fun d => Memory.wf d.mem &&
    d.past.all fun e => decide (e.moment < s.moment) && e.id.all fun i => decide (i < s.nextId)

theorem stands {s : State} (h : sound s = true) : s.Sound := by
  simp only [sound, Bool.and_eq_true, beq_iff_eq, List.all_eq_true, decide_eq_true_eq] at h
  obtain ⟨⟨⟨h1, h2⟩, h3⟩, h4⟩ := h
  exact ⟨h1, fun d hd => (h4 d hd).1, h2, fun d hd e he => ⟨((h4 d hd).2 e he).1, fun i hi => by have := ((h4 d hd).2 e he).2; simpa [hi] using this⟩, h3⟩

/-! ### Witnesses: scalar words and control flow -/

theorem witness_ScalarArithmetic : let i := Instr.add 0 0x68 0x6A 0x48; let j := Instr.sel 0 0x68 0x6A 0x48; let k := Instr.mov 0 0x68 0x6A;
    (on i).Issues (here (on i)) i ∧ (on j).Issues (here (on j)) j ∧ (on k).Issues (here (on k)) k :=
  ⟨goes (by decide +kernel), goes (by decide +kernel), goes (by decide +kernel)⟩

theorem witness_ScalarCompare : let i := Instr.cmp 0 2 0x1D 0x6A 0x48; (on i).Issues (here (on i)) i := goes (by decide +kernel)

theorem witness_MaskWords : let i := Instr.mand 0 0x69 0x6C 0x58; let j := Instr.movk 0 0x68 7;
    (on i).Issues (here (on i)) i ∧ (on j).Issues (here (on j)) j := ⟨goes (by decide +kernel), goes (by decide +kernel)⟩

theorem witness_ModeAndNop : let i := Instr.nop 0; let j := Instr.wrmode 0 0x68;
    (on i).Issues (here (on i)) i ∧ ((on j).Issues (here (on j)) j ∧ (on j).scalarOperand (here (on j)) 0x68 0 32 % 8 ∈ [0, 6, 7]) ∧
    ((scal (on j) 40 1).Issues (here (scal (on j) 40 1)) j ∧ (scal (on j) 40 1).scalarOperand (here (scal (on j) 40 1)) 0x68 0 32 % 8 ∉ [0, 6, 7]) :=
  ⟨goes (by decide +kernel), ⟨goes (by decide +kernel), by decide +kernel⟩, goes (by decide +kernel), by decide +kernel⟩

theorem witness_Operands : let s := path (on (.nop 0)) fun p => { p with l0Def := true };
    (here s).group.unseen = [] ∧ (here s).group.hazards = [] ∧ (here s).group.flagHazards = [] ∧ (here s).path.served = [] ∧ (here s).path.l0Def = true ∧ isS 0x68 = true ∧
    isS 0x6A = true ∧ isW 0x3F = true ∧ isO 0xC7 = true := by decide +kernel

theorem witness_Branches : let i := Instr.bra 0 0x7FFFFF; let j := Instr.brz 0 0x68 5; let k := Instr.brnz 0 0x68 5;
    (on i).Issues (here (on i)) i ∧ ((on j).Issues (here (on j)) j ∧ (on j).maskOperand (here (on j)) 0x68 0 = 0) ∧ (on k).Issues (here (on k)) k :=
  ⟨goes (by decide +kernel), ⟨goes (by decide +kernel), by decide +kernel⟩, goes (by decide +kernel)⟩

/-- The owner's tier cap holds its traffic. -/
def capped (s : State) : State := owner s fun o => { o with capHeld := true }

/-- Two live paths. -/
def twoPaths (s : State) : State := group s fun z => { z with paths := z.paths.set 1 (Path.entry 0x20000 2) }

theorem witness_Call : let i := Instr.call 0 0 7;
    (let s := path (on i) fun p => { p with mask := 0 };
      s.Issues (here s) i ∧ (here s).path.mask = 0) ∧
    (let s := twoPaths (on i); s.Issues (here s) i ∧ (here s).path.mask ≠ 0 ∧ 2 ≤ (here s).group.paths.countP (·.valid)) ∧
    (let s := on i; s.Issues (here s) i ∧ (here s).group.paths.countP (·.valid) ≤ 1 ∧ (here s).launch.header.stack < (here s).group.depth + 1 + 8) ∧
    (let s := roomy (on i); s.Issues (here s) i ∧ (here s).group.paths.countP (·.valid) ≤ 1 ∧
      (here s).group.depth + 1 + 8 ≤ (here s).launch.header.stack ∧ s.pumpHeld (here s).launch = false ∧ (here s).launch.replay = none ∧
      dieOf (here s).group.core < s.dies.length ∧ s.records = [] ∧ s.transit = [] ∧ (s.frameOp (here s) 1 []).after = [] ∧ ∀ j < 32, s.imagePa (here s).launch (here s).block ((here s).frame 1 + j) = some ((here s).frame 1 + 2 ^ 20 + j)) ∧
    (let s := capped (roomy (on i)); s.Issues (here s) i ∧ (here s).path.mask ≠ 0 ∧ (here s).group.paths.countP (·.valid) ≤ 1 ∧
      (here s).group.depth + 1 + 8 ≤ (here s).launch.header.stack ∧ s.pumpHeld (here s).launch = true) := by
  refine ⟨⟨goes ?_, ?_⟩, ⟨goes ?_, ?_⟩, ⟨goes ?_, ?_⟩, ⟨goes ?_, ?_⟩, goes ?_, ?_⟩ <;> decide +kernel

/-- A called function of slide 1, its frame record in the image. -/
def called (s : State) (slide : Nat) : State :=
  let t := group (roomy s) fun z => { z with depth := 1 }
  t.writeAll ((here t).frame 1 + 2 ^ 20) (wordBytes [1, 0, 0, 0x10000, BitVec.ofNat 32 slide, 0, 0, 0])

theorem witness_Return : let i := Instr.ret 0;
    (let s := twoPaths (called (on i) 1); s.Issues (here s) i ∧ 2 ≤ (here s).group.paths.countP (·.valid)) ∧
    (let s := capped (called (on i) 1); s.Issues (here s) i ∧ (here s).group.paths.countP (·.valid) ≤ 1 ∧ s.framePending (here s) = [] ∧
      s.pumpHeld (here s).launch = true) ∧
    (let s := called (on i) 2; s.Issues (here s) i ∧ (here s).group.paths.countP (·.valid) ≤ 1 ∧ s.framePending (here s) = [] ∧
      s.pumpHeld (here s).launch = false ∧ (bytesWords 8 (s.imageRead (here s).launch (here s).block (here s).group.core ((here s).frame 1) 32)).getD 4 0 = 2) ∧
    (let s := called (on i) 1; s.Issues (here s) i ∧ (here s).group.paths.countP (·.valid) ≤ 1 ∧ s.framePending (here s) = [] ∧
      s.pumpHeld (here s).launch = false ∧ (bytesWords 8 (s.imageRead (here s).launch (here s).block (here s).group.core ((here s).frame 1) 32)).getD 4 0 = 1 ∧
      ∀ e ∈ (s.owner (here s).launch.owner).tlb, 8192 ∣ e.va ∧ 8192 ∣ e.size) := by
  refine ⟨⟨goes ?_, ?_⟩, ⟨goes ?_, ?_⟩, ⟨goes ?_, ?_⟩, goes ?_, ?_⟩ <;> decide +kernel

theorem witness_Fork : let i := Instr.fork 0 0x60 0xD0 9; let j := Instr.fork 0 0x60 0x68 9;
    (let s := group (on i) fun z => { z with paths := List.replicate 4 (z.paths.getD 0 Path.dead) };
      s.Issues (here s) i ∧ (here s).group.freeEntry = none) ∧
    (let s := group (on i) fun z => { z with joins := List.replicate 4 ⟨0, true, 0⟩ };
      s.Issues (here s) i ∧ (here s).group.freeEntry ≠ none ∧ (here s).group.freeRecord = none) ∧
    (let s := on i; s.Issues (here s) i ∧ (here s).group.freeEntry = some 1 ∧ (here s).group.freeRecord = some 0 ∧
      (here s).path.mask &&& s.maskOperand (here s) 0xD0 0 = 0) ∧
    (let s := path (scal (lanes (on j) 3) 40 1) fun p => { p with stepLeft := some 4 }; s.Issues (here s) j ∧ (here s).group.freeEntry = some 1 ∧
      (here s).group.freeRecord = some 0 ∧ (here s).path.stepLeft.isSome = true ∧ (here s).path.mask &&& s.maskOperand (here s) 0x68 0 ≠ 0 ∧
      (here s).path.mask &&& s.maskOperand (here s) 0x68 0 ≠ (here s).path.mask) ∧
    (let s := scal (lanes (on j) 3) 40 1; s.Issues (here s) j ∧ (here s).group.freeEntry = some 1 ∧ (here s).group.freeRecord = some 0 ∧
      (here s).path.stepLeft = none ∧ (here s).path.mask &&& s.maskOperand (here s) 0x68 0 ≠ 0 ∧ (here s).path.mask &&& s.maskOperand (here s) 0x68 0 ≠ (here s).path.mask) := by
  refine ⟨⟨goes ?_, ?_⟩, ⟨goes ?_, ?_⟩, ⟨goes ?_, ?_⟩, ⟨goes ?_, ?_⟩, goes ?_, ?_⟩ <;> decide +kernel

/-- Record 0 is allocated, its token held by path 0, and by path 1, which has arrived if `a`. -/
def joining (s : State) (a : Bool) : State :=
  group (path (twoPaths s) fun p => { p with tokens := 1 }) fun z =>
    { z with
      joins := z.joins.set 0 ⟨0, true, if a then 2 else 0⟩
      paths := z.paths.set 1 { Path.entry 0x20000 2 with tokens := 1, status := if a then .waiting (.join 0) else .ready } }

/-- What the statement asks of a `join` on its path's own token of record 0. -/
def joins (s : State) : Bool :=
  let c := here s
  let j := c.group.joins.getD 0 ⟨0, false, 0⟩
  s.scalarOperand c 0x68 0 32 == 0 && j.alloc && j.gen == 0 && c.path.tokens.getLsbD 0 && c.group.paths.length == 4 && c.group.joins.length == 4 &&
    (c.group.joins.drop 1).all (!·.alloc)

theorem witness_Join : let i := Instr.join 0 0x68;
    (let s := on i; s.Issues (here s) i ∧ ((here s).group.joins.getD 0 ⟨0, true, 0⟩).alloc = false) ∧
    (let s := joining (on i) false; s.Issues (here s) i ∧ joins s = true ∧
      ∃ k ∈ (here s).group.holders 0, k ≠ 0 ∧ ((here s).group.joins.getD 0 ⟨0, false, 0⟩).arrived.getLsbD k = false) ∧
    (let s := joining (on i) true; s.Issues (here s) i ∧ joins s = true ∧
      (∀ k ∈ (here s).group.holders 0, k ≠ 0 → ((here s).group.joins.getD 0 ⟨0, false, 0⟩).arrived.getLsbD k = true) ∧
      (here s).group.holders 0 = [0, 1]) := by
  refine ⟨⟨goes ?_, ?_⟩, ⟨goes ?_, ?_⟩, goes ?_, ?_⟩ <;> decide +kernel

theorem witness_Sleep : let i := Instr.sleep 0 0x68;
    (on i).Issues (here (on i)) i ∧
    (let s := path (on i) fun p => { p with status := .sleeping 1 };
      ∃ p, s.path? r0 = some p ∧ p.valid = true ∧ p.status = .sleeping 1 ∧ s.cycle < 1) ∧
    (let s := path (on i) fun p => { p with status := .sleeping 0 };
      ∃ p, s.path? r0 = some p ∧ p.valid = true ∧ p.status = .sleeping 0 ∧ 0 ≤ s.cycle) :=
  ⟨goes (by decide +kernel), ⟨_, rfl, by decide +kernel⟩, ⟨_, rfl, by decide +kernel⟩⟩

theorem witness_Exit : let i := Instr.exit 0;
    (let s := path (on i) fun p => { p with mask := 0 };
      s.Issues (here s) i ∧ (here s).path.mask = 0) ∧
    (let s := lanes (on i) 3; s.Issues (here s) i ∧ (here s).path.mask ≠ 0 ∧ ∀ q < 4, ((here s).group.joins.getD q ⟨0, false, 0⟩).alloc = false) := by
  refine ⟨⟨goes ?_, ?_⟩, goes ?_, ?_⟩ <;> decide +kernel

/-! ### Witnesses: exceptions, encodings and steps -/

/-- The owner has a pinned reserve of two pages, whose handler table names a header for each kind. -/
def served (s : State) : State :=
  (owner s fun o => { o with
    record := { o.record with rsvlen := 2, rsvbase := 0x100000, rsvlines := 16, rsvslots := 4 }
    tlb := ⟨0x100000, 0x4000000, 16384, true, true⟩ :: o.tlb }).writeAll 0x4000000 (leBytes 8 0x100100 ++ leBytes 8 0x100100)

theorem witness_EncodingTraps : let i := Instr.add 0 0xD0 0x6A 0x48; let s := on i;
    s.running? = some (here s) ∧ encDetail (here s).path.pfx i ≠ none ∧ (on (.nop 0)).running?.isSome = true :=
  ⟨running_here _ (by decide +kernel), by decide +kernel, by decide +kernel⟩

theorem housed {s : State} (h : ((s.block? 0 0 == some (here s).block) && ((here s).block.group? 0 == some (here s).group) &&
    (here s).block.cluster.isSome && !(here s).group.freed && !(here s).group.done) = true) : s.Resident r0 (here s).block (here s).group := by
  simp only [Bool.and_eq_true, beq_iff_eq, Bool.not_eq_true'] at h
  obtain ⟨⟨⟨⟨h1, h2⟩, h3⟩, h4⟩, h5⟩ := h
  exact ⟨h1, h2, h3, h4, h5⟩

/-- An operation on one word in lane 0. -/
def opOn (k : OpKind) : Op :=
  { State.reset.blankOp (here (on (.nop 0))) k 0 with
    width := 4
    ty := 7
    lanes := [(0, 0x1FFC, 5, 0)]
    dest := if k == .load then some (.oper 2) else none }

/-- A state with one operation in flight. -/
def flying (o : Op) : State := { on (.nop 0) with ops := [o], nextId := 1 }

theorem witness_TrapTaken : (let s := served (on (.nop 0)); s.running? = some (here s) ∧
      (let f : FaultCase := ⟨3, 1, 0, 3⟩; s.route (here s).launch 3 1 f.va (s.faultTag (here s) (here s).path.namingLane f) = .collect) ∧
      (here s).path.status = .ready ∧ s.origins = []) ∧
    (let s := on (.nop 0); s.running? = some (here s) ∧ (here s).launch.handler = none ∧ (s.owner (here s).launch.owner).record.rsvlen = 0 ∧
      (here s).launch.owner < 64 ∧ (here s).group.NoJoins ∧ s.earlierDone r0 s.nextId = true) ∧
    (let s := flying (opOn .load); s.running? = some (here s) ∧ (here s).launch.handler = none ∧
      (s.owner (here s).launch.owner).record.rsvlen = 0 ∧ (here s).group.NoJoins ∧ s.earlierDone r0 s.nextId = false) := by
  refine ⟨⟨running_here _ ?_, ?_⟩, ⟨running_here _ ?_, ?_, ?_, ?_, ?_, ?_⟩, running_here _ ?_, ?_, ?_, ?_, ?_⟩ <;>
    first | decide +kernel | (unfold Group.NoJoins; decide +kernel)

theorem witness_FaultRoutes : (let s := on (.nop 0); (here s).ref.path < 4 ∧ (here s).ref.group < 128 ∧ (here s).group.core < 1024) ∧
    (let s := launch (on (.nop 0)) fun x => { x with handler := some ⟨false, 2, 0, 0⟩ }; ∃ i, (here s).launch.handler = some i ∧ 2 ≤ i.depth) ∧
    (let s := launch (served (on (.nop 0))) fun x => { x with handler := some ⟨true, 1, 0, 0⟩ };
      (∃ i, (here s).launch.handler = some i ∧ 1 ≤ i.depth) ∧ (s.owner (here s).launch.owner).inReserve 0x100000 1 = true) ∧
    (let s := on (.nop 0); (here s).launch.handler = none ∧ s.handlerOf 0 3 = .ok 0) ∧
    (let s := owner (served (on (.nop 0))) fun o => { o with record := { o.record with rsvlines := 7 } };
      s.handlerOf 0 3 = .ok 0x100100 ∧ (s.owner 0).record.rsvlines < 8) ∧
    (let s := served (on (.nop 0)); s.handlerOf 0 3 = .ok 0x100100 ∧ 8 ≤ (s.owner 0).record.rsvlines) := by
  refine ⟨?_, ⟨⟨false, 2, 0, 0⟩, ?_⟩, ⟨⟨⟨true, 1, 0, 0⟩, ?_⟩, ?_⟩, ?_, ?_, ?_⟩ <;> decide +kernel

theorem witness_ProgramTrap : let i := Instr.trap 0 255;
    (let s := lanes (served (on i)) 5; s.Issues (here s) i ∧ (here s).path.selected ≠ 0 ∧ (here s).launch.handler = none ∧
      (here s).launch.replay = none ∧ s.handlerOf 0 6 = .ok 0x100100 ∧ 8 ≤ (s.owner 0).record.rsvlines ∧ s.origins = []) ∧
    (let s := path (on i) fun p => { p with mask := 0 }; s.IssuesIdle (here s) i) := by
  refine ⟨⟨goes ?_, ?_⟩, rests ?_⟩ <;> decide +kernel

/-- A handler group whose lane 0 stands for origin 0. -/
def handling (s : State) : State :=
  launch (group s fun z => { z with tags := [⟨0, 0, 0, []⟩] }) fun x => { x with handler := some ⟨false, 1, 0, 0⟩ }

theorem witness_HandlerReturn : let i := Instr.hret 0 0x68;
    (let s := handling ((on i).collect 0 3 0 [] (.lane r0 0) false 1 none); s.Issues (here s) i ∧ (∀ q < 4, ((here s).group.joins.getD q ⟨0, false, 0⟩).alloc = false) ∧
      s.pendingWrites (here s).ref s.nextId = false ∧ (here s).path.selected ≠ 0 ∧
      (∀ l ∈ laneList (here s).path.selected, s.operand (here s) i 0x68 0 (.int 32) l ≤ 1 ∧ (here s).group.tags.any (fun g => g.lane == l) = true) ∧
      (∃ g ∈ s.origins, ∃ e ∈ (here s).group.tags, g.id = e.origin) ∧ ∀ l ∈ laneList (here s).path.selected, s.operand (here s) i 0x68 0 (.int 32) l = 0) ∧
    (let s := path (on (.nop 0)) fun p => { p with status := .waiting .handler };
      (here s).path.status = .waiting .handler ∧ s.origins.any (fun g => g.ofPath (here s).ref) = false) ∧
    (let s := (path (on (.nop 0)) fun p => { p with status := .waiting .handler }).collect 0 3 0 [] (.lane r0 0) false 1 none;
      s.origins.any (fun g => g.ofPath (here s).ref) = true) := by
  refine ⟨⟨goes ?_, ?_⟩, ?_, ?_⟩ <;> decide +kernel

theorem witness_Encoding : encode (.add 0 0x68 0x6A 0x48) ≠ [] ∧
    decode (encodeBytes (.add 0 0x68 0x6A 0x48)) = .ok (.add 0 0x68 0x6A 0x48, []) ∧ (0x1F : BitVec 7).toNat = 0x1F ∧
    (0x1D : BitVec 7).toNat = 0x1D ∧ 4 ≤ (15 : BitVec 4).toNat ∧ 9 ≤ (9 : BitVec 7).toNat := by decide +kernel

theorem witness_StepRunsDecoded : let s := on (.add 0 0x68 0x6A 0x48); let u : State := { (s.advance (s.waitFor s.cur 1)).openCycle with cur := s.cur };
    s.agenda = [] ∧ ∃ c, u.ctx? s.cur = some c ∧ u.offered c = true ∧ c.path.idx ≠ 0 ∧ u.stopCause c = none ∧ c.launch.replay = none ∧
      decode (wordBytes (c.path.fetched.drop c.path.idx)) = .ok (.add 0 0x68 0x6A 0x48, []) :=
  ⟨by decide +kernel, here ((on (.add 0 0x68 0x6A 0x48)).advance 1).openCycle, by decide +kernel⟩

theorem witness_StepRunsPrefixed : let s := begun (encode (.pfx 0 0 0 0 4 0) ++ encode (.add 0 0x68 0x6A 0x48));
    let u : State := { (s.advance (s.waitFor s.cur 1)).openCycle with cur := s.cur };
    ∃ c mid, u.ctx? s.cur = some c ∧ c.path.idx ≠ 0 ∧ decode (wordBytes (c.path.fetched.drop c.path.idx)) = .ok (.pfx 0 0 0 0 4 0, mid) ∧
      decode mid = .ok (.add 0 0x68 0x6A 0x48, []) :=
  ⟨here ((begun (encode (.pfx 0 0 0 0 4 0) ++ encode (.add 0 0x68 0x6A 0x48))).advance 1).openCycle, encodeBytes (.add 0 0x68 0x6A 0x48),
    by decide +kernel⟩

/-- A path before its clause. -/
def before : State := State.reset.placeWord 32 0x0E800000

/-- A state whose path stands before a clause of header `h` and the given words. -/
def facing (h : Nat) (ws : List Word) : State :=
  (State.reset.placeWord 0 0).writeAll 0 (wordBytes (BitVec.ofNat 32 h :: ws))

/-- The state in which the path of `cur` has its turn. -/
def turn (s : State) : State := { (s.advance (s.waitFor s.cur 1)).openCycle with cur := s.cur }

/-- The path of a state may begin its clause, which is `h` and `ws`. -/
def begins (s : State) (h : Word) (ws : List Word) : Bool :=
  s.agenda.isEmpty && ((turn s).ctx? s.cur).any fun c => (turn s).offered c && c.path.idx == 0 && c.path.fetched.isEmpty && ((turn s).stopCause c).isNone &&
    match (turn s).fetchClause c with
    | .ok vs => vs == h :: ws
    | .error _ => false

theorem witness_StepBeginsClause_others :
    (let s := capped before; begins s 1 [0x0E800000] = true ∧ (turn s).pumpHeld (here (turn s)).launch = true) ∧
    (let s := facing 0 []; begins s 0 [] = true ∧ (turn s).pumpHeld (here (turn s)).launch = false ∧ clauseDetail 0 [] = some 1) ∧
    (let s := group (facing 0x81 [0x0E800000]) fun z => { z with sb := [1, 0, 0, 0, 0, 0] }; begins s 0x81 [0x0E800000] = true ∧
      clauseDetail 0x81 [0x0E800000] = none ∧ (here (turn s)).group.waitClear 0x81 = false) ∧
    (let ws := encode (.pfx 0 0 0 0 4 0) ++ encode (.add 0 0x68 0x6A 0x48); let s := facing 2 ws; begins s 2 ws = true ∧
      clauseDetail 2 ws = none ∧ (here (turn s)).group.waitClear 2 = true ∧ (turn s).pumpHeld (here (turn s)).launch = false ∧
      ((turn s).beginClause (here (turn s))).stopCause (here ((turn s).beginClause (here (turn s)))) = none ∧
      decode (wordBytes ws) = .ok (.pfx 0 0 0 0 4 0, encodeBytes (.add 0 0x68 0x6A 0x48)) ∧
      decode (encodeBytes (.add 0 0x68 0x6A 0x48)) = .ok (.add 0 0x68 0x6A 0x48, [])) ∧
    (0x61 % 16 ≠ 0 ∧ 6 ≤ 0x61 / 16 % 8) ∧ (0x100001 % 16 ≠ 0 ∧ 0x100001 / 16 % 8 < 6 ∧ 2 ^ 20 ≤ 0x100001) ∧ 0x10001 / 2 ^ 16 % 4 = 1 ∧
    (0x51 / 16 % 8 = 5 ∧ 0x51 / 2 ^ 16 % 4 ≠ 1) ∧ 0x20001 / 2 ^ 17 % 2 = 1 := by decide +kernel

theorem witness_StepBeginsClause : (let u : State := { (before.advance (before.waitFor before.cur 1)).openCycle with cur := before.cur }; before.agenda = [] ∧
      ∃ c ws h i, u.ctx? before.cur = some c ∧ u.offered c = true ∧ c.path.idx = 0 ∧ c.path.fetched = [] ∧ u.fetchClause c = .ok (h :: ws) ∧
      clauseDetail h.toNat ws = none ∧ c.group.waitClear h.toNat = true ∧ c.launch.replay = none ∧ u.stopCause c = none ∧ u.pumpHeld c.launch = false ∧
      (u.beginClause c).stopCause (here (u.beginClause c)) = none ∧ decode (wordBytes ws) = .ok (i, [])) ∧
    (here (path before fun p => { p with pc := 0x10001 })).path.pc % 4 ≠ 0 ∧
    ((before.owner 0).entry? (here (path before fun p => { p with pc := 0x30000 })).path.pc = none) ∧
    ∀ k < 8, (before.owner 0).translate (0x10000 + k) false = .ok (0 + k) ∧ before.portUp (0 + k) = true ∧ before.poisoned (0 + k) 1 = false := by
  refine ⟨⟨by decide +kernel, here (before.advance 1).openCycle, [0x0E800000], 1 + 16 * BitVec.ofNat 32 (classFor 0x0E800000), .nop 0, ?_⟩, ?_, ?_, ?_⟩ <;>
    decide +kernel

theorem witness_StepAnswers : let s : State := { State.reset with agenda := [.event 3 .pcieLinkDown] };
    s.agenda = .event 3 .pcieLinkDown :: [] ∧ encode .pcieLinkDown = [] := by decide +kernel

/-- Cycle 10 with two groups on core 0 whose paths stand before the placed clause; they issued last in cycles 5 and 3. -/
def rivals : State :=
  let s := State.tick before 10
  block s fun y => { y with groups := [{ placedGroup with cWords := 1, lastIssue := 5 }, { placedGroup with index := 1, resid := 1, cWords := 1, lastIssue := 3 }] }

/-- Cycle 10 with a handler group beside the placed one on core 0. -/
def besideHandler : State :=
  let s := State.tick before 10
  { s with launches := s.launches ++ [{ placedLaunch 1 with handler := some ⟨true, 1, 0, 0⟩ }] }

/-- The context of a path, if it has one. -/
def seen (s : State) (r : PathRef) : Ctx := (s.ctx? r).getD (here s)

theorem witness_StepAnswers_turns :
    (let s := rivals; let c := seen s r0; let d := seen s ⟨0, 0, 1, 0⟩; s.ctx? d.ref = some d ∧ d.ref.group = 1 ∧ d.path.valid = true ∧
      d.group.core = c.group.core ∧ (d.launch, d.block, d.group) ∈ s.groupsOn c.group.core ∧ d.launch.owner = c.launch.owner ∧ s.couldIssue d = true ∧
      d.launch.handler.isSome = c.launch.handler.isSome ∧ d.group.cWords ≠ 0 ∧ c.group.cWords ≠ 0 ∧ d.group.lastIssue < c.group.lastIssue ∧
      s.offered c = false ∧ s.offered d = true) ∧
    (let s := besideHandler; let c := seen s r0; let d := seen s ⟨1, 0, 0, 0⟩; s.ctx? d.ref = some d ∧ d.ref.launch = 1 ∧ d.path.valid = true ∧
      (d.launch, d.block, d.group) ∈ s.groupsOn c.group.core ∧ d.launch.owner = c.launch.owner ∧ s.couldIssue d = true ∧
      d.launch.handler.isSome = true ∧ c.launch.handler = none ∧ s.offered c = false ∧ s.offered d = true) ∧
    (let s : State := { rivals with
        launches := rivals.launches ++ [{ placedLaunch 1 with owner := 1 }]
        owners := rivals.owners.set 1 { rivals.owner 0 with record := { (rivals.owner 0).record with issuew := 1 } } };
      let t := owner s fun o => { o with periodIssued := 9, record := { o.record with issuew := 1 } };
      let c := seen t r0; let d := seen t ⟨1, 0, 0, 0⟩; t.ctx? d.ref = some d ∧ d.path.valid = true ∧ d.group.core = c.group.core ∧
      (d.launch, d.block, d.group) ∈ t.groupsOn c.group.core ∧ d.launch.owner ≠ c.launch.owner ∧ t.couldIssue d = true ∧
      (t.owner d.launch.owner).periodIssued * (t.owner c.launch.owner).record.issuew <
        (t.owner c.launch.owner).periodIssued * (t.owner d.launch.owner).record.issuew ∧ t.offered c = false) ∧
    (let s := group (lanes (on (.movVector 0 9 8)) 1) fun z => { z with paths := z.paths.map fun p => { p with valid := true, pipeEnd := 20 } };
      (s.nextIssueOf (seen s r0)).beats ≠ 0 ∧ s.offered (seen s r0) = false ∧ 4 ≤ s.pipesHeld 0) := by
  decide +kernel

theorem witness_StepKeepsSound : State.reset.Sound ∧ ∃ t, step State.reset = .next t := ⟨stands (by decide), _, rfl⟩

/-! ### Witnesses: vector words -/

theorem witness_VectorArithmetic : let i := Instr.addVectorInt 0 9 0xC1 0x02; let j := Instr.movVector 0 9 0xC1; let k := Instr.selVector 0 9 0xC1 0x02;
    ((on i).Issues (here (on i)) i ∧ (here (on i)).path.selected ≠ 0) ∧ ((on j).Issues (here (on j)) j ∧ (here (on j)).path.selected ≠ 0) ∧
    ((on k).Issues (here (on k)) k ∧ (here (on k)).path.selected ≠ 0) := by
  refine ⟨⟨goes ?_, ?_⟩, ⟨goes ?_, ?_⟩, goes ?_, ?_⟩ <;> decide +kernel

theorem witness_VectorCompares : let i := Instr.cmpVectorInt 0 2 4 9 0x02; let j := Instr.cmpFloat 0 2 4 9 0x02;
    (on i).Issues (here (on i)) i ∧ ((on j).Issues (here (on j)) j ∧ modeTrapen ((here (on j)).group.modeInForce (on j).cycle) = 0) ∧
    (path (on j) fun p => { p with mask := 0 }).IssuesIdle (here (path (on j) fun p => { p with mask := 0 })) j := by
  refine ⟨goes ?_, ⟨goes ?_, ?_⟩, rests ?_⟩ <;> decide +kernel

theorem witness_IdleWords : let i := Instr.mulVectorInt 0 9 0xC1 0x02; let s := path (on i) fun p => { p with mask := 0 };
    s.IssuesIdle (here s) i ∧ ∀ k < 6, (here s).group.sbCount k < 63 := by
  refine ⟨rests ?_, ?_⟩ <;> decide +kernel

theorem witness_FloatWords : let i := Instr.fmaFloat 0 9 0xC1 0x02; let j := Instr.mulF64 0 8 0xC0 0x02; let k := Instr.negFloat 0 9 0xC1;
    ((on i).Issues (here (on i)) i ∧ (here (on i)).path.selected ≠ 0 ∧ modeTrapen ((here (on i)).group.modeInForce (on i).cycle) = 0) ∧
    ((on j).Issues (here (on j)) j ∧ (here (on j)).path.selected ≠ 0) ∧ ((on k).Issues (here (on k)) k ∧ (here (on k)).path.selected ≠ 0) := by
  refine ⟨⟨goes ?_, ?_⟩, ⟨goes ?_, ?_⟩, goes ?_, ?_⟩ <;> decide +kernel

/-- A signalling NaN in `o1`, the traps enabled, and a handler for them. -/
def trapping (i : Instr) : State :=
  group (served (on i)) fun z => { z with mode := 0x3F01, modePrev := 0x3F01, oper := z.oper.put 96 0x7F800001 }

/-- What is asked of a floating word that traps. -/
def traps (s : State) : Bool :=
  (here s).path.selected != 0 && (here s).launch.handler.isNone && (here s).launch.replay.isNone && decide (s.handlerOf 0 5 = .ok 0x100100) &&
    decide (8 ≤ (s.owner 0).record.rsvlines) && s.origins.isEmpty

theorem witness_FloatTraps : let i := Instr.addFloat 0 9 0xC1 0x02; let j := Instr.cvtF16 0 9 0xC1 11; let k := Instr.redAdd 0 9 0xC1;
    let n := Instr.cmpFloat 0 2 4 0xC1 0x02;
    (let s := trapping i; s.Issues (here s) i ∧ traps s = true ∧ ∃ r, s.FloatOp (here s) i 9 1 r ∧
      (r 0).fl &&& modeTrapen ((here s).group.modeInForce s.cycle) ≠ 0) ∧
    (let s := trapping j; s.Issues (here s) j ∧ traps s = true ∧ ∃ r, s.ConvertOp (here s) j 9 1 r ∧
      (r 0).fl &&& modeTrapen ((here s).group.modeInForce s.cycle) ≠ 0) ∧
    (let s := trapping k; s.Issues (here s) k ∧ traps s = true ∧ fmtOfCode (here s).floatCode = some .f32) ∧
    (let s := trapping n; s.Issues (here s) n ∧ traps s = true) := by
  refine ⟨⟨goes ?_, ?_, _, ⟨0xC1, 0x02, .f32, fun f md x y _ => f.add md x y, ⟨0, .inl ⟨?_, ?_⟩⟩, ?_, fun _ => rfl⟩, ?_⟩,
    ⟨goes ?_, ?_, _, ⟨0, 0xC1, .inl ⟨11, .inl ⟨.f16, .cvtF16, ?_, rfl, ?_, fun _ => rfl⟩⟩⟩, ?_⟩, ⟨goes ?_, ?_⟩, goes ?_, ?_⟩
  · decide +kernel
  · decide +kernel
  · exact List.mem_cons_self
  · decide +kernel
  · decide +kernel
  · decide +kernel
  · decide +kernel
  · decide +kernel
  · simp
  · decide +kernel
  all_goals decide +kernel

/-- An integer form of a word that combines lanes, in three lanes. -/
def combining (i : Instr) : State := lanes (path (on i) fun p => { p with pfx := some ⟨0, 0, false, 0, 3, false⟩ }) 7

/-- A word that combines lanes issues, in a form that is floating or not. -/
def combines (s : State) (i : Instr) (float : Bool) : Bool :=
  check s i && (here s).path.selected != 0 && (here s).launch.replay.isNone && (fmtOfCode (here s).floatCode).isSome == float &&
    modeTrapen ((here s).group.modeInForce s.cycle) == 0

theorem witness_LaneCombining : (∀ i ∈ [Instr.shfl 0 9 0xC1 0x02, .bcast 0 9 0xC1 0x02, .matchKeys 0 9 0xC1, .redAdd 0 9 0xC1, .redMin 0 9 0xC1,
      .redMax 0 9 0xC1, .scanAdd 0 9 0xC1], combines (lanes (on i) 7) i true = true) ∧
    ∀ i ∈ [Instr.redAdd 0 9 0xC1, .redMin 0 9 0xC1, .redMax 0 9 0xC1, .scanAdd 0 9 0xC1], combines (combining i) i false = true := by decide +kernel

theorem witness_LaneCombining_folds : let k := Instr.redAdd 0 9 0xC1; let s := lanes (on k) 7;
    let vals := (laneList (here s).path.selected).map fun l => (l, s.operand (here s) k 0xC1 0 (numKind (here s).floatCode) l)
    s.Issues (here s) k ∧ (redRoot (Fmt.f32.add { (here s).fpMode s.cycle with sat := false }) (redLeaves .f32 ((here s).fpMode s.cycle) vals)).isSome = true ∧
      (scanFloat .f32 ((here s).fpMode s.cycle) none vals).map (fun e => e.1) = laneList (here s).path.selected := by
  refine ⟨goes ?_, ?_⟩ <;> decide +kernel

theorem witness_Conversions : let i := Instr.cvtF16 0 9 0xC1 11; let j := Instr.lnsmul 0 9 0xC1 0x02; let k := Instr.cvtb 0 9 0xC1 0x48;
    ((on i).Issues (here (on i)) i ∧ (here (on i)).path.selected ≠ 0 ∧ modeTrapen ((here (on i)).group.modeInForce 0) = 0) ∧
    (on j).Issues (here (on j)) j ∧
    (let s := scal (on k) 8 0x7F7F00; s.Issues (here s) k ∧ s.pathOperand (here s) (wide7 0x48) 2 % 4 < 2 ∧
      s.pathOperand (here s) (wide7 0x48) 2 / 2 ^ 8 % 256 ≠ 255 ∧ s.pathOperand (here s) (wide7 0x48) 2 / 2 ^ 16 % 256 ≠ 255) ∧
    (let s := scal (on k) 8 2; s.Issues (here s) k ∧ 2 ≤ s.pathOperand (here s) (wide7 0x48) 2 % 4) ∧
    (let s := scal (on k) 8 0xFF00; s.Issues (here s) k ∧ s.pathOperand (here s) (wide7 0x48) 2 / 2 ^ 8 % 256 = 255) := by
  refine ⟨⟨goes ?_, ?_⟩, goes ?_, ⟨goes ?_, ?_⟩, ⟨goes ?_, ?_⟩, goes ?_, ?_⟩ <;> decide +kernel

theorem witness_CorrectRounding : (0 < 1 ∧ (Fmt.e4m3.round ⟨.rne, false, false⟩ false ⟨1, 0, false⟩).fl.getLsbD 2 = false) ∧
    (Fmt.e4m3.round ⟨.rne, false, false⟩ false ⟨1, 9, false⟩).fl.getLsbD 2 = true := by decide +kernel

/-! ### Witnesses: memory -/

theorem witness_AddressChecks : let s := roomy (on (.nop 0)); let o := s.owner (here s).launch.owner;
    1 % 4 ≠ 0 ∧ 2 ^ 56 % 4 = 0 ∧ o.entry? 0x12000 = none ∧ (∃ e, o.entry? 0x10000 = some e ∧ e.wr = true ∧ s.portUp (e.pa + (0x10000 - e.va)) = true ∧
      s.poisoned (e.pa + (0x10000 - e.va)) 4 = false) ∧
    (∃ e, ((owner s fun o => { o with tlb := [⟨0x10000, 0, 8192, false, false⟩] }).owner 0).entry? 0x11FFC = some e ∧ e.wr = false) ∧
    ((s.markPoison 0).poisoned 60 4 = true ∧ OpKind.load.reads = true) ∧
    ({ s with links := { s.links with cxl := 0 } } : State).portUp Config.reservoirBase = false ∧
    2 ^ 21 % 4 = 0 ∧ 1020 % 2 ^ 19 + 4 ≤ 1024 * (here s).launch.header.spadKiB ∧ (here s).block.spadPoison = [] ∧
    1024 * (here s).launch.header.spadKiB < 1024 % 2 ^ 19 + 4 ∧ (here (block s fun y => { y with spadPoison := [1020] })).block.spadPoison = [1020] := by
  refine ⟨?_, ?_, ?_, ⟨⟨0x10000, 0, 8192, true, true⟩, ?_⟩, ⟨⟨0x10000, 0, 8192, false, false⟩, ?_⟩, ?_⟩ <;> decide +kernel

/-- The load of a word at the address in `s40`. -/
def loading : Instr := .ld 0 9 0x68 0x60 2 7 0 0 0

theorem witness_AccessWords : ∃ w, Spec.access loading = some w ∧
    (let s := group (on loading) fun z => { z with sb := [0, 0, 63, 0, 0, 0] }; s.Issues (here s) loading ∧ 63 ≤ (here s).group.sbCount w.sb) ∧
    (let s := scal (on loading) 40 0x11FFC; s.Issues (here s) loading ∧ (here s).path.selected ≠ 0 ∧ (here s).group.sbCount w.sb < 63 ∧
      (here s).launch.replay = none ∧ (here s).path.reexec = none ∧ (here s).path.zeroedWord = false ∧
      ∀ l ∈ (here s).accessLanes, s.lanePlace (here s) w l = .at_ 0x1FFC) ∧
    (let s := scal (on loading) 40 0x12000; s.Issues (here s) loading ∧ (here s).path.uniform = false ∧ (here s).path.selected ≠ 0 ∧
      ∀ l ∈ (here s).accessLanes, s.lanePlace (here s) w l = .fault ⟨1, 0, 0x12000, 0⟩) ∧
    (let s := path (scal (on loading) 40 0x12000) fun p => { p with pfx := some ⟨0, 0, true, 0, 0, false⟩ }; s.Issues (here s) loading ∧
      (here s).path.selected ≠ 0 ∧ (here s).mz = true ∧ isS w.dst = false ∧ fieldRegs (here s).group.depth w.dst (regsOf w.ty) ≠ [] ∧
      (here s).path.zeroable ≠ 0 ∧ ∀ l ∈ (here s).accessLanes, s.lanePlace (here s) w l = .fault ⟨1, 0, 0x12000, 0⟩) ∧
    (let s := path (scal (on loading) 40 0x12000) fun p => { p with fetched := BitVec.ofNat 32 (2 ^ 17 + 2) :: p.fetched.drop 1 };
      s.Issues (here s) loading ∧ (here s).path.uniform = true ∧
      s.lanePlace (here s) w (here s).path.namingLane = .fault ⟨1, 0, 0x12000, 0⟩) := by
  refine ⟨_, rfl, ⟨goes ?_, ?_⟩, ⟨goes ?_, ?_⟩, ⟨goes ?_, ?_⟩, ⟨goes ?_, ?_⟩, goes ?_, ?_⟩ <;> decide +kernel

theorem witness_AccessWords_beyond : let i := Instr.ld 0 9 0x68 0x60 2 7 0 1 0; ∃ w, Spec.access i = some w ∧ isS w.dst = false ∧
    (let s := scal (roomy (on i)) 40 1024; s.Issues (here s) i ∧ (here s).path.selected ≠ 0 ∧ (here s).group.sbCount w.sb < 63 ∧
      (here s).launch.replay = none ∧ (here s).path.reexec = none ∧ (here s).path.zeroedWord = false ∧
      ∀ l ∈ (here s).accessLanes, s.lanePlace (here s) w l = .beyond 1024) := by
  refine ⟨_, rfl, ?_, goes ?_, ?_⟩ <;> decide +kernel

/-- A store in flight to the image bytes of the frame that a call writes. -/
def framed (i : Instr) : State :=
  let s := roomy (on i)
  { s with ops := [{ opOn .store with lanes := [(0, (here s).frame 1 + 2 ^ 20, 5, 0)] }], nextId := 1 }

theorem witness_Call_behind : let i := Instr.call 0 0 7; let s := framed i; s.Issues (here s) i ∧ (here s).path.mask ≠ 0 ∧
    (here s).group.paths.countP (·.valid) ≤ 1 ∧ (here s).group.depth + 1 + 8 ≤ (here s).launch.header.stack ∧
    (s.frameOp (here s) 1 []).after = [0] := by
  refine ⟨goes ?_, ?_⟩ <;> decide +kernel

/-- What the statements about operations ask of a state with one of them in flight. -/
def completes (s : State) (o : Op) : Prop :=
  s.Sound ∧ s.ops.find? (fun p => p.id == o.id) = some o ∧ s.Resident r0 (here s).block (here s).group ∧
    (∀ e ∈ o.lanes, s.opPreds o e.2.1 o.width = []) ∧ o.logAt = none ∧ (here s).group.logFix = [] ∧ (∀ e ∈ (here s).group.reaches, e.at_ < s.cycle)

theorem completing {s : State} {o : Op} (h : (sound s && s.ops.find? (fun p => p.id == o.id) == some o && (s.block? 0 0 == some (here s).block) &&
    ((here s).block.group? 0 == some (here s).group) && (here s).block.cluster.isSome && !(here s).group.freed && !(here s).group.done &&
    o.lanes.all (fun e => (s.opPreds o e.2.1 o.width).isEmpty) && o.logAt.isNone && (here s).group.logFix.isEmpty && (here s).group.reaches.all fun e => decide (e.at_ < s.cycle)) = true) :
    completes s o := by
  simp only [Bool.and_eq_true, beq_iff_eq, List.all_eq_true, decide_eq_true_eq, Bool.not_eq_true', Option.isNone_iff_eq_none, List.isEmpty_iff] at h
  obtain ⟨⟨⟨⟨⟨⟨⟨⟨⟨⟨h1, h2⟩, h3⟩, h4⟩, h5⟩, h6⟩, h7⟩, h8⟩, h9⟩, h10⟩, h11⟩ := h
  exact ⟨stands h1, h2, ⟨h3, h4, h5, h6, h7⟩, h8, h9, h10, h11⟩

theorem witness_LoadsComplete :
    (let s := flying (opOn .load); completes s (opOn .load) ∧ s.opReady (opOn .load) = true ∧ (opOn .load).toFlags = 0) ∧
    (let o := { opOn .load with dest := none, toFlags := 1 }; completes (flying o) o ∧ (flying o).opReady o = true) ∧
    (let o := { opOn .load with dest := some (.scal 7) }; completes (flying o) o ∧ (flying o).opReady o = true ∧ (here (flying o)).group.hazards = []) ∧
    (let o := { opOn .load with after := [0] }; completes (flying o) o ∧ (flying o).opReady o = false) ∧
    (let s := flying (opOn .atomic); completes s (opOn .atomic) ∧ s.opReady (opOn .atomic) = true ∧ dieOf 0 < s.dies.length ∧
      s.overlapping 0x1FFC 4 = [] ∧ s.records = []) := by
  refine ⟨⟨completing ?_, ?_⟩, ⟨completing ?_, ?_⟩, ⟨completing ?_, ?_⟩, ⟨completing ?_, ?_⟩, completing ?_, ?_⟩ <;> decide +kernel

theorem witness_StoresPerform :
    (let s := flying (opOn .store); completes s (opOn .store) ∧ s.opReady (opOn .store) = true ∧ dieOf (opOn .store).core < s.dies.length) ∧
    (let o := { opOn .strong with scope := 6 }; completes (flying o) o ∧ (flying o).opReady o = true) ∧
    (let o := { opOn .strong with after := [0], scope := 6 }; completes (flying o) o ∧ (flying o).opReady o = false) ∧
    (let o := { opOn .store with sp := true }; completes (flying o) o ∧ (flying o).opReady o = true ∧ ∀ e ∈ o.lanes, (flying o).objectsIn 0 0 e.2.1 4 = []) := by
  refine ⟨⟨completing ?_, ?_⟩, ⟨completing ?_, ?_⟩, ⟨completing ?_, ?_⟩, completing ?_, ?_⟩ <;> decide +kernel

/-! ### Witnesses: ordering and barriers -/

theorem witness_FencesAndWords : let i := Instr.fence 0 5 2; let j := Instr.waita 0 0 0x68 0x49;
    (let s := on i; s.Issues (here s) i ∧ s.pendingLoads (here s).ref s.nextId = false ∧ s.pendingWrites (here s).ref s.nextId = false ∧
      (here s).launch.replay = none ∧ s.transit = []) ∧
    (let s : State := { on i with ops := [opOn .load], nextId := 1 }; s.Issues (here s) i ∧ s.pendingLoads (here s).ref s.nextId = true) ∧
    (let s := path (on i) fun p => { p with status := .waiting (.fence 2 5 0) };
      (here s).path.status = .waiting (.fence 2 5 0) ∧ s.pendingLoads (here s).ref 0 = false ∧ s.pendingWrites (here s).ref 0 = false) ∧
    (let s := path (flying (opOn .store)) fun p => { p with status := .waiting (.fence 1 5 1) };
      (here s).path.status = .waiting (.fence 1 5 1) ∧ s.pendingWrites (here s).ref 1 = true) ∧
    (let s := roomy (on j); s.Issues (here s) j ∧ s.scalarOperand (here s) 0x68 0 32 = 0 ∧ 0 < (here s).spadBytes) ∧
    (let s := scal (roomy (on j)) 40 1; s.Issues (here s) j ∧ (here s).syncPlace (s.scalarOperand (here s) 0x68 0 32) 4 = .fault ⟨8, 1, 1, 7⟩) ∧
    (let s := scal (roomy (on j)) 40 0x200000; s.Issues (here s) j ∧ (here s).syncPlace (s.scalarOperand (here s) 0x68 0 32) 4 = .fault ⟨8, 3, 2 ^ 21, 7⟩) ∧
    (let s := scal (roomy (on j)) 9 1; s.Issues (here s) j ∧
      s.spadWord 0 0 0 0 ≠ BitVec.ofNat 32 (s.scalarOperand (here s) (wide7 0x49) 2 32)) ∧
    (let s := path (roomy (on j)) fun p => { p with status := .waiting (.word 0 0 0) };
      (here s).path.status = .waiting (.word 0 0 0) ∧ s.spadWord 0 0 0 0 = 0) ∧
    (let s := path (roomy (on j)) fun p => { p with status := .waiting (.word 0 0 1) };
      (here s).path.status = .waiting (.word 0 0 1) ∧ s.spadWord 0 0 0 0 ≠ 1) := by
  refine ⟨⟨goes ?_, ?_⟩, ⟨goes ?_, ?_⟩, ?_, ?_, ⟨goes ?_, ?_⟩, ⟨goes ?_, ?_⟩, ⟨goes ?_, ?_⟩, ⟨goes ?_, ?_⟩, ?_⟩ <;> decide +kernel

theorem witness_Barriers : let i := Instr.barInit 0 0x69 0x68 0x49; let j := Instr.barArrive 0 0x69 0x68; let k := Instr.barWait 0 0x68 0x49;
    (let s := roomy (on i); s.Issues (here s) i ∧ (here s).block.cluster.isSome = true ∧ s.scalarOperand (here s) 0x68 0 32 = 0 ∧
      0 < (here s).spadBytes ∧ s.mayUpdate 0 0 0 (coreRank 0 0) = true) ∧
    (let s := block (roomy (on i)) fun y => { y with updates := [(0, 0, 5)] }; s.Issues (here s) i ∧ s.mayUpdate 0 0 0 (coreRank 0 0) = false) ∧
    (let s := scal (roomy (on i)) 40 4; s.Issues (here s) i ∧ (here s).syncPlace (s.scalarOperand (here s) 0x68 0 32) 16 = .fault ⟨8, 1, 4, 7⟩) ∧
    (let s := roomy (on j); s.Issues (here s) j ∧ s.pendingWrites (here s).ref s.nextId = false ∧ (here s).launch.replay = none ∧
      s.mayUpdate 0 0 0 (coreRank 0 0) = true) ∧
    (let s : State := { roomy (on j) with ops := [opOn .store], nextId := 1 }; s.Issues (here s) j ∧ (here s).path.released = false ∧
      s.pendingWrites (here s).ref s.nextId = true) ∧
    (let s := scal (roomy (on k)) 9 1; s.Issues (here s) k ∧ (s.barAt (here s) 0).test (here s).block.exits = ⟨0, 0, false, 0, 1, 0, 0⟩ ∧
      BitVec.ofNat 16 (s.scalarOperand (here s) (wide7 0x49) 2 32) = 1) ∧
    (let s := roomy (on k); s.Issues (here s) k ∧ ((s.barAt (here s) 0).test (here s).block.exits).phase ≠ 0 ∧ (here s).block.poisonPhases = [] ∧
      s.pendingLoads (here s).ref s.nextId = false) ∧
    (let s := path (roomy (on k)) fun p => { p with status := .waiting (.barrier 0 0) };
      (here s).path.status = .waiting (.barrier 0 0) ∧ (s.barAt (here s) 0).phase = 0 ∧ (here s).block.waitedBarriers = [0] ∧
      (here s).block.cluster = some 0 ∧ (s.barRead 0 0 0 0).data = false) ∧
    (let s := path (roomy (on k)) fun p => { p with status := .waiting (.barrier 0 9) };
      (here s).path.status = .waiting (.barrier 0 9) ∧ (s.barAt (here s) 0).phase ≠ 9) ∧
    (let s := (path (roomy (on k)) fun p => { p with status := .waiting (.barrier 0 0) }).barWrite 0 0 0 0 ⟨1, 0, true, 0, 0, 0, 0⟩;
      (here s).block.waitedBarriers = [0] ∧ (s.barRead 0 0 0 0).data = true) := by
  refine ⟨⟨goes ?_, ?_⟩, ⟨goes ?_, ?_⟩, ⟨goes ?_, ?_⟩, ⟨goes ?_, ?_⟩, ⟨goes ?_, ?_⟩, ⟨goes ?_, ?_⟩, ⟨goes ?_, ?_⟩, ?_⟩ <;> decide +kernel

/-! ### Witnesses: matrix words, engines, wells and system words -/

/-- A reservation of rows of 64 8-bit elements that the block holds. -/
def res (q n : Nat) : Reservation := ⟨0, q, BitVec.ofNat 32 (0xF308 + 16 * 2 ^ 22 * q), BitVec.ofNat 32 (n * 2 ^ 30), 0, 0, [], [], false, false⟩

/-- Tile 0, held by the block. -/
def tile0 : Tile := ⟨0, 0, 0, 0, [], false⟩

/-- The operands of a small `mma`. -/
def args0 : MmaArgs := ⟨0, 0, 1, 0, 0, 0, true, false, 2⟩

/-- A released operation of the path. -/
def mma0 (started : Option Nat) : MmaOp := ⟨0, 0, 0, 0, [⟨0, 0, args0⟩], [res 0 3, res 1 3], 0, 0, started, 64, 64⟩

/-- A state with reservations and matrix operations. -/
def matrix (i : Instr) (rs : List Reservation) (ms : List MmaOp) : State := { on i with reservations := rs, mmas := ms, tiles := [tile0], nextId := 1 }

/-- An engine record that delivers into reservation 0. -/
def feeding : EngineRec :=
  { State.reset.readRecord (here (on (.nop 0))) .copy 0 with words := [0, 0, 0, 0, 64, 0, BitVec.ofNat 32 (2 ^ 29 + 2 * 2 ^ 25)] }

theorem witness_Reservations : let i := Instr.gang 0 0x68; let j := Instr.opres 0 0 0x68; let k := Instr.opready 0 0; let n := Instr.oprel 0 0;
    let asks (s : State) : State := path s fun p => { p with status := .waiting (.opres 0 0xF308 0) };
    ((on i).Issues (here (on i)) i ∧ gangOk 0 (here (on i)).launch.header.groups 0 = true ∧ gangOk 0x80 (here (on i)).launch.header.groups 0 = false) ∧
    (let s := scal (on j) 40 0xF308; s.Issues (here s) j ∧ s.scalarOperand (here s) 0x68 0 64 = 0xF308 ∧ (res 0 1).ok = true ∧
      (s.heldReservation (here s) 0 0).isSome = false ∧ s.opresFree 0 (opresRequest (here s).ref 0 0xF308) = true) ∧
    ((on j).Issues (here (on j)) j ∧ ({ res 0 1 with w0 := 0 }).ok = false) ∧
    (let s : State := { scal (on j) 40 0xF308 with reservations := [res 0 1] }; s.Issues (here s) j ∧ (s.heldReservation (here s) 0 0).isSome = true) ∧
    (let s : State := { scal (on j) 40 0xF308 with reservations := [{ res 0 1 with block := 9 }] }; s.Issues (here s) j ∧
      (s.heldReservation (here s) 0 0).isSome = false ∧ s.opresFree 0 (opresRequest (here s).ref 0 0xF308) = false) ∧
    (let s := asks (on j); (here s).path.status = .waiting (.opres 0 0xF308 0) ∧ (here s).block.cluster.isSome = true ∧
      s.opresFree 0 (opresRequest (here s).ref 0 0xF308) = true) ∧
    (let s : State := { asks (on j) with reservations := [{ res 0 1 with block := 9 }] };
      (here s).path.status = .waiting (.opres 0 0xF308 0) ∧ s.opresFree 0 (opresRequest (here s).ref 0 0xF308) = false) ∧
    ((on k).Issues (here (on k)) k ∧ ((on k).heldReservation (here (on k)) 0 0).isSome = false) ∧
    (let s := matrix k [res 0 1] []; s.Issues (here s) k ∧ (s.heldReservation (here s) 0 0).isSome = true ∧
      s.records.any (fun e => e.targets 0 0) = false) ∧
    (let s : State := { matrix k [res 0 1] [] with records := [feeding] }; s.Issues (here s) k ∧ (s.heldReservation (here s) 0 0).isSome = true ∧
      s.records.any (fun e => e.targets 0 0) = true) ∧
    (let s := path (matrix k [res 0 1] []) fun p => { p with status := .waiting (.opready 0) };
      (here s).path.status = .waiting (.opready 0) ∧ s.records.any (fun e => e.targets 0 0) = false ∧ (s.heldReservation (here s) 0 0).isSome = true ∧
      (here s).launch.replay = none ∧ (here s).path.logged = none) ∧
    (let s : State := { path (matrix k [res 0 1] []) (fun p => { p with status := .waiting (.opready 0) }) with records := [feeding] };
      (here s).path.status = .waiting (.opready 0) ∧ s.records.any (fun e => e.targets 0 0) = true) ∧
    (let s := matrix n [res 0 2] []; s.Issues (here s) n ∧ (s.heldReservation (here s) 0 0).isSome = true ∧ s.mmaReads 0 0 = false) ∧
    (let s := matrix n [res 0 3] [mma0 none]; s.Issues (here s) n ∧ (s.heldReservation (here s) 0 0).isSome = true ∧ s.mmaReads 0 0 = true) ∧
    (let s := path (matrix n [res 0 2] []) fun p => { p with status := .waiting (.oprel 0) };
      (here s).path.status = .waiting (.oprel 0) ∧ s.mmaReads 0 0 = false ∧ (s.heldReservation (here s) 0 0).isSome = true) := by
  refine ⟨⟨goes ?_, ?_⟩, ⟨goes ?_, ?_⟩, ⟨goes ?_, ?_⟩, ⟨goes ?_, ?_⟩, ⟨goes ?_, ?_⟩, ?_, ?_, ⟨goes ?_, ?_⟩, ⟨goes ?_, ?_⟩, ⟨goes ?_, ?_⟩, ?_, ?_,
    ⟨goes ?_, ?_⟩, ⟨goes ?_, ?_⟩, ?_⟩ <;> decide +kernel

theorem witness_MatrixMultiply : let i := Instr.mma 0 0 0 1 2 1 0 0 0; let j := Instr.mwait 0 0;
    (let s := group (on i) fun z => { z with sb := [0, 0, 63, 0, 0, 0] }; s.Issues (here s) i ∧ 63 ≤ (here s).group.sbCount 2) ∧
    (let s := group (on i) fun z => { z with gang := 0x2000000000400 }; s.Issues (here s) i ∧ (here s).group.sbCount 2 < 63 ∧
      (∀ z ∈ (here s).block.groups, z.index ≠ (here s).ref.group → z.arrival = none) ∧ 4 ∈ (here s).group.partners) ∧
    (let s := matrix i [] []; s.Issues (here s) i ∧ (here s).group.partners = [(here s).ref.group] ∧
      s.releaseFault (here s) [⟨0, 0, args0⟩] = some (10, 7)) ∧
    (let s := matrix i [res 0 2, res 1 2] []; s.Issues (here s) i ∧ (here s).group.partners = [(here s).ref.group] ∧
      s.releaseFault (here s) [⟨0, 0, args0⟩] = none) ∧
    (let s : State := { matrix i [] [mma0 none] with cycle := 1 }; s.mmas.filter (fun m => m.core == 0) = [mma0 none] ∧ (mma0 none).released ≠ s.cycle ∧
      s.ops = [] ∧ s.coreHeld 0 = false ∧ s.underCeiling 0 (mma0 none).planOf = true) ∧
    (let s : State := { matrix i [] [mma0 none] with cycle := 1 };
      let t : State := { s with governor := { s.governor with heldAt := s.cycle, heldCores := [0] } };
      t.mmas.filter (fun m => m.core == 0) = [mma0 none] ∧ (mma0 none).released ≠ t.cycle ∧ t.ops = [] ∧ t.coreHeld 0 = true) ∧
    (let s := matrix i [] [mma0 none]; s.mmas.filter (fun m => m.core == 0) = [mma0 none] ∧ (mma0 none).released = s.cycle) ∧
    ((mma0 none).members = ⟨0, 0, args0⟩ :: [] ∧ (Spec.passes (mma0 none)).length = 1) ∧
    (let s := matrix i [] []; ∀ m ∈ s.mmas, m.core ≠ 0) ∧
    (let s := matrix i [] [mma0 (some 0)]; s.mmas.find? (fun m => m.core == 0 && m.started.isSome) = some (mma0 (some 0)) ∧
      s.Resident r0 (here s).block (here s).group ∧ s.cycle < 0 + (mma0 (some 0)).ran + 24) ∧
    (let s : State := { matrix i [] [mma0 (some 0)] with cycle := 1000 }; s.mmas.find? (fun m => m.core == 0 && m.started.isSome) = some (mma0 (some 0)) ∧
      s.Resident r0 (here s).block (here s).group ∧ 0 + (mma0 (some 0)).ran + 24 ≤ s.cycle) ∧
    ((on j).Issues (here (on j)) j ∧ (on j).mmaPending (here (on j)).ref 0 0 = false) ∧
    (let s := matrix j [] [mma0 none]; s.Issues (here s) j ∧ s.mmaPending (here s).ref 0 0 = true) := by
  refine ⟨⟨goes ?_, ?_⟩, ⟨goes ?_, ?_⟩, ⟨goes ?_, ?_⟩, ⟨goes ?_, ?_⟩, ?_, ?_, ?_, ?_, ?_, ⟨?_, housed ?_, ?_⟩, ⟨?_, housed ?_, ?_⟩,
    ⟨goes ?_, ?_⟩, goes ?_, ?_⟩ <;> decide +kernel

/-- The transfer of tile 0 at device address `s40` + 0. -/
def storing : Instr := .accSt 0 0 0x68 0x60 2 0 1

theorem witness_Tiles : let i := Instr.accAlloc 0 0x68; let j := Instr.accFree 0 0x68;
    let waits (w : Wait) (s : State) : State := path s fun p => { p with status := .waiting w };
    (let s := scal (on i) 40 3; s.Issues (here s) i ∧ s.allocFree (here s).ref 0 3 = true) ∧
    (let s : State := { scal (on i) 40 3 with tiles := [{ tile0 with block := 9 }] }; s.Issues (here s) i ∧ s.allocFree (here s).ref 0 3 = false) ∧
    (let s := waits (.accAlloc 3) (on i); (here s).path.status = .waiting (.accAlloc 3) ∧ (here s).block.cluster.isSome = true ∧
      s.allocFree (here s).ref 0 3 = true) ∧
    (let s := scal (on j) 40 3; s.Issues (here s) j ∧ s.mmaWrites 0 3 = false) ∧
    (let s := scal (matrix j [] [mma0 none]) 40 3; s.Issues (here s) j ∧ s.mmaWrites 0 3 = true) ∧
    (let s := group (on storing) fun z => { z with sb := [0, 0, 63, 0, 0, 0] }; s.Issues (here s) storing ∧ 63 ≤ (here s).group.sbCount 2) ∧
    ((on storing).Issues (here (on storing)) storing ∧ (on storing).tileOf 0 0 0 0 = none) ∧
    (let s := owner (scal (matrix storing [] []) 40 0x10000) fun o => { o with tlb := o.tlb ++ [⟨0x12000, 8192, 2 ^ 20, true, false⟩] };
      s.Issues (here s) storing ∧ s.tileOf 0 0 0 0 = some tile0 ∧
      s.transferPlace (here s) .accStore false 0x10000 16384 = .ok [(0, 0, 8192), (8192, 8192, 8192)]) ∧
    (let s : State := { owner (scal (matrix storing [] []) 40 0x10000) (fun o => { o with tlb := o.tlb ++ [⟨0x12000, 8192, 2 ^ 20, true, false⟩] }) with
        tiles := [{ tile0 with poison := true }] }; s.Issues (here s) storing ∧ s.tileOf 0 0 0 0 = some { tile0 with poison := true } ∧
      s.transferPlace (here s) .accStore false 0x10000 16384 = .ok [(0, 0, 8192), (8192, 8192, 8192)]) ∧
    (let s := launch (scal (on i) 40 3) fun x => { x with handler := some ⟨false, 1, 0, 0⟩ }; s.Issues (here s) i ∧ (here s).launch.handler.isSome = true ∧
      s.allocFree (here s).ref 0 0 = true) ∧
    (let o := { opOn .accLoad with lanes := [(0, 0, 16384, 0)] }; let s := flying o; s.ops.find? (fun p => p.id == o.id) = some o ∧
      s.Resident r0 (here s).block (here s).group ∧ s.opReady o = true ∧ (∀ e ∈ o.lanes, s.opPreds o e.2.1 e.2.2.1.toNat = []) ∧ o.logAt = none ∧
      o.lanes ≠ []) ∧
    (let o := { opOn .accLoad with lanes := [(0, 0, 16384, 0)], after := [0] }; (flying o).opReady o = false) := by
  refine ⟨⟨goes ?_, ?_⟩, ⟨goes ?_, ?_⟩, ?_, ⟨goes ?_, ?_⟩, ⟨goes ?_, ?_⟩, ⟨goes ?_, ?_⟩, ⟨goes ?_, ?_⟩, ⟨goes ?_, ?_⟩, ⟨goes ?_, ?_⟩,
    ⟨goes ?_, ?_⟩, ⟨?_, housed ?_, ?_⟩, ?_⟩ <;>
    decide +kernel

/-! ### Engines -/

/-- The path with records `ws` in its scratchpad at address 0, and one record to kick. -/
def kicking (i : Instr) (ws : List Word) : State :=
  scal ((roomy (on i)).spadWrite 0 0 0 0 (wordBytes ws)) 9 1

/-- A copy of 64 bytes from device address 0x10000 to 0x10100, its completion word at 0x80. -/
def copyWords : List Word := [0x10000, 0, 0x10100, 0, 64, 0, 0x20000000, 0x80, 7]

/-- A running engine record. -/
def runs (e : EngineRec) : State := { roomy (on (.nop 0)) with records := [e] }

/-- A record of the path. -/
def rcd (kind : RecKind) (ws : List Word) : EngineRec := { State.reset.readRecord (here (on (.nop 0))) kind 0 with words := ws }

/-- Two members, this one of rank 0. -/
def comm0 : Communicator := ⟨2, 0, [(1, 0), (2, 0)], 1⟩

/-- A state with communicator 0 and one collective in progress. -/
def joined (e : EngineRec) : State := owner (runs e) fun o => { o with comms := [(0, comm0)] }

/-- All-reduce of one word. -/
def collWords : List Word := [0x10000, 0, 0x10100, 0, 1, 0, 0x01600000, 0x80, 7]

/-- A peer's chunk of that collective. -/
def peer0 : PeerChunk := ⟨0, 0, 0, 1, 0, 0, 11, 1, 0, 0, [1, 2, 3, 4]⟩

/-- What the kick of one record at address 0 asks, with the record refused or not. -/
def kicks (s : State) (i : Instr) (kind : RecKind) (refused : Bool) : Bool :=
  let c := here s
  let u := s.fenceEffect c.ref 1 5 s.nextId
  let e := u.readRecord c kind 0
  check s i && c.block.cluster.isSome && s.scalarOperand c 0x68 0 32 == 0 && s.scalarOperand c (wide7 0x49) 2 32 == 1 && !s.pendingWrites c.ref s.nextId &&
    !spadRangeBad c 0 64 && c.launch.replay.isNone && ((if kind = .coll then u.collBad c e else u.recordBad c e) == refused)

/-- A record that runs, in its owner's turn, with its next chunk as `f` says. -/
def served? (s : State) (e : EngineRec) (f : Chunk → Bool) : Bool :=
  s.records.find? (fun x => x.id == e.id) == some e && (here s).block.cluster.isSome && s.engineRuns e && s.engineTurn e &&
    match s.nextChunk e [] with
    | .ok ch => f ch
    | .error _ => false

theorem witness_Engines : let i := Instr.cpyk 0 0x68 0x49; let j := Instr.dzk 0 0x68 0x49; let k := Instr.coll 0 0x68 0x49;
    (let s : State := { kicking i copyWords with ops := [opOn .store], nextId := 1 }; check s i = true ∧ (here s).path.released = false ∧
      s.pendingWrites (here s).ref s.nextId = true) ∧
    (check (on i) i = true ∧ spadRangeBad (here (on i)) 0 64 = true) ∧
    kicks (kicking i copyWords) i .copy false = true ∧ kicks (kicking i []) i .copy true = true ∧
    kicks (kicking j [0x10000, 0, 0x10100, 0, 64, 64, 0x20000000, 0x80, 7]) j .card false = true ∧
    kicks (owner (kicking k collWords) fun o => { o with comms := [(0, comm0)] }) k .coll false = true ∧ kicks (kicking k []) k .coll true = true ∧
    (let s := kicking i [0x10000, 0, 0, 0, 64, 0, 0x24000000, 0x80, 7]; kicks s i .copy true = true ∧ 2 ≤ (s.readRecord (here s) .copy 0).dstSp ∧
      s.heldReservation (here s) (s.readRecord (here s) .copy 0).dstCore (s.readRecord (here s) .copy 0).dstQ = none) ∧
    (let e := rcd .copy copyWords; let s := runs e; served? s e (fun ch => !ch.bad && ch.bytes.length == 64) = true ∧ e.dstSp = 0 ∧ e.force = false ∧
      e.toBarrier = false ∧ sound s = true ∧ e.chunk = none ∧ e.landed = [] ∧ s.transit = [] ∧ dieOf ((here s).block.homeCore e.core) < s.dies.length ∧
      e.toDevice = true ∧ (∀ k < 64, (s.owner 0).translate (e.dst + e.prog + k) true = .ok (0x100 + k)) ∧ s.endStatus e = none) ∧
    (let e := { rcd .copy copyWords with prog := 64 }; let s := runs e; s.records.find? (fun x => x.id == e.id) = some e ∧
      s.objectsIn 0 0 (e.w 7) 4 = [] ∧ s.endStatus e = some 1 ∧ e.halted = false ∧ e.toBarrier = false ∧ s.engineRuns e = false) ∧
    (let e := { rcd .copy [0x10000, 0, 0x10100, 0, 64, 0, 0x20040000, 0x80, 7] with prog := 64 }; let s := runs e;
      s.endStatus e = some 1 ∧ e.halted = false ∧ e.toBarrier = true ∧ e.addr + 48 ≤ e.w 7) ∧
    (let e := rcd .card [0x10000, 0, 0x10100, 0, 1, 64, 0x20010000, 0x80, 7]; served? (runs e) e (fun ch => ch.bad) = true) ∧
    (let e := rcd .copy [0x90000, 0, 0x10100, 0, 64, 0, 0x20000000, 0x80, 7]; let s := { served (runs e) with records := [e] };
      s.engineRuns e = true ∧ (s.launch? 0).any (fun x => match s.nextChunk e [] with
        | .error (.origin f) => s.route x f.kind f.detail (if f.access < 4 then f.addr else 2 ^ 64) (e.tag f) == .collect
        | _ => false) = true) ∧
    (let e := rcd .copy copyWords; let f := { e with id := 9, owner := 1 };
      let s := owner { runs e with records := [e, f] } fun o => { o with periodEngine := 2, record := { o.record with engw := 1 } };
      let t := s.updOwner 1 fun o => { o with valid := true, tlb := [⟨0x10000, 0, 8192, true, true⟩], record := { o.record with engw := 1 } }; t.engineTurn e = false ∧
      ∀ g ∈ t.records, g.kind = f.kind → g.owner ≠ f.owner → (t.owner f.owner).periodEngine * (t.owner g.owner).record.engw ≤
        (t.owner g.owner).periodEngine * (t.owner f.owner).record.engw) := by decide +kernel

theorem witness_Collectives : let e := rcd .coll collWords; let s := joined e;
    (s.records.find? (fun r => r.kind == .coll && r.owner == 0 && r.comm == 0 && r.index == 0) = some e ∧ e.status = none ∧ e.halted = false ∧
      (s.owner e.owner).migrating = none ∧ peer0.rank < (s.commOf e).members ∧ peer0.rank ≠ (s.commOf e).rank ∧ peer0.op = e.op ∧ peer0.red = e.red ∧
      peer0.ty = e.ty ∧ peer0.count = e.count ∧ peer0.root = e.root) ∧ ({ peer0 with ty := 4 } : PeerChunk).ty ≠ e.ty ∧
    (let f := { e with status := some 8 }; (joined f).records.find? (fun r => r.id == f.id) = some f ∧ (joined f).endStatus f = some 8 ∧ f.halted = false ∧
      (joined f).objectsIn 0 0 (f.w 7) 4 = [] ∧ (joined f).links.pcieUp = true ∧
      ({ joined f with links := { (joined f).links with masked := 0 } } : State).links.masked.getLsbD 2 = false) ∧
    (let t := group s fun z => { z with freed := true }; ({ t with records := [] } : State).blockOver (here t).block 0 = true ∧
      t.blockOver (here t).block 0 = false ∧ (t.reservations.map fun r => (r.core, r.q)).Nodup) := by decide +kernel

/-! ### Wells and system words -/

/-- A launch of well 0, of capacity 16, that holds `n` items from address 0x10000. -/
def welled (i : Instr) (n : Nat) : State :=
  owner (launch (on i) fun x => { x with header := { x.header with wells := 1 } }) fun o => { o with wells := [⟨0, 0x10000, 4, 0, BitVec.ofNat 32 n, []⟩] }

theorem witness_Wells : let i := Instr.wellAdd 0 8 0 2; let j := Instr.wellTake 0 8 0 2 0x60; let k := Instr.quiet 0 0x40;
    (let s := group (welled i 0) fun z => { z with sb := [0, 0, 63, 0, 0, 0] }; s.Issues (here s) i ∧ 63 ≤ (here s).group.sbCount 2) ∧
    ((on i).Issues (here (on i)) i ∧ (on i).launchWell (here (on i)) 0 = none) ∧
    (let s := lanes (welled i 0) (2 ^ 20 - 1); s.Issues (here s) i ∧ ∃ w, s.launchWell (here s) 0 = some w ∧ 2 ^ w.capl2 < (laneList (here s).path.selected).length) ∧
    (let s := path (welled i 0) fun p => { p with mask := 0 }; s.Issues (here s) i ∧ laneList (here s).path.selected = []) ∧
    (let s := lanes (welled i 16) 1; s.Issues (here s) i ∧ s.wellRoom 0 0 1 = false) ∧
    (let s := lanes (welled i 0) 1; s.Issues (here s) i ∧ s.wellRoom 0 0 1 = true ∧
      ∃ w, s.launchWell (here s) 0 = some w ∧ s.slotsOf (here s) .wellAdd w (w.tail + 0) 1 = .ok [0]) ∧
    (let s := lanes (welled j 2) 7; s.Issues (here s) j ∧ ∃ w, s.launchWell (here s) 0 = some w ∧
      min (laneList (here s).path.selected).length w.held = 2 ∧ w.taken = [] ∧ s.slotsOf (here s) .wellTake w w.head 2 = .ok [0, 8]) ∧
    (let s := owner (lanes (welled j 2) 7) fun o => { o with wells := o.wells.map fun x => { x with taken := [(0, ⟨0, 0, 1, 0⟩)] } };
      s.Issues (here s) j ∧ ∃ w, s.launchWell (here s) 0 = some w ∧
        ∃ e ∈ w.taken, e.1 = s.cycle ∧ e.2.launch = (here s).ref.launch ∧ e.2.block = (here s).ref.block ∧ (here s).ref.group < e.2.group) ∧
    (let s := path (lanes (welled i 16) 1) fun p => { p with status := .waiting (.wellRoom 0) }; (here s).path.status = .waiting (.wellRoom 0) ∧
      s.wellRoom 0 0 (laneCount (here s).path.selected) = false) ∧
    (let s := path (lanes (welled i 0) 1) fun p => { p with status := .waiting (.wellRoom 0) }; (here s).path.status = .waiting (.wellRoom 0) ∧
      s.wellRoom 0 0 (laneCount (here s).path.selected) = true) ∧
    (let o := { opOn .wellTake with fixed := [(1, 5)], dest := some (.oper 2), pair := true, aop := 32, lanes := [] }; let s := flying o;
      s.Resident r0 (here s).block (here s).group ∧ s.ops.find? (fun p => p.id == o.id) = some o ∧ s.opReady o = true ∧ s.transit = [] ∧ o.logAt = none ∧
      o.toFlags = 0 ∧ (here s).group.reaches = [] ∧ (here s).group.hazards = [] ∧ (o.fixed.map (·.1)).Nodup ∧ o.zeroed = 0) ∧
    (let o := { opOn .wellAdd with lanes := [(0, 0, 5, 0)], width := 8 }; let s := flying o; s.Resident r0 (here s).block (here s).group ∧
      s.ops.find? (fun p => p.id == o.id) = some o ∧ s.opReady o = true ∧ s.transit = [] ∧ o.logAt = none ∧ o.toFlags = 0 ∧ s.records = [] ∧
      (here s).group.reaches = [] ∧ (here s).group.hazards = [] ∧ o.owner < s.owners.length ∧ ∀ x ∈ s.launches, x.quietPaths = []) ∧
    (let o := { opOn .wellAdd with lanes := [(0, 0, 5, 0)], width := 8, after := [0] }; (flying o).opReady o = false) ∧
    ((on k).Issues (here (on k)) k) ∧
    (let s := launch (path (welled k 0) fun p => { p with status := .waiting (.quiet 0) }) fun x => { x with placed := 1 };
      ∃ x, s.launch? 0 = some x ∧ s.quiescentNow x = true ∧ x.quietPaths = [(here s).ref] ∧ (here s).path.status = .waiting (.quiet 0) ∧
        (here s).block.cluster.isSome = true ∧ (here s).path.logged = none ∧ (here s).group.freed = false ∧ (here s).group.reaches = [] ∧ (here s).group.hazards = []) ∧
    (let s := on k; ∃ x, s.launch? 0 = some x ∧ s.quiescentNow x = false) := by
  refine ⟨⟨goes ?_, ?_⟩, ⟨goes ?_, ?_⟩, ⟨goes ?_, _, rfl, ?_⟩, ⟨goes ?_, ?_⟩, ⟨goes ?_, ?_⟩, ⟨goes ?_, ?_, _, rfl, ?_⟩, ⟨goes ?_, _, rfl, ?_⟩,
    ⟨goes ?_, _, rfl, ?_⟩, ?_, ?_, ⟨housed ?_, ?_⟩, ⟨housed ?_, ?_⟩, ?_, goes ?_, ⟨_, rfl, ?_⟩, _, rfl, ?_⟩ <;> decide +kernel

/-- Lane 0 alone, with `v` in `o0`–`o7`. -/
def filling (i : Instr) (v : List Nat) : State :=
  group (lanes (on i) 1) fun z => { z with oper := Sparse.puts [] (v.zipIdx.map fun e => (96 * e.2, BitVec.ofNat 32 e.1)) }

theorem witness_SystemWords : let i := Instr.tlbw 0 0xC0; let j := Instr.tlbinv 0 0 0x68; let k := Instr.orig 0 9 0; let m := Instr.ctr 0 0x48 16;
    let n := Instr.wspill 0 0 0x68 0x49; let w := Instr.wspill 0 1 0x68 0x49;
    (let s := filling i [0, 0, 3]; s.Issues (here s) i ∧ (here s).launch.replay = none ∧ laneList (here s).path.selected = [0] ∧
      (s.fillWord (here s) i 0xC0 0).bad (s.owner 0) = true ∧ (s.fillWord (here s) i 0xC0 0).low % 4 = 3 ∧ (here s).path.uniform = false) ∧
    (let s := path (filling i [0, 0, 3]) fun p => { p with fetched := BitVec.ofNat 32 (2 ^ 17 + 1) :: p.fetched.drop 1 }; s.Issues (here s) i ∧ laneList (here s).path.selected = [0] ∧
      (s.fillWord (here s) i 0xC0 0).bad (s.owner 0) = true ∧ (s.fillWord (here s) i 0xC0 0).low % 4 = 3) ∧
    (let s := filling i [0x20000, 0, 0x4004]; s.Issues (here s) i ∧ laneList (here s).path.selected = [0] ∧
      (s.fillWord (here s) i 0xC0 0).low % 4 ≠ 3 ∧ inTier (s.fillWord (here s) i 0xC0 0).pa = true ∧
      s.refusedPage 0 (s.fillWord (here s) i 0xC0 0) = some 0x4000 ∧ (here s).path.uniform = false) ∧
    (let s := path (filling i [0x20000, 0, 0x4004]) fun p => { p with fetched := BitVec.ofNat 32 (2 ^ 17 + 1) :: p.fetched.drop 1 }; s.Issues (here s) i ∧
      laneList (here s).path.selected = [0] ∧ (s.fillWord (here s) i 0xC0 0).low % 4 ≠ 3 ∧ inTier (s.fillWord (here s) i 0xC0 0).pa = true ∧
      s.refusedPage 0 (s.fillWord (here s) i 0xC0 0) = some 0x4000 ∧ (here s).path.uniform = true ∧ (s.fillWord (here s) i 0xC0 0).bad (s.owner 0) = false) ∧
    (let s : State := { filling i [0x20000, 0, 0x4004] with ownership := [(2, 0x80000000)] }; s.Issues (here s) i ∧
      laneList (here s).path.selected = [0] ∧ (s.fillWord (here s) i 0xC0 0).bad (s.owner 0) = false ∧ (s.fillWord (here s) i 0xC0 0).size = 8192 ∧
      s.pageAccepted 0 0x4000 true = true) ∧
    ((on j).Issues (here (on j)) j) ∧ (on k).Issues (here (on k)) k ∧ (on m).Issues (here (on m)) m ∧ (on n).Issues (here (on n)) n ∧
    (on w).Issues (here (on w)) w ∧
    (let s := lanes (on k) 4; s.Issues (here s) k ∧ (here s).path.selected ≠ 0 ∧ isS 9 = false) ∧
    (let q := Instr.orig 0 0x68 0; let s := lanes (on q) 4; s.Issues (here s) q ∧ lowest (here s).path.selected = some 2) ∧
    (let s : State := owner { on m with cycle := 70 } fun o => { o with trail := [(5, [(16, 3)])], counters := [(16, 9)] };
      s.Issues (here s) m ∧ ((s.owner 0).trail.filter fun e => decide (e.1 + 64 ≤ s.cycle)).getLast? = some (5, [(16, 3)])) ∧
    (let s := owner (on n) fun o => { o with capHeld := true }; s.Issues (here s) n ∧ s.pumpHeld (here s).launch = true) ∧
    (let s := group (roomy (on n)) fun z => { z with lines := [⟨0, true, false⟩] }; s.Issues (here s) n ∧ sound s = true ∧
      s.pumpHeld (here s).launch = false ∧ dieOf (here s).group.core < s.dies.length ∧ s.scalarOperand (here s) (wide7 0x49) 2 32 = 0 ∧
      (here s).group.unseen = [] ∧ ∀ j < 3072, s.imagePa (here s).launch (here s).block ((here s).launch.header.ctxOf (here s).block.slot (here s).group.index + lineOff 0 + j) =
        some ((here s).launch.header.ctxOf (here s).block.slot (here s).group.index + lineOff 0 + 2 ^ 20 + j)) := by
  refine ⟨⟨goes ?_, ?_⟩, ⟨goes ?_, ?_⟩, ⟨goes ?_, ?_⟩, ⟨goes ?_, ?_⟩, ⟨goes ?_, ?_⟩, goes ?_, goes ?_, goes ?_, goes ?_, goes ?_, ⟨goes ?_, ?_⟩, ⟨goes ?_, ?_⟩,
    ⟨goes ?_, ?_⟩, ⟨goes ?_, ?_⟩, goes ?_, ?_⟩ <;> decide +kernel

theorem witness_SystemWords_ctr : let a := Instr.ctr 0 0x48 0; let b := Instr.ctr 0 0x48 3; let d := Instr.ctr 0 0x48 15; let e := Instr.ctr 0 0x48 30;
    let f := Instr.ctr 0 0x48 48; let g := Instr.ctr 0 0x48 51;
    (on a).Issues (here (on a)) a ∧ (on b).Issues (here (on b)) b ∧ (on d).Issues (here (on d)) d ∧ (on e).Issues (here (on e)) e ∧
    (on f).Issues (here (on f)) f ∧ (on g).Issues (here (on g)) g := by
  refine ⟨goes ?_, goes ?_, goes ?_, goes ?_, goes ?_, goes ?_⟩ <;> decide +kernel

/-! ### Witnesses: lines, groups, handler groups and launches -/

/-- A state whose launch is changed, with owner 0 set up. -/
def launched (f : Launch → Launch) : State := launch (on (.nop 0)) f

/-- The launch of the path. -/
def it (s : State) : Launch := (here s).launch

theorem witness_PumpAndGroups :
    (let s := group (roomy (on (.nop 0))) fun z => { z with lines := [⟨0, true, false⟩], spilled := [1] };
      s.launch? 0 = some (it s) ∧ s.block? 0 0 = some (here s).block ∧ s.group? 0 0 0 = some (here s).group ∧ (here s).block.cluster.isSome = true ∧
      (here s).group.freed = false ∧ (∀ e ∈ (here s).group.lines, e.n ≠ 1) ∧ 1 < (it s).header.stack ∧ s.pumpHeld (it s) = false ∧
      (here s).group.lines.length < (here s).group.allot ∧ s.linesHeld 0 < Config.storeLines ∧ (here s).group.inWindow 1 = true ∧
      (∃ e ∈ (here s).group.lines, e.n = 0 ∧ e.dirty = true) ∧ (here s).group.done = false ∧ sound s = true ∧ dieOf (here s).group.core < s.dies.length) ∧
    (let s := path (on (.nop 0)) fun p => { p with status := .waiting (.counter 2) };
      (here s).path.status = .waiting (.counter 2) ∧ (here s).group.sbCount 2 < 63) ∧
    (let s := path (on (.nop 0)) fun p => { p with status := .waiting (.pump [1]), served := [1] };
      (here s).path.status = .waiting (.pump [1]) ∧ ∀ n ∈ [1], n ∈ (here s).path.served) ∧
    (let s := block (on (.nop 0)) fun y => { y with cluster := none }; (s.ctx? r0).any (fun c => c.block.cluster.isNone) = true) ∧
    (let s := path (on (.nop 0)) fun p => { p with status := .waiting (.drain [0]) };
      (here s).path.status = .waiting (.drain [0]) ∧ ¬∃ o ∈ s.ops, o.id ∈ [0]) ∧
    (let s := path (on (.nop 0)) fun p => { p with status := .waiting (.mwait 0) };
      (here s).path.status = .waiting (.mwait 0) ∧ s.mmaPending (here s).ref 0 0 = false) ∧
    (let s := path (on (.nop 0)) fun p => { p with status := .waiting (.accFree 1) };
      (here s).path.status = .waiting (.accFree 1) ∧ s.mmaWrites 0 1 = false) ∧
    (let s := group (path (on (.nop 0)) fun p => { p with status := .waiting (.latch args0) }) fun z => { z with gang := 0x2000000000400 };
      (here s).path.status = .waiting (.latch args0) ∧ (here s).block.orphan (here s).group (here s).path = true) ∧
    (let s := path (on (.nop 0)) fun p => { p with status := .waiting .clause };
      (here s).path.status = .waiting .clause ∧ (here s).group.waitClear (here s).path.header = true) ∧
    (let s := group (on (.nop 0)) fun z => { z with done := true };
      (here s).group.done = true ∧ (here s).group.freed = false ∧ (∀ n ∈ (here s).group.sb, n = 0) ∧ (here s).block.violation = none ∧
      (∀ e ∈ (here s).block.groups, ∀ p ∈ e.paths, (here s).block.orphan e p = false) ∧ s.dies.length = 5 ∧
      let w : Transit := ⟨0, 64, [1, 2], [0], [], 0, 0, 0, 0, 0, [], false, 0, []⟩
      ({ s with transit := [w] } : State).transit = [w] ∧ ofGroup r0 w = true ∧ w.atomic = false) := by
  decide +kernel

theorem witness_PumpAndGroups_capped :
    (let s := group (roomy (on (.nop 0))) fun z => { z with lines := [⟨0, true, false⟩, ⟨1, false, false⟩], depth := 1 };
      (here s).group.allot < (here s).group.lines.length + 8 ∧ (∃ e ∈ (here s).group.lines, e.n = 0 ∧ e.dirty = true) ∧
      0 < (here s).group.depth ∧ (∀ e ∈ (here s).group.lines, e.dirty = true → 0 ≤ e.n) ∧ s.pumpHeld (it s) = false ∧ (here s).group.done = false ∧
      (here s).group.unseen = [] ∧ s.transit = [] ∧ sound s = true ∧ (s.imagePa (it s) (here s).block ((it s).header.ctxOf 0 0 + lineOff 0)).isSome = true) ∧
    (let s := capped (group (roomy (on (.nop 0))) fun z => { z with lines := [⟨0, true, false⟩], spilled := [1] }); s.pumpHeld (it s) = true ∧
      1 ∈ (here s).group.spilled ∧ ∀ e ∈ (here s).group.lines, e.n ≠ 1) ∧
    (let s := path (on (.nop 0)) fun p => { p with status := .waiting (.wspill 0 1 []) };
      (here s).path.status = .waiting (.wspill 0 1 []) ∧ s.pumpHeld (here s).launch = false ∧ (capped s).pumpHeld (here (capped s)).launch = true) := by decide +kernel

/-- A handler header at 0x100100: image 0x100200, stack 8, one slot, areas in the reserve's first page. -/
def handlerWords : List Word :=
  [0x100200, 0, 0, 0, 0, 0, 1, 8, 0, 0, 1, 0, 0x100000, 0, 0x100000, 0, 1] ++ List.replicate 47 0

/-- One origin waits in the collector of KIND 3, depth 1. -/
def collected (ws : List Word) : State :=
  let s := owner (served (on (.nop 0))) fun o => { o with
    record := { o.record with clusters := 1, rsvlen := 1024 }
    tlb := ⟨0x100000, 0x4000000, 2 ^ 23, true, true⟩ :: o.tlb };
  let s := (s.collect 0 3 1 [] (.lane r0 0) false 1 none).writeAll 0x4000200 (wordBytes (1 :: encode (.exit 0)))
  { s.writeAll 0x4000100 (wordBytes ws) with cycle := 200 }

theorem witness_HandlerLaunch : let s := collected handlerWords; let gs := (s.collector 0 false 1).take 96;
    s.served 0 = true ∧ gs.length = 1 ∧ s.collectorDue gs = true ∧ s.handlerOf 0 0 = .ok 0x100100 ∧
    ((s.owner 0).slotsOf 1).find? (fun n => !((s.handlersOf 0).any fun e => e.2.slot == n)) = some 0 ∧
    s.reserveRead 0 0x100100 256 = .ok (wordBytes handlerWords) ∧ (s.owner 0).handlerBad 0x100100 (Header.ofWords handlerWords) 0 = false ∧
    s.handlerCore 0 1 (Header.ofWords handlerWords).spadKiB gs = some 0 ∧
    s.stopOf (s.collector 0 false 1) = none ∧ s.imageInside 0 (Header.ofWords handlerWords) = true ∧ (∀ q ∈ s.launches, q.seq ≠ s.nextSeq) ∧
    (let t : State := { s with cycle := 0 }; t.collectorDue ((t.collector 0 false 1).take 96) = false) ∧ s.collector 0 true 1 = [] ∧
    (let t := owner s fun o => { o with stopped := true }; t.served 0 = false) ∧
    (let t := s.writeAll 0x4000008 (leBytes 8 0); t.handlerOf 0 0 = .ok 0) ∧
    (let t := owner s fun o => { o with tlb := [] }; (t.stopOf (t.collector 0 false 1)).isSome = true ∧ t.served 0 = true) ∧
    (let t := s.writeAll 0x4000008 (leBytes 8 0x100104); t.handlerOf 0 0 = .ok 0x100104 ∧ 0x100104 % 64 ≠ 0) ∧
    (s.owner 0).withinReserve 0x100100 256 = true ∧ (s.owner 0).withinReserve (0x100000 + 2 ^ 23) 256 = false ∧
    (let t := collected []; t.reserveRead 0 0x100100 256 = .ok (List.replicate 256 0) ∧
      (t.owner 0).handlerBad 0x100100 (Header.ofWords (List.replicate 64 0)) 0 = true) ∧
    (let t := owner s fun o => { o with tlb := [] }; t.handlerOf 0 0 = .error (1, 0, 0x100008)) := by decide +kernel

/-- Queue 0 of owner 0, of 16 entries. -/
def queue0 (head tail : Word) (bound : Bool) : Queue := ⟨0, 0, 0x10000, 4, 0, tail, head, bound, 0, 0, [], none⟩

/-- A state with the given queues. -/
def queues (qs : List Queue) : State := { on (.nop 0) with queues := qs }

theorem witness_HostQueues :
    (let s := queues [queue0 2 5 false]; let u := s.freeSlots; u.queue? 0 = some (queue0 2 5 false) ∧ u.links.pcieUp = true ∧ (u.owner 0).valid = true ∧
      (queue0 2 5 false).upTo 7 ≤ 2 ^ 4 ∧ 2 ^ 4 < (queue0 2 5 false).upTo 1 ∧ 0 ∉ (u.owner 0).reportedQueues ∧ 0 < u.owners.length ∧
      (s.queues.map (·.n)).Nodup ∧ u.queues.countP (·.bound) < Config.queueSlots ∧ u.nextOwner.bind u.nextQueue = some (queue0 2 5 false)) ∧
    (let u := (owner (queues [queue0 2 5 false]) fun o => { o with reportedQueues := [0] }).freeSlots; 0 ∈ (u.owner 0).reportedQueues) ∧
    (let u := ({ queues [queue0 2 5 false] with links := { Links.start with pcieUp := false } } : State).freeSlots; u.links.pcieUp = false) ∧
    (∀ x ∈ (queues [queue0 2 5 false]).queues, notifyAt x.n ≠ 0x100004) ∧
    (let s := queues [queue0 5 5 true]; s.slotFrees (queue0 5 5 true) = true ∧ s.freeSlots.nextOwner.bind s.freeSlots.nextQueue = none) ∧
    (let s := owner (queues [queue0 2 5 false]) fun o => { o with record := { o.record with issuew := 1 } };
      (∀ p < 64, s.served p = true → 0 < (s.owner p).record.issuew) ∧ s.nextOwner = some 0 ∧ s.nextQueue 0 = some (queue0 2 5 false)) := by decide +kernel

/-- A header that R268 admits: its code at 0x10000, one group of one item, stack 8. -/
def headerWords : List Word :=
  [0x10000, 0, 0, 0, 7, 0x10, 2 ^ 18 + 1, 8, 1, 0, 1, 0, 0, 0, 0, 0, 1] ++ List.replicate 47 0

/-- Queue 0's entry at HEAD names a header at 0x10400. -/
def queued (addr : Word) (ws : List Word) : State :=
  owner { ((on (.nop 0)).writeAll 0x200 (wordBytes [addr, 0])).writeAll 0x400 (wordBytes ws) with
    queues := [{ queue0 0 1 true with ring := 0x10200 }] } fun o => { o with record := { o.record with clusters := 1 } }

theorem witness_LaunchStages :
    (let s := queued 0x10400 headerWords; (s.queue? 0).any (fun x => x.bound && x.head != x.tail && s.served x.owner && x.ring == 0x10200) = true ∧
      s.freeSlots.queue? 0 = s.queue? 0 ∧ (∀ g ∈ s.origins, g.source ≠ .headerRead 0) ∧ s.stageWords 0 0x10200 2 = .ok [0x10400, 0] ∧
      s.stageWords 0 0x10400 64 = .ok headerWords ∧ (∀ y ∈ s.launches, y.seq ≠ s.nextSeq) ∧ s.headerDetail 0 (Header.ofWords headerWords) = none) ∧
    (let s := queued 0x10404 headerWords; s.stageWords 0 0x10200 2 = .ok [0x10404, 0] ∧ 0x10404 % 64 ≠ 0) ∧
    (let s := launched fun x => { x with stage := .dependence }; s.launch? 0 = some (it s) ∧ (it s).stage = .dependence ∧ s.served 0 = true ∧
      (∀ g ∈ s.origins, g.source ≠ .launchRead 0) ∧ (it s).wellsHeld = false ∧ s.newWells (it s) = .ok [] ∧ (it s).header.depaddr = 0) ∧
    (let s := launched fun x => { x with stage := .dependence, wellsHeld := true }; (it s).wellsHeld = true) ∧
    (let s := launched fun x => { x with stage := .dependence, header := { x.header with depaddr := 0x10800 } };
      s.stageWords 0 0x10800 1 = .ok [0] ∧ (it s).header.depval.toNat ≤ (0 : Word).toNat) ∧
    (let s := queued 0x10400 (headerWords.set 16 0); (s.headerDetail 0 (Header.ofWords (headerWords.set 16 0))).isSome = true) ∧
    (let s := queues [queue0 0 1 false]; (s.freeSlots.queue? 0).any (fun x => !x.bound) = true) ∧
    (let s := launched fun x => { x with stage := .dependence, header := { x.header with depaddr := 0x10800, depval := 3 } };
      s.newWells (it s) = .ok [] ∧ s.stageWords 0 0x10800 1 = .ok [0] ∧ (0 : Word).toNat < (it s).header.depval.toNat) ∧
    (let s := owner (launched fun x => { x with stage := .dependence, header := { x.header with wells := 1 } }) fun o =>
        { o with record := { o.record with welltab := 0x10800 } };
      s.newWells (it s) = .error .broken) := by
  decide +kernel

/-- The launch in stage 4, its code a clause of one `exit`; its owner has a specialisation cache. -/
def coding : State :=
  owner ((launched fun x => { x with stage := .specialise, header := Header.ofWords headerWords }).writeAll 0 (wordBytes (1 :: encode (.exit 0)))) fun o =>
    { o with record := { o.record with specva := 2 ^ 32, specmax := 1 } }

theorem witness_Specialise : let s := coding; (it s).stage = .specialise ∧ s.served 0 = true ∧ (s.owner 0).throttled = false ∧
    (∀ g ∈ s.origins, g.source ≠ .launchRead 0) ∧ (s.owner 0).cache.isEmpty = true ∧
    (match s.reach 0 262144 [(it s).header.entries.1, (it s).header.entries.2] [] with
      | .ok cs => decide (clauseWords cs ≤ 65536) && (specialise (it s).header cs (loopCount cs)).any fun r => match (s.owner 0).place (12 * r.code.length) with
        | some a => decide (∀ j < r.bytes.length, (owner s fun o => { o with tlb := [⟨2 ^ 32, 2 ^ 20, 2 ^ 20, true, false⟩] }).vaWrite 0 (a + j) =
            some (2 ^ 20 + (a - 2 ^ 32) + j))
        | none => false
      | .error _ => false) = true ∧
    (let t := owner s fun o => { o with cache := [⟨(it s).header.key, 2 ^ 32, 2, 0, 0, 0, 0⟩] };
      ((t.owner 0).cache.find? fun e => e.key == (it t).header.key).isSome = true) := by decide +kernel

/-! ### Witnesses: blocks, governor, services, host and firmware -/

/-- The launch before its block is admitted. -/
def ramping (f : Header → Header) : State :=
  owner (launched fun x => { x with stage := .ramp, placed := 0, blocks := [], stamps := List.replicate 8 0, header := f (Header.ofWords headerWords) }) fun o =>
    { o with record := { o.record with clusters := 1 }, tlb := [⟨0, 0x4000000, 2 ^ 25, true, false⟩] }

/-- The launch with its block admitted and not placed. -/
def waiting (f : Header → Header) : State :=
  launch (ramping f) fun x => { x with stage := .placing, blocks := [{ Block.fresh 0 with admitted := some 0 }] }

/-- A block that was pre-empted. -/
def awayBlock : Block := { Block.fresh 0 with admitted := some 0, preempted := true, groups := [placedGroup] }

/-- The launch, and its block, of a small state, as a test. -/
def its (s : State) (f : Launch → Bool) : Bool := (s.launch? 0).any f

theorem witness_BlockAdmit :
    (let s := ramping id; s.nextAdmit = some (0, 0) ∧ its s (fun x => !x.header.pinned &&
      decide (s.governor.admitted + s.expectedRises + x.step ≤ 100 * s.governor.limit)) = true) ∧
    (let s := { ramping id with governor := { Governor.start with admitted := 15000 } }; s.nextAdmit = some (0, 0) ∧
      its s (fun x => decide (100 * s.governor.limit < s.governor.admitted + s.expectedRises + x.step)) = true) ∧
    (let s := ramping fun h => { h with pinned := true }; its s (fun x => x.header.pinned && x.blocks.isEmpty && s.pinnedWaits x &&
      decide (s.governor.admittedPinned + x.step * x.header.blocks ≤ 100 * s.governor.limit)) = true) ∧
    (let s := { ramping (fun h => { h with pinned := true }) with governor := { Governor.start with admittedPinned := 15000 } };
      its s (fun x => s.pinnedWaits x && decide (100 * s.governor.limit < s.governor.admittedPinned + x.step * x.header.blocks)) = true) ∧
    (let s := { ramping (fun h => { h with pinned := true }) with governor := { Governor.start with slotStart := 0 } };
      its (launch s fun x => { x with stamps := List.replicate 8 1 }) (fun x => x.header.pinned && x.blocks.isEmpty && !s.pinnedWaits x) = true) := by
  decide +kernel

theorem witness_BlockPlace :
    (let s := waiting id; its s (fun x => (s.lookupNext x).isNone && ((s.inStages.find? fun u => s.canPlace u) == some x) &&
      !x.header.coresident && (s.headBlock x).any (fun y => !s.fitsNoMore x y && y.unplaced && s.roomFor x y == some 0) && x.freeSlot == some 0 &&
      (match s.lookupImages x 0 with | .ok _ => true | .error _ => false)) = true) ∧
    (let s := waiting fun h => { h with coresident := true }; its s (fun x => (s.lookupNext x).isNone &&
      ((s.inStages.find? fun u => s.canPlace u) == some x) && x.header.coresident && x.blocks.all fun y => !s.fitsNoMore x y) = true) ∧
    (let s := launch (waiting id) fun x => { x with blocks := [awayBlock] }; its s (fun x => (s.lookupNext x).isNone &&
      ((s.inStages.find? fun u => s.canPlace u) == some x) && (s.headBlock x == some awayBlock) && !s.fitsNoMore x awayBlock && !awayBlock.unplaced &&
      s.roomFor x awayBlock == some 0) = true ∧ s.poison = [] ∧ ∀ z ∈ awayBlock.groups, ∀ r ∈ z.lines, r.poison = false) ∧
    (let s := owner (waiting id) fun o => { o with tlb := [] };
      its s (fun x => (s.lookupNext x).any (fun e => e.1 == 0 && e.2.2 == 1) && x.blocks.all fun y => !s.fitsNoMore x y) = true) ∧
    (let s := owner (waiting id) fun o => { o with record := { o.record with clusters := 0 } };
      its s (fun x => x.blocks.any fun y => s.fitsNoMore x y) = true) ∧
    (let s := waiting id; let t : State := { s with launches := s.launches ++ [{ it (on (.nop 0)) with seq := 7, stage := .placing, stamps := List.replicate 8 9 }] };
      (t.launch? 7).any (fun x => (t.lookupNext x).isNone && (t.inStages.find? fun u => t.canPlace u).all fun u => u.seq != x.seq) = true) := by
  decide +kernel

/-- A launch that is over, with a completion word at `a`. -/
def finished (a : Nat) : State :=
  launch (block (on (.nop 0)) fun y => { y with ended := true, cluster := none }) fun x => { x with placed := 1, header := { x.header with doneaddr := a } }

theorem witness_LaunchComplete :
    (let s := finished 0x10800; its s (fun x => x.stage == .placing && x.handler.isNone && x.over && x.header.doneaddr == 0x10800) = true ∧
      s.served 0 = true ∧ s.links.pcieUp = true ∧ ({ s with links := { s.links with masked := 0 } } : State).links.masked.getLsbD 0 = false ∧
      ∀ j < 4, s.vaWrite 0 (0x10800 + j) = some (0x800 + j)) ∧
    (its (finished 0) (fun x => x.over && x.header.doneaddr == 0) = true) ∧
    (its (on (.nop 0)) (fun x => !x.over) = true) ∧
    (let s := finished 0x90000; s.vaWrite 0 0x90000 = none) := by decide +kernel

/-- The path's latest word is a two-cycle tile word whose second tile issues on a core in this cycle. -/
def tiling (endAt : Nat) : State :=
  { path (on (.nop 0)) fun p => { p with pipeEnd := endAt, pipeTwo := true, pipeWeight := 90, pipePlan := 90, nextIssue := endAt } with
    cycle := 8
    governor := { Governor.start with estimate := 0, previous := 0 } }

theorem witness_PowerGovernor :
    (let s : State := { ramping (fun h => { h with pinned := true }) with cycle := 3000 }; s.governor.slotStart + 3000 ≤ s.cycle ∧
      its s (fun x => x.header.pinned && x.handler.isNone && x.stage == .ramp && x.blocks.isEmpty && s.served x.owner &&
        decide (x.stamps.getD 3 0 ≤ s.governor.slotStart + 3000) && decide (0 < x.header.blocks)) = true) ∧
    ((on (.nop 0)).cycle < (on (.nop 0)).governor.slotStart + 3000) ∧
    (let s := tiling 9; s.governor.heldAt ≠ s.cycle ∧ s.governor.ceiling < (s.fixedDraw + (s.busyCores.map s.corePlan).sum) * 3000 ∧
      s.coresToHold = [0] ∧ (here s).path.beatDue s.cycle = true ∧ (s.groupsOn 0).length = 1 ∧ (here s).launch.owner < s.owners.length) ∧
    (let s := tiling 8; (here s).path.beatDue s.cycle = false) ∧
    (let s : State := { tiling 9 with governor := Governor.start }; s.coresToHold = []) ∧
    (let s : State := { tiling 9 with governor := { Governor.start with heldAt := 8 } }; s.governor.heldAt = s.cycle) ∧
    (let s := path (on (.nop 0)) fun p => { p with status := .waiting .handler }; s.governor.floor ≤ s.draw * 3000) ∧
    (let s : State := { group (path (on (.nop 0)) fun p => { p with status := .waiting .handler }) fun z => { z with lastClass := 3 } with
        cycle := 8
        governor := { Governor.start with estimate := 50000 * 3000, limit := 40 } };
      s.governor.ballastAt ≠ s.cycle ∧ s.draw * 3000 < s.governor.floor ∧ s.ballastBeats ≠ [] ∧ s.coreHeld 0 = false) := by decide +kernel

/-- The youngest launch's block holds core 0 and is faulted, and an older one waits for its lines. -/
def stuck : State :=
  let s := waiting id;
  { s with launches := s.launches ++ [{ it (on (.nop 0)) with
      seq := 7
      stamps := List.replicate 8 1
      blocks := [{ Block.fresh 0 with cluster := some 0, faulted := true, groups := [{ placedGroup with allot := 256, lines := [] }] }] }] }

/-- A block of owner 1, throttled for long, holds core 0, and a launch of owner 0 waits for its lines. -/
def squeezed : State :=
  let s := waiting id
  { s.updOwner 1 (fun o => { o with valid := true, throttled := true, throttledFor := 60000 }) with launches := s.launches ++ [{ it (on (.nop 0)) with
      seq := 7
      owner := 1
      stamps := List.replicate 8 1
      blocks := [{ Block.fresh 0 with cluster := some 0, groups := [{ placedGroup with allot := 256, lines := [] }] }] }] }

/-- The oldest request of core 0, which has waited for tile 0 through 3000 cycles; block 0 of the younger launch 7 holds it. -/
def contended : State :=
  let s := path (on (.nop 0)) fun p => { p with status := .waiting (.accAlloc 1) }
  { s with
    tiles := [⟨0, 0, 7, 0, [], false⟩]
    contention := [(0, r0, 3000)]
    launches := s.launches ++ [{ it (on (.nop 0)) with
      seq := 7
      stamps := List.replicate 8 1
      blocks := [{ Block.fresh 0 with cluster := some 0, groups := [placedGroup] }] }] }

theorem witness_Preemption :
    (let s := owner (on (.nop 0)) fun o => { o with stopped := true }; s.launch? 0 = some (it s) ∧ s.block? 0 0 = some (here s).block ∧
      (here s).block.cluster.isSome = true ∧ (it s).handler = none ∧ (s.owner (it s).owner).stopped = true ∧ (it s).header.coresident = false) ∧
    (on (.nop 0)).firmware.inRepair = none ∧
    (stuck.preemptPlan = some (.faulted, [(7, 0)]) ∧ stuck.padPlan = none) ∧ (stuck.block? 7 0).any (fun y => y.cluster.isSome) = true ∧
    (squeezed.preemptPlan = some (.throttling, [(7, 0)]) ∧ (squeezed.block? 7 0).any (fun y => y.cluster.isSome) = true) ∧
    (on (.nop 0)).preemptPlan = none ∧ (on (.nop 0)).longOldest 0 = none ∧
    (contended.longOldest 0 = some ⟨r0, none, 0, 0, 1⟩ ∧ (contended.launch? 0).any (fun w => (contended.launch? 7).any fun x => x.handler.isNone &&
      !x.header.pinned && !x.header.coresident && lexLt (w.ageKey ++ [0]) (x.ageKey ++ [0]) && x.blocks.all fun y => y.holds 0) = true ∧
      contended.holdsFor 0 ⟨r0, none, 0, 0, 1⟩ 7 0 = true) ∧
    (let s := block (path (on (.nop 0)) fun p => { p with status := .waiting .handler }) fun y => { y with stall := 60000 };
      60000 ≤ (here s).block.stall ∧ s.stuck (it s) (here s).block = true) ∧ (here (on (.nop 0))).block.stall < 60000 := by
  decide +kernel

theorem witness_CapsAndWatchdog : (on (.nop 0)).cycle < (0 + 1) * 300000 ∧ ({ on (.nop 0) with cycle := 300000 } : State).period = 0 ∧
    0 < (on (.nop 0)).owners.length ∧
    (let s := launch (owner (on (.nop 0)) fun o => { o with record := { o.record with wdog := 24 } }) fun x => { x with watch := 2 ^ 24 };
      (s.owner 0).record.wdog = 24 ∧ 2 ^ 24 ≤ (it s).watch ∧ (it s).handler = none ∧ (it s).stage ≠ .refused ∧ (it s).stage ≠ .complete ∧
      (it s).owner < 64) := by decide +kernel

/-- Owner 0 has a sample ring of 2 records at 0x10800. -/
def sampled (rd : Word) : State :=
  owner ((on (.nop 0)).writeAll 0x800 (wordBytes [2, rd])) fun o => { o with
    controls := { o.controls with speriod := 1, sring := 0x10800, srsize := 1 }
    record := { o.record with qblocks := 1 } }

theorem witness_HostAccess :
    (let s := sampled 0; (s.owner 0).controls.speriod ≠ 0 ∧ s.cycle % 256 = 0 ∧ (s.samplePath 0 0 0).isSome = true ∧ s.wordVirt 0 0x10800 = some 2 ∧
      s.wordVirt 0 0x10804 = some 0) ∧ (let s := sampled 1; s.wordVirt 0 0x10804 = some 1 ∧ ((2 : Word) - 1).toNat ≠ 2 ^ 1 ∧
        (∀ j < 32, s.vaWrite 0 (0x10800 + 64 + j) = some (0x840 + j)) ∧ ∀ j < 4, s.vaWrite 0 (0x10800 + j) = some (0x800 + j)) ∧
    ((sampled 0).pageOwner 0 = some 0 ∧ (sampled 0).links.pcieUp = true ∧ ((sampled 0).owner 0).pending.sel.length = 4 ∧
      0 < (sampled 0).owners.length) ∧
    ((queues [queue0 2 5 false]).queue? 0 = some (queue0 2 5 false) ∧ (queues [queue0 2 5 false]).links.pcieUp = true) ∧
    (let s := sampled 0; s.windowOpen 0 0 4 = true ∧ (∀ i < 4, s.portUp ((s.owner 0).record.winbase + i) = true ∧
      s.poisoned ((s.owner 0).record.winbase + i) 1 = false) ∧ (s.owner 0).record.rsvlen = 0 ∧ s.windowOpen 0 (2 ^ 28) 4 = false ∧
      s.holdsPage 0 0 = false ∧ ({ s with ownership := [(0, 0x80000000)] } : State).holdsPage 0 0 = true) := by decide +kernel

theorem witness_LinksAndErrors :
    (let s : State := { on (.nop 0) with links := { Links.start with retries := List.replicate 64 (1, 2, 0) } }; 64 ≤ s.laneRetries 1 2 ∧
      s.firmware.mayRepair = true ∧ ∀ e ∈ s.links.sparedLanes, e.1 ≠ 1) ∧ (on (.nop 0)).laneRetries 1 2 < 64 ∧
    ({ Firmware.start with inRepair := some 351 } : Firmware).mayRepair = false ∧ (on (.nop 0)).firmware.portsLowered = false ∧
    ({ Firmware.start with portsLowered := true } : Firmware).portsLowered = true ∧
    (let s : State := { joined (rcd .coll collWords) with cycle := 150000, links := { Links.start with titeyx := 0 } };
      (s.owner 0).comms.find? (fun e => e.1 == 0) = some (0, comm0) ∧ 1 < comm0.members ∧ 1 ≠ comm0.rank ∧ 0 + 150000 ≤ s.cycle) ∧
    (let s : State := { on (.nop 0) with cycle := 3000000 }; 0 + 3000000 ≤ s.cycle ∧ s.firmware.mayRepair = true) ∧ ((1, 0) ∈ comm0.peers) ∧ inTier 0 = true ∧
    (let w : Transit := ⟨0, 64, [1, 2], [0], [], 0, 0, 0, 0, 0, [1, 0, 0, 0], false, 0, []⟩; let s : State := { on (.nop 0) with transit := [w], nextId := 1 };
      s.transit = [w] ∧ s.dies.length = 5 ∧ 64 * 1 < w.addr + w.bytes.length ∧ w.addr < 64 * 1 + 64 ∧ w.die = 0 ∧ w.atomic = false ∧ ∀ view < 5, view ∈ w.applied ∨ view ∈ [1, 2, 3, 4]) := by decide +kernel

/-- Owner 0 has a debug window at 0x10800. -/
def windowed (ws : List (Nat × Word)) : State :=
  owner (ws.foldl (fun s e => s.writeAll (0x800 + e.1) (leBytes 4 e.2.toNat)) (on (.nop 0))) fun o => { o with controls := { o.controls with dwin := 0x10800 } }

theorem witness_DebugStops :
    (let s := path (windowed [(4, 9)]) fun p => { p with stopSoon := some 3 }; s.stopCause (here s) = some (3, 0) ∧ (here s).block.cluster.isSome = true) ∧
    (let s := path (windowed [(4, 9)]) fun p => { p with stepLeft := some 0 }; s.stopCause (here s) = some (2, 0)) ∧
    (let s := windowed [(4, 9)]; s.stopCause (here s) = none) ∧
    (let s := owner (windowed [(0x200, 2), (0x204, 1)]) fun o => { o with deferredStops := [List.replicate 16 5] };
      s.window 0 = 0x10800 ∧ s.wordVirt 0 (0x10800 + 0x200) = some 2 ∧ s.wordVirt 0 (0x10800 + 0x204) = some 1 ∧
      (s.owner 0).deferredStops = List.replicate 16 5 :: []) := by decide +kernel

/-- The owner's log at 0x10C00 is replayed; its first record is of the type of `opready`. -/
def replaying : State :=
  launch ((on loading).writeAll 0xC00 (wordBytes [0, 0, 0, 3])) fun x => { x with
    replay := some ⟨true, 0x10C00, 512, 512, false, [⟨0, 0, 0, 0, 0⟩]⟩ }

theorem witness_ReplayDiverged : let s := replaying; (here s).path.isReady = true ∧ (here s).path.idx ≠ 0 ∧
    s.divergesHere { here s with path := { (here s).path with pfx := (here s).path.here.pfx } } (here s).path.here.instr = true ∧
    (here s).block.cluster.isSome = true ∧ s.window 0 = 0 := by decide +kernel

/-- Command slot 0 holds a word with STATE 1, for launch 0. -/
def commanding (op n : Nat) : State := windowed [(4, 9), (0x140, BitVec.ofNat 32 (2 ^ 28 + op * 2 ^ 24 + n))]

theorem witness_DebugCommands :
    (let s := commanding 1 0; s.window 0 ≠ 0 ∧ (s.readCmd 0 0).state = 1 ∧ s.cmdRefused 0 (s.readCmd 0 0) = false ∧ (s.readCmd 0 0).op = 1 ∧
      s.cmdPaths (s.readCmd 0 0) = [(here s).ref] ∧ (here s).path.stopped = none ∧ ∀ j < 4, s.vaRead 0 (s.slotAddr 0 0 + j) = some (0x940 + j)) ∧
    (let s := path (commanding 2 0) fun p => { p with stopped := some 3 }; s.cmdRefused 0 (s.readCmd 0 0) = false ∧ (s.readCmd 0 0).op = 2 ∧
      (here s).ref ∈ s.cmdPaths (s.readCmd 0 0) ∧ (here s).path.stopped.isSome = true ∧ (s.readCmd 0 0).reload = false) ∧
    (let s := path (commanding 3 5) fun p => { p with stopped := some 3 }; s.cmdRefused 0 (s.readCmd 0 0) = false ∧ (s.readCmd 0 0).op = 3) ∧
    (let s := commanding 4 1; s.cmdRefused 0 (s.readCmd 0 0) = false ∧ (s.readCmd 0 0).op = 4 ∧ (s.readCmd 0 0).n = 1) ∧
    (let s := commanding 5 0; s.cmdRefused 0 (s.readCmd 0 0) = true) := by decide +kernel

/-- A request that firmware accepts for owner 1. -/
def request1 : OwnerRequest := { absentRecord with
  issuew := 1, engw := 1, specmax := 1, rsvslots := 2, rsvlen := 1, rsvbase := 0x100000, rsvPages := [600], specPages := (List.range 128).map (· + 1000), specva := 2 ^ 32 }

/-- The firmware reaches address 0 by the handle 0, and nothing by a handle of ones. -/
theorem reaches (write : Bool) : Firmware.start.Reaches 0 write 0 ∧ ∀ pa, ¬Firmware.start.Reaches (BitVec.allOnes 64) write pa := by
  refine ⟨⟨by decide, ⟨0, ⟨true, 0, 2 ^ 32 - 1, 3, 0⟩⟩, by cases write <;> decide +kernel⟩, ?_⟩
  rintro pa ⟨_, e, h, _⟩
  exact absurd h (by simp [Firmware.start])

theorem witness_StartsAndResets : let s := on (.nop 0);
    s.firmware = Firmware.start ∧ Firmware.start.removed = false ∧ ({ Firmware.start with removed := true } : Firmware).removed = true ∧
    ((s.owner 0).valid = true ∧ (s.owner 0).stopped = false ∧ (s.owner 0).migrating = none ∧ (s.owner 1).valid = false ∧ s.handlersOf 0 = [] ∧
      s.transit = [] ∧ ((s.reaching 0).stopOwner 0 (plainTag 0 0 0 0 0) 0 0).ownerBusy 0 = false) ∧
    (((flying (opOn .load)).reaching 0).stopOwner 0 (plainTag 0 0 0 0 0) 0 0).ownerBusy 0 = true ∧
    (let f := { s.firmware with training := some (s.firmware.version, 5) }; f.training = some (f.version, (250 : Int) / 50)) ∧
    (let t := owner (block s fun y => { y with cluster := none }) fun o => { o with migrating := some 0 };
      (t.owner 0).migrating = some 0 ∧ t.drained 0 = true ∧ t.cycle ≤ 0 + 600000000) ∧
    (let t := owner s fun o => { o with migrating := some 0 }; t.drained 0 = false ∧ (t.owner 0).migrating = some 0 ∧
      0 + 600000000 ≤ ({ t with cycle := 600000000 } : State).cycle) ∧
    (let d : Departure := s.departure 3; let e : Departure := { d with num := 3, pages := [], owner := { d.owner with record := request1 } };
      let t : State := { s with departed := [e] }; (t.departed.find? fun x => x.num == 3) = some e ∧ t.canArrive e [] = true ∧
      3 < t.owners.length) := by decide +kernel

theorem witness_FirmwareRequests : let s := on (.nop 0);
    (s.firmware = Firmware.start ∧ s.firmware.refusing = false ∧ request1.inRange = true ∧
      s.reservesFit 1 request1 = true ∧ s.pagesFree 1 request1 = true ∧ 1 < s.owners.length ∧ (s.owner 1).valid = false ∧
      (s.entryChanges 1 request1).any (fun e => s.pageInUse (pagePa e.1)) = false ∧ (request1.granted.map (·.1)).Nodup ∧ s.transit = [] ∧
      (s.ownership.get 600).getLsbD 31 = false) ∧ absentRecord.inRange = false ∧
    (let t := block s fun y => { y with images := [(0, pagePa 600)] }; t.pagesFree 1 request1 = true ∧
      (t.entryChanges 1 request1).any (fun e => t.pageInUse (pagePa e.1)) = true) ∧
    ((owner s fun o => { o with record := { o.record with qblocks := 1 } }).owner 0).record.qblocks.getLsbD (0 / 16) = true ∧
    2 ≤ comm0.members ∧ comm0.rank < comm0.members ∧ comm0.peers.length = comm0.members := by decide +kernel

/-- Firmware with control cores all gated, its wake entry 0 on the first 8 bytes of a frame. -/
def gatedFirmware (waking : Bool) (held : List (List Byte)) : Firmware :=
  { Firmware.start with gated := 0xF, waking := waking, held := held, wake := ⟨true, 0, 0xFF, 5⟩ :: List.replicate 7 ⟨false, 0, 0, 0⟩ }

/-- A firmware that has logged `n` corrected errors. -/
def erring (u : PoisonUnit) (core : Option Nat) (n : Nat) : State :=
  { on (.nop 0) with firmware := { Firmware.start with corrected := List.replicate n ⟨u, core, 0⟩ } }

theorem witness_RepairAndManagement : let s := on (.nop 0); let frame : List Byte := [5, 0, 0, 0, 0, 0, 0, 0];
    (s.firmware = Firmware.start ∧ s.firmware.inRepair = none ∧ s.coreErrors 0 < 16 ∧ 16 ≤ (erring (.operandFile 0 0 0) (some 0) 16).coreErrors 0) ∧
    (let t : State := { s with firmware := { s.firmware with inRepair := some 351 } }; t.groupsOn 351 = [] ∧ t.firmware.freeSpare (dieOf 351) = some 376) ∧
    (let t : State := { s with firmware := { s.firmware with inRepair := some 351, sparesUsed := (List.range 8).map (· + 376) } };
      t.firmware.freeSpare (dieOf 351) = none ∧ t.groupsOn 351 = []) ∧ (∃ e ∈ s.groupsOn 0, e.1.handler = none ∧ e.1.header.coresident = false) ∧
    s.rowErrors 0 < 4 ∧ (∃ w ∈ s.owners, w.valid = true) ∧ (∀ w ∈ State.reset.owners, w.valid = false) ∧
    Firmware.start.standby = none ∧ Firmware.start.onStandby ≠ 0xF ∧ (Firmware.start.region 7).valid = false ∧ (Firmware.start.region 0).valid = true ∧
    (gatedFirmware false []).gated = 0xF ∧ ((gatedFirmware false []).wake.any fun e => e.hits frame) = true ∧ frame.length ≤ 1518 ∧
    ((gatedFirmware false []).wake.any fun e => e.hits [6, 0, 0, 0, 0, 0, 0, 0]) = false ∧ (gatedFirmware true []).held.length < 4 ∧
    4 ≤ (gatedFirmware true (List.replicate 4 frame)).held.length ∧ (∃ e ∈ (gatedFirmware false []).wake, e.valid = true) ∧
    (∀ e ∈ Firmware.start.wake, e.valid = false) ∧ Firmware.start.gated ≠ 0xF ∧ Firmware.start.wake.length = 8 := by decide +kernel

/-- The row of a memory error, and the corrected errors that it has logged. -/
theorem witness_RepairAndManagement_rows : (erring (.memory 0) none 4).rowErrors (Config.hbmRow 0) = 4 ∧
    (erring (.memory 0) none 4).firmware.rowsUsed (Config.hbmChannel (Config.hbmRow 0)) = 0 ∧ (on (.nop 0)).pagesIn 0 = [] := by
  have h : (on (.nop 0#2)).cycle ≤ hour := by decide +kernel
  have p : 0 < Config.firstTier := by decide
  refine ⟨?_, by decide +kernel, by decide +kernel⟩
  simp only [State.rowErrors, erring, List.replicate, List.countP_cons, List.countP_nil, Corrected.row]
  simp [h, p]

/-! ### Decoding: words that the manual writes out -/

/-- The words read as these instructions, one after the other, and nothing is left. -/
def reads : List Byte → List Instr → Bool
  | bs, [] => bs.isEmpty
  | bs, i :: is => match decode bs with
    | .ok (j, r) => j == i && reads r is
    | .error _ => false

theorem test_decode_scalar : reads (wordBytes [0x00343548, 0x0834AC08, 0x0CD00007, 0x0D302C00, 9, 0x0D803000])
    [.add 0 0x68 0x6A 0x48, .mpop 0 0x69 0x58, .call 0 5 7, .fork 0 0x60 0x58 9, .join 0 0x60] = true := by decide +kernel

theorem test_decode_control : reads (wordBytes [0x08345E86, 0x095EB458, 0x0BDE8007, 0x0E30A080, 0x0E987300, 0x0F034000, 0x0F083400])
    [.mmov 0 0x68 0xBD, .mand 0 0xBD 0x68 0x58, .brz 0 0xBD 7, .trip 0 0x61 0x41, .sleep 0 0xE6, .rdmode 0 0x68, .wrmode 0 0x68] = true := by
  decide +kernel

theorem test_decode_prefixed : reads (wordBytes [0x3F800500, 0x1A030246, 0x3F880000, 0x1F05060E, 0x3F8000C0, 0x1DEC0104, 0x3F8000B0, 0x22028400])
    [.pfx 0 0 0 5 0 0, .fmaFloat 0 6 4 0x46, .pfx 0 4 0 0 0 0, .addF64 0 10 12 14, .pfx 0 0 0 0 12 0, .cmpFloat 0 6 24 2 4, .pfx 0 0 0 0 11 0,
      .matchKeys 0 5 8] = true := by decide +kernel

theorem test_decode_vector : reads (wordBytes [0x1DAC0082, 0x17AC6545, 0x100484E2, 0x1283654A, 0x1481656D, 0x2901828B, 0x3F840000, 0x2B83830B, 0x2E010184])
    [.cmpFloat 0 2 24 1 2, .cmpVectorInt 0 2 24 0xCA 0x45, .addVectorInt 0 9 9 0x62, .remVectorInt 0 6 0xCA 0x4A, .shlVector 0 2 0xCA 0x6D,
      .cvtF16 0 3 5 11, .pfx 0 2 0 0 0 0, .cvtInt 0 7 6 11, .lnsadd 0 2 3 4] = true := by decide +kernel

theorem test_decode_memory : reads (wordBytes [0x30023002, 0x0B000000, 0x30833002, 0x2B000000, 0x30362048, 0x05000000, 0x30022002, 0x08000000, 0x3080A900, 0x27100000])
    [.ld 0 4 0x60 2 0 11 0 0 0, .st 0 6 0x60 2 1 11 0 0 0, .ld 0 0x6C 0x40 0x48 0 5 0 0 0, .ld 0 4 0x40 2 0 8 0 0 0,
      .st 0 1 0x52 0 1 7 0 1 0] = true := by decide +kernel

theorem test_decode_atomics : reads (wordBytes [0x3F800900, 0x3282B002, 0x47400000, 0x3F80D100, 0x3280206A, 0x07A00000])
    [.pfx 0 0 0 9 0 0, .atom 0 5 0x60 2 2 7 2 0 0, .pfx 0 0 0 0xD1 0 0, .atom 0 0 0x40 0x6A 0 7 5 0 0] =
      true := by decide +kernel

theorem test_decode_ordering : reads (wordBytes [0x38200000, 0x38240000, 0x38A4A548, 0x39283600, 0x39A836D1, 0x3A003650, 0x3A803649, 0x3A80A56A])
    [.fence 0 2 0, .fence 0 2 1, .barInit 0 0x49 0x4A 0x48, .barArrive 0 0x50 0x6C, .barArrivec 0 0x50 0x6D 0x51, .barWait 0 0x6C 0x50,
      .waita 0 0 0x6C 0x49, .waita 0 1 0x4A 0x6A] = true := by decide +kernel

theorem test_decode_matrix : reads (wordBytes [0x3C020082, 0x70080000, 0x3C020082, 0x60080402, 0x3C802600, 0x3C88A200, 0x3C908000, 0x3CA10000, 0x3D02286A, 0x24000000])
    [.mma 0 4 1 2 3 1 1 0 0, .mma 0 4 1 2 3 0 1 1 1, .gang 0 0x4C, .opres 0 1 0x44, .opready 0 1, .mwait 0 4, .accSt 0 4 0x50 0x6A 1 0 1] = true := by
  decide +kernel

theorem test_decode_engines : reads (wordBytes [0x3E00376B, 0x3E08296B, 0x3E883060, 0x06000000, 0x3E92C000])
    [.cpyk 0 0x6E 0x6B, .dzk 0 0x52 0x6B, .wellTake 0 6 3 0 24, .quiet 0 0x58] = true := by decide +kernel

theorem test_decode_system : reads (wordBytes [0x3F000A00, 0x3F083400, 0x3F100000, 0x3F186800, 0x3F200001, 0x3F2B4010, 0x3F34686A])
    [.tlbw 0 20, .tlbinv 0 0 0x68, .orig 0 0 0, .hret 0 0xD0, .trap 0 1, .ctr 0 0x68 16, .wspill 0 1 0xD0 0x6A] = true := by decide +kernel

/-! ### Words that no instruction has, and ill-formed words: one for each check of R341 -/

theorem test_unassigned_opcode : decodeTableWord 32 (0x1F * 2 ^ 23) = none := by decide +kernel
theorem test_reserved_sub : decodeTableWord 32 0x0EA00000 = none := by decide +kernel
theorem test_must_be_zero : decodeTableWord 32 0x0E800001 = none := by decide +kernel

/-- The word decodes to an instruction that is ill formed with this DETAIL; its neighbour, a legal value in the same field, is well formed. -/
def illFormed (i good : Instr) (d : Nat) : Bool :=
  !i.wellFormed none && (encDetail none i == some d) && good.wellFormed none

theorem test_ill_specifier : illFormed (.add 0 0x68 0xF0 0x48) (.add 0 0x68 0xEF 0x48) 3 = true := by decide +kernel
theorem test_ill_field : illFormed (.add 0 0x68 0x3F 0x48) (.add 0 0x68 0x7F 0x48) 4 = true := by decide +kernel
theorem test_ill_destination : illFormed (.addVectorInt 0 0xD0 1 2) (.addVectorInt 0 0x3F 1 2) 4 = true := by decide +kernel
theorem test_ill_triple : illFormed (.mand 0 0xBE 0x68 0x58) (.mand 0 0xBD 0x68 0x58) 5 = true := by decide +kernel
theorem test_ill_pair : illFormed (.addF64 0 11 12 14) (.addF64 0 10 12 14) 5 = true := by decide +kernel
theorem test_ill_read_only : illFormed (.add 0 0xB9 0x68 0x6B) (.add 0 0xB8 0x68 0x6B) 6 = true := by decide +kernel
theorem test_ill_scope : illFormed (.fence 0 0 0) (.fence 0 1 0) 7 = true := by decide +kernel
theorem test_ill_condition : illFormed (.cmp 0 6 24 0x68 0x48) (.cmp 0 5 24 0x68 0x48) 7 = true := by decide +kernel
theorem test_ill_counter : illFormed (.ld 0 4 0x60 2 6 7 0 0 0) (.ld 0 4 0x60 2 5 7 0 0 0) 7 = true := by decide +kernel
theorem test_ill_form : illFormed (.accSt 0 4 0x50 0x6A 1 0 3) (.accSt 0 4 0x50 0x6A 1 0 2) 7 = true := by decide +kernel
theorem test_ill_value : illFormed (.stStrong 0 7 0x6C 0x6A 1 6 2 0 0) (.stStrong 0 7 0x6C 0x6A 1 7 2 0 0) 8 = true := by decide +kernel
theorem test_ill_prefix : !((Instr.nop 0).wellFormed (some ⟨0, 0, false, 0, 4, false⟩)) && (Instr.nop 0).wellFormed none = true := by decide +kernel

/-! ### Clause headers (R340) -/

theorem test_header_count : clauseDetail 0 [] = some 1 := by decide +kernel
theorem test_header_class : clauseDetail 0x61 [0x0E800000] = some 2 := by decide +kernel
theorem test_header_zero : clauseDetail 0x100001 [0x0E800000] = some 3 := by decide +kernel
theorem test_header_control : clauseDetail 0x42 [0x0E900000, 0x0E800000] ≠ none := by decide +kernel

/-! ### Single steps -/

/-- A value read from the state after the word that the path stands at. -/
def after (s : State) (f : Ctx → Nat) : Option Nat :=
  match step s with
  | .next t => (t.ctx? r0).map f
  | _ => none

/-- Register `n` of the window in a lane, after the word. -/
def regAfter (s : State) (r : LaneReg) (lane : Nat) : Option Nat := after s fun c => (c.reg r lane).toNat

/-- Operand register `k` holds `v` in a lane. -/
def oper (s : State) (k lane : Nat) (v : Word) : State := group s fun z => { z with oper := z.oper.put (96 * k + lane) v }

-- R140: the sum wraps; with SAT it stops at the largest value.
theorem test_add_wraps : regAfter (scal (scal (on (.add 0 0x68 0x6A 0x48)) 42 0x7FFFFFFF) 8 1) (.scal 40) 0 = some 0x80000000 := by decide +kernel
-- R141: division truncates toward zero, and the remainder takes the dividend's sign.
theorem test_div_truncates : regAfter (oper (oper (on (.divVectorInt 0 0xC3 0xC1 0x62)) 1 0 0xFFFFFFF9) 2 0 2) (.oper 3) 0 = some 0xFFFFFFFD := by
  decide +kernel
theorem test_rem_sign : regAfter (oper (oper (on (.remVectorInt 0 0xC3 0xC1 0x62)) 1 0 0xFFFFFFF9) 2 0 2) (.oper 3) 0 = some 0xFFFFFFFF := by
  decide +kernel
theorem test_div_zero : regAfter (scal (on (.div 0 0x68 0x6A 0x48)) 42 5) (.scal 40) 0 = some 0xFFFFFFFF := by decide +kernel
-- The manual's `mpop s41, s24` of a triple 0x0000_00FF, 0, 0x0000_F000 gives 12.
theorem test_mpop : regAfter (scal (scal (on (.mpop 0 0x69 0x58)) 24 0xFF) 26 0xF000) (.scal 41) 0 = some 12 := by decide +kernel
-- R25: a live mask word keeps only lanes that are present.
theorem test_mask_present : regAfter (on (.movk 0 0xBD 0xFFFFFFFF)) (.scal 125) 0 = some 1 := by decide +kernel
-- R160: `rdmode` reads the launch's mode word.
theorem test_rdmode : regAfter (group (on (.rdmode 0 0x68)) fun z => { z with mode := 1, modePrev := 1 }) (.scal 40) 0 = some 1 := by decide +kernel
-- R150: a branch goes OFS words from its clause header.
theorem test_bra : after (on (.bra 0 9)) (fun c => c.path.pc) = some 0x10024 := by decide +kernel
-- R151: `call` with a window slide of 6 makes the depth 6 registers deeper; its link is the next clause.
theorem test_call_depth : after (roomy (on (.call 0 5 7))) (fun c => c.group.depth) = some 6 := by decide +kernel
-- R158: `exit` of the only lane ends the group.
theorem test_exit : (match step (on (.exit 0)) with
    | .next t => (t.group? 0 0 0).any fun z => z.done
    | _ => false) = true := by decide +kernel
-- R156: outside the specialiser, `trip` is only the write.
theorem test_trip : regAfter (scal (on (.trip 0 0x61 0x41)) 1 5) (.scal 33) 0 = some 5 := by decide +kernel
-- R79: 1.5 + 2.25 in binary32.
theorem test_add_f32 : regAfter (oper (oper (on (.addFloat 0 0xC3 0xC1 0x62)) 1 0 0x3FC00000) 2 0 0x40100000) (.oper 3) 0 = some 0x40700000 := by
  decide +kernel
-- The manual's −6.5 to the power 4 in L32: 0x02B3_5004.
theorem test_lnspow : regAfter (oper (on (.lnspow 0 0xC3 0xC1 0x6C)) 1 0 0x80ACD401) (.oper 3) 0 = some 0x02B35004 := by decide +kernel
-- The manual's 8 × 0.5 = 4 in L32.
theorem test_lnsmul : regAfter (oper (oper (on (.lnsmul 0 0xC3 0xC1 0x62)) 1 0 0x00C00000) 2 0 0x3FC00000) (.oper 3) 0 = some 0x00800000 := by
  decide +kernel
-- R178: the manual's 6.5 in L32 is 0x00AC_D401.
theorem test_cvt_l32 : regAfter (oper (group (on (.cvtL32 0 0xC3 0xC1 11)) fun z => { z with mode := 1, modePrev := 1 }) 1 0 0x40D00000) (.oper 3) 0 = some 0x00ACD401 := by
  decide +kernel
-- The manual's barrier table: an elected arrival adds one to ARRIVED, and the phase in force is written.
theorem test_arrivec : (match step (scal ((roomy (on (.barArrivec 0 0x69 0x68 0x6B))).barWrite 0 0 0 0 ⟨4, 0, true, 0, 6, 0, 0⟩) 41 7) with
    | .next t => (t.ctx? r0).any fun c => c.reg (.scal 41) 0 == 6 && (t.barRead 0 0 0 0).arrived == 1
    | _ => false) = true := by decide +kernel
-- R249: a fill outside R347's limits is an exception of the lane with KIND 10, DETAIL 18.
theorem test_tlbw_bad : (match step (filling (.tlbw 0 0xC0) [1]) with
    | .next t => t.origins.map (fun g => (g.kind, g.detail.toNat)) == [] && (t.path? r0).any fun p => p.present == 0
    | _ => false) = true := by decide +kernel
-- The published example of SM3: the digest of "abc" (log 15).
theorem test_sm3 : sm3 [0x61, 0x62, 0x63] = 0x66C7F0F462EEEDD9D1F2D46BDC10E4E24167C4875CF2F7A2297DA02B8F4BA8E0 := by decide +kernel

end Sys2Proof.Tests
end

section
/-! SUPPORT. The state after reset. -/

namespace Sys2Proof.Machine

/-- What a view of an empty module reads: zeros. -/
theorem State.readPhys_of_view_empty {s : State} {view : Nat} (h : (s.view view).mem = []) (pa n : Nat) :
    s.readPhys view pa n = List.replicate n 0 := by
  simp [State.readPhys, h, Memory.read]

@[simp] theorem State.reset_owner (o : Nat) : State.reset.owner o = Owner.absent := by
  simp only [State.owner, State.reset, List.getD_eq_getElem?_getD, List.getElem?_replicate]
  split <;> rfl

@[simp] theorem State.reset_view_mem (view : Nat) : (State.reset.view view).mem = [] := by
  simp only [State.view, State.reset, List.getD_eq_getElem?_getD, List.getElem?_replicate]
  split <;> rfl

theorem State.reset_sound : State.reset.Sound where
  views := rfl
  owners := by simp [State.reset]
  memory := fun d hd => by rw [List.eq_of_mem_replicate hd]; rfl
  timed := fun d hd => by rw [List.eq_of_mem_replicate hd]; simp
  numbered := by simp [State.reset]

/-- Settles O24: the fields of the reset state, and its memories, which are empty at every view. -/
theorem resetState : Obligations.ResetState :=
  ⟨rfl, fun o => by simp [Owner.absent], State.reset_sound.owners, rfl,
    fun view pa n => State.readPhys_of_view_empty (State.reset_view_mem view) pa n,
    rfl, rfl, rfl, rfl, rfl, rfl, rfl, rfl, rfl, State.reset_sound⟩

end Sys2Proof.Machine
end

section
/-! SUPPORT. The canonical form of memory (`State.Sound`): the writes of the model keep it, and the rules by which
everything that is made of them keeps it. -/

namespace Sys2Proof.Machine

/-! ### One view -/

/-- What `State.Sound` asks of one view, before the moment `m` and with the numbers below `n` given out. -/
structure Die.SoundAt (d : Die) (m n : Nat) : Prop where
  memory : Memory.wf d.mem = true
  timed : ∀ e ∈ d.past, e.moment < m ∧ ∀ i, e.id = some i → i < n

theorem Die.SoundAt.mono {d : Die} {m n m' n' : Nat} (h : d.SoundAt m n) (hm : m ≤ m') (hn : n ≤ n') : d.SoundAt m' n' where
  memory := h.memory
  timed e he := ⟨(h.timed e he).1.trans_le hm, fun i hi => ((h.timed e he).2 i hi).trans_le hn⟩

theorem Die.SoundAt.write {d : Die} {m n k : Nat} (h : d.SoundAt m n) (hk : k < m) {id : Option Nat} (hid : ∀ i, id = some i → i < n)
    (pa : Nat) (bs : List Byte) : (d.write k id pa bs).SoundAt m n where
  memory := Memory.wf_write bs d.mem pa h.memory
  timed e he := by
    simp only [Die.write, List.mem_append, List.mem_map] at he
    obtain he | ⟨x, -, rfl⟩ := he
    · exact h.timed e he
    · exact ⟨hk, hid⟩

theorem Die.SoundAt.tick {d : Die} {m n : Nat} (h : d.SoundAt m n) (die : Nat) : (d.tick die).SoundAt m n := ⟨h.memory, h.timed⟩

theorem Die.SoundAt.land {d : Die} {m n k : Nat} (h : d.SoundAt m n) (hk : k < m) {t : Transit} (ht : t.id < n) : (d.land k t).SoundAt m n := by
  have hid : ∀ i, some t.id = some i → i < n := fun i hi => Option.some.inj hi ▸ ht
  unfold Die.land
  split
  · refine Die.SoundAt.tick (List.foldlRecOn (motive := fun e : Die => e.SoundAt m n) _ _ h fun e he b _ => ?_) _
    split
    · exact he
    · exact he.write hk hid _ _
  · exact (h.write hk hid _ _).tick _

/-! ### The state, while a moment lasts -/

/-- `State.Sound` with the moment given: what changes of memory within one moment keep, up to the next moment. -/
structure State.SoundBefore (s : State) (m : Nat) : Prop where
  views : s.dies.length = 5
  owners : s.owners.length = 64
  dies : ∀ d ∈ s.dies, d.SoundAt m s.nextId
  numbered : ∀ t ∈ s.transit, t.id < s.nextId

theorem State.sound_iff_soundBefore {s : State} : s.Sound ↔ s.SoundBefore s.moment where
  mp h := ⟨h.views, h.owners, fun d hd => ⟨h.memory d hd, h.timed d hd⟩, h.numbered⟩
  mpr h := ⟨h.views, fun d hd => (h.dies d hd).memory, h.owners, fun d hd => (h.dies d hd).timed, h.numbered⟩

/-- Soundness depends on the views, the number of owners and the writes in transit; the two counters may grow. -/
theorem State.SoundBefore.congr {s t : State} {m m' : Nat} (h : s.SoundBefore m) (hm : m ≤ m') (hn : s.nextId ≤ t.nextId) (hd : t.dies = s.dies)
    (ho : t.owners.length = s.owners.length) (ht : t.transit = s.transit) : t.SoundBefore m' where
  views := hd ▸ h.views
  owners := ho ▸ h.owners
  dies d hd' := (h.dies d (hd ▸ hd')).mono hm hn
  numbered u hu := (h.numbered u (ht ▸ hu)).trans_le hn

/-- A change of every view. -/
theorem State.SoundBefore.mapDies {s : State} {m : Nat} (h : s.SoundBefore m) (f : Die → Die)
    (hf : ∀ d : Die, d.SoundAt m s.nextId → (f d).SoundAt m s.nextId) :
    ({ s with dies := s.dies.map f } : State).SoundBefore m where
  views := by simp [h.views]
  owners := h.owners
  dies d hd := by
    obtain ⟨e, he, rfl⟩ := List.mem_map.mp hd
    exact hf e (h.dies e he)
  numbered := h.numbered

theorem mem_modify_cases {α : Type} {l : List α} {i : Nat} {f : α → α} {x : α} (h : x ∈ l.modify i f) : x ∈ l ∨ ∃ y ∈ l, x = f y := by
  obtain ⟨j, hj, rfl⟩ := List.mem_iff_getElem.mp h
  rw [List.getElem_modify]
  split
  · exact .inr ⟨_, List.getElem_mem _, rfl⟩
  · exact .inl (List.getElem_mem _)

/-- A change of one view. -/
theorem State.SoundBefore.modifyDie {s : State} {m : Nat} (h : s.SoundBefore m) (v : Nat) (f : Die → Die)
    (hf : ∀ d : Die, d.SoundAt m s.nextId → (f d).SoundAt m s.nextId) : ({ s with dies := s.dies.modify v f } : State).SoundBefore m where
  views := by simp [h.views]
  owners := h.owners
  dies d hd := by
    obtain hd | ⟨e, he, rfl⟩ := mem_modify_cases hd
    · exact h.dies d hd
    · exact hf e (h.dies e he)
  numbered := h.numbered

/-- Other writes in transit, whose numbers are given out. -/
theorem State.SoundBefore.withTransit {s : State} {m : Nat} (h : s.SoundBefore m) {ts : List Transit} (ht : ∀ t ∈ ts, t.id < s.nextId) :
    ({ s with transit := ts } : State).SoundBefore m := ⟨h.views, h.owners, h.dies, ht⟩

theorem State.SoundBefore.applyAt {s : State} {m k : Nat} (h : s.SoundBefore m) (hk : k < m) {t : Transit} (ht : t.id < s.nextId) (v : Nat) :
    (s.applyAt k t v).SoundBefore m := by
  unfold State.applyAt
  split
  · exact h
  · refine (h.modifyDie v (fun d => d.land k t) fun d hd => hd.land hk ht).withTransit fun u hu => ?_
    obtain ⟨w, hw, rfl⟩ := List.mem_map.mp hu
    split
    · exact h.numbered w hw
    · exact h.numbered w hw

@[simp] theorem State.applyAt_nextId (s : State) (k : Nat) (t : Transit) (v : Nat) : (s.applyAt k t v).nextId = s.nextId := by
  unfold State.applyAt
  split <;> rfl

@[simp] theorem State.applyAt_moment (s : State) (k : Nat) (t : Transit) (v : Nat) : (s.applyAt k t v).moment = s.moment := by
  unfold State.applyAt
  split <;> rfl

theorem State.SoundBefore.settle {s : State} {m : Nat} (h : s.SoundBefore m) : s.settle.SoundBefore m :=
  h.withTransit fun t ht => h.numbered t (List.mem_filter.mp ht).1

/-- The write in transit that has the number of `t`, or `t`. -/
def State.transitOf (s : State) (t : Transit) : Transit := (s.transit.find? fun u => u.id == t.id).getD t

theorem State.SoundBefore.transitOf_id {s : State} {m : Nat} (h : s.SoundBefore m) {t : Transit} (ht : t.id < s.nextId) :
    (s.transitOf t).id < s.nextId := by
  unfold State.transitOf
  cases hf : s.transit.find? fun u => u.id == t.id with
  | none => exact ht
  | some u => exact h.numbered u (List.mem_of_find?_eq_some hf)

/-- A write in transit applied at several views, in one moment. -/
def State.applyAll (s : State) (k : Nat) (vs : List Nat) (t : Transit) : State := vs.foldl (fun s v => s.applyAt k (s.transitOf t) v) s

@[simp] theorem State.applyAll_nextId (s : State) (k : Nat) (vs : List Nat) (t : Transit) : (s.applyAll k vs t).nextId = s.nextId :=
  List.foldlRecOn (motive := fun u : State => u.nextId = s.nextId) vs _ rfl fun u hu v _ => (u.applyAt_nextId k _ v).trans hu

@[simp] theorem State.applyAll_moment (s : State) (k : Nat) (vs : List Nat) (t : Transit) : (s.applyAll k vs t).moment = s.moment :=
  List.foldlRecOn (motive := fun u : State => u.moment = s.moment) vs _ rfl fun u hu v _ => (u.applyAt_moment k _ v).trans hu

theorem State.SoundBefore.applyAll {s : State} {m k : Nat} (h : s.SoundBefore m) (hk : k < m) (vs : List Nat) {t : Transit} (ht : t.id < s.nextId) :
    (s.applyAll k vs t).SoundBefore m :=
  (List.foldlRecOn (motive := fun u : State => u.SoundBefore m ∧ u.nextId = s.nextId) vs _ ⟨h, rfl⟩ fun u ⟨hu, hn⟩ v _ =>
    ⟨hu.applyAt hk (hu.transitOf_id (hn ▸ ht)) v, (u.applyAt_nextId k _ v).trans hn⟩).1

/-- What `carryTo` does, by the name of its inner fold. -/
theorem State.carryTo_eq (s : State) (vs : List Nat) (sel : Transit → Bool) : s.carryTo vs sel =
    { ((s.transit.filter fun t => (s.closed ((s.transit.filter sel).map (·.id))).contains t.id).foldl (fun u t => u.applyAll s.moment vs t) s).settle with
      moment := s.moment + 1 } := rfl

/-! ### Sound states -/

/-- A state that differs where soundness does not look. -/
theorem State.Sound.congr {s t : State} (h : s.Sound) (hd : t.dies = s.dies := by rfl) (ho : t.owners.length = s.owners.length := by rfl)
    (ht : t.transit = s.transit := by rfl) (hm : t.moment = s.moment := by rfl) (hn : t.nextId = s.nextId := by rfl) : t.Sound :=
  State.sound_iff_soundBefore.mpr ((State.sound_iff_soundBefore.mp h).congr hm.ge hn.ge hd ho ht)

/-- The same, where the owners' records change. -/
theorem State.Sound.congr_owners {s t : State} (h : s.Sound) (ho : t.owners.length = s.owners.length) (hd : t.dies = s.dies := by rfl)
    (ht : t.transit = s.transit := by rfl) (hm : t.moment = s.moment := by rfl) (hn : t.nextId = s.nextId := by rfl) : t.Sound :=
  h.congr hd ho ht hm hn

/-- A moment may pass, and a number may be given out. -/
theorem State.Sound.grow {s t : State} (h : s.Sound) (hm : s.moment ≤ t.moment) (hn : s.nextId ≤ t.nextId) (hd : t.dies = s.dies := by rfl)
    (ho : t.owners.length = s.owners.length := by rfl) (ht : t.transit = s.transit := by rfl) : t.Sound :=
  State.sound_iff_soundBefore.mpr ((State.sound_iff_soundBefore.mp h).congr hm hn hd ho ht)

/-- The moment after this one. -/
theorem State.Sound.before_succ {s : State} (h : s.Sound) : s.SoundBefore (s.moment + 1) :=
  (State.sound_iff_soundBefore.mp h).congr (Nat.le_succ _) le_rfl rfl rfl rfl

theorem State.SoundBefore.sound {s : State} {m : Nat} (h : s.SoundBefore m) : ({ s with moment := m } : State).Sound :=
  State.sound_iff_soundBefore.mpr (h.congr le_rfl le_rfl rfl rfl rfl)

theorem State.Sound.writeView {s : State} (h : s.Sound) {v pa : Nat} {bs : List Byte} : (s.writeView v pa bs).Sound :=
  (h.before_succ.modifyDie v _ fun _ hd => hd.write (Nat.lt_succ_self _) (by simp) pa bs).sound

theorem State.Sound.writeAll {s : State} (h : s.Sound) {pa : Nat} {bs : List Byte} : (s.writeAll pa bs).Sound :=
  (h.before_succ.mapDies _ fun _ hd => hd.write (Nat.lt_succ_self _) (by simp) pa bs).sound

theorem State.Sound.carryTo {s : State} (h : s.Sound) {vs : List Nat} {sel : Transit → Bool} : (s.carryTo vs sel).Sound := by
  rw [State.carryTo_eq]
  refine (State.SoundBefore.settle (m := s.moment + 1) ?_).sound
  exact (List.foldlRecOn (motive := fun u : State => u.SoundBefore (s.moment + 1) ∧ u.nextId = s.nextId) _ _ ⟨h.before_succ, rfl⟩
    fun u ⟨hu, hn⟩ t ht => ⟨hu.applyAll (Nat.lt_succ_self _) vs (hn ▸ h.numbered t (List.mem_filter.mp ht).1), (u.applyAll_nextId _ vs t).trans hn⟩).1

theorem State.Sound.carry {s : State} (h : s.Sound) {sel : Transit → Bool} : (s.carry sel).Sound := h.carryTo

/-- The write `t` enters transit and is applied at once at the views of `vs`. -/
def State.enter (s : State) (vs : List Nat) (t : Transit) : State :=
  let t := { t with id := s.nextId, clock := (s.view t.die).clock, moment := s.moment }
  ({ s with nextId := s.nextId + 1, transit := s.transit ++ [t], moment := s.moment + 1 } : State).applyAll s.moment vs t |>.settle

theorem State.launchWrite_eq (s : State) (vs : List Nat) (t : Transit) :
    s.launchWrite vs t = (if t.preds.isEmpty then s else s.carryTo vs fun u => t.preds.contains u.id).enter vs t := rfl

theorem State.Sound.withNewTransit {s : State} (h : s.Sound) {t : Transit} (ht : t.id < s.nextId + 1) :
    ({ s with nextId := s.nextId + 1, transit := s.transit ++ [t], moment := s.moment + 1 } : State).SoundBefore (s.moment + 1) where
  views := h.views
  owners := h.owners
  dies d hd := (h.before_succ.dies d hd).mono le_rfl (Nat.le_succ _)
  numbered u hu := by
    obtain hu | hu := List.mem_append.mp hu
    · exact (h.numbered u hu).trans (Nat.lt_succ_self _)
    · exact List.mem_singleton.mp hu ▸ ht

theorem State.Sound.enter {s : State} (h : s.Sound) {vs : List Nat} {t : Transit} : (s.enter vs t).Sound := by
  have hm : (s.enter vs t).moment = s.moment + 1 := State.applyAll_moment _ _ _ _
  have hid := Nat.lt_succ_self s.nextId
  exact State.sound_iff_soundBefore.mpr (hm ▸ ((h.withNewTransit hid).applyAll (Nat.lt_succ_self _) vs hid).settle)

theorem State.Sound.launchWrite {s : State} (h : s.Sound) {vs : List Nat} {t : Transit} : (s.launchWrite vs t).Sound := by
  rw [State.launchWrite_eq]
  split
  · exact h.enter
  · exact h.carryTo.enter

/-! ### Rules for the shapes of the model's definitions -/

theorem State.Sound.ite {s t : State} {c : Prop} [Decidable c] (hs : s.Sound) (ht : t.Sound) : (if c then s else t).Sound := by
  split
  · exact hs
  · exact ht

theorem State.Sound.elim {α : Type} {s : State} {o : Option α} {f : α → State} (hs : s.Sound) (hf : ∀ {a}, (f a).Sound) : (o.elim s f).Sound := by
  cases o with
  | none => exact hs
  | some a => exact hf

theorem State.Sound.foldl {α : Type} {s : State} {f : State → α → State} {l : List α} (h : s.Sound)
    (hf : ∀ {u : State} {a}, u.Sound → (f u a).Sound) : (l.foldl f s).Sound :=
  List.foldlRecOn (motive := State.Sound) l f h fun _ hu _ _ => hf hu

theorem State.Sound.foldl_fst {α β : Type} {s : State} {a : α} {f : State × α → β → State × α} {l : List β} (h : s.Sound)
    (hf : ∀ {q : State × α} {b}, q.1.Sound → (f q b).1.Sound) : (l.foldl f (s, a)).1.Sound :=
  List.foldlRecOn (motive := fun q : State × α => q.1.Sound) l f h fun _ hq _ _ => hf hq

/-- The state of a pair that an operation answers. -/
theorem State.Sound.of_fst {α : Type} {s : State} {p : State × α} {a : α} (h : p.1.Sound) (e : p = (s, a)) : s.Sound := by
  subst e
  exact h

/-- An outcome whose next state, if it has one, is sound. -/
def NextSound (o : Host.Outcome State Fault Refusal) : Prop := ∀ t, o = .next t → t.Sound

theorem State.Sound.next {s : State} (h : s.Sound) : NextSound (.next s) := fun _ e => by
  cases e
  exact h

theorem nextSound_fault (r : Fault) : NextSound (.fault r) := fun _ e => by cases e

theorem nextSound_refused (r : Refusal) : NextSound (.refused r) := fun _ e => by cases e

theorem NextSound.ite {s t : Host.Outcome State Fault Refusal} {c : Prop} [Decidable c] (hs : NextSound s) (ht : NextSound t) :
    NextSound (if c then s else t) := by
  split
  · exact hs
  · exact ht

theorem State.Sound.updOwner {s : State} (h : s.Sound) {o f} : (s.updOwner o f).Sound :=
  h.congr (ho := List.length_modify ..)

theorem State.Sound.updLaunch {s : State} (h : s.Sound) {l f} : (s.updLaunch l f).Sound := h.congr

end Sys2Proof.Machine
end

section
/-! SUPPORT. The shared operations of the machine keep the canonical form: one lemma for each, in the order of the model. -/

namespace Sys2Proof.Machine

-- Hundreds of short lemmas that cite each other: elaborated one after the other, they need no thread each.
set_option Elab.async false

/-! ### Parts of the state, and accesses to memory -/

theorem State.Sound.updBlock {s : State} (h : s.Sound) {l b f} : (s.updBlock l b f).Sound := h.updLaunch

theorem State.Sound.updGroup {s : State} (h : s.Sound) {l b g f} : (s.updGroup l b g f).Sound := h.updBlock

theorem State.Sound.updPathGroup {s : State} (h : s.Sound) {r f} : (s.updPathGroup r f).Sound := h.updGroup

theorem State.Sound.updPath {s : State} (h : s.Sound) {r f} : (s.updPath r f).Sound := h.updPathGroup

theorem State.Sound.setStatus {s : State} (h : s.Sound) {r st} : (s.setStatus r st).Sound := h.updPathGroup

theorem State.Sound.takeFree {s : State} (h : s.Sound) {n} : (s.takeFree n).Sound := h.congr

theorem State.Sound.takeFreeOf {s : State} (h : s.Sound) {o n} : (s.takeFreeOf o n).Sound := h.updOwner

theorem State.Sound.charge {s : State} (h : s.Sound) {o pa n} : (s.charge o pa n).Sound := h.updOwner

theorem State.Sound.writeStrong {s : State} (h : s.Sound) {scope p lane die pa bs preds} : (s.writeStrong scope p lane die pa bs preds).Sound :=
  h.launchWrite

theorem State.Sound.writeOrdinary {s : State} (h : s.Sound) {p lane die pa bs preds} : (s.writeOrdinary p lane die pa bs preds).Sound :=
  h.launchWrite

theorem State.Sound.atomicMeets {s : State} (h : s.Sound) {die pa n} : (s.atomicMeets die pa n).Sound := by
  dsimp only [State.atomicMeets]
  split
  · exact h
  · exact h.carryTo

theorem State.Sound.writeAtomic {s : State} (h : s.Sound) {scope p lane die pa bs preds} : (s.writeAtomic scope p lane die pa bs preds).Sound :=
  h.launchWrite

theorem State.Sound.markPoison {s : State} (h : s.Sound) {pa} : (s.markPoison pa).Sound := by
  unfold State.markPoison
  split
  · exact h
  · exact h.congr

theorem State.Sound.clearPoison {s : State} (h : s.Sound) {ranges} : (s.clearPoison ranges).Sound := h.congr

theorem State.Sound.writeVirt {s : State} (h : s.Sound) {o va bs} : (s.writeVirt o va bs).Sound :=
  h.foldl fun h' => by split; exacts [h', h'.writeAll.charge]

theorem State.Sound.amendVirt {s : State} (h : s.Sound) {o va bs} : (s.amendVirt o va bs).Sound := h.foldl fun h' => h'.elim h'.writeAll

theorem State.Sound.writeCache {s : State} (h : s.Sound) {o va bs} : (s.writeCache o va bs).Sound :=
  h.foldl fun h' => by split; exacts [h', h'.writeAll.charge]

theorem State.Sound.chargeVirt {s : State} (h : s.Sound) {o va n} : (s.chargeVirt o va n).Sound :=
  h.foldl fun h' => by split; exacts [h'.charge, h']

/-! ### The replay log -/

theorem State.Sound.updReplay {s : State} (h : s.Sound) {l f} : (s.updReplay l f).Sound := h.updLaunch

theorem State.Sound.logRecord {s : State} (h : s.Sound) {ty p addr payload} : (s.logRecord ty p addr payload).1.Sound := by
  dsimp only [State.logRecord]
  split
  · exact h
  split
  · exact h
  split
  · exact h
  split
  · split
    · exact h.updReplay
    · exact h.updReplay.writeVirt
  · exact h.writeVirt.updReplay

theorem State.Sound.logPut {s : State} (h : s.Sound) {o l off bs} : (s.logPut o l off bs).Sound := h.elim h.amendVirt

theorem State.Sound.logLanes {s : State} (h : s.Sound) {o l n vals} : (s.logLanes o l n vals).Sound := h.foldl fun h' => h'.elim h'.amendVirt

theorem State.Sound.flushLog {s : State} (h : s.Sound) {r} : (s.flushLog r).Sound := by
  unfold State.flushLog
  split
  · split
    · exact h
    · exact (h.foldl fun h' => h'.amendVirt).updPathGroup
  · exact h

theorem State.Sound.logTurn {s : State} (h : s.Sound) {p addr} : (s.logTurn p addr).Sound := by
  dsimp only [State.logTurn]
  split
  · exact h
  split
  · exact h
  split
  · exact h
  · exact h.logRecord.updReplay

theorem State.Sound.logSwitch {s : State} (h : s.Sound) {p addr} : (s.logSwitch p addr).Sound := h.logTurn.updReplay

theorem State.Sound.logConsume {s : State} (h : s.Sound) {p} : (s.logConsume p).1.Sound := by
  unfold State.logConsume
  split
  · exact h
  split
  · exact h
  split
  · exact h
  · exact h.updReplay

theorem State.Sound.logInput {s : State} (h : s.Sound) {c ty m payload} : (s.logInput c ty m payload).1.Sound := by
  dsimp only [State.logInput]
  split
  · exact h
  split
  · split
    · split
      · exact h
      · exact h.logTurn
    split
    · exact ((State.Sound.logConsume (.ite h h.logTurn)).of_fst ‹_›).updPath
    · exact (State.Sound.logConsume (.ite h h.logTurn)).of_fst ‹_›
  split
  · split
    · exact h
    · exact h.logTurn
  split
  · exact ((State.Sound.logRecord (.ite h h.logTurn)).of_fst ‹_›).updPath
  · exact (State.Sound.logRecord (.ite h h.logTurn)).of_fst ‹_›

theorem State.Sound.exchange {s : State} (h : s.Sound) {c n vals} : (s.exchange c n vals).1.Sound := by
  unfold State.exchange
  split <;> exact h.logInput.of_fst ‹_›

theorem State.Sound.exchangeBytes {s : State} (h : s.Sound) {c m bs} : (s.exchangeBytes c m bs).1.Sound := by
  unfold State.exchangeBytes
  split <;> exact h.logInput.of_fst ‹_›

/-! ### Images -/

theorem State.Sound.noteImage {s : State} (h : s.Sound) {l b g id pa n} : (s.noteImage l b g id pa n).Sound := h.updGroup

theorem State.Sound.imageWrite {s : State} (h : s.Sound) {x y g core va bs lane} : (s.imageWrite x y g core va bs lane).Sound :=
  h.foldl fun h' => by split; exacts [h', h'.writeOrdinary.noteImage.charge.clearPoison]

theorem State.Sound.imageSpoil {s : State} (h : s.Sound) {x y va bs} : (s.imageSpoil x y va bs).Sound :=
  h.foldl fun h' => by split; exacts [h', h'.writeAll]

theorem State.Sound.chargeImage {s : State} (h : s.Sound) {x y payer va n} : (s.chargeImage x y payer va n).Sound :=
  h.foldl fun h' => by split; exacts [h'.charge, h']

theorem State.Sound.writeAreas {s : State} (h : s.Sound) {x y z areas} : (s.writeAreas x y z areas).Sound := h.foldl fun h' => h'.imageWrite

theorem State.Sound.writeHeaderAreas {s : State} (h : s.Sound) {x y z} : (s.writeHeaderAreas x y z).Sound := h.writeAreas.takeFreeOf

theorem State.Sound.savePath {s : State} (h : s.Sound) {r} : (s.savePath r).Sound := by
  unfold State.savePath
  split
  · split
    · exact h
    · exact h.imageWrite.imageWrite
  · exact h

theorem State.Sound.spillLine {s : State} (h : s.Sound) {x y z n} : (s.spillLine x y z n).Sound := by
  unfold State.spillLine
  extract_lets +onlyGivenNames va s1 poisoned s2 s3
  have h1 : s1.Sound := h.imageWrite.takeFreeOf
  have h2 : s2.Sound := by
    refine .ite (h1.foldl fun h' => ?_) h1
    split
    · exact h'.markPoison
    · exact h'
  exact h2.updOwner.updGroup

theorem State.Sound.spillLines {s : State} (h : s.Sound) {x y z f} : (s.spillLines x y z f).Sound := h.foldl fun h' => h'.spillLine

theorem State.Sound.spadOut {s : State} (h : s.Sound) {x y core} : (s.spadOut x y core).Sound :=
  (h.foldl fun h' => h'.imageWrite).foldl fun h' => h'.elim h'.markPoison

/-! ### Asynchronous operations -/

theorem State.Sound.placeReg {s : State} (h : s.Sound) {ref r lane v} : (s.placeReg ref r lane v).Sound := by
  dsimp only [State.placeReg]
  split
  · exact h
  split
  · exact h
  split
  · exact h
  split
  · exact h
  split
  · split
    · exact h.updPathGroup
    · exact State.Sound.updPathGroup (State.Sound.imageWrite (.ite h h.imageWrite))
  · split
    · exact h.updPathGroup
    · exact h.updPathGroup.imageWrite
  split
  · exact h.updPathGroup
  split
  · exact h.updPathGroup
  · exact h.updPathGroup.imageWrite

theorem State.Sound.placeResult {s : State} (h : s.Sound) {ref r lane v} : (s.placeResult ref r lane v).Sound := h.placeReg.flushLog

theorem State.Sound.placeFlags {s : State} (h : s.Sound) {ref lane v} : (s.placeFlags ref lane v).Sound := by
  unfold State.placeFlags
  split
  · exact h
  split
  · exact h
  split
  · exact h
  split
  · exact h
  split
  · exact h.updPathGroup
  · exact h.updPathGroup.imageWrite

theorem State.Sound.sbFall {s : State} (h : s.Sound) {ref k} : (s.sbFall ref k).Sound := by
  dsimp only [State.sbFall]
  split
  · exact h.updPathGroup
  split
  · exact h.updPathGroup
  split
  · exact h.updPathGroup
  split
  · exact h.updPathGroup
  · exact h.updPathGroup.imageWrite

theorem State.Sound.spadWrite {s : State} (h : s.Sound) {l b core addr bs ids} : (s.spadWrite l b core addr bs ids).Sound := by
  unfold State.spadWrite
  split
  · exact h
  split
  · exact h
  split
  · exact (h.grow (by simp) (by simp)).updBlock
  · exact h.imageWrite

theorem State.Sound.clearSpad {s : State} (h : s.Sound) {l b addr n} : (s.clearSpad l b addr n).Sound := by
  unfold State.clearSpad
  split
  · split
    · exact h.updBlock
    · exact h.clearPoison
  · exact h

theorem State.Sound.barWrite {s : State} (h : s.Sound) {l b core addr o} : (s.barWrite l b core addr o).Sound := h.spadWrite

theorem State.Sound.barUpdate {s : State} (h : s.Sound) {l b core addr f} : (s.barUpdate l b core addr f).Sound := by
  dsimp only [State.barUpdate]
  split
  · exact h.barWrite
  · exact h.barWrite.updBlock

theorem State.Sound.barTouched {s : State} (h : s.Sound) {l b core rank ranges} : (s.barTouched l b core rank ranges).Sound :=
  h.foldl fun h' => h'.updBlock.barUpdate

theorem State.Sound.notePhase {s : State} (h : s.Sound) {l b core addr ids} : (s.notePhase l b core addr ids).Sound := by
  dsimp only [State.notePhase]
  split
  · exact h
  · exact h.updBlock

theorem State.Sound.spoilCards {s : State} (h : s.Sound) {o addr bs} : (s.spoilCards o addr bs).1.Sound := by
  dsimp only [State.spoilCards]
  split
  · exact h
  · exact State.Sound.takeFreeOf (.ite h.congr (h.congr.foldl fun h' => h'.writeAll))

theorem State.Sound.noteAccess {s : State} (h : s.Sound) {o addr n m read wrote} : (s.noteAccess o addr n m read wrote).Sound := h.updPathGroup

theorem State.Sound.opWrite {s : State} (h : s.Sound) {o lane addr bs read} : (s.opWrite o lane addr bs read).Sound := by
  unfold State.opWrite
  split
  next u bs' hu =>
  have hu : u.Sound := h.spoilCards.of_fst hu
  refine State.Sound.noteAccess (.ite hu.spadWrite ?_)
  dsimp only
  split
  · exact hu.charge.writeStrong
  · exact hu.charge.writeAtomic
  · exact hu.charge.writeOrdinary

theorem State.Sound.opTouched {s : State} (h : s.Sound) {o ranges} : (s.opTouched o ranges).Sound := by
  unfold State.opTouched
  split
  · exact h.barTouched
  · exact h

theorem State.Sound.opClearPoison {s : State} (h : s.Sound) {o n} : (s.opClearPoison o n).Sound := by
  unfold State.opClearPoison
  split
  · exact h
  · exact h.clearPoison

theorem State.Sound.opDeliver {s : State} (h : s.Sound) {o vals} : (s.opDeliver o vals).Sound := by
  dsimp only [State.opDeliver]
  split
  · exact h.logLanes.foldl fun h' => h'.placeFlags
  · exact (h.logLanes.foldl fun h' => h'.placeFlags).foldl fun h' => .ite h'.placeResult.placeResult h'.placeResult

theorem State.Sound.opCarry {s : State} (h : s.Sound) {o ids} : (s.opCarry o ids).Sound := by
  unfold State.opCarry
  split
  · exact h
  · exact h.carryTo

theorem State.Sound.performLoad {s : State} (h : s.Sound) {o moments} : (s.performLoad o moments).Sound :=
  State.Sound.opDeliver (State.Sound.foldl (.ite h.opCarry (h.opCarry.foldl fun h' => h'.charge)) (fun h' => h'.noteAccess))

theorem State.Sound.performStore {s : State} (h : s.Sound) {o} : (s.performStore o).Sound :=
  (h.foldl fun h' => h'.opWrite).opTouched.opClearPoison

theorem State.Sound.atomicStep {s : State} (h : s.Sound) {o e} : (s.atomicStep o e).1.Sound :=
  State.Sound.opTouched (State.Sound.opWrite (.ite h h.atomicMeets.opCarry))

theorem State.Sound.performAtomic {s : State} (h : s.Sound) {o} : (s.performAtomic o).Sound :=
  (h.foldl_fst fun h' => by exact h'.atomicStep).opClearPoison.opDeliver

theorem State.Sound.performAccLoad {s : State} (h : s.Sound) {o} : (s.performAccLoad o).Sound :=
  State.Sound.congr (State.Sound.foldl (.ite h.opCarry.logPut (h.opCarry.logPut.foldl fun h' => h'.charge)) (fun h' => h'.noteAccess))

theorem State.Sound.performAccStore {s : State} (h : s.Sound) {o} : (s.performAccStore o).Sound := by
  unfold State.performAccStore
  split
  · exact (h.foldl fun h' => h'.opWrite).opTouched
  · exact (h.foldl fun h' => h'.opWrite).opTouched.clearPoison

theorem State.Sound.performWellAdd {s : State} (h : s.Sound) {o} : (s.performWellAdd o).Sound := by
  refine State.Sound.updOwner (State.Sound.clearPoison (h.carry.foldl fun h' => ?_))
  split
  next hu => exact (h'.spoilCards.of_fst hu).writeAll.charge

theorem State.Sound.performWellTake {s : State} (h : s.Sound) {o} : (s.performWellTake o).Sound := h.opDeliver.foldl fun h' => h'.placeResult

theorem State.Sound.dropOp {s : State} (h : s.Sound) {id} : (s.dropOp id).Sound := h.congr

theorem State.Sound.perform {s : State} (h : s.Sound) {o moments} : (s.perform o moments).Sound := by
  unfold State.perform
  split
  · exact h.performLoad
  · exact h.performStore
  · exact h.performStore
  · exact h.performAtomic
  · exact h.performAccLoad
  · exact h.performAccStore
  · exact h.performWellAdd
  · exact h.performWellTake

/-! ### Reservations -/

theorem State.Sound.freeReservation {s : State} (h : s.Sound) {core q} : (s.freeReservation core q).Sound := h.congr

theorem State.Sound.noteOldest {s : State} (h : s.Sound) {core} : (s.noteOldest core).Sound := by
  unfold State.noteOldest
  split
  · exact h.congr
  split
  · exact h
  · exact h.congr

theorem State.Sound.recount {s : State} (h : s.Sound) : s.recount.Sound := h.foldl fun h' => h'.noteOldest

theorem State.Sound.noteCluster {s : State} (h : s.Sound) {k} : (s.noteCluster k).Sound := h.foldl fun h' => h'.noteOldest

/-! ### The named operations of the machine -/

theorem State.Sound.tick {s : State} (h : s.Sound) {dt} : (s.tick dt).Sound := by
  unfold State.tick
  split
  · exact h
  · exact h.congr_owners (by simp)

theorem State.Sound.noteDraw {s : State} (h : s.Sound) {weight plan piped} : (s.noteDraw weight plan piped).Sound := by
  unfold State.noteDraw
  split
  · exact h
  · exact h.congr

theorem State.Sound.noteIssue {s : State} (h : s.Sound) {c i w} : (s.noteIssue c i w).Sound :=
  State.Sound.noteDraw (State.Sound.updOwner (State.Sound.updLaunch (by split; exacts [h.updPathGroup, h.updPathGroup.logSwitch])))

theorem State.Sound.finish {s : State} (h : s.Sound) {c i} : (s.finish c i).Sound := h.flushLog.updPath

theorem State.Sound.fenceEffect {s : State} (h : s.Sound) {r kind scope mark} : (s.fenceEffect r kind scope mark).Sound :=
  State.Sound.updPath (.ite h.carry h)

theorem State.Sound.acquireNow {s : State} (h : s.Sound) {r mark} : (s.acquireNow r mark).Sound := h.fenceEffect.updPath

theorem State.Sound.passWord {s : State} (h : s.Sound) {r} : (s.passWord r).Sound := h.updPath

theorem State.Sound.endQuiet {s : State} (h : s.Sound) {r v} : (s.endQuiet r v).Sound := by
  unfold State.endQuiet
  split
  · exact h
  split
  · exact (h.foldl fun h' => h'.placeResult).logPut.passWord.savePath
  · exact h

theorem State.Sound.wakeQuiet {s : State} (h : s.Sound) {o n} : (s.wakeQuiet o n).Sound := h.foldl fun h' => h'.endQuiet

theorem State.Sound.completeOp {s : State} (h : s.Sound) {o moments} : (s.completeOp o moments).Sound := by
  unfold State.completeOp
  split
  · exact h.perform.sbFall.dropOp.wakeQuiet
  · exact h.perform.sbFall.dropOp

theorem State.Sound.heldByCap {s : State} (h : s.Sound) {r} : (s.heldByCap r).Sound := h.updPath

theorem State.Sound.wspillWrites {s : State} (h : s.Sound) {c lo n areas} : (s.wspillWrites c lo n areas).Sound := h.spillLines.writeAreas

theorem State.Sound.wspillEnds {s : State} (h : s.Sound) {r} : (s.wspillEnds r).Sound := by
  unfold State.wspillEnds
  split
  · exact h
  split
  · exact h.wspillWrites.passWord
  · exact h

theorem State.Sound.startOp {s : State} (h : s.Sound) {c o regs m} : (s.startOp c o regs m).Sound :=
  State.Sound.updPathGroup (.ite (h.grow (by simp) (by simp)) (h.grow (by simp) (by simp)).updOwner)

theorem State.Sound.interrupt {s : State} (h : s.Sound) {o cause} : (s.interrupt o cause).Sound := by
  dsimp only [State.interrupt]
  split <;> exact h.congr

theorem State.Sound.ringPost {s : State} (h : s.Sound) {o base l2 size bs} : (s.ringPost o base l2 size bs).1.Sound := by
  unfold State.ringPost
  split
  · split
    · exact h.chargeVirt
    · exact h.chargeVirt.writeVirt.writeVirt
  · exact h

theorem State.Sound.report {s : State} (h : s.Sound) {o tag detail disp imageid} : (s.report o tag detail disp imageid).Sound :=
  State.Sound.interrupt (by split; exacts [.ite h h.ringPost, h])

theorem State.Sound.violate {s : State} (h : s.Sound) {c tag detail} : (s.violate c tag detail).Sound := h.updBlock

theorem State.Sound.leave {s : State} (h : s.Sound) {c gone} : (s.leave c gone).Sound :=
  State.Sound.updPathGroup (State.Sound.updBlock (by split; exacts [h, h.violate]))

theorem State.Sound.mmaEnds {s : State} (h : s.Sound) {m} : (s.mmaEnds m).Sound := h.updOwner.congr.congr.foldl fun h' => h'.sbFall

theorem State.Sound.finishNext {s : State} (h : s.Sound) {l b} : (s.finishNext l b).Sound := by
  dsimp only [State.finishNext]
  split
  · exact h.completeOp
  split
  · exact h.mmaEnds
  · exact h

theorem State.Sound.finishMatrix {s : State} (h : s.Sound) {l b} : (s.finishMatrix l b).Sound := h.foldl fun h' => h'.finishNext

theorem State.Sound.tilesOut {s : State} (h : s.Sound) {x y} : (s.tilesOut x y).Sound := by
  refine State.Sound.updBlock (State.Sound.congr (State.Sound.foldl h fun h' => ?_))
  dsimp only
  split
  · exact h'.imageWrite.foldl fun h₂ => by split; exacts [h₂.markPoison, h₂]
  · exact h'.imageWrite

theorem State.Sound.preemptBlock {s : State} (h : s.Sound) {l b payer} : (s.preemptBlock l b payer).Sound := by
  unfold State.preemptBlock
  split
  · exact h
  split
  · exact h
  split
  · exact h
  extract_lets +onlyGivenNames core quiet s1 s2 s3
  have h1 : s1.Sound := h.foldl fun h' => h'.wspillEnds
  have h3 : s3.Sound := h1.updBlock.finishMatrix
  split
  · exact h3
  split
  · exact h3
  extract_lets +onlyGivenNames s4 s5 x' s6 s7 s8
  have h4 : s4.Sound := h3.foldl fun h' => h'.writeHeaderAreas
  have h5 : s5.Sound := h4.foldl fun h' => h'.freeReservation
  have h8 : s8.Sound := h5.spadOut.tilesOut.congr.updBlock
  exact h8.updLaunch.noteCluster

theorem State.Sound.stopOwner {s : State} (h : s.Sound) {o tag detail imageid} : (s.stopOwner o tag detail imageid).Sound := by
  unfold State.stopOwner
  split
  · exact h
  extract_lets t blocks u v w
  have hu : u.Sound := State.Sound.foldl (State.Sound.recount h.congr) fun h' => h'.preemptBlock
  have hw : w.Sound := hu.updOwner.congr
  exact hw.report.interrupt

theorem State.Sound.removeOrigin {s : State} (h : s.Sound) {id} : (s.removeOrigin id).Sound := by
  dsimp only [State.removeOrigin]
  split <;> exact h.congr

theorem State.Sound.collect {s : State} (h : s.Sound) {o kind detail tag src completed depth unit mark addr marked} :
    (s.collect o kind detail tag src completed depth unit mark addr marked).Sound := by
  unfold State.collect
  extract_lets front g t add
  clear_value front
  have h' : t.Sound := .ite h.updOwner h
  split
  · exact h'.grow le_rfl (Nat.le_succ _)
  split <;> exact h'.grow le_rfl (Nat.le_succ _)

theorem State.Sound.resumePath {s : State} (h : s.Sound) {r} : (s.resumePath r).Sound := by
  unfold State.resumePath
  split
  · split
    · exact h.updPath
    · exact h
  · exact h

theorem State.Sound.originOf {s : State} (h : s.Sound) {c src lane gone f completed mark} : (s.originOf c src lane gone f completed mark).Sound := by
  dsimp only [State.originOf]
  split
  · split
    · exact h
    · exact h.leave
  split
  · split
    · exact h.collect.stopOwner
    · exact h.collect
  · exact h.collect

theorem State.Sound.reportNone {s : State} (h : s.Sound) {c lane f} : (s.reportNone c lane f).Sound := h.report

theorem State.Sound.faulted {s : State} (h : s.Sound) {c completed} : (s.faulted c completed).Sound := h.updPathGroup

theorem State.Sound.faultLanes {s : State} (h : s.Sound) {c fs completed mark} : (s.faultLanes c fs completed mark).Sound := by
  unfold State.faultLanes
  split
  · exact h
  · exact State.Sound.resumePath (by split; exacts [h.faulted.foldl fun h' => h'.originOf, (h.faulted.foldl fun h' => h'.originOf).reportNone])

theorem State.Sound.faultPath {s : State} (h : s.Sound) {c f completed} : (s.faultPath c f completed).Sound :=
  State.Sound.resumePath (.ite h.faulted.originOf.reportNone h.faulted.originOf)

theorem State.Sound.illegal {s : State} (h : s.Sound) {c detail} : (s.illegal c detail).Sound := h.faultPath

theorem State.Sound.updRecord {s : State} (h : s.Sound) {id f} : (s.updRecord id f).Sound := h.congr

theorem State.Sound.dropWells {s : State} (h : s.Sound) {o} : (s.dropWells o).Sound := (h.foldl fun h' => h'.writeVirt).updOwner

theorem State.Sound.refuse {s : State} (h : s.Sound) {l detail} : (s.refuse l detail).Sound := by
  unfold State.refuse
  split
  · exact h
  · exact h.updLaunch.report.dropWells

theorem State.Sound.updQueue {s : State} (h : s.Sound) {q f} : (s.updQueue q f).Sound := h.congr

theorem State.Sound.advanceHead {s : State} (h : s.Sound) {q} : (s.advanceHead q).Sound := by
  unfold State.advanceHead
  split
  · exact h
  · exact h.updQueue.writeVirt

theorem State.Sound.skipEntry {s : State} (h : s.Sound) {q detail} : (s.skipEntry q detail).Sound := by
  unfold State.skipEntry
  split
  · exact h
  · exact h.congr.advanceHead.report

theorem State.Sound.releaseOne {s : State} (h : s.Sound) {g retry} : (s.releaseOne g retry).Sound := by
  dsimp only [State.releaseOne]
  split
  · split
    · exact h.congr.updPath
    · exact h.congr
  · split
    · exact h.congr.updPath
    · exact h.congr
  · exact h.congr.updRecord
  · split
    · exact h.congr
    · exact h.congr.skipEntry
  · split
    · exact h.congr
    · exact h.congr.refuse
  split
  · exact h.congr
  · exact h.congr.refuse

theorem State.Sound.release {s : State} (h : s.Sound) {id retry} : (s.release id retry).Sound := h.foldl fun h' => h'.releaseOne

/-! ### Before and after the effect of a word -/

/-- The state in which the gate holds a word is sound. -/
theorem State.Sound.gate {s t : State} (h : s.Sound) {c i} (e : s.gate c i = .held t) : t.Sound := by
  unfold State.gate at e
  split at e
  · cases e; exact h.illegal
  split at e
  · cases e
  split at e
  · cases e; exact h.setStatus
  split at e
  · cases e; exact h.setStatus
  split at e
  · cases e; exact h.updPath
  split at e
  · cases e; exact h.faultPath
  split at e
  · cases e; exact h.faultPath
  · cases e

theorem State.Sound.afterAcquire {s : State} (h : s.Sound) {c i eff} (heff : ∀ {c'} {u : State}, u.Sound → (eff c' u).Sound) :
    (s.afterAcquire c i eff).Sound := by
  dsimp only [State.afterAcquire]
  split
  · exact heff h
  split
  · exact h.setStatus
  split
  · exact h.acquireNow
  · exact heff h.acquireNow

theorem State.Sound.word {s : State} (h : s.Sound) {i eff} (heff : ∀ {c} {u : State}, u.Sound → (eff c u).Sound) : NextSound (s.word i eff) := by
  unfold State.word
  split
  · exact nextSound_fault _
  split
  · exact (h.gate ‹_›).next
  · exact (h.afterAcquire heff).next

theorem State.Sound.completes {s : State} (h : s.Sound) {c i extra body} (hbody : ∀ {u : State}, u.Sound → (body u).Sound) :
    (s.completes c i extra body).Sound :=
  (hbody h.noteIssue).finish

theorem State.Sound.writeScalarReg {s : State} (h : s.Sound) {c r v ready covered} : (s.writeScalarReg c r v ready covered).Sound := h.updPathGroup

theorem State.Sound.writeScalars {s : State} (h : s.Sound) {c v w x ready covered} : (s.writeScalars c v w x ready covered).Sound := by
  unfold State.writeScalars
  split
  · exact h.writeScalarReg.writeScalarReg
  · exact h.writeScalarReg

theorem State.Sound.writeTriple {s : State} (h : s.Sound) {c r m ready} : (s.writeTriple c r m ready).Sound := h.foldl fun h' => h'.writeScalarReg

theorem State.Sound.dropFlagOps {s : State} (h : s.Sound) {r m} : (s.dropFlagOps r m).Sound := h.congr

theorem State.Sound.writeVector {s : State} (h : s.Sound) {c i d n zero vals} : (s.writeVector c i d n zero vals).Sound := by
  unfold State.writeVector
  split
  · split
    · exact h
    · exact h.writeScalars
  split
  · exact h.dropFlagOps.updPathGroup
  · exact h.updPathGroup

/-! ### Clauses -/

theorem State.Sound.chargeCode {s : State} (h : s.Sound) {o va n} : (s.chargeCode o va n).Sound := by
  unfold State.chargeCode
  split
  · exact h
  · exact h.charge

theorem State.Sound.beginClause {s : State} (h : s.Sound) {c} : (s.beginClause c).Sound := by
  unfold State.beginClause
  split
  · exact h.heldByCap
  split
  · exact h.faultPath
  dsimp only
  split
  · exact State.Sound.faultPath (State.Sound.updPath (.ite h.chargeCode h))
  split
  · exact State.Sound.updPathGroup (State.Sound.updPath (.ite h.chargeCode h))
  · exact State.Sound.setStatus (State.Sound.updPath (.ite h.chargeCode h))

theorem execClauseWaitClear_sound {s : State} (h : s.Sound) {r} : NextSound (execClauseWaitClear r s) := by
  unfold execClauseWaitClear
  split
  · exact h.next
  split
  · refine State.Sound.next ?_
    split
    · exact h.setStatus
    · exact h
  · exact h.next

theorem State.Sound.answerLines {s : State} (h : s.Sound) {c ls o retry} : (s.answerLines c ls o retry).Sound := h.updPathGroup

theorem State.Sound.acquireFrom {s : State} (h : s.Sound) {g reads} : (s.acquireFrom g reads).Sound := by
  unfold State.acquireFrom
  split
  · exact h.updPath
  · exact h.updPath
  · exact h

theorem State.Sound.answer {s : State} (h : s.Sound) {id retry reads} : (s.answer id retry reads).Sound :=
  h.foldl fun h' => by dsimp only; split; exacts [h'.acquireFrom.answerLines.releaseOne, h'.acquireFrom.releaseOne]

/-! ### Stops -/

theorem State.Sound.postStop {s : State} (h : s.Sound) {o ws} : (s.postStop o ws).Sound := by
  unfold State.postStop
  dsimp only
  split
  · exact h.updOwner
  split
  · exact h.ringPost.of_fst ‹_›
  · exact (h.ringPost.of_fst ‹_›).updOwner

theorem State.Sound.stopOne {s : State} (h : s.Sound) {r cause bk} : (s.stopOne r cause bk).Sound := by
  unfold State.stopOne
  split
  · exact h
  dsimp only
  split
  · exact h.updPath
  · exact h.updPath.spillLines.writeHeaderAreas.carry.postStop

theorem State.Sound.stopSibling {s : State} (h : s.Sound) {r} : (s.stopSibling r).Sound := by
  unfold State.stopSibling
  split
  · exact h
  split
  · exact h
  split
  · split
    · exact h.stopOne
  · exact h.updPath

theorem State.Sound.stopPath {s : State} (h : s.Sound) {r cause bk} : (s.stopPath r cause bk).Sound := by
  unfold State.stopPath
  dsimp only
  split
  · exact h.stopOne.foldl fun h' => h'.stopSibling
  · exact h.stopOne

theorem State.Sound.stepChild {s : State} (h : s.Sound) {r stepping} : (s.stepChild r stepping).Sound := by
  unfold State.stepChild
  split
  · exact h.stopPath
  · exact h

/-! ### Lane words -/

theorem State.Sound.flagWord {s : State} (h : s.Sound) {c i rs} : (s.flagWord c i rs).Sound := by
  unfold State.flagWord
  dsimp only
  split
  · exact h.updPathGroup
  · exact h.updPathGroup.updOwner

theorem State.Sound.vectorBody {s : State} (h : s.Sound) {c i d n zero flags rs} : (s.vectorBody c i d n zero flags rs).Sound := by
  unfold State.vectorBody
  extract_lets s1 s2 s3 s4
  split
  · exact h.noteIssue.finish
  have h4 : s4.Sound := State.Sound.finish (.ite h.noteIssue.writeVector.flagWord h.noteIssue.writeVector)
  exact .ite h4.faultLanes h4

theorem State.Sound.laneWord {s : State} (h : s.Sound) {i d n flags f} : NextSound (s.laneWord i d n flags f) := h.word fun h' => h'.vectorBody

end Sys2Proof.Machine
end

section
/-! SUPPORT. The words of programs keep the canonical form. -/

namespace Sys2Proof.Machine

-- Hundreds of short lemmas that cite each other: elaborated one after the other, they need no thread each.
set_option Elab.async false

/-! ### Scalar and mask words -/

theorem State.Sound.scalar3 {s : State} (h : s.Sound) {i d a b f} : NextSound (s.scalar3 i d a b f) :=
  h.word fun h' => h'.completes fun h₂ => h₂.writeScalars

theorem State.Sound.scalar2 {s : State} (h : s.Sound) {i d a f} : NextSound (s.scalar2 i d a f) :=
  h.word fun h' => h'.completes fun h₂ => h₂.writeScalars

theorem State.Sound.mask3 {s : State} (h : s.Sound) {i d a b f} : NextSound (s.mask3 i d a b f) :=
  h.word fun h' => h'.completes fun h₂ => h₂.writeTriple

theorem State.Sound.mask2 {s : State} (h : s.Sound) {i d a f} : NextSound (s.mask2 i d a f) :=
  h.word fun h' => h'.completes fun h₂ => h₂.writeTriple

theorem execAdd_sound {s : State} (h : s.Sound) {st d a b} : NextSound (execAdd st d a b s) := h.scalar3

theorem execSub_sound {s : State} (h : s.Sound) {st d a b} : NextSound (execSub st d a b s) := h.scalar3

theorem execMul_sound {s : State} (h : s.Sound) {st d a b} : NextSound (execMul st d a b s) := h.scalar3

theorem execMulh_sound {s : State} (h : s.Sound) {st d a b} : NextSound (execMulh st d a b s) := h.scalar3

theorem execDiv_sound {s : State} (h : s.Sound) {st d a b} : NextSound (execDiv st d a b s) := h.scalar3

theorem execRem_sound {s : State} (h : s.Sound) {st d a b} : NextSound (execRem st d a b s) := h.scalar3

theorem execAnd_sound {s : State} (h : s.Sound) {st d a b} : NextSound (execAnd st d a b s) := h.scalar3

theorem execOr_sound {s : State} (h : s.Sound) {st d a b} : NextSound (execOr st d a b s) := h.scalar3

theorem execXor_sound {s : State} (h : s.Sound) {st d a b} : NextSound (execXor st d a b s) := h.scalar3

theorem execShl_sound {s : State} (h : s.Sound) {st d a b} : NextSound (execShl st d a b s) := h.scalar3

theorem execShr_sound {s : State} (h : s.Sound) {st d a b} : NextSound (execShr st d a b s) := h.scalar3

theorem execSar_sound {s : State} (h : s.Sound) {st d a b} : NextSound (execSar st d a b s) := h.scalar3

theorem execMin_sound {s : State} (h : s.Sound) {st d a b} : NextSound (execMin st d a b s) := h.scalar3

theorem execMax_sound {s : State} (h : s.Sound) {st d a b} : NextSound (execMax st d a b s) := h.scalar3

theorem execSel_sound {s : State} (h : s.Sound) {st d a b} : NextSound (execSel st d a b s) :=
  h.word fun h' => h'.completes fun h₂ => h₂.writeScalars

theorem execCmp_sound {s : State} (h : s.Sound) {st cnd d a b} : NextSound (execCmp st cnd d a b s) :=
  h.word fun h' => h'.completes fun h₂ => h₂.writeTriple

theorem execMov_sound {s : State} (h : s.Sound) {st d a} : NextSound (execMov st d a s) := h.scalar2

theorem execNot_sound {s : State} (h : s.Sound) {st d a} : NextSound (execNot st d a s) := h.scalar2

theorem execAbs_sound {s : State} (h : s.Sound) {st d a} : NextSound (execAbs st d a s) := h.scalar2

theorem execNeg_sound {s : State} (h : s.Sound) {st d a} : NextSound (execNeg st d a s) := h.scalar2

theorem execClz_sound {s : State} (h : s.Sound) {st d a} : NextSound (execClz st d a s) := h.scalar2

theorem execPopc_sound {s : State} (h : s.Sound) {st d a} : NextSound (execPopc st d a s) := h.scalar2

theorem execMmov_sound {s : State} (h : s.Sound) {st d a} : NextSound (execMmov st d a s) := h.mask2

theorem execMnot_sound {s : State} (h : s.Sound) {st d a} : NextSound (execMnot st d a s) := h.mask2

theorem execMpop_sound {s : State} (h : s.Sound) {st d a} : NextSound (execMpop st d a s) := h.word fun h' => h'.completes fun h₂ => h₂.writeScalars

theorem execMovk_sound {s : State} (h : s.Sound) {st d v} : NextSound (execMovk st d v s) := h.word fun h' => h'.completes fun h₂ => h₂.writeScalars

theorem execMand_sound {s : State} (h : s.Sound) {st d a b} : NextSound (execMand st d a b s) := h.mask3

theorem execMor_sound {s : State} (h : s.Sound) {st d a b} : NextSound (execMor st d a b s) := h.mask3

theorem execMxor_sound {s : State} (h : s.Sound) {st d a b} : NextSound (execMxor st d a b s) := h.mask3

theorem execMandn_sound {s : State} (h : s.Sound) {st d a b} : NextSound (execMandn st d a b s) := h.mask3

theorem execTrip_sound {s : State} (h : s.Sound) {st d a} : NextSound (execTrip st d a s) := h.word fun h' => h'.completes fun h₂ => h₂.writeScalars

theorem execNop_sound {s : State} (h : s.Sound) {st} : NextSound (execNop st s) := h.word fun h' => h'.completes fun h₂ => h₂

theorem execRdmode_sound {s : State} (h : s.Sound) {st d} : NextSound (execRdmode st d s) := h.word fun h' => h'.completes fun h₂ => h₂.writeScalars

theorem execWrmode_sound {s : State} (h : s.Sound) {st a} : NextSound (execWrmode st a s) :=
  h.word fun h' => .ite h'.illegal (h'.completes fun h₂ => h₂.updPathGroup)

/-! ### Control flow -/

theorem State.Sound.jumps {s : State} (h : s.Sound) {c i extra target} : (s.jumps c i extra target).Sound := h.noteIssue.updPath

theorem execBra_sound {s : State} (h : s.Sound) {st o} : NextSound (execBra st o s) := h.word fun h' => h'.jumps

theorem State.Sound.branch {s : State} (h : s.Sound) {c i taken target} : (s.branch c i taken target).Sound := by
  unfold State.branch
  split
  · exact h.jumps
  · exact h.completes fun h' => h'

theorem execBrz_sound {s : State} (h : s.Sound) {st a o} : NextSound (execBrz st a o s) := h.word fun h' => h'.branch

theorem execBrnz_sound {s : State} (h : s.Sound) {st a o} : NextSound (execBrnz st a o s) := h.word fun h' => h'.branch

theorem State.Sound.storeFrame {s : State} (h : s.Sound) {c o} : (s.storeFrame c o).Sound := by
  unfold State.storeFrame
  split
  · exact h.performStore
  · exact h.startOp

theorem execCall_sound {s : State} (h : s.Sound) {st n o} : NextSound (execCall st n o s) :=
  h.word fun h' => .ite (h'.completes fun h₂ => h₂) (.ite h'.illegal (.ite h'.illegal (.ite h'.heldByCap h'.storeFrame.noteIssue.updPathGroup)))

theorem State.Sound.killImageLine {s : State} (h : s.Sound) {c line} : (s.killImageLine c line).Sound := h.imageSpoil

theorem execRet_sound {s : State} (h : s.Sound) {st} : NextSound (execRet st s) := by
  refine h.word fun h' => .ite h'.illegal (.ite h'.setStatus (.ite h'.heldByCap (.ite h'.illegal ?_)))
  exact (h'.noteIssue.chargeImage.foldl fun h₂ => h₂.killImageLine).takeFreeOf.updPathGroup

theorem execFork_sound {s : State} (h : s.Sound) {st d a v} : NextSound (execFork st d a v s) := by
  refine h.word fun h' => ?_
  split
  · exact h'.illegal
  · exact h'.illegal
  · refine State.Sound.stepChild (.ite ?_ ?_)
    · exact h'.noteIssue.updPathGroup.writeScalarReg.updPathGroup
    · exact h'.noteIssue.updPathGroup.writeScalarReg

theorem execJoin_sound {s : State} (h : s.Sound) {st a} : NextSound (execJoin st a s) :=
  h.word fun h' => .ite h'.noteIssue.updPathGroup (h'.completes fun h₂ => h₂)

theorem execExit_sound {s : State} (h : s.Sound) {st} : NextSound (execExit st s) :=
  h.word fun h' => .ite (h'.completes fun h₂ => h₂) (h'.completes fun h₂ => h₂).leave

theorem execSleep_sound {s : State} (h : s.Sound) {st a} : NextSound (execSleep st a s) :=
  h.word fun h' => .ite (h'.completes fun h₂ => h₂) (h'.completes fun h₂ => h₂).setStatus

theorem execSleepExpire_sound {s : State} (h : s.Sound) {r} : NextSound (execSleepExpire r s) := by
  unfold execSleepExpire
  split
  · split
    · refine State.Sound.next ?_
      split
      · exact h.setStatus
      · exact h
    · exact h.next
  · exact h.next

/-! ### Vector integer words -/

theorem State.Sound.vecInt3 {s : State} (h : s.Sound) {i d a b f} : NextSound (s.vecInt3 i d a b f) := h.laneWord

theorem State.Sound.vecInt2 {s : State} (h : s.Sound) {i d a f} : NextSound (s.vecInt2 i d a f) := h.laneWord

theorem State.Sound.vecCmp {s : State} (h : s.Sound) {i d flags f} : NextSound (s.vecCmp i d flags f) := by
  refine h.word fun h' => ?_
  extract_lets rs fs ready s1 s2 s3
  have h2 : s2.Sound := .ite h'.noteIssue.writeTriple.flagWord h'.noteIssue.writeTriple
  exact .ite h2.finish.faultLanes h2.finish

theorem execAddVectorInt_sound {s : State} (h : s.Sound) {st d a b} : NextSound (execAddVectorInt st d a b s) := h.vecInt3

theorem execSubVectorInt_sound {s : State} (h : s.Sound) {st d a b} : NextSound (execSubVectorInt st d a b s) := h.vecInt3

theorem execMulVectorInt_sound {s : State} (h : s.Sound) {st d a b} : NextSound (execMulVectorInt st d a b s) := h.vecInt3

theorem execMulhVectorInt_sound {s : State} (h : s.Sound) {st d a b} : NextSound (execMulhVectorInt st d a b s) := h.vecInt3

theorem execDivVectorInt_sound {s : State} (h : s.Sound) {st d a b} : NextSound (execDivVectorInt st d a b s) := h.vecInt3

theorem execRemVectorInt_sound {s : State} (h : s.Sound) {st d a b} : NextSound (execRemVectorInt st d a b s) := h.vecInt3

theorem execAndVector_sound {s : State} (h : s.Sound) {st d a b} : NextSound (execAndVector st d a b s) := h.vecInt3

theorem execOrVector_sound {s : State} (h : s.Sound) {st d a b} : NextSound (execOrVector st d a b s) := h.vecInt3

theorem execXorVector_sound {s : State} (h : s.Sound) {st d a b} : NextSound (execXorVector st d a b s) := h.vecInt3

theorem execShlVector_sound {s : State} (h : s.Sound) {st d a b} : NextSound (execShlVector st d a b s) := h.vecInt3

theorem execShrVector_sound {s : State} (h : s.Sound) {st d a b} : NextSound (execShrVector st d a b s) := h.vecInt3

theorem execSarVector_sound {s : State} (h : s.Sound) {st d a b} : NextSound (execSarVector st d a b s) := h.vecInt3

theorem execMinVectorInt_sound {s : State} (h : s.Sound) {st d a b} : NextSound (execMinVectorInt st d a b s) := h.vecInt3

theorem execMaxVectorInt_sound {s : State} (h : s.Sound) {st d a b} : NextSound (execMaxVectorInt st d a b s) := h.vecInt3

theorem execSelVector_sound {s : State} (h : s.Sound) {st d a b} : NextSound (execSelVector st d a b s) := h.laneWord

theorem execCmpVectorInt_sound {s : State} (h : s.Sound) {st cnd d a b} : NextSound (execCmpVectorInt st cnd d a b s) := h.vecCmp

theorem execMovVector_sound {s : State} (h : s.Sound) {st d a} : NextSound (execMovVector st d a s) := h.vecInt2

theorem execNotVector_sound {s : State} (h : s.Sound) {st d a} : NextSound (execNotVector st d a s) := h.vecInt2

theorem execAbsVectorInt_sound {s : State} (h : s.Sound) {st d a} : NextSound (execAbsVectorInt st d a s) := h.vecInt2

theorem execNegVectorInt_sound {s : State} (h : s.Sound) {st d a} : NextSound (execNegVectorInt st d a s) := h.vecInt2

theorem execClzVector_sound {s : State} (h : s.Sound) {st d a} : NextSound (execClzVector st d a s) := h.vecInt2

theorem execPopcVector_sound {s : State} (h : s.Sound) {st d a} : NextSound (execPopcVector st d a s) := h.vecInt2

/-! ### Vector floating words -/

theorem State.Sound.vecFlt3 {s : State} (h : s.Sound) {i f d a b op} : NextSound (s.vecFlt3 i f d a b op) := h.laneWord

theorem State.Sound.vecFlt2 {s : State} (h : s.Sound) {i f d a op} : NextSound (s.vecFlt2 i f d a op) := h.laneWord

theorem State.Sound.vecFma {s : State} (h : s.Sound) {i f d a b} : NextSound (s.vecFma i f d a b) := h.laneWord

theorem State.Sound.vecBits {s : State} (h : s.Sound) {i d a op} : NextSound (s.vecBits i d a op) := h.laneWord

theorem execAddFloat_sound {s : State} (h : s.Sound) {st d a b} : NextSound (execAddFloat st d a b s) := h.vecFlt3

theorem execSubFloat_sound {s : State} (h : s.Sound) {st d a b} : NextSound (execSubFloat st d a b s) := h.vecFlt3

theorem execMulFloat_sound {s : State} (h : s.Sound) {st d a b} : NextSound (execMulFloat st d a b s) := h.vecFlt3

theorem execFmaFloat_sound {s : State} (h : s.Sound) {st d a b} : NextSound (execFmaFloat st d a b s) := h.vecFma

theorem execDivFloat_sound {s : State} (h : s.Sound) {st d a b} : NextSound (execDivFloat st d a b s) := h.vecFlt3

theorem execSqrt_sound {s : State} (h : s.Sound) {st d a} : NextSound (execSqrt st d a s) := h.vecFlt2

theorem execRsq_sound {s : State} (h : s.Sound) {st d a} : NextSound (execRsq st d a s) := h.vecFlt2

theorem execRcp_sound {s : State} (h : s.Sound) {st d a} : NextSound (execRcp st d a s) := h.vecFlt2

theorem execMinFloat_sound {s : State} (h : s.Sound) {st d a b} : NextSound (execMinFloat st d a b s) := h.vecFlt3

theorem execMaxFloat_sound {s : State} (h : s.Sound) {st d a b} : NextSound (execMaxFloat st d a b s) := h.vecFlt3

theorem execCmpFloat_sound {s : State} (h : s.Sound) {st cnd d a b} : NextSound (execCmpFloat st cnd d a b s) := h.vecCmp

theorem execClassify_sound {s : State} (h : s.Sound) {st d a b} : NextSound (execClassify st d a b s) := h.laneWord

theorem execAbsFloat_sound {s : State} (h : s.Sound) {st d a} : NextSound (execAbsFloat st d a s) := h.vecBits

theorem execNegFloat_sound {s : State} (h : s.Sound) {st d a} : NextSound (execNegFloat st d a s) := h.vecBits

theorem execAddF64_sound {s : State} (h : s.Sound) {st d a b} : NextSound (execAddF64 st d a b s) := h.vecFlt3

theorem execSubF64_sound {s : State} (h : s.Sound) {st d a b} : NextSound (execSubF64 st d a b s) := h.vecFlt3

theorem execMulF64_sound {s : State} (h : s.Sound) {st d a b} : NextSound (execMulF64 st d a b s) := h.vecFlt3

theorem execFmaF64_sound {s : State} (h : s.Sound) {st d a b} : NextSound (execFmaF64 st d a b s) := h.vecFma

/-! ### Conversions -/

theorem State.Sound.vecCvt {s : State} (h : s.Sound) {i n d a f op} : NextSound (s.vecCvt i n d a f op) := h.laneWord

theorem execCvtF64_sound {s : State} (h : s.Sound) {st d a f} : NextSound (execCvtF64 st d a f s) := h.vecCvt

theorem execCvtF32_sound {s : State} (h : s.Sound) {st d a f} : NextSound (execCvtF32 st d a f s) := h.vecCvt

theorem execCvtF16_sound {s : State} (h : s.Sound) {st d a f} : NextSound (execCvtF16 st d a f s) := h.vecCvt

theorem execCvtBf16_sound {s : State} (h : s.Sound) {st d a f} : NextSound (execCvtBf16 st d a f s) := h.vecCvt

theorem execCvtE4m3_sound {s : State} (h : s.Sound) {st d a f} : NextSound (execCvtE4m3 st d a f s) := h.vecCvt

theorem execCvtE5m2_sound {s : State} (h : s.Sound) {st d a f} : NextSound (execCvtE5m2 st d a f s) := h.vecCvt

theorem execCvtL32_sound {s : State} (h : s.Sound) {st d a f} : NextSound (execCvtL32 st d a f s) := h.vecCvt

theorem execCvtInt_sound {s : State} (h : s.Sound) {st d a f} : NextSound (execCvtInt st d a f s) := h.vecCvt

theorem execCvtCode_sound {s : State} (h : s.Sound) {st d a k f} : NextSound (execCvtCode st d a k f s) := h.vecCvt

theorem execCvtb_sound {s : State} (h : s.Sound) {st d a b} : NextSound (execCvtb st d a b s) :=
  h.word fun h' => .ite h'.vectorBody (.ite h'.illegal (.ite h'.illegal h'.vectorBody))

theorem State.Sound.vecLog {s : State} (h : s.Sound) {i d a b k op} : NextSound (s.vecLog i d a b k op) := h.laneWord

theorem execLnsmul_sound {s : State} (h : s.Sound) {st d a b} : NextSound (execLnsmul st d a b s) := h.vecLog

theorem execLnsdiv_sound {s : State} (h : s.Sound) {st d a b} : NextSound (execLnsdiv st d a b s) := h.vecLog

theorem execLnsadd_sound {s : State} (h : s.Sound) {st d a b} : NextSound (execLnsadd st d a b s) := h.vecLog

theorem execLnsroot_sound {s : State} (h : s.Sound) {st d a b} : NextSound (execLnsroot st d a b s) := h.vecLog

theorem execLnspow_sound {s : State} (h : s.Sound) {st d a b} : NextSound (execLnspow st d a b s) := h.vecLog

/-! ### Words that combine lanes -/

theorem State.Sound.gatherLanes {s : State} (h : s.Sound) {c word d v from_} : (s.gatherLanes c word d v from_).Sound := by
  unfold State.gatherLanes
  dsimp only
  split
  · exact State.Sound.vectorBody (by split; exacts [h.exchange, h])
  · exact State.Sound.updPathGroup (State.Sound.vectorBody (by split; exacts [h.exchange, h]))

theorem execShfl_sound {s : State} (h : s.Sound) {st d a b} : NextSound (execShfl st d a b s) := h.word fun h' => h'.gatherLanes

theorem execBcast_sound {s : State} (h : s.Sound) {st d a b} : NextSound (execBcast st d a b s) := h.word fun h' => h'.gatherLanes

theorem execMatchKeys_sound {s : State} (h : s.Sound) {st d a} : NextSound (execMatchKeys st d a s) := h.word fun h' => h'.vectorBody

theorem State.Sound.reduction {s : State} (h : s.Sound) {i d a f} : NextSound (s.reduction i d a f) := h.word fun h' => h'.vectorBody

theorem execRedAdd_sound {s : State} (h : s.Sound) {st d a} : NextSound (execRedAdd st d a s) := h.reduction

theorem execRedMin_sound {s : State} (h : s.Sound) {st d a} : NextSound (execRedMin st d a s) := h.reduction

theorem execRedMax_sound {s : State} (h : s.Sound) {st d a} : NextSound (execRedMax st d a s) := h.reduction

theorem execScanAdd_sound {s : State} (h : s.Sound) {st d a} : NextSound (execScanAdd st d a s) := h.reduction

/-! ### Access words -/

theorem State.Sound.logged {s : State} (h : s.Sound) {c o held m} : (s.logged c o held m).1.Sound := by
  unfold State.logged
  split
  · exact h
  · exact h.logInput

theorem State.Sound.issueAccess {s : State} (h : s.Sound) {c w four} : (s.issueAccess c w four).Sound := by
  unfold State.issueAccess
  refine .ite h.setStatus ?_
  extract_lets +onlyGivenNames lanes places faults good beyond s1
  have h1 : s1.Sound := h.noteIssue
  clear_value faults good beyond
  split
  · exact h1.logged.faultPath
  extract_lets +onlyGivenNames s2
  have h2 : s2.Sound := by
    simp only [s2]
    split
    · exact h1
    · exact h1.violate
  dsimp only
  split
  · exact State.Sound.finish (.ite h2.logged.dropFlagOps.updPathGroup h2.logged.dropFlagOps.updPathGroup.startOp)
  · exact State.Sound.faultLanes (.ite h2.logged.dropFlagOps.updPathGroup h2.logged.dropFlagOps.updPathGroup.startOp)

theorem State.Sound.access {s : State} (h : s.Sound) {w four} : NextSound (s.access w four) := h.word fun h' => h'.issueAccess

theorem execLd_sound {s : State} (h : s.Sound) {st d a b sb ty scope sp aop} : NextSound (execLd st d a b sb ty scope sp aop s) := h.access

theorem execGather_sound {s : State} (h : s.Sound) {st d a b sb ty scope sp aop} : NextSound (execGather st d a b sb ty scope sp aop s) := h.access

theorem execSt_sound {s : State} (h : s.Sound) {st d a b sb ty scope sp aop} : NextSound (execSt st d a b sb ty scope sp aop s) := h.access

theorem execStStrong_sound {s : State} (h : s.Sound) {st d a b sb ty scope sp aop} : NextSound (execStStrong st d a b sb ty scope sp aop s) :=
  h.access

theorem execScatter_sound {s : State} (h : s.Sound) {st d a b sb ty scope sp aop} : NextSound (execScatter st d a b sb ty scope sp aop s) :=
  h.access

theorem execAtom_sound {s : State} (h : s.Sound) {st d a b sb ty scope sp aop} : NextSound (execAtom st d a b sb ty scope sp aop s) := h.access

theorem State.Sound.finishOp {s : State} (h : s.Sound) {id kinds moments} : (s.finishOp id kinds moments).Sound := by
  unfold State.finishOp
  split
  · exact h
  split
  · exact h.completeOp
  · exact h

theorem execLoadComplete_sound {s : State} (h : s.Sound) {op moments} : NextSound (execLoadComplete op moments s) := h.finishOp.next

theorem execStorePerformed_sound {s : State} (h : s.Sound) {op} : NextSound (execStorePerformed op s) := h.finishOp.next

/-! ### Fences, barriers, `waita` -/

theorem State.Sound.fenceEnds {s : State} (h : s.Sound) {r kind scope mark} : (s.fenceEnds r kind scope mark).Sound := by
  unfold State.fenceEnds
  split
  · exact h
  dsimp only
  split
  · exact h.fenceEffect.passWord.faultPath
  · exact h.fenceEffect.passWord

theorem State.Sound.fenceAt {s : State} (h : s.Sound) {r kind scope} : (s.fenceAt r kind scope).Sound := by
  unfold State.fenceAt
  split
  · exact h.fenceEnds
  · exact h.setStatus

theorem State.Sound.withRelease {s : State} (h : s.Sound) {c scope k} (hk : ∀ {u : State}, u.Sound → (k u).Sound) :
    (s.withRelease c scope k).Sound := by
  unfold State.withRelease
  split
  · exact h.setStatus
  · exact hk (.ite h h.fenceEffect)

theorem execFence_sound {s : State} (h : s.Sound) {st p k} : NextSound (execFence st p k s) := h.word fun h' => h'.noteIssue.fenceAt

theorem execFenceFinish_sound {s : State} (h : s.Sound) {r} : NextSound (execFenceFinish r s) := by
  unfold execFenceFinish
  split
  · exact h.next
  split
  · refine State.Sound.next ?_
    split
    · exact h.fenceEnds
    · exact h
  · refine State.Sound.next ?_
    split
    · exact h
    · exact h.fenceEffect.updPath
  · refine State.Sound.next ?_
    split
    · exact h
    · exact h.acquireNow.setStatus
  · exact h.next

theorem State.Sound.atBarrier {s : State} (h : s.Sound) {c i addr align none_ eff log} (hnone : ∀ {u : State}, u.Sound → (none_ u).Sound)
    (heff : ∀ {u : State}, u.Sound → (eff u).Sound) (hlog : ∀ {u : State}, u.Sound → (log u).Sound) :
    (s.atBarrier c i addr align none_ eff log).Sound := by
  unfold State.atBarrier
  split
  · exact (hlog h.noteIssue).faultPath
  · exact h.completes fun h' => hnone h'.violate
  · exact heff h

theorem State.Sound.barTested {s : State} (h : s.Sound) {c addr} : (s.barTested c addr).Sound := h.barUpdate

theorem State.Sound.nameObject {s : State} (h : s.Sound) {c addr} : (s.nameObject c addr).Sound := by
  unfold State.nameObject
  split
  · exact h
  · exact State.Sound.updBlock (.ite h h.spadWrite)

theorem State.Sound.noteUpdate {s : State} (h : s.Sound) {c addr} : (s.noteUpdate c addr).Sound := h.updBlock

theorem State.Sound.inOrder {s : State} (h : s.Sound) {c addr k} (hk : ∀ {u : State}, u.Sound → (k u).Sound) : (s.inOrder c addr k).Sound := by
  unfold State.inOrder
  split
  · exact hk h
  · exact h.updPath

theorem execBarInit_sound {s : State} (h : s.Sound) {st d a b} : NextSound (execBarInit st d a b s) :=
  h.word fun h' => h'.atBarrier (fun h₂ => h₂)
    (fun h₂ => h₂.inOrder fun h₃ => h₃.completes fun h₄ => h₄.updBlock.noteUpdate.barUpdate) fun h₂ => h₂

theorem State.Sound.arrivalPhase {s : State} (h : s.Sound) {c d phase} : (s.arrivalPhase c d phase).Sound := h.exchangeBytes.writeScalarReg

theorem State.Sound.arrivalLog {s : State} (h : s.Sound) {c d} : (s.arrivalLog c d).Sound := h.exchangeBytes

theorem State.Sound.arrive {s : State} (h : s.Sound) {c d addr n m} : (s.arrive c d addr n m).Sound := by
  unfold State.arrive
  extract_lets +onlyGivenNames s1 o s2
  have h2 : s2.Sound := h.nameObject.barTested.arrivalPhase
  refine .ite h2 ?_
  extract_lets +onlyGivenNames s3 s4
  have h3 : s3.Sound := h2.noteUpdate.notePhase
  have h4 : s4.Sound := .ite h3 h3.updBlock
  exact h4.barUpdate

theorem execBarArrive_sound {s : State} (h : s.Sound) {st d a} : NextSound (execBarArrive st d a s) :=
  h.word fun h' => h'.atBarrier (fun h₂ => h₂.arrivalPhase)
    (fun h₂ => h₂.withRelease fun h₃ => h₃.inOrder fun h₄ => h₄.completes fun h₅ => h₅.arrive) fun h₂ => h₂.arrivalLog

theorem execBarArrivec_sound {s : State} (h : s.Sound) {st d a b} : NextSound (execBarArrivec st d a b s) :=
  h.word fun h' => h'.atBarrier (fun h₂ => h₂.arrivalPhase)
    (fun h₂ => h₂.withRelease fun h₃ => h₃.inOrder fun h₄ => h₄.completes fun h₅ => h₅.arrive) fun h₂ => h₂.arrivalLog

theorem State.Sound.barFinish {s : State} (h : s.Sound) {r addr phase} : (s.barFinish r addr phase).Sound := h.updPath.fenceAt

theorem execBarWait_sound {s : State} (h : s.Sound) {st a b} : NextSound (execBarWait st a b s) :=
  h.word fun h' => h'.atBarrier (fun h₂ => h₂)
    (fun h₂ => .ite h₂.noteIssue.nameObject.barTested.setStatus h₂.noteIssue.nameObject.barTested.barFinish) fun h₂ => h₂

theorem execBarWaitFinish_sound {s : State} (h : s.Sound) {r} : NextSound (execBarWaitFinish r s) := by
  unfold execBarWaitFinish
  split
  · exact h.next
  split
  · refine State.Sound.next ?_
    split
    · exact h.barFinish
    · exact h
  · exact h.next

theorem execExitBarrierTest_sound {s : State} (h : s.Sound) {l b} : NextSound (execExitBarrierTest l b s) := by
  unfold execExitBarrierTest
  split
  · exact h.next
  split
  · exact h.next
  · exact (h.foldl fun h' => h'.barUpdate).next

theorem State.Sound.noteWord {s : State} (h : s.Sound) {r addr} : (s.noteWord r addr).Sound := h.updPathGroup

theorem execWaita_sound {s : State} (h : s.Sound) {st cnd a b} : NextSound (execWaita st cnd a b s) :=
  h.word fun h' => h'.atBarrier (fun h₂ => h₂) (fun h₂ => .ite h₂.noteIssue.noteWord.finish h₂.noteIssue.setStatus) fun h₂ => h₂

theorem execWaitaFinish_sound {s : State} (h : s.Sound) {r} : NextSound (execWaitaFinish r s) := by
  unfold execWaitaFinish
  split
  · exact h.next
  split
  · refine State.Sound.next ?_
    split
    · exact h.noteWord.passWord
    · exact h
  · exact h.next

/-! ### Matrix words -/

theorem State.Sound.updReservation {s : State} (h : s.Sound) {core q f} : (s.updReservation core q f).Sound := h.congr

theorem execOpres_sound {s : State} (h : s.Sound) {st q a} : NextSound (execOpres st q a s) :=
  h.word fun h' => .ite h'.noteIssue.faultPath (.ite h'.noteIssue.faultPath (.ite h'.noteIssue.congr.finish h'.noteIssue.setStatus.noteOldest))

theorem execOpresGrant_sound {s : State} (h : s.Sound) {r} : NextSound (execOpresGrant r s) := by
  unfold execOpresGrant
  split
  · exact h.next
  split
  · split
    · exact h.congr.passWord.noteOldest.next
    · exact h.next
  · exact h.next

theorem State.Sound.makeReady {s : State} (h : s.Sound) {core q} : (s.makeReady core q).Sound := h.updReservation

theorem State.Sound.readied {s : State} (h : s.Sound) {core q logged} : (s.readied core q logged).Sound := (h.elim h.updReservation).makeReady

theorem execOpready_sound {s : State} (h : s.Sound) {st q} : NextSound (execOpready st q s) := by
  refine h.word fun h' => ?_
  dsimp only
  split
  · exact h'.noteIssue.logInput.faultPath
  · exact .ite h'.noteIssue.logInput.setStatus h'.noteIssue.logInput.readied.finish

theorem execOpreadyFinish_sound {s : State} (h : s.Sound) {r} : NextSound (execOpreadyFinish r s) := by
  unfold execOpreadyFinish
  split
  · exact h.next
  split
  · split
    · exact h.next
    split
    · exact (State.Sound.passWord (.ite h.readied h.readied.logPut)).next
    · exact h.passWord.next
  · exact h.next

theorem execOprel_sound {s : State} (h : s.Sound) {st q} : NextSound (execOprel st q s) :=
  h.word fun h' => .ite h'.noteIssue.faultPath (.ite h'.noteIssue.setStatus h'.noteIssue.freeReservation.finish)

theorem execOprelFinish_sound {s : State} (h : s.Sound) {r} : NextSound (execOprelFinish r s) := by
  unfold execOprelFinish
  split
  · exact h.next
  split
  · split
    · exact h.next
    · exact (State.Sound.passWord (.ite h.freeReservation h)).next
  · exact h.next

theorem execGang_sound {s : State} (h : s.Sound) {st a} : NextSound (execGang st a s) :=
  h.word fun h' => .ite (h'.completes fun h₂ => h₂.updPathGroup) h'.noteIssue.faultPath

theorem State.Sound.latchRelease {s : State} (h : s.Sound) {c i ms} : (s.latchRelease c i ms).Sound := by
  unfold State.latchRelease
  dsimp only
  split
  · exact h.foldl fun h' => h'.faultPath
  · exact ((h.grow (by simp) (by simp)).foldl fun h' => h'.updPathGroup).foldl fun h' => h'.noteIssue.passWord

theorem execMma_sound {s : State} (h : s.Sound) {st t qa qb sb clr n pa pb} : NextSound (execMma st t qa qb sb clr n pa pb s) :=
  h.word fun h' => .ite h'.setStatus (.ite h'.faultPath (by dsimp only; split; exacts [.ite h'.updPath h'.latchRelease, h'.setStatus]))

theorem execMmaStart_sound {s : State} (h : s.Sound) {core ran} : NextSound (execMmaStart core ran s) := by
  unfold execMmaStart
  split
  · exact h.next
  split
  · exact h.next
  · exact h.congr.next

theorem execMmaComplete_sound {s : State} (h : s.Sound) {core} : NextSound (execMmaComplete core s) := by
  unfold execMmaComplete
  split
  · exact h.next
  refine State.Sound.next ?_
  split
  · exact h.mmaEnds
  · exact h

theorem execMwait_sound {s : State} (h : s.Sound) {st t} : NextSound (execMwait st t s) :=
  h.word fun h' => .ite h'.noteIssue.setStatus h'.noteIssue.finish

theorem State.Sound.grantTiles {s : State} (h : s.Sound) {r core m} : (s.grantTiles r core m).Sound := h.congr

theorem execAccAlloc_sound {s : State} (h : s.Sound) {st a} : NextSound (execAccAlloc st a s) :=
  h.word fun h' => .ite h'.noteIssue.grantTiles.finish h'.noteIssue.setStatus.noteOldest

theorem execAccAllocGrant_sound {s : State} (h : s.Sound) {r} : NextSound (execAccAllocGrant r s) := by
  unfold execAccAllocGrant
  split
  · exact h.next
  split
  · split
    · exact h.grantTiles.passWord.noteOldest.next
    · exact h.next
  · exact h.next

theorem State.Sound.freeTiles {s : State} (h : s.Sound) {r core m} : (s.freeTiles r core m).Sound := h.congr

theorem execAccFree_sound {s : State} (h : s.Sound) {st a} : NextSound (execAccFree st a s) :=
  h.word fun h' => .ite h'.noteIssue.setStatus h'.noteIssue.freeTiles.finish

theorem State.Sound.transfer {s : State} (h : s.Sound) {i k t a b sb sp form} : NextSound (s.transfer i k t a b sb sp form) := by
  refine h.word fun h' => .ite h'.setStatus ?_
  extract_lets +onlyGivenNames w addr n tile load s1 lg
  have h1 : lg.1.Sound := by
    simp only [lg]
    split
    · exact h'.noteIssue.logInput
    · exact h'.noteIssue
  clear_value lg tile
  split
  · exact h1.faultPath
  split
  · exact h1.faultPath
  · exact h1.violate.finish
  · exact h1
  refine .ite h1.faultPath ?_
  extract_lets +onlyGivenNames blank o s2 s3
  have h3 : s3.Sound := .ite h1.startOp.updPathGroup h1.startOp
  exact h3.takeFreeOf.finish

theorem execAccSt_sound {s : State} (h : s.Sound) {st t a b sb sp form} : NextSound (execAccSt st t a b sb sp form s) := h.transfer

theorem execAccLd_sound {s : State} (h : s.Sound) {st t a b sb sp form} : NextSound (execAccLd st t a b sb sp form s) := h.transfer

theorem execAccLdComplete_sound {s : State} (h : s.Sound) {op} : NextSound (execAccLdComplete op s) := h.finishOp.next

/-! ### Engines -/

theorem State.Sound.engineWrite {s : State} (h : s.Sound) {e pcs bs} : (s.engineWrite e pcs bs).Sound := h.foldl fun h' => h'.writeOrdinary

theorem State.Sound.engineCarry {s : State} (h : s.Sound) {e scope} : (s.engineCarry e scope).Sound := by
  unfold State.engineCarry
  split
  · exact h.carry
  · exact h

theorem State.Sound.markSpad {s : State} (h : s.Sound) {e addr n} : (s.markSpad e addr n).Sound := by
  unfold State.markSpad
  split
  · dsimp only
    split
    · exact h.updBlock
    · exact h.foldl fun h' => h'.elim h'.markPoison
  · exact h

theorem State.Sound.deliverReservation {s : State} (h : s.Sound) {e bs} : (s.deliverReservation e bs).Sound := h.updReservation

theorem State.Sound.land {s : State} (h : s.Sound) {e c want} : (s.land e c want).Sound := by
  unfold State.land
  dsimp only
  split
  · exact h.engineWrite.foldl fun h' => h'.charge
  · exact (h.foldl fun h' => h'.spadWrite).barTouched

theorem State.Sound.chunkMarks {s : State} (h : s.Sound) {e c} : (s.chunkMarks e c).Sound := by
  unfold State.chunkMarks
  split
  · dsimp only
    split
    · exact h.clearPoison.foldl fun h' => h'.foldl fun h₂ => .ite h₂.markPoison h₂
    · exact h.clearPoison
  dsimp only
  split
  · exact h.clearSpad.markSpad
  · exact h.clearSpad

theorem State.Sound.deliver {s : State} (h : s.Sound) {e c} : (s.deliver e c).Sound := by
  unfold State.deliver
  split
  · exact h.deliverReservation
  dsimp only
  split
  · exact State.Sound.updRecord (.ite h.land.chunkMarks.engineCarry h.land.chunkMarks)
  split
  · exact h.land.chunkMarks.engineCarry
  · exact h.land.chunkMarks

theorem State.Sound.chargeSource {s : State} (h : s.Sound) {e c} : (s.chargeSource e c).Sound := by
  unfold State.chargeSource
  dsimp only
  split
  · split
    · exact h.chargeVirt
    · exact h
  split
  · exact h.chargeVirt
  · exact h

theorem State.Sound.fixChunk {s : State} (h : s.Sound) {e c} : (s.fixChunk e c).Sound := by
  unfold State.fixChunk
  split
  · exact h
  · exact h.chargeSource.updRecord

theorem State.Sound.countBytes {s : State} (h : s.Sound) {e n status} : (s.countBytes e n status).Sound := by
  unfold State.countBytes
  exact State.Sound.barUpdate (State.Sound.updBlock (State.Sound.notePhase (.ite h.updBlock h)))

theorem State.Sound.recordWord {s : State} (h : s.Sound) {e k v} : (s.recordWord e k v).Sound := h.spadWrite

theorem State.Sound.chunkDone {s : State} (h : s.Sound) {e c} : (s.chunkDone e c).Sound := by
  unfold State.chunkDone
  extract_lets +onlyGivenNames n s1
  have h1 : s1.Sound := h.fixChunk.deliver.takeFreeOf.updOwner
  refine .ite h1.updRecord ?_
  extract_lets +onlyGivenNames prog s2 s3 s4
  have h3 : s3.Sound := h1.updRecord.updOwner.recordWord
  have h4 : s4.Sound := .ite h3.recordWord h3
  exact .ite h4.countBytes h4

theorem execEngineChunkDone_sound {s : State} (h : s.Sound) {r moments only} : NextSound (execEngineChunkDone r moments only s) := by
  unfold execEngineChunkDone
  split
  · exact h.next
  split
  · exact h.next
  split
  · exact h.next
  split
  · exact h.chunkDone.next
  · exact h.fixChunk.land.updRecord.next

theorem State.Sound.completeRecord {s : State} (h : s.Sound) {e status} : (s.completeRecord e status).Sound := by
  dsimp only [State.completeRecord]
  split
  · exact h.recordWord.congr.countBytes
  split
  · exact h.recordWord.congr.spadWrite.barTouched.markSpad
  · exact h.recordWord.congr.spadWrite.barTouched

theorem execEngineRecordComplete_sound {s : State} (h : s.Sound) {r} : NextSound (execEngineRecordComplete r s) := by
  unfold execEngineRecordComplete
  split
  · exact h.next
  split
  · refine State.Sound.next ?_
    split
    · exact h
    · exact h.completeRecord
  · exact h.next

theorem execEngineRecordFault_sound {s : State} (h : s.Sound) {r} : NextSound (execEngineRecordFault r s) := by
  unfold execEngineRecordFault
  split
  · exact h.next
  split
  · exact h.next
  split
  · dsimp only
    split
    · exact h.updRecord.collect.next
    split
    · exact h.updRecord.collect.stopOwner.next
    · exact h.updRecord.collect.next
    · exact h.updRecord.report.next
  · exact h.next

theorem State.Sound.spoilDst {s : State} (h : s.Sound) {e} : (s.spoilDst e).Sound := h.engineWrite.clearPoison.engineCarry.takeFreeOf

theorem State.Sound.endColl {s : State} (h : s.Sound) {e status} : (s.endColl e status).Sound := h.spoilDst.updRecord

theorem State.Sound.passRecord {s : State} (h : s.Sound) {e} : (s.passRecord e).Sound := by
  dsimp only [State.passRecord]
  split
  · split
    · exact (h.grow (by simp) (by simp)).endColl
    · exact h.grow (by simp) (by simp)
  · exact h.grow (by simp) (by simp)

theorem State.Sound.kick {s : State} (h : s.Sound) {i kind a b} : NextSound (s.kick i kind a b) := by
  refine h.word fun h' => h'.withRelease fun h₂ => .ite h₂.noteIssue.faultPath ?_
  dsimp only
  split
  · exact h₂.noteIssue.faultPath
  · exact (h₂.noteIssue.carryTo.foldl fun h₃ => h₃.passRecord).finish

theorem execCpyk_sound {s : State} (h : s.Sound) {st a b} : NextSound (execCpyk st a b s) := h.kick

theorem execDzk_sound {s : State} (h : s.Sound) {st a b} : NextSound (execDzk st a b s) := h.kick

theorem execColl_sound {s : State} (h : s.Sound) {st a b} : NextSound (execColl st a b s) := h.kick

theorem execCollectiveChunkReceive_sound {s : State} (h : s.Sound) {c} : NextSound (execCollectiveChunkReceive c s) := by
  unfold execCollectiveChunkReceive
  split
  · exact h.next
  dsimp only
  split
  · exact h.next
  split
  · exact h.endColl.next
  · exact h.updRecord.next

theorem execCollectiveComplete_sound {s : State} (h : s.Sound) {r} : NextSound (execCollectiveComplete r s) := by
  unfold execCollectiveComplete
  split
  · exact h.next
  split
  · split
    · exact h.next
    refine State.Sound.next ?_
    split
    · exact h.completeRecord
    · exact h.completeRecord.interrupt
  · exact h.next

theorem execBlockEnd_sound {s : State} (h : s.Sound) {l b} : NextSound (execBlockEnd l b s) := by
  unfold execBlockEnd
  split
  · exact h.next
  refine .ite ?_ h.next
  extract_lets +onlyGivenNames s1 s2 s3 s4
  have h1 : s1.Sound := h.foldl fun h' => h'.freeReservation
  have h4 : s4.Sound := h1.congr.updBlock.updLaunch
  exact (h4.elim (.ite h4.dropWells h4)).next

/-! ### Wells -/

theorem execWellAdd_sound {s : State} (h : s.Sound) {st d n sb} : NextSound (execWellAdd st d n sb s) := by
  refine h.word fun h' => .ite h'.setStatus ?_
  extract_lets +onlyGivenNames lanes s1
  have h1 : s1.Sound := h'.noteIssue
  split
  · exact h1.faultPath
  refine .ite h1.faultPath (.ite h1.finish (.ite h'.setStatus ?_))
  dsimp only
  split
  · exact h1.faultPath
  · exact h1.startOp.finish

theorem execWellAddRoom_sound {s : State} (h : s.Sound) {r} : NextSound (execWellAddRoom r s) := by
  unfold execWellAddRoom
  split
  · exact h.next
  split
  · refine State.Sound.next ?_
    split
    · exact h.setStatus
    · exact h
  · exact h.next

theorem execWellTake_sound {s : State} (h : s.Sound) {st d n sb t} : NextSound (execWellTake st d n sb t s) := by
  refine h.word fun h' => .ite h'.setStatus ?_
  dsimp only
  split
  · exact h'.noteIssue.logInput.faultPath
  refine .ite h'.updPath ?_
  split
  · exact h'.noteIssue.logInput.faultPath
  · exact (h'.noteIssue.logInput.logLanes.logPut.foldl fun h₂ => h₂.charge).updOwner.updPathGroup.startOp.updPathGroup.finish

theorem execQuiet_sound {s : State} (h : s.Sound) {st d} : NextSound (execQuiet st d s) := by
  refine h.word fun h' => ?_
  dsimp only
  split
  next hq => exact ((h'.noteIssue.updPathGroup.logInput.of_fst hq).foldl fun h₂ => h₂.placeResult).finish
  next hq => exact (h'.noteIssue.updPathGroup.logInput.of_fst hq).setStatus

theorem execWellOpComplete_sound {s : State} (h : s.Sound) {op} : NextSound (execWellOpComplete op s) := by
  unfold execWellOpComplete
  split
  · exact h.next
  refine State.Sound.next ?_
  split
  · exact h.completeOp
  · exact h

theorem execQuiescenceDeclared_sound {s : State} (h : s.Sound) {l} : NextSound (execQuiescenceDeclared l s) := by
  unfold execQuiescenceDeclared
  split
  · exact h.next
  refine State.Sound.next ?_
  split
  · exact h.foldl fun h' => h'.endQuiet
  · exact h

/-! ### System words -/

theorem State.Sound.fillLane {s : State} (h : s.Sound) {o f} : (s.fillLane o f).1.Sound := by
  unfold State.fillLane
  split
  · exact h
  · exact h.updOwner

theorem State.Sound.reportFill {s : State} (h : s.Sound) {c lane f} : (s.reportFill c lane f).Sound := by
  unfold State.reportFill
  split
  · exact h.report
  · exact h

theorem execTlbw_sound {s : State} (h : s.Sound) {st a} : NextSound (execTlbw st a s) := by
  refine h.word fun h' => ?_
  extract_lets +onlyGivenNames o bad
  clear_value bad
  split
  · exact h'.noteIssue.reportFill.faultPath
  extract_lets +onlyGivenNames r
  have hr : r.1.Sound := h'.noteIssue.foldl_fst fun h₂ => by
    split
    next ht => exact h₂.fillLane.of_fst ht
    next ht => exact h₂.fillLane.of_fst ht
  clear_value r
  split
  · exact hr.finish
  · exact (hr.foldl fun h₂ => h₂.reportFill).faultLanes

theorem execTlbinv_sound {s : State} (h : s.Sound) {st m a} : NextSound (execTlbinv st m a s) :=
  h.word fun h' => .ite (h'.completes fun h₂ => h₂.updOwner) (h'.completes fun h₂ => h₂.updOwner).setStatus

theorem execTranslationEntryDrop_sound {s : State} (h : s.Sound) {o va} : NextSound (execTranslationEntryDrop o va s) := h.updOwner.next

theorem execOrig_sound {s : State} (h : s.Sound) {st d n} : NextSound (execOrig st d n s) :=
  h.word fun h' => h'.completes fun h₂ => by split; exacts [h₂.writeScalarReg, h₂.updPathGroup, h₂.updPathGroup, h₂]

theorem execHret_sound {s : State} (h : s.Sound) {st a} : NextSound (execHret st a s) := by
  refine h.word fun h' => h'.withRelease fun h₂ => ?_
  extract_lets +onlyGivenNames m acts s1
  refine .ite h₂.noteIssue.faultPath ?_
  extract_lets +onlyGivenNames s2 s3
  have h3 : s2.Sound := State.Sound.foldl h₂.noteIssue fun h₃ => by
    split
    · exact h₃.answer
    · exact h₃
  exact .ite h3.finish h3.finish.leave

theorem execOriginResume_sound {s : State} (h : s.Sound) {r} : NextSound (execOriginResume r s) := h.resumePath.next

theorem execTrap_sound {s : State} (h : s.Sound) {st k} : NextSound (execTrap st k s) :=
  h.word fun h' => .ite (.ite (h'.completes fun h₂ => h₂) (h'.completes fun h₂ => h₂).faultPath) (h'.completes fun h₂ => h₂).faultLanes

theorem execCtr_sound {s : State} (h : s.Sound) {st d n} : NextSound (execCtr st d n s) :=
  h.word fun h' => h'.completes fun h₂ => h₂.exchangeBytes.updPath.writeScalars

theorem execWspill_sound {s : State} (hs : s.Sound) {st h a b} : NextSound (execWspill st h a b s) :=
  hs.word fun h' => .ite h'.noteIssue.takeFreeOf.setStatus h'.noteIssue.takeFreeOf.wspillWrites.finish

theorem execPfx_sound {s : State} (h : s.Sound) {m r z f e t} : NextSound (execPfx m r z f e t s) := by
  unfold execPfx
  split
  · exact nextSound_fault _
  · exact h.updPath.next

theorem execIllegalInstruction_sound {s : State} (h : s.Sound) {detail} : NextSound (execIllegalInstruction detail s) := by
  unfold execIllegalInstruction
  split
  · exact nextSound_fault _
  · exact h.illegal.next

end Sys2Proof.Machine
end

section
/-! SUPPORT. Launches, owner services, the host, and debugging keep the canonical form. -/

namespace Sys2Proof.Machine

-- Hundreds of short lemmas that cite each other: elaborated one after the other, they need no thread each.
set_option Elab.async false

/-! ### Lines and held paths -/

theorem State.Sound.giveLine {s : State} (h : s.Sound) {l b g n payer} : (s.giveLine l b g n payer).Sound := by
  unfold State.giveLine
  split
  · exact State.Sound.updGroup (.ite h.spillLine h)
  · exact h

theorem State.Sound.storeRoom {s : State} (h : s.Sound) {core payer} : (s.storeRoom core payer).Sound := by
  unfold State.storeRoom
  split
  · exact h
  split
  · exact h.giveLine
  · exact h

theorem State.Sound.chargeLine {s : State} (h : s.Sound) {x y z n} : (s.chargeLine x y z n).Sound := h.chargeImage.updOwner

theorem State.Sound.bringLine {s : State} (h : s.Sound) {x y z n} : (s.bringLine x y z n).Sound :=
  State.Sound.updGroup (State.Sound.updOwner (.ite h.chargeLine h))

theorem execWindowRefill_sound {s : State} (h : s.Sound) {l b g line} : NextSound (execWindowRefill l b g line s) := by
  dsimp only [execWindowRefill]
  split
  · split
    · exact h.next
    split
    · refine State.Sound.next ?_
      split
      · exact h.giveLine.storeRoom.bringLine
      · exact h.giveLine.storeRoom
    refine State.Sound.next ?_
    split
    · exact h
    split
    · exact h.storeRoom.bringLine
    · exact h.storeRoom
  · exact h.next

theorem execWindowSpill_sound {s : State} (h : s.Sound) {l b g line} : NextSound (execWindowSpill l b g line s) := by
  unfold execWindowSpill
  split
  · refine State.Sound.next ?_
    split
    · exact h
    · exact h.spillLine
  · exact h.next

theorem execPathHoldRelease_sound {s : State} (h : s.Sound) {r} : NextSound (execPathHoldRelease r s) := by
  unfold execPathHoldRelease
  split
  · exact h.next
  split
  · exact h.next
  split
  · refine State.Sound.next ?_
    split
    · exact h.setStatus
    · exact h
  · refine State.Sound.next ?_
    split
    · exact h.setStatus
    · exact h
  · refine State.Sound.next ?_
    split
    · exact h
    · exact h.wspillEnds
  · refine State.Sound.next ?_
    split
    · exact h
    · exact h.setStatus
  · refine State.Sound.next ?_
    split
    · exact h
    · exact h.passWord
  · refine State.Sound.next ?_
    split
    · exact h
    · exact h.freeTiles.passWord
  · refine State.Sound.next ?_
    split
    · exact h.faultPath
    · exact h
  · exact h.next

theorem State.Sound.reportViolation {s : State} (h : s.Sound) {x b} : (s.reportViolation x b).Sound := by
  unfold State.reportViolation
  split
  · exact h
  split
  · split
    · exact h.report.updBlock
    · exact h
  · exact h

theorem State.Sound.releaseOrphans {s : State} (h : s.Sound) {l b} : (s.releaseOrphans l b).Sound := by
  unfold State.releaseOrphans
  split
  · exact h
  · exact h.foldl fun h' => by split; exacts [h'.faultPath, h']

theorem execGroupEnd_sound {s : State} (h : s.Sound) {l b g} : NextSound (execGroupEnd l b g s) := by
  unfold execGroupEnd
  split
  · split
    · exact h.next
    · exact h.carry.updGroup.updLaunch.updBlock.reportViolation.releaseOrphans.next
  · exact h.next

/-! ### Queues -/

theorem State.Sound.freeSlots {s : State} (h : s.Sound) : s.freeSlots.Sound := h.congr

theorem execNotifyWrite_sound {s0 : State} (h : s0.Sound) {offset v} : NextSound (execNotifyWrite offset v s0) := by
  dsimp only [execNotifyWrite]
  split
  · exact h.freeSlots.next
  split
  · exact h.freeSlots.next
  split
  · split
    · exact h.freeSlots.next
    · exact h.freeSlots.updOwner.report.next
  · split <;> exact h.freeSlots.updQueue.next

theorem execQueueSlotBind_sound {s : State} (h : s.Sound) : NextSound (execQueueSlotBind s) := by
  unfold execQueueSlotBind
  dsimp only
  split
  · exact h.freeSlots.next
  split
  · exact h.freeSlots.next
  · exact h.freeSlots.updQueue.next

theorem State.Sound.stageMiss {s : State} (h : s.Sound) {o seq addr src} : (s.stageMiss o seq addr src).Sound := by
  unfold State.stageMiss
  dsimp only
  split
  · exact h.collect.stopOwner
  · exact h.collect
  split
  · exact h.skipEntry
  · exact h.refuse
  · exact h

theorem State.Sound.beginRead {s : State} (h : s.Sound) {q} : (s.beginRead q).Sound := by
  unfold State.beginRead
  split
  · exact h
  split
  · exact h
  · exact h.congr.updQueue

theorem State.Sound.enterLaunch {s : State} (hs : s.Sound) {x seq t1 h} : (s.enterLaunch x seq t1 h).Sound := by
  have ha : ∀ l, (State.advanceHead { s with launches := s.launches ++ [l] } x.n).Sound := fun l => State.Sound.advanceHead hs.congr
  dsimp only [State.enterLaunch]
  split
  · exact (ha _).refuse
  split
  · exact .ite (ha _) (ha _).chargeVirt
  · exact State.Sound.updLaunch (State.Sound.updOwner (.ite (ha _) (ha _).chargeVirt))

theorem execLaunchHeaderRead_sound {s0 : State} (h : s0.Sound) {q} : NextSound (execLaunchHeaderRead q s0) := by
  dsimp only [execLaunchHeaderRead]
  split
  · exact h.freeSlots.next
  split
  · exact h.freeSlots.next
  split
  · exact h.freeSlots.beginRead.next
  split
  · exact h.freeSlots.beginRead.stageMiss.next
  split
  · exact h.freeSlots.beginRead.chargeCode.skipEntry.next
  split
  · exact h.freeSlots.beginRead.chargeCode.stageMiss.next
  · exact h.freeSlots.beginRead.chargeCode.chargeCode.enterLaunch.next

theorem State.Sound.takeWells {s : State} (h : s.Sound) {x ws} : (s.takeWells x ws).Sound := (h.foldl fun h' => h'.chargeVirt).updOwner.updLaunch

theorem execDependenceMet_sound {s : State} (h : s.Sound) {l} : NextSound (execDependenceMet l s) := by
  dsimp only [execDependenceMet]
  split
  · exact h.next
  split
  · exact h.next
  split
  · exact h.stageMiss.next
  · exact h.refuse.next
  split
  · exact (State.Sound.updLaunch (.ite h h.takeWells)).next
  split
  · exact (State.Sound.stageMiss (.ite h h.takeWells)).next
  split
  · exact (State.Sound.chargeVirt (.ite h h.takeWells)).next
  · exact (State.Sound.updLaunch (State.Sound.carry (State.Sound.chargeVirt (.ite h h.takeWells)))).next

theorem State.Sound.makeRoom {s : State} (h : s.Sound) {o n k} : (s.makeRoom o n k).1.Sound := by
  induction k generalizing s with
  | zero => exact h
  | succ k ih =>
    unfold State.makeRoom
    split
    · exact h
    split
    · exact h
    · exact ih h.updOwner

theorem State.Sound.buildEntry {s : State} (h : s.Sound) {x cs n} : (s.buildEntry x cs n).1.Sound := by
  induction n generalizing s with
  | zero =>
    unfold State.buildEntry
    split
    · exact h
    · exact h.makeRoom
  | succ n ih =>
    unfold State.buildEntry
    split
    · exact ih h
    split
    · exact h.makeRoom.of_fst ‹_›
    · exact ih (h.makeRoom.of_fst ‹_›)

theorem State.Sound.specialiseMiss {s : State} (h : s.Sound) {x key} : (s.specialiseMiss x key).Sound := by
  unfold State.specialiseMiss
  split
  split
  · exact h.stageMiss
  dsimp only
  split
  · exact (h.foldl fun h' => h'.chargeVirt).updOwner.refuse
  split
  · exact ((h.foldl fun h' => h'.chargeVirt).updOwner.buildEntry.of_fst ‹_›).refuse
  · exact ((h.foldl fun h' => h'.chargeVirt).updOwner.buildEntry.of_fst ‹_›).writeCache.updOwner.updLaunch

theorem execSpecialise_sound {s : State} (h : s.Sound) {l} : NextSound (execSpecialise l s) := by
  unfold execSpecialise
  split
  · exact h.next
  split
  · exact h.next
  dsimp only
  split
  · exact h.updOwner.updLaunch.next
  · exact h.specialiseMiss.next

/-! ### Placing blocks -/

theorem State.Sound.admitPinned {s : State} (h : s.Sound) {x} : (s.admitPinned x).Sound := by
  unfold State.admitPinned
  dsimp only
  split
  · exact h.updLaunch.report.dropWells
  · exact h.congr.updLaunch

theorem State.Sound.admitAllPinned {s : State} (h : s.Sound) : s.admitAllPinned.Sound := h.foldl fun h' => h'.admitPinned

theorem State.Sound.chargeWindow {s : State} (h : s.Sound) {o off n} : (s.chargeWindow o off n).Sound := by
  unfold State.chargeWindow
  dsimp only
  split
  · exact h
  · exact h.chargeVirt

theorem State.Sound.placeNew {s : State} (h : s.Sound) {x b k slot images} : (s.placeNew x b k slot images).Sound :=
  (h.updBlock.takeFreeOf.chargeWindow.foldl fun h' => h'.updBlock).updLaunch

theorem State.Sound.leaveCores {s : State} (h : s.Sound) {y l k} : (s.leaveCores y l k).Sound :=
  h.foldl fun h' => .ite h' (h'.foldl fun h₂ => h₂.giveLine)

theorem State.Sound.moveDie {s : State} (h : s.Sound) {y l k} : (s.moveDie y l k).Sound := by
  unfold State.moveDie
  dsimp only
  split
  · exact h
  · exact h.carryTo.updBlock

theorem State.Sound.returnGroup {s : State} (h : s.Sound) {l b g k} : (s.returnGroup l b g k).Sound := by
  unfold State.returnGroup
  split
  · extract_lets +onlyGivenNames core z
    refine .ite h.updGroup ?_
    extract_lets +onlyGivenNames s1 back bad s2 s3
    have h2 : s2.Sound := h.chargeImage.updGroup.takeFreeOf
    have h3 : s3.Sound := by
      refine .ite (h2.foldl fun h' => ?_) h2
      split
      · exact h'.faultPath
      · exact h'
    exact h3.foldl fun h' => h'.resumePath
  · exact h

theorem State.Sound.placeBack {s : State} (h : s.Sound) {x b k} : (s.placeBack x b k).Sound := by
  dsimp only [State.placeBack]
  split
  · exact h
  · exact ((h.leaveCores.moveDie.chargeImage.foldl fun h' => h'.chargeImage).congr.updBlock.foldl fun h' => h'.returnGroup).noteCluster

theorem State.Sound.lookupMiss {s : State} (h : s.Sound) {x b va kind} : (s.lookupMiss x b va kind).Sound := by
  unfold State.lookupMiss
  dsimp only
  split
  · exact h.collect.stopOwner
  · exact h.collect
  · exact h.refuse

theorem State.Sound.placeBlock {s : State} (h : s.Sound) {x y} : (s.placeBlock x y).Sound := by
  unfold State.placeBlock
  split
  · split
    · exact h
    split
    · exact h.lookupMiss
    split
    · exact h.placeNew
    · exact h
  split
  · exact h.placeBack
  · exact h

theorem State.Sound.placeAll {s : State} (h : s.Sound) {l ys} : (s.placeAll l ys).Sound := h.foldl fun h' => by split; exacts [h'.placeBlock, h']

theorem execBlockAdmit_sound {s : State} (h : s.Sound) {l b} : NextSound (execBlockAdmit l b s) := by
  unfold execBlockAdmit
  split
  · exact h.next
  split
  · refine State.Sound.next ?_
    split
    · exact h.admitPinned
    · exact h
  split
  · exact h.next
  split
  · exact h.congr.updLaunch.next
  · exact h.next

theorem execBlockPlace_sound {s : State} (h : s.Sound) {l b} : NextSound (execBlockPlace l b s) := by
  unfold execBlockPlace
  split
  · split
    · exact h.refuse.next
    split
    · refine State.Sound.next ?_
      split
      · exact h.lookupMiss
      · exact h
    split
    · exact h.next
    split
    · exact h.placeAll.next
    split
    · exact h.placeBlock.next
    · exact h.next
  · exact h.next

theorem State.Sound.writeTimeRecord {s : State} (h : s.Sound) {x} : (s.writeTimeRecord x).Sound := by
  unfold State.writeTimeRecord
  dsimp only
  split
  · exact h
  split
  · exact h.ringPost.of_fst ‹_›
  · exact (h.ringPost.of_fst ‹_›).updOwner

theorem State.Sound.replayDone {s : State} (h : s.Sound) {x} : (s.replayDone x).Sound := by
  unfold State.replayDone
  split
  · exact h
  dsimp only
  split
  · exact h
  · exact h.writeVirt.writeVirt

theorem execLaunchComplete_sound {s : State} (h : s.Sound) {l} : NextSound (execLaunchComplete l s) := by
  unfold execLaunchComplete
  split
  · exact h.next
  split
  · exact h.next
  dsimp only
  split
  · exact h.carry.updLaunch.dropWells.writeTimeRecord.replayDone.next
  refine State.Sound.next ?_
  split
  · exact h.carry.updLaunch.dropWells.writeTimeRecord.replayDone.writeVirt.interrupt
  · exact h.carry.updLaunch.dropWells.writeTimeRecord.replayDone.writeVirt

/-! ### Handler groups -/

theorem State.Sound.abandon {s : State} (h : s.Sound) {g rep} : (s.abandon g rep).Sound := by
  dsimp only [State.abandon]
  split
  · split
    · exact State.Sound.resumePath (State.Sound.leave (.ite h.removeOrigin.report h.removeOrigin))
    split
    · exact h.removeOrigin.report
    · exact h.removeOrigin
  · split
    · exact State.Sound.resumePath (State.Sound.leave (.ite h.removeOrigin.report h.removeOrigin))
    split
    · exact h.removeOrigin.report
    · exact h.removeOrigin
  · exact h.removeOrigin.updRecord.report
  · exact h.removeOrigin.releaseOne

theorem State.Sound.abandonAll {s : State} (h : s.Sound) {o} : (s.abandonAll o).Sound := h.foldl_fst fun h' => by split <;> exact h'.abandon

theorem State.Sound.launchHandler {s : State} (h : s.Sound) {o walk depth va gs} : (s.launchHandler o walk depth va gs).Sound := by
  dsimp only [State.launchHandler]
  split
  · exact h
  split
  · exact h.stopOwner
  split
  · exact h.stopOwner
  split
  · exact h.stopOwner
  split
  · exact h
  · exact h.congr.takeWells.chargeCode

theorem execHandlerCollectorLaunch_sound {s : State} (h : s.Sound) {o walk depth} : NextSound (execHandlerCollectorLaunch o walk depth s) := by
  unfold execHandlerCollectorLaunch
  dsimp only
  split
  · exact h.next
  split
  · exact h.stopOwner.next
  split
  · exact h.stopOwner.next
  · exact h.abandonAll.next
  refine State.Sound.next ?_
  split
  · exact h.launchHandler
  · exact h

/-! ### Owner services -/

theorem State.Sound.preemptAll {s : State} (h : s.Sound) {vs payer} : (s.preemptAll vs payer).Sound := h.foldl fun h' => h'.preemptBlock

theorem execContentionPreempt_sound {s : State} (h : s.Sound) {core} : NextSound (execContentionPreempt core s) := h.preemptAll.next

theorem execPreempt_sound {s : State} (h : s.Sound) {l b cause} : NextSound (execPreempt l b cause s) := by
  unfold execPreempt
  split
  · split
    · split
      · exact h.preemptAll.next
      · exact h.next
    · split
      · exact h.preemptAll.next
      · exact (h.elim h.preemptAll).next
    · exact (h.elim h.preemptAll).next
    · exact (h.elim h.preemptAll).next
    · exact (h.elim h.preemptAll).next
    · refine State.Sound.next ?_
      split
      · exact h.preemptAll
      · exact h
    · refine State.Sound.next ?_
      split
      · exact h.preemptAll
      · exact h
    · refine State.Sound.next ?_
      split
      · exact h.preemptAll
      · exact h
    refine State.Sound.next ?_
    split
    · exact h.preemptAll
    · exact h
  · exact h.next

theorem execFaultedBlock_sound {s : State} (h : s.Sound) {l b} : NextSound (execFaultedBlock l b s) := (h.elim h.updBlock).next

theorem execThrottlingVictim_sound {s : State} (h : s.Sound) {l b} : NextSound (execThrottlingVictim l b s) := (h.elim h.preemptAll).next

theorem State.Sound.periodEnd {s : State} (h : s.Sound) : s.periodEnd.Sound := by
  unfold State.periodEnd
  exact h.congr_owners (by simp)

theorem execMeteringPeriodBoundary_sound {s : State} (h : s.Sound) : NextSound (execMeteringPeriodBoundary s) := by
  unfold execMeteringPeriodBoundary
  refine State.Sound.next ?_
  split
  · exact h.periodEnd
  · exact h

theorem execIssueThrottle_sound {s : State} (h : s.Sound) {o} : NextSound (execIssueThrottle o s) := h.updOwner.next

theorem execRsvtimeExhausted_sound {s : State} (h : s.Sound) {o} : NextSound (execRsvtimeExhausted o s) := h.updOwner.next

theorem execBandwidthCapHold_sound {s : State} (h : s.Sound) {o} : NextSound (execBandwidthCapHold o s) := h.updOwner.next

theorem State.Sound.endLaunch {s : State} (h : s.Sound) {l detail} : (s.endLaunch l detail).Sound := by
  unfold State.endLaunch
  split
  · exact h
  · exact (h.foldl fun h' => h'.removeOrigin).updLaunch.recount.report.dropWells

theorem execWatchdogExpire_sound {s : State} (h : s.Sound) {l} : NextSound (execWatchdogExpire l s) := by
  unfold execWatchdogExpire
  split
  · exact h.next
  split
  · exact h.next
  refine State.Sound.next ?_
  split
  · exact h.endLaunch
  · exact h

/-! ### Host windows and links -/

theorem State.Sound.reportPage {s : State} (h : s.Sound) {o pa access} : (s.reportPage o pa access).Sound := by
  unfold State.reportPage
  split
  · exact h
  · exact h.updOwner.report

theorem State.Sound.reportRefused {s : State} (h : s.Sound) {o pa n access} : (s.reportRefused o pa n access).Sound := by
  unfold State.reportRefused
  split
  · exact h.foldl fun h' => h'.reportPage
  · exact h

theorem State.Sound.readWindow {s : State} (h : s.Sound) {o offset len} : (s.readWindow o offset len).Sound := by
  unfold State.readWindow
  split
  · exact h
  · exact h.congr.takeFreeOf.reportRefused

theorem State.Sound.readNotify {s : State} (h : s.Sound) {offset} : (s.readNotify offset).Sound := by
  unfold State.readNotify
  split
  · split
    · exact h.congr
    · exact h
  · exact h

theorem execHostWindowRead_sound {s : State} (h : s.Sound) {r} : NextSound (execHostWindowRead r s) := by
  unfold execHostWindowRead
  split
  · exact h.readWindow.next
  · exact h.readNotify.next

theorem State.Sound.windowPut {s : State} (h : s.Sound) {o pa i v} : (s.windowPut o pa i v).Sound := by
  unfold State.windowPut
  split
  · exact h
  · split <;> exact h.writeAll

theorem execHostWindowWrite_sound {s : State} (h : s.Sound) {o offset bytes} : NextSound (execHostWindowWrite o offset bytes s) := by
  unfold execHostWindowWrite
  split
  · exact h.next
  · exact (h.foldl fun h' => h'.windowPut).takeFreeOf.reportRefused.next

theorem State.Sound.sendCoalesced {s : State} (h : s.Sound) {f} : (s.sendCoalesced f).Sound := h.foldl fun h' => .ite h'.congr h'

theorem execPcieLinkDown_sound {s : State} (h : s.Sound) : NextSound (execPcieLinkDown s) := h.congr.next

theorem execPcieLinkRetrained_sound {s : State} (h : s.Sound) : NextSound (execPcieLinkRetrained s) := by
  unfold execPcieLinkRetrained
  split
  · exact h.next
  · exact h.congr.sendCoalesced.next

theorem execMsixVectorUnmask_sound {s : State} (h : s.Sound) {vector mask} : NextSound (execMsixVectorUnmask vector mask s) := by
  unfold execMsixVectorUnmask
  dsimp only
  split
  · exact h.next
  split
  · exact h.congr.next
  · exact h.congr.sendCoalesced.next

theorem execFlitCrcRetry_sound {s : State} (h : s.Sound) {port lane} : NextSound (execFlitCrcRetry port lane s) := h.congr.next

theorem execTiteyxLaneSpare_sound {s : State} (h : s.Sound) {port lane} : NextSound (execTiteyxLaneSpare port lane s) := by
  unfold execTiteyxLaneSpare
  split
  · exact h.next
  · exact h.congr.next

theorem execTiteyxPortFail_sound {s : State} (h : s.Sound) {port} : NextSound (execTiteyxPortFail port s) := by
  unfold execTiteyxPortFail
  split
  · exact h.next
  · exact h.congr.next

theorem State.Sound.endComm {s : State} (h : s.Sound) {o comm status} : (s.endComm o comm status).Sound := h.foldl fun h' => h'.endColl

theorem execNoPortReachesMember_sound {s : State} (h : s.Sound) {o comm member since} :
    NextSound (execNoPortReachesMember o comm member since s) := by
  unfold execNoPortReachesMember
  split
  · exact h.next
  split
  · exact h.endComm.next
  · exact h.next

theorem execCxlPortOutOfService_sound {s : State} (h : s.Sound) {port since} : NextSound (execCxlPortOutOfService port since s) := by
  unfold execCxlPortOutOfService
  split
  · exact h.next
  · exact h.congr.next

theorem execPeerChunkRetry_sound {s : State} (h : s.Sound) {_r} : NextSound (execPeerChunkRetry _r s) := h.next

theorem execMemberWithdrawn_sound {s : State} (h : s.Sound) {device remote} : NextSound (execMemberWithdrawn device remote s) :=
  (h.foldl fun h' => h'.updOwner.foldl fun h₂ => h₂.endComm).next

theorem execPoisonMark_sound {s : State} (h : s.Sound) {u} : NextSound (execPoisonMark u s) := by
  unfold execPoisonMark
  split
  · refine State.Sound.next ?_
    split
    · exact h.markPoison
    · exact h
  · exact h.updBlock.next
  · exact h.updGroup.next
  · exact h.updGroup.next
  · exact h.congr.next
  · exact h.congr.next

theorem execCorrectedError_sound {s : State} (h : s.Sound) {u} : NextSound (execCorrectedError u s) := h.congr.next

theorem execDieCacheEviction_sound {s : State} (h : s.Sound) {die line views} : NextSound (execDieCacheEviction die line views s) := h.carryTo.next

/-! ### Samples and controls -/

theorem execSampleWrite_sound {s : State} (h : s.Sound) {core o} : NextSound (execSampleWrite core o s) := by
  dsimp only [execSampleWrite]
  split
  · exact h.next
  split
  · exact h.next
  split
  · exact (h.takeFreeOf.ringPost.of_fst ‹_›).next
  · exact (h.takeFreeOf.ringPost.of_fst ‹_›).updOwner.next

theorem execSamplingSelectWrite_sound {s : State} (h : s.Sound) {page k v} : NextSound (execSamplingSelectWrite page k v s) := by
  unfold execSamplingSelectWrite
  split
  · exact h.next
  split
  · exact h.next
  · exact h.updOwner.next

theorem execControlRegisterWrite_sound {s : State} (h : s.Sound) {page offset v} : NextSound (execControlRegisterWrite page offset v s) := by
  unfold execControlRegisterWrite
  split
  · exact h.next
  refine State.Sound.next ?_
  split
  · exact h.updOwner
  · exact h

/-! ### Debugging -/

theorem execDebugStop_sound {s : State} (h : s.Sound) {r cause} : NextSound (execDebugStop r cause s) := by
  unfold execDebugStop
  split
  · exact h.next
  split
  · refine State.Sound.next ?_
    split
    · exact h.stopPath
    · exact h
  · exact h.next

theorem execStepDone_sound {s : State} (h : s.Sound) {r} : NextSound (execStepDone r s) := by
  unfold execStepDone
  split
  · exact h.next
  split
  · refine State.Sound.next ?_
    split
    · exact h.stopPath
    · exact h
  · exact h.next

theorem execStopRecordDeferred_sound {s : State} (h : s.Sound) {o} : NextSound (execStopRecordDeferred o s) := by
  unfold execStopRecordDeferred
  split
  · exact h.next
  split
  · exact h.next
  split
  · exact (h.ringPost.of_fst ‹_›).updOwner.next
  · exact h.next

theorem State.Sound.answerCmd {s : State} (h : s.Sound) {o slot state} : (s.answerCmd o slot state).Sound := h.writeVirt

theorem State.Sound.command {s : State} (h : s.Sound) {o slot op act whole} (hact : ∀ {u : State} {d r}, u.Sound → (act u d r).Sound)
    (hwhole : ∀ {u : State} {d}, u.Sound → (whole u d).Sound) : (s.command o slot op act whole).Sound := by
  unfold State.command
  split
  · exact h
  dsimp only
  split
  · exact h
  split
  · exact h.charge.answerCmd
  split
  · exact h
  · exact (hwhole (h.charge.foldl fun h' => hact h')).answerCmd

theorem State.Sound.cmdStop {s : State} (h : s.Sound) {x1 r} : (s.cmdStop x1 r).Sound := by
  unfold State.cmdStop
  split
  · exact h
  split
  · exact h
  split
  · exact h.stopPath
  · exact h.updPath

theorem State.Sound.reloadPath {s : State} (h : s.Sound) {r} : (s.reloadPath r).Sound := by
  unfold State.reloadPath
  split
  · exact h
  · exact h.updPath

theorem State.Sound.cmdResume {s : State} (h : s.Sound) {d r steps} : (s.cmdResume d r steps).Sound := by
  unfold State.cmdResume
  split
  · exact h
  split
  · exact h
  · exact State.Sound.updPath (.ite h.reloadPath h)

theorem execDebugCmdStop_sound {s : State} (h : s.Sound) {o slot} : NextSound (execDebugCmdStop o slot s) :=
  (h.command (fun h' => h'.cmdStop) fun h' => h').next

theorem execDebugCmdResume_sound {s : State} (h : s.Sound) {o slot} : NextSound (execDebugCmdResume o slot s) :=
  (h.command (fun h' => h'.cmdResume) fun h' => h').next

theorem execDebugCmdStep_sound {s : State} (h : s.Sound) {o slot} : NextSound (execDebugCmdStep o slot s) :=
  (h.command (fun h' => h'.cmdResume) fun h' => h').next

theorem execDebugCmdStopMode_sound {s : State} (h : s.Sound) {o slot} : NextSound (execDebugCmdStopMode o slot s) :=
  (h.command (fun h' => h') fun h' => h'.updGroup).next

theorem execReplayDiverged_sound {s : State} (h : s.Sound) {r} : NextSound (execReplayDiverged r s) := by
  unfold execReplayDiverged
  split
  · exact h.next
  split
  · exact h.next
  split
  · exact h.endLaunch.next
  split
  · exact h.stopPath.next
  · exact h.next

end Sys2Proof.Machine
end

section
/-! SUPPORT. The firmware, the governor and the agenda keep the canonical form, and so does every step. -/

namespace Sys2Proof.Machine

-- Hundreds of short lemmas that cite each other: elaborated one after the other, they need no thread each.
set_option Elab.async false

/-! ### Firmware -/

/-- A start forgets what the views held before, and all that was under way. -/
theorem State.Sound.started {s : State} (h : s.Sound) {f dies poison links} (hv : dies.length = 5) (hm : ∀ d ∈ dies, Memory.wf d.mem = true) :
    (s.started f dies poison links).Sound where
  views := by simp [State.started, hv]
  owners := by simp [State.started, h.owners]
  memory d hd := by
    obtain ⟨e, he, rfl⟩ := List.mem_map.mp hd
    exact hm e he
  timed d hd := by
    obtain ⟨e, he, rfl⟩ := List.mem_map.mp hd
    simp
  numbered := by simp [State.started, State.reset]

theorem State.Sound.coldStart {s : State} (h : s.Sound) {inlet device} : (s.coldStart inlet device).Sound := by
  dsimp only [State.coldStart]
  split
  · exact h.started State.reset_sound.views State.reset_sound.memory
  · exact h.started h.views h.memory

theorem execColdStart_sound {s : State} (h : s.Sound) {inlet device} : NextSound (execColdStart inlet device s) := h.coldStart.next

theorem execWarmStart_sound {s : State} (h : s.Sound) {inlet device} : NextSound (execWarmStart inlet device s) := by
  unfold execWarmStart
  extract_lets f s1 kept
  have h1 : s1.Sound := h.carry
  have hv : kept.length = 5 := by simp [kept, h1.views]
  have hm : ∀ d ∈ kept, Memory.wf d.mem = true := fun d hd => by
    obtain ⟨e, he, rfl⟩ := List.mem_map.mp hd
    exact h1.memory e he
  split
  · exact h.coldStart.next
  split
  · split <;> exact (h.started hv hm).next
  · exact (h.started h.views h.memory).next

theorem State.Sound.unmapPage {s : State} (h : s.Sound) {pa} : (s.unmapPage pa).Sound := by
  unfold State.unmapPage
  exact h.congr_owners (by simp)

theorem State.Sound.clearPage {s : State} (h : s.Sound) {pa} : (s.clearPage pa).Sound := by
  refine State.Sound.clearPoison (State.sound_iff_soundBefore.mpr ?_)
  exact (State.sound_iff_soundBefore.mp h).mapDies _ fun d hd =>
    ⟨Sparse.wf_clear (w := 8) d.mem pa (pa + 8192) hd.memory, fun e he => hd.timed e (List.mem_filter.mp he).1⟩

theorem State.Sound.setEntry {s : State} (h : s.Sound) {n v} : (s.setEntry n v).Sound := h.unmapPage.congr

theorem State.Sound.grantPage {s : State} (h : s.Sound) {o n share pinned} : (s.grantPage o n share pinned).Sound := by
  unfold State.grantPage
  dsimp only
  split
  · exact h
  · exact State.Sound.setEntry (.ite h h.carry.clearPage)

theorem State.Sound.revokePages {s : State} (h : s.Sound) {o} : (s.revokePages o).Sound := h.foldl fun h' => h'.setEntry

theorem State.Sound.refuseRequest {s : State} (h : s.Sound) : s.refuseRequest.Sound := h.congr

/-- The record that a request concerns is reached, or the request comes to nothing. -/
theorem State.Sound.reach_elim {s u : State} {f : State → State} (h : s.Sound) (hu : u.Sound) (hf : ∀ {t : State}, t.Sound → (f t).Sound)
    {handle write} :
    ((s.reachRecord handle write).elim u f).Sound := by
  unfold State.reachRecord
  split
  · cases s.firmware.reach handle 8 write with
    | none => exact hu
    | some a => exact hf h.congr
  · exact hu

theorem State.Sound.capabilityFault {s : State} (h : s.Sound) {o} : (s.capabilityFault o).Sound := h.refuseRequest.report

theorem State.Sound.request {s : State} (h : s.Sound) {handle write act} (hact : ∀ {u : State}, u.Sound → (act u).Sound) :
    (s.request handle write act).Sound := h.reach_elim h.refuseRequest hact

theorem State.Sound.givePages {s : State} (h : s.Sound) {o r} : (s.givePages o r).Sound :=
  (h.foldl fun h' => h'.grantPage).foldl fun h' => h'.grantPage

theorem execOwnerSetup_sound {s : State} (h : s.Sound) {o r handle} : NextSound (execOwnerSetup o r handle s) :=
  (h.request fun h' => .ite h'.refuseRequest (.ite h' h'.congr.givePages.updOwner)).next

theorem execQueueSetup_sound {s : State} (h : s.Sound) {q r handle} : NextSound (execQueueSetup q r handle s) := by
  unfold execQueueSetup
  dsimp only
  split
  · exact h.refuseRequest.next
  · exact (h.reach_elim h.capabilityFault fun h' => h'.congr).next

theorem execCommunicatorFill_sound {s : State} (h : s.Sound) {o k c handle} : NextSound (execCommunicatorFill o k c handle s) := by
  unfold execCommunicatorFill
  split
  · exact h.refuseRequest.next
  · exact (h.reach_elim h.capabilityFault fun h' => h'.updOwner).next

theorem State.Sound.forget {s : State} (h : s.Sound) {o} : (s.forget o).Sound := h.carry.congr.updOwner.revokePages.recount

theorem execOwnerReset_sound {s : State} (h : s.Sound) {o handle} : NextSound (execOwnerReset o handle s) :=
  (h.request fun h' => .ite (.ite h'.stopOwner h'.stopOwner.forget) h').next

theorem State.Sound.evictOwner {s : State} (h : s.Sound) {o} : (s.evictOwner o).Sound := h.preemptAll

theorem State.Sound.arriveOwner {s : State} (h : s.Sound) {o pages} : (s.arriveOwner o pages).Sound := by
  unfold State.arriveOwner
  split
  · exact h
  split
  · exact h
  · exact (((h.foldl fun h' => h'.clearPage.setEntry).foldl fun h' => h'.writeAll).foldl fun h' => h'.markPoison).congr.updOwner

theorem State.Sound.migrate {s : State} (h : s.Sound) {a} : (s.migrate a).Sound := by
  unfold State.migrate
  split
  · split
    · exact h
    dsimp only
    split
    · exact h.updOwner.evictOwner
    · exact h.updOwner
  · split
    · exact h
    split
    · exact h.forget.congr
    · exact h
  · split
    · exact h
    split
    · exact h.updOwner
    · exact h
  · exact h.arriveOwner

theorem execMigration_sound {s : State} (h : s.Sound) {m handle} : NextSound (execMigration m handle s) := (h.request fun h' => h'.migrate).next

theorem State.Sound.coreSpared {s : State} (h : s.Sound) {core handle} : (s.coreSpared core handle).Sound := by
  unfold State.coreSpared
  dsimp only
  split
  · exact h.congr
  · exact h.reach_elim h fun h' => h'.congr_owners (by simp)

theorem execCoreSpare_sound {s : State} (h : s.Sound) {core uncorrectable handle} : NextSound (execCoreSpare core uncorrectable handle s) := by
  unfold execCoreSpare
  dsimp only
  split
  · exact h.next
  split
  · split
    · exact h.next
    · exact h.congr.preemptAll.next
  refine State.Sound.next ?_
  split
  · exact h.coreSpared
  · exact h

theorem execHbmRowRemap_sound {s : State} (h : s.Sound) {row} : NextSound (execHbmRowRemap row s) := by
  unfold execHbmRowRemap
  refine State.Sound.next ?_
  split
  · exact h.congr
  · exact h

theorem execHbmChannelRetire_sound {s : State} (h : s.Sound) {channel uncorrectable} : NextSound (execHbmChannelRetire channel uncorrectable s) := by
  unfold execHbmChannelRetire
  refine State.Sound.next ?_
  split
  · exact h.congr
  · exact h

theorem execFirmwareUpdate_sound {s : State} (h : s.Sound) {u handle} : NextSound (execFirmwareUpdate u handle s) :=
  (h.request fun h' => h'.congr).next

theorem State.Sound.pulled {s : State} (h : s.Sound) : s.pulled.Sound := h.started State.reset_sound.views State.reset_sound.memory

theorem execModuleRemoval_sound {s : State} (h : s.Sound) {m} : NextSound (execModuleRemoval m s) := by
  unfold execModuleRemoval
  split
  · exact State.Sound.next (.ite h h.congr)
  · exact h.pulled.next

theorem State.Sound.processFrame {s : State} (h : s.Sound) {frame handle} : (s.processFrame frame handle).Sound := h.request fun h' => h'.congr

theorem execManagementFrame_sound {s : State} (h : s.Sound) {frame handle} : NextSound (execManagementFrame frame handle s) := by
  unfold execManagementFrame
  dsimp only
  split
  · exact h.processFrame.next
  split
  · refine State.Sound.next ?_
    split
    · exact h.congr
    · exact h
  · split <;> exact h.congr.next

theorem execControlCoreWake_sound {s : State} (h : s.Sound) {handle} : NextSound (execControlCoreWake handle s) := by
  unfold execControlCoreWake
  dsimp only
  split
  · exact (h.congr.foldl fun h' => h'.processFrame).next
  · exact h.next

theorem execControlCorePowerGate_sound {s : State} (h : s.Sound) {cores} : NextSound (execControlCorePowerGate cores s) := by
  unfold execControlCorePowerGate
  refine State.Sound.next ?_
  split
  · exact h.congr
  · exact h

theorem execWakeFilterWrite_sound {s : State} (h : s.Sound) {k offset mask value handle} :
    NextSound (execWakeFilterWrite k offset mask value handle s) := by
  unfold execWakeFilterWrite
  refine State.Sound.next ?_
  split
  · exact h
  · exact h.request fun h' => h'.congr

theorem execAttestationRequest_sound {s : State} (h : s.Sound) {nonce o handle} : NextSound (execAttestationRequest nonce o handle s) :=
  (h.request fun h' => h'.congr).next

/-! ### The governor -/

theorem State.Sound.markHeld {s : State} (h : s.Sound) {core} : (s.markHeld core).Sound :=
  ((h.foldl fun h' => h'.updOwner).foldl fun h' => h'.updLaunch).foldl fun h' => h'.updGroup

theorem State.Sound.holdBeats {s : State} (h : s.Sound) {core} : (s.holdBeats core).Sound := (h.foldl fun h' => h'.updGroup).congr

theorem State.Sound.holdNow {s : State} (h : s.Sound) : s.holdNow.Sound := by
  unfold State.holdNow
  split
  · exact h
  · exact h.congr.foldl fun h' => h'.holdBeats.markHeld

theorem execGovernorHold_sound {s : State} (h : s.Sound) : NextSound (execGovernorHold s) := h.holdNow.next

theorem State.Sound.ballastBeat {s : State} (h : s.Sound) {b} : (s.ballastBeat b).Sound := by
  unfold State.ballastBeat
  split
  · exact h
  · exact h.congr.updOwner.updLaunch

theorem State.Sound.ballastNow {s : State} (h : s.Sound) : s.ballastNow.Sound := by
  unfold State.ballastNow
  split
  · exact h
  · exact h.congr.foldl fun h' => h'.ballastBeat

theorem execBallastIssue_sound {s : State} (h : s.Sound) : NextSound (execBallastIssue s) := h.ballastNow.next

theorem State.Sound.slotEnd {s : State} (h : s.Sound) {telemetry} : (s.slotEnd telemetry).Sound := h.congr.admitAllPinned

theorem execRampSlotBoundary_sound {s : State} (h : s.Sound) {telemetry} : NextSound (execRampSlotBoundary telemetry s) := by
  unfold execRampSlotBoundary
  refine State.Sound.next ?_
  split
  · exact h.slotEnd.holdNow
  · exact h

theorem execGovernorLimitWrite_sound {s : State} (h : s.Sound) {v} : NextSound (execGovernorLimitWrite v s) := h.congr.next

theorem State.Sound.openCycle {s : State} (h : s.Sound) : s.openCycle.Sound :=
  State.Sound.holdNow (.ite (State.Sound.periodEnd (.ite h.slotEnd h)) (.ite h.slotEnd h))

theorem State.Sound.pass {s : State} (h : s.Sound) {dt} : (s.pass dt).Sound := by
  have ht : (s.ballastNow.tick dt).Sound := h.ballastNow.tick
  unfold State.pass
  dsimp only
  split
  · exact ht.congr_owners (by simp)
  · exact ht

theorem State.Sound.run {s : State} (h : s.Sound) {k dt} : (State.run k s dt).Sound := by
  induction k generalizing s dt with
  | zero => exact h
  | succ k ih =>
    unfold State.run
    split
    · exact h
    · exact ih h.openCycle.pass

theorem State.Sound.advance {s : State} (h : s.Sound) {dt} : (s.advance dt).Sound := h.run

/-! ### The meaning of every instruction -/

/-- No instruction or event leaves the canonical form. -/
theorem exec_sound {s : State} (h : s.Sound) {i : Instr} : NextSound (exec i s) := by
  cases i with
  | pfx => exact execPfx_sound h
  | add => exact execAdd_sound h
  | sub => exact execSub_sound h
  | mul => exact execMul_sound h
  | mulh => exact execMulh_sound h
  | div => exact execDiv_sound h
  | rem => exact execRem_sound h
  | and => exact execAnd_sound h
  | or => exact execOr_sound h
  | xor => exact execXor_sound h
  | shl => exact execShl_sound h
  | shr => exact execShr_sound h
  | sar => exact execSar_sound h
  | min => exact execMin_sound h
  | max => exact execMax_sound h
  | sel => exact execSel_sound h
  | cmp => exact execCmp_sound h
  | mov => exact execMov_sound h
  | not => exact execNot_sound h
  | abs => exact execAbs_sound h
  | neg => exact execNeg_sound h
  | clz => exact execClz_sound h
  | popc => exact execPopc_sound h
  | mmov => exact execMmov_sound h
  | mnot => exact execMnot_sound h
  | mpop => exact execMpop_sound h
  | movk => exact execMovk_sound h
  | mand => exact execMand_sound h
  | mor => exact execMor_sound h
  | mxor => exact execMxor_sound h
  | mandn => exact execMandn_sound h
  | bra => exact execBra_sound h
  | brz => exact execBrz_sound h
  | brnz => exact execBrnz_sound h
  | call => exact execCall_sound h
  | fork => exact execFork_sound h
  | join => exact execJoin_sound h
  | trip => exact execTrip_sound h
  | nop => exact execNop_sound h
  | ret => exact execRet_sound h
  | exit => exact execExit_sound h
  | sleep => exact execSleep_sound h
  | sleepExpire => exact execSleepExpire_sound h
  | rdmode => exact execRdmode_sound h
  | wrmode => exact execWrmode_sound h
  | addVectorInt => exact execAddVectorInt_sound h
  | subVectorInt => exact execSubVectorInt_sound h
  | mulVectorInt => exact execMulVectorInt_sound h
  | mulhVectorInt => exact execMulhVectorInt_sound h
  | divVectorInt => exact execDivVectorInt_sound h
  | remVectorInt => exact execRemVectorInt_sound h
  | andVector => exact execAndVector_sound h
  | orVector => exact execOrVector_sound h
  | xorVector => exact execXorVector_sound h
  | shlVector => exact execShlVector_sound h
  | shrVector => exact execShrVector_sound h
  | sarVector => exact execSarVector_sound h
  | minVectorInt => exact execMinVectorInt_sound h
  | maxVectorInt => exact execMaxVectorInt_sound h
  | selVector => exact execSelVector_sound h
  | cmpVectorInt => exact execCmpVectorInt_sound h
  | movVector => exact execMovVector_sound h
  | notVector => exact execNotVector_sound h
  | absVectorInt => exact execAbsVectorInt_sound h
  | negVectorInt => exact execNegVectorInt_sound h
  | clzVector => exact execClzVector_sound h
  | popcVector => exact execPopcVector_sound h
  | addFloat => exact execAddFloat_sound h
  | subFloat => exact execSubFloat_sound h
  | mulFloat => exact execMulFloat_sound h
  | fmaFloat => exact execFmaFloat_sound h
  | divFloat => exact execDivFloat_sound h
  | sqrt => exact execSqrt_sound h
  | rsq => exact execRsq_sound h
  | rcp => exact execRcp_sound h
  | minFloat => exact execMinFloat_sound h
  | maxFloat => exact execMaxFloat_sound h
  | cmpFloat => exact execCmpFloat_sound h
  | classify => exact execClassify_sound h
  | absFloat => exact execAbsFloat_sound h
  | negFloat => exact execNegFloat_sound h
  | addF64 => exact execAddF64_sound h
  | subF64 => exact execSubF64_sound h
  | mulF64 => exact execMulF64_sound h
  | fmaF64 => exact execFmaF64_sound h
  | shfl => exact execShfl_sound h
  | bcast => exact execBcast_sound h
  | matchKeys => exact execMatchKeys_sound h
  | redAdd => exact execRedAdd_sound h
  | redMin => exact execRedMin_sound h
  | redMax => exact execRedMax_sound h
  | scanAdd => exact execScanAdd_sound h
  | cvtF64 => exact execCvtF64_sound h
  | cvtF32 => exact execCvtF32_sound h
  | cvtF16 => exact execCvtF16_sound h
  | cvtBf16 => exact execCvtBf16_sound h
  | cvtE4m3 => exact execCvtE4m3_sound h
  | cvtE5m2 => exact execCvtE5m2_sound h
  | cvtL32 => exact execCvtL32_sound h
  | cvtInt => exact execCvtInt_sound h
  | cvtCode => exact execCvtCode_sound h
  | cvtb => exact execCvtb_sound h
  | lnsmul => exact execLnsmul_sound h
  | lnsdiv => exact execLnsdiv_sound h
  | lnsadd => exact execLnsadd_sound h
  | lnsroot => exact execLnsroot_sound h
  | lnspow => exact execLnspow_sound h
  | ld => exact execLd_sound h
  | gather => exact execGather_sound h
  | st => exact execSt_sound h
  | stStrong => exact execStStrong_sound h
  | scatter => exact execScatter_sound h
  | atom => exact execAtom_sound h
  | loadComplete => exact execLoadComplete_sound h
  | storePerformed => exact execStorePerformed_sound h
  | fence => exact execFence_sound h
  | fenceFinish => exact execFenceFinish_sound h
  | barInit => exact execBarInit_sound h
  | barArrive => exact execBarArrive_sound h
  | barArrivec => exact execBarArrivec_sound h
  | barWait => exact execBarWait_sound h
  | barWaitFinish => exact execBarWaitFinish_sound h
  | exitBarrierTest => exact execExitBarrierTest_sound h
  | waita => exact execWaita_sound h
  | waitaFinish => exact execWaitaFinish_sound h
  | mma => exact execMma_sound h
  | mmaStart => exact execMmaStart_sound h
  | mmaComplete => exact execMmaComplete_sound h
  | gang => exact execGang_sound h
  | opres => exact execOpres_sound h
  | opresGrant => exact execOpresGrant_sound h
  | opready => exact execOpready_sound h
  | opreadyFinish => exact execOpreadyFinish_sound h
  | oprel => exact execOprel_sound h
  | oprelFinish => exact execOprelFinish_sound h
  | mwait => exact execMwait_sound h
  | accAlloc => exact execAccAlloc_sound h
  | accAllocGrant => exact execAccAllocGrant_sound h
  | accFree => exact execAccFree_sound h
  | accSt => exact execAccSt_sound h
  | accLd => exact execAccLd_sound h
  | accLdComplete => exact execAccLdComplete_sound h
  | cpyk => exact execCpyk_sound h
  | dzk => exact execDzk_sound h
  | coll => exact execColl_sound h
  | engineChunkDone => exact execEngineChunkDone_sound h
  | engineRecordComplete => exact execEngineRecordComplete_sound h
  | engineRecordFault => exact execEngineRecordFault_sound h
  | collectiveChunkReceive => exact execCollectiveChunkReceive_sound h
  | collectiveComplete => exact execCollectiveComplete_sound h
  | blockEnd => exact execBlockEnd_sound h
  | wellAdd => exact execWellAdd_sound h
  | wellAddRoom => exact execWellAddRoom_sound h
  | wellTake => exact execWellTake_sound h
  | quiet => exact execQuiet_sound h
  | quiescenceDeclared => exact execQuiescenceDeclared_sound h
  | tlbw => exact execTlbw_sound h
  | tlbinv => exact execTlbinv_sound h
  | orig => exact execOrig_sound h
  | hret => exact execHret_sound h
  | trap => exact execTrap_sound h
  | ctr => exact execCtr_sound h
  | wspill => exact execWspill_sound h
  | pathHoldRelease => exact execPathHoldRelease_sound h
  | clauseWaitClear => exact execClauseWaitClear_sound h
  | windowRefill => exact execWindowRefill_sound h
  | windowSpill => exact execWindowSpill_sound h
  | groupEnd => exact execGroupEnd_sound h
  | handlerCollectorLaunch => exact execHandlerCollectorLaunch_sound h
  | originResume => exact execOriginResume_sound h
  | notifyWrite => exact execNotifyWrite_sound h
  | queueSlotBind => exact execQueueSlotBind_sound h
  | launchHeaderRead => exact execLaunchHeaderRead_sound h
  | dependenceMet => exact execDependenceMet_sound h
  | specialise => exact execSpecialise_sound h
  | blockAdmit => exact execBlockAdmit_sound h
  | blockPlace => exact execBlockPlace_sound h
  | launchComplete => exact execLaunchComplete_sound h
  | rampSlotBoundary => exact execRampSlotBoundary_sound h
  | governorHold => exact execGovernorHold_sound h
  | ballastIssue => exact execBallastIssue_sound h
  | governorLimitWrite => exact execGovernorLimitWrite_sound h
  | preempt => exact execPreempt_sound h
  | faultedBlock => exact execFaultedBlock_sound h
  | contentionPreempt => exact execContentionPreempt_sound h
  | meteringPeriodBoundary => exact execMeteringPeriodBoundary_sound h
  | issueThrottle => exact execIssueThrottle_sound h
  | rsvtimeExhausted => exact execRsvtimeExhausted_sound h
  | bandwidthCapHold => exact execBandwidthCapHold_sound h
  | throttlingVictim => exact execThrottlingVictim_sound h
  | watchdogExpire => exact execWatchdogExpire_sound h
  | sampleWrite => exact execSampleWrite_sound h
  | samplingSelectWrite => exact execSamplingSelectWrite_sound h
  | controlRegisterWrite => exact execControlRegisterWrite_sound h
  | hostWindowRead => exact execHostWindowRead_sound h
  | hostWindowWrite => exact execHostWindowWrite_sound h
  | poisonMark => exact execPoisonMark_sound h
  | correctedError => exact execCorrectedError_sound h
  | debugStop => exact execDebugStop_sound h
  | stopRecordDeferred => exact execStopRecordDeferred_sound h
  | debugCmdStop => exact execDebugCmdStop_sound h
  | debugCmdResume => exact execDebugCmdResume_sound h
  | debugCmdStep => exact execDebugCmdStep_sound h
  | debugCmdStopMode => exact execDebugCmdStopMode_sound h
  | stepDone => exact execStepDone_sound h
  | replayDiverged => exact execReplayDiverged_sound h
  | coldStart => exact execColdStart_sound h
  | warmStart => exact execWarmStart_sound h
  | ownerSetup => exact execOwnerSetup_sound h
  | queueSetup => exact execQueueSetup_sound h
  | communicatorFill => exact execCommunicatorFill_sound h
  | ownerReset => exact execOwnerReset_sound h
  | memberWithdrawn => exact execMemberWithdrawn_sound h
  | migration => exact execMigration_sound h
  | peerChunkRetry => exact h.next
  | attestationRequest => exact execAttestationRequest_sound h
  | firmwareUpdate => exact execFirmwareUpdate_sound h
  | moduleRemoval => exact execModuleRemoval_sound h
  | coreSpare => exact execCoreSpare_sound h
  | hbmRowRemap => exact execHbmRowRemap_sound h
  | hbmChannelRetire => exact execHbmChannelRetire_sound h
  | titeyxLaneSpare => exact execTiteyxLaneSpare_sound h
  | flitCrcRetry => exact execFlitCrcRetry_sound h
  | titeyxPortFail => exact execTiteyxPortFail_sound h
  | noPortReachesMember => exact execNoPortReachesMember_sound h
  | pcieLinkDown => exact execPcieLinkDown_sound h
  | cxlPortOutOfService => exact execCxlPortOutOfService_sound h
  | managementFrame => exact execManagementFrame_sound h
  | controlCoreWake => exact execControlCoreWake_sound h
  | illegalInstruction => exact execIllegalInstruction_sound h
  | wellOpComplete => exact execWellOpComplete_sound h
  | translationEntryDrop => exact execTranslationEntryDrop_sound h
  | dieCacheEviction => exact execDieCacheEviction_sound h
  | pcieLinkRetrained => exact execPcieLinkRetrained_sound h
  | msixVectorUnmask => exact execMsixVectorUnmask_sound h
  | controlCorePowerGate => exact execControlCorePowerGate_sound h
  | wakeFilterWrite => exact execWakeFilterWrite_sound h

/-! ### The next move -/

theorem State.Sound.chargeTest {s : State} (h : s.Sound) {c} : (s.chargeTest c).Sound := by
  unfold State.chargeTest
  dsimp only
  split
  · exact h
  · exact h.chargeWindow

theorem State.Sound.pickWord {s : State} (h : s.Sound) {c} : (s.pickWord c).1.Sound := by
  dsimp only [State.pickWord]
  split
  · exact h.chargeTest
  split
  · exact h.chargeTest
  · exact h.chargeTest.updPath

theorem State.Sound.takeTurn {s : State} (h : s.Sound) {r} : (s.takeTurn r).1.Sound := by
  dsimp only [State.takeTurn]
  split
  · exact h
  split
  · exact h
  split
  · exact h.chargeTest
  split
  · split
    · exact h.beginClause
    · exact h
  split
  · exact State.Sound.pickWord (.ite h.beginClause h)
  split
  · exact h.beginClause
  · exact h

theorem State.Sound.turn {s : State} (h : s.Sound) {r dt} : (s.turn r dt).1.Sound := h.advance.openCycle.congr.takeTurn

theorem State.Sound.openFor {s : State} (h : s.Sound) {e} : (s.openFor e).Sound := by
  unfold State.openFor
  split
  · exact h
  · exact h
  · exact h.openCycle

theorem State.Sound.nextMove {s : State} (h : s.Sound) : s.nextMove.1.Sound := by
  unfold State.nextMove
  split
  · exact h.turn
  · exact h.congr.turn
  · exact h.congr.advance.openFor

theorem State.Sound.placeWord {s : State} (h : s.Sound) {nbits w} : (s.placeWord nbits w).Sound := h.writeAll.updOwner.congr

/-! ### A step -/

theorem step_sound {s : State} (h : s.Sound) : NextSound (step s) := by
  unfold step
  split
  · exact exec_sound (h.nextMove.of_fst ‹_›)
  · exact (h.nextMove.of_fst ‹_›).next

/-- Settles O25: `State.Sound` is kept by the move of the agenda and by the meaning of every instruction and event. -/
theorem stepKeepsSound : Obligations.StepKeepsSound := fun _ t h e => step_sound h t e

end Sys2Proof.Machine
end

section
/-! SUPPORT. What a pre-emption leaves as it was (`State.Keeps`): owners as far as they last, the reverse
ownership table, and the residency of every other block. -/

namespace Sys2Proof.Machine

-- Short lemmas that cite each other: elaborated one after the other, they need no thread each.
set_option Elab.async false

/-! ### What the operations of a pre-emption leave as it was -/

/-- What an owner keeps through every operation but those of the firmware and of its translation: validity, translation entries, migration. -/
def Owner.lasting (w : Owner) : Bool × List TlbEntry × Option Nat := (w.valid, w.tlb, w.migrating)

/-- Where a block has its residency, and whether it counts as pre-empted. -/
def Block.stay (y : Block) : Option Nat × Bool := (y.cluster, y.preempted)

/-- The residency of a block that is there. -/
def State.stay (s : State) (l b : Nat) : Option (Option Nat × Bool) := (s.block? l b).map Block.stay

/-- `t` has the owners of `s` as far as they last, and its reverse ownership table. -/
structure State.KeepsTables (s t : State) : Prop where
  owner : ∀ o, (t.owner o).lasting = (s.owner o).lasting
  ownership : t.ownership = s.ownership

/-- `t` has the tables of `s`, and every block has the residency that it has in `s`. -/
structure State.Keeps (s t : State) : Prop extends State.KeepsTables s t where
  stay : ∀ l b, t.stay l b = s.stay l b

theorem State.KeepsTables.refl (s : State) : s.KeepsTables s := ⟨fun _ => rfl, rfl⟩

theorem State.Keeps.refl (s : State) : s.Keeps s := ⟨.refl s, fun _ _ => rfl⟩

theorem State.KeepsTables.trans {s t u : State} (h : s.KeepsTables t) (h' : t.KeepsTables u) : s.KeepsTables u :=
  ⟨fun o => (h'.owner o).trans (h.owner o), h'.ownership.trans h.ownership⟩

/-- A state that differs where the tables do not look. -/
theorem State.KeepsTables.congr {s₀ s t : State} (h : s₀.KeepsTables s) (ho : t.owners = s.owners := by rfl)
    (hp : t.ownership = s.ownership := by rfl) : s₀.KeepsTables t where
  owner o := by
    unfold State.owner
    rw [ho]
    exact h.owner o
  ownership := hp.trans h.ownership

theorem State.Keeps.congr {s₀ s t : State} (h : s₀.Keeps s) (ho : t.owners = s.owners := by rfl) (hp : t.ownership = s.ownership := by rfl)
    (hl : t.launches = s.launches := by rfl) : s₀.Keeps t where
  toKeepsTables := h.toKeepsTables.congr ho hp
  stay l b := by
    unfold State.stay State.block? State.launch?
    rw [hl]
    exact h.stay l b

theorem State.owner_updOwner (s : State) (o : Nat) (f : Owner → Owner) (k : Nat) :
    (s.updOwner o f).owner k = if o = k ∧ k < s.owners.length then f (s.owner k) else s.owner k := by
  unfold State.updOwner State.owner
  by_cases hk : k < s.owners.length
  · simp [hk, List.getElem_modify]
  · simp [hk]

theorem State.KeepsTables.updOwner {s₀ s : State} (h : s₀.KeepsTables s) {o : Nat} {f : Owner → Owner}
    (hf : ∀ w, (f w).lasting = w.lasting := by intros; rfl) : s₀.KeepsTables (s.updOwner o f) where
  owner k := by
    rw [State.owner_updOwner, ← h.owner k]
    split
    · exact hf _
    · rfl
  ownership := h.ownership

theorem State.Keeps.updOwner {s₀ s : State} (h : s₀.Keeps s) {o : Nat} {f : Owner → Owner}
    (hf : ∀ w, (f w).lasting = w.lasting := by intros; rfl) : s₀.Keeps (s.updOwner o f) :=
  ⟨h.toKeepsTables.updOwner hf, h.stay⟩

theorem find?_map_ite {α : Type} (xs : List α) (key : α → Nat) (n : Nat) (f : α → α) (hf : ∀ x, key (f x) = key x) (m : Nat) :
    (xs.map fun x => if key x = n then f x else x).find? (fun x => key x == m) =
      (xs.find? fun x => key x == m).map fun x => if key x = n then f x else x := by
  rw [List.find?_map]
  congr 2
  funext x
  simp only [Function.comp]
  split
  · rw [hf]
  · rfl

theorem State.launch?_updLaunch (s : State) (l : Nat) (f : Launch → Launch) (hf : ∀ x, (f x).seq = x.seq) (k : Nat) :
    (s.updLaunch l f).launch? k = (s.launch? k).map fun x => if x.seq = l then f x else x :=
  find?_map_ite _ _ _ _ hf _

theorem Launch.block?_updBlock (x : Launch) (b : Nat) (f : Block → Block) (hf : ∀ y, (f y).index = y.index) (k : Nat) :
    (x.updBlock b f).block? k = (x.block? k).map fun y => if y.index = b then f y else y :=
  find?_map_ite _ _ _ _ hf _

theorem State.block?_updBlock (s : State) (l b : Nat) (f : Block → Block) (hf : ∀ y, (f y).index = y.index) (k j : Nat) :
    (s.updBlock l b f).block? k j = (s.block? k j).map fun y => if k = l ∧ y.index = b then f y else y := by
  unfold State.updBlock State.block?
  rw [State.launch?_updLaunch s l (·.updBlock b f) fun _ => rfl]
  cases h : s.launch? k with
  | none => rfl
  | some x =>
    have hk : x.seq = k := by simpa using List.find?_some h
    simp only [Option.map_some, Option.bind_some, hk]
    split
    · rename_i hl
      simpa [hl] using x.block?_updBlock b f hf j
    · rename_i hl
      simp [hl]

/-- What an operation does within launches keeps the residency, where it does to the blocks. -/
theorem State.Keeps.updLaunch {s₀ s : State} (h : s₀.Keeps s) {l : Nat} {f : Launch → Launch} (hf : ∀ x, (f x).seq = x.seq := by intros; rfl)
    (hb : ∀ x, (f x).blocks = x.blocks := by intros; rfl) : s₀.Keeps (s.updLaunch l f) where
  toKeepsTables := h.toKeepsTables.congr
  stay k b := by
    rw [← h.stay k b]
    unfold State.stay State.block?
    rw [State.launch?_updLaunch _ _ _ hf]
    cases s.launch? k with
    | none => rfl
    | some x =>
      simp only [Option.map_some, Option.bind_some]
      split
      · unfold Launch.block?
        rw [hb]
      · rfl

theorem State.Keeps.updBlock {s₀ s : State} (h : s₀.Keeps s) {l b : Nat} {f : Block → Block} (hf : ∀ y, (f y).index = y.index := by intros; rfl)
    (hs : ∀ y, (f y).stay = y.stay := by intros; rfl) : s₀.Keeps (s.updBlock l b f) where
  toKeepsTables := h.toKeepsTables.congr
  stay k j := by
    rw [← h.stay k j]
    unfold State.stay
    rw [State.block?_updBlock _ _ _ _ hf, Option.map_map]
    congr 1
    funext y
    simp only [Function.comp]
    split
    · exact hs y
    · rfl

theorem State.Keeps.ite {s₀ s t : State} {c : Prop} [Decidable c] (hs : s₀.Keeps s) (ht : s₀.Keeps t) : s₀.Keeps (if c then s else t) := by
  split
  · exact hs
  · exact ht

theorem State.Keeps.elim {α : Type} {s₀ s : State} {o : Option α} {f : α → State} (hs : s₀.Keeps s) (hf : ∀ {a}, s₀.Keeps (f a)) :
    s₀.Keeps (o.elim s f) := by
  cases o with
  | none => exact hs
  | some a => exact hf

theorem State.Keeps.foldl {α : Type} {s₀ s : State} {f : State → α → State} {l : List α} (h : s₀.Keeps s)
    (hf : ∀ {u : State} {a}, s₀.Keeps u → s₀.Keeps (f u a)) : s₀.Keeps (l.foldl f s) :=
  List.foldlRecOn (motive := s₀.Keeps) l f h fun _ hu _ _ => hf hu

theorem State.Keeps.foldl_fst {α β : Type} {s₀ s : State} {a : α} {f : State × α → β → State × α} {l : List β} (h : s₀.Keeps s)
    (hf : ∀ {q : State × α} {b}, s₀.Keeps q.1 → s₀.Keeps (f q b).1) : s₀.Keeps (l.foldl f (s, a)).1 :=
  List.foldlRecOn (motive := fun q : State × α => s₀.Keeps q.1) l f h fun _ hq _ _ => hf hq

/-- The state of a pair that an operation answers. -/
theorem State.Keeps.of_fst {α : Type} {s₀ s : State} {p : State × α} {a : α} (h : s₀.Keeps p.1) (e : p = (s, a)) : s₀.Keeps s := by
  subst e
  exact h

/-! ### The operations that a pre-emption is made of -/

theorem State.Keeps.updGroup {s₀ s : State} (h : s₀.Keeps s) {l b g f} : s₀.Keeps (s.updGroup l b g f) := h.updBlock

theorem State.Keeps.updPathGroup {s₀ s : State} (h : s₀.Keeps s) {r f} : s₀.Keeps (s.updPathGroup r f) := h.updGroup

theorem State.Keeps.updPath {s₀ s : State} (h : s₀.Keeps s) {r f} : s₀.Keeps (s.updPath r f) := h.updPathGroup

theorem State.Keeps.passWord {s₀ s : State} (h : s₀.Keeps s) {r} : s₀.Keeps (s.passWord r) := h.updPath

theorem State.Keeps.clearPoison {s₀ s : State} (h : s₀.Keeps s) {ranges} : s₀.Keeps (s.clearPoison ranges) := h.congr

theorem State.Keeps.noteImage {s₀ s : State} (h : s₀.Keeps s) {l b g id pa n} : s₀.Keeps (s.noteImage l b g id pa n) := h.updGroup

theorem State.Keeps.settle {s₀ s : State} (h : s₀.Keeps s) : s₀.Keeps s.settle := h.congr

theorem State.Keeps.applyAt {s₀ s : State} (h : s₀.Keeps s) {m t view} : s₀.Keeps (s.applyAt m t view) := by
  unfold State.applyAt
  split
  · exact h
  · exact h.congr

theorem State.Keeps.carryTo {s₀ s : State} (h : s₀.Keeps s) {vs sel} : s₀.Keeps (s.carryTo vs sel) :=
  ((h.foldl fun h' => h'.foldl fun h₂ => h₂.applyAt).settle).congr

theorem State.Keeps.launchWrite {s₀ s : State} (h : s₀.Keeps s) {vs t} : s₀.Keeps (s.launchWrite vs t) :=
  State.Keeps.settle (State.Keeps.foldl (State.Keeps.congr (.ite h h.carryTo)) (fun h' => h'.applyAt))

theorem State.Keeps.writeOrdinary {s₀ s : State} (h : s₀.Keeps s) {p lane die pa bs preds} : s₀.Keeps (s.writeOrdinary p lane die pa bs preds) :=
  h.launchWrite

theorem State.Keeps.takeFreeOf {s₀ s : State} (h : s₀.Keeps s) {o n} : s₀.Keeps (s.takeFreeOf o n) := h.updOwner

theorem State.Keeps.markPoison {s₀ s : State} (h : s₀.Keeps s) {pa} : s₀.Keeps (s.markPoison pa) := by
  unfold State.markPoison
  split
  · exact h
  · exact h.congr

theorem State.Keeps.dropOp {s₀ s : State} (h : s₀.Keeps s) {id} : s₀.Keeps (s.dropOp id) := h.congr

theorem State.Keeps.opCarry {s₀ s : State} (h : s₀.Keeps s) {o ids} : s₀.Keeps (s.opCarry o ids) := by
  unfold State.opCarry
  split
  · exact h
  · exact h.carryTo

theorem State.Keeps.writeAll {s₀ s : State} (h : s₀.Keeps s) {pa bs} : s₀.Keeps (s.writeAll pa bs) := h.congr

theorem State.Keeps.amendVirt {s₀ s : State} (h : s₀.Keeps s) {o va bs} : s₀.Keeps (s.amendVirt o va bs) := h.foldl fun h' => h'.elim h'.writeAll

theorem State.Keeps.logLanes {s₀ s : State} (h : s₀.Keeps s) {o l n vals} : s₀.Keeps (s.logLanes o l n vals) :=
  h.foldl fun h' => h'.elim h'.amendVirt

theorem State.Keeps.flushLog {s₀ s : State} (h : s₀.Keeps s) {r} : s₀.Keeps (s.flushLog r) := by
  unfold State.flushLog
  split
  · split
    · exact h
    · exact (h.foldl fun h' => h'.amendVirt).updPathGroup
  · exact h

theorem State.Keeps.noteAccess {s₀ s : State} (h : s₀.Keeps s) {o addr n m read wrote} : s₀.Keeps (s.noteAccess o addr n m read wrote) :=
  h.updPathGroup

theorem State.Keeps.opClearPoison {s₀ s : State} (h : s₀.Keeps s) {o n} : s₀.Keeps (s.opClearPoison o n) := by
  unfold State.opClearPoison
  split
  · exact h
  · exact h.clearPoison

theorem State.Keeps.spoilCards {s₀ s : State} (h : s₀.Keeps s) {o addr bs} : s₀.Keeps (s.spoilCards o addr bs).1 := by
  dsimp only [State.spoilCards]
  split
  · exact h
  · exact State.Keeps.takeFreeOf (.ite h.congr (h.congr.foldl fun h' => h'.writeAll))

theorem State.Keeps.writeStrong {s₀ s : State} (h : s₀.Keeps s) {scope p lane die pa bs preds} :
    s₀.Keeps (s.writeStrong scope p lane die pa bs preds) :=
  h.launchWrite

theorem State.Keeps.writeAtomic {s₀ s : State} (h : s₀.Keeps s) {scope p lane die pa bs preds} :
    s₀.Keeps (s.writeAtomic scope p lane die pa bs preds) :=
  h.launchWrite

theorem State.Keeps.atomicMeets {s₀ s : State} (h : s₀.Keeps s) {die pa n} : s₀.Keeps (s.atomicMeets die pa n) := by
  unfold State.atomicMeets
  dsimp only
  split
  · exact h
  · exact h.carryTo

theorem State.Keeps.logPut {s₀ s : State} (h : s₀.Keeps s) {o l off bs} : s₀.Keeps (s.logPut o l off bs) := h.elim h.amendVirt

theorem State.Keeps.carry {s₀ s : State} (h : s₀.Keeps s) {sel} : s₀.Keeps (s.carry sel) := h.carryTo

theorem State.Keeps.freeReservation {s₀ s : State} (h : s₀.Keeps s) {core q} : s₀.Keeps (s.freeReservation core q) := h.congr

theorem State.Keeps.noteOldest {s₀ s : State} (h : s₀.Keeps s) {core} : s₀.Keeps (s.noteOldest core) := by
  unfold State.noteOldest
  split
  · exact h.congr
  split
  · exact h
  · exact h.congr

theorem State.Keeps.noteCluster {s₀ s : State} (h : s₀.Keeps s) {k} : s₀.Keeps (s.noteCluster k) := h.foldl fun h' => h'.noteOldest

theorem State.Keeps.recount {s₀ s : State} (h : s₀.Keeps s) : s₀.Keeps s.recount := h.foldl fun h' => h'.noteOldest

theorem State.Keeps.interrupt {s₀ s : State} (h : s₀.Keeps s) {o cause} : s₀.Keeps (s.interrupt o cause) := by
  unfold State.interrupt
  dsimp only
  split <;> exact h.congr
theorem State.Keeps.charge {s₀ s : State} (h : s₀.Keeps s) {o pa n} : s₀.Keeps (s.charge o pa n) :=
  h.updOwner fun w => by
    dsimp only
    split <;> rfl
theorem State.Keeps.imageWrite {s₀ s : State} (h : s₀.Keeps s) {x y g core va bs lane} : s₀.Keeps (s.imageWrite x y g core va bs lane) :=
  h.foldl fun h' => by split; exacts [h', h'.writeOrdinary.noteImage.charge.clearPoison]

theorem State.Keeps.writeAreas {s₀ s : State} (h : s₀.Keeps s) {x y z areas} : s₀.Keeps (s.writeAreas x y z areas) :=
  h.foldl fun h' => h'.imageWrite

theorem State.Keeps.sbFall {s₀ s : State} (h : s₀.Keeps s) {ref k} : s₀.Keeps (s.sbFall ref k) := by
  unfold State.sbFall
  dsimp only
  split
  · exact h.updPathGroup
  split
  · exact h.updPathGroup
  split
  · exact h.updPathGroup
  split
  · exact h.updPathGroup
  · exact h.updPathGroup.imageWrite

theorem State.Keeps.placeFlags {s₀ s : State} (h : s₀.Keeps s) {ref lane v} : s₀.Keeps (s.placeFlags ref lane v) := by
  unfold State.placeFlags
  split
  · exact h
  split
  · exact h
  split
  · exact h
  split
  · exact h
  dsimp only
  split
  · exact h.updPathGroup
  · exact h.updPathGroup.imageWrite

theorem State.Keeps.placeReg {s₀ s : State} (h : s₀.Keeps s) {ref r lane v} : s₀.Keeps (s.placeReg ref r lane v) := by
  dsimp only [State.placeReg]
  split
  · exact h
  split
  · exact h
  split
  · exact h
  split
  · exact h
  split
  · split
    · exact h.updPathGroup
    · exact State.Keeps.updPathGroup (State.Keeps.imageWrite (.ite h h.imageWrite))
  · split
    · exact h.updPathGroup
    · exact h.updPathGroup.imageWrite
  split
  · exact h.updPathGroup
  split
  · exact h.updPathGroup
  · exact h.updPathGroup.imageWrite

theorem State.Keeps.placeResult {s₀ s : State} (h : s₀.Keeps s) {ref r lane v} : s₀.Keeps (s.placeResult ref r lane v) := h.placeReg.flushLog

theorem State.Keeps.opDeliver {s₀ s : State} (h : s₀.Keeps s) {o vals} : s₀.Keeps (s.opDeliver o vals) := by
  unfold State.opDeliver
  dsimp only
  split
  · exact h.logLanes.foldl fun h' => h'.placeFlags
  · exact (h.logLanes.foldl fun h' => h'.placeFlags).foldl fun h' => .ite h'.placeResult.placeResult h'.placeResult

theorem State.Keeps.performLoad {s₀ s : State} (h : s₀.Keeps s) {o moments} : s₀.Keeps (s.performLoad o moments) :=
  State.Keeps.opDeliver (State.Keeps.foldl (.ite h.opCarry (h.opCarry.foldl fun h' => h'.charge)) (fun h' => h'.noteAccess))

theorem State.Keeps.spadWrite {s₀ s : State} (h : s₀.Keeps s) {l b core addr bs ids} : s₀.Keeps (s.spadWrite l b core addr bs ids) := by
  unfold State.spadWrite
  split
  · exact h
  split
  · exact h
  split
  · exact h.congr.updBlock
  · exact h.imageWrite

theorem State.Keeps.barWrite {s₀ s : State} (h : s₀.Keeps s) {l b core addr o} : s₀.Keeps (s.barWrite l b core addr o) := h.spadWrite

theorem State.Keeps.barUpdate {s₀ s : State} (h : s₀.Keeps s) {l b core addr f} : s₀.Keeps (s.barUpdate l b core addr f) := by
  unfold State.barUpdate
  dsimp only
  split
  · exact h.barWrite
  · exact h.barWrite.updBlock

theorem State.Keeps.barTouched {s₀ s : State} (h : s₀.Keeps s) {l b core rank ranges} : s₀.Keeps (s.barTouched l b core rank ranges) :=
  h.foldl fun h' => h'.updBlock.barUpdate

theorem State.Keeps.opTouched {s₀ s : State} (h : s₀.Keeps s) {o ranges} : s₀.Keeps (s.opTouched o ranges) := by
  unfold State.opTouched
  split
  · exact h.barTouched
  · exact h

theorem State.Keeps.opWrite {s₀ s : State} (h : s₀.Keeps s) {o lane addr bs read} : s₀.Keeps (s.opWrite o lane addr bs read) := by
  unfold State.opWrite
  split
  next u bs' hu =>
  have hu : s₀.Keeps u := h.spoilCards.of_fst hu
  refine State.Keeps.noteAccess (.ite hu.spadWrite ?_)
  dsimp only
  split
  · exact hu.charge.writeStrong
  · exact hu.charge.writeAtomic
  · exact hu.charge.writeOrdinary

theorem State.Keeps.performStore {s₀ s : State} (h : s₀.Keeps s) {o} : s₀.Keeps (s.performStore o) :=
  ((h.foldl fun h' => h'.opWrite).opTouched).opClearPoison

theorem State.Keeps.atomicStep {s₀ s : State} (h : s₀.Keeps s) {o e} : s₀.Keeps (s.atomicStep o e).1 :=
  State.Keeps.opTouched (State.Keeps.opWrite (.ite h h.atomicMeets.opCarry))

theorem State.Keeps.performAtomic {s₀ s : State} (h : s₀.Keeps s) {o} : s₀.Keeps (s.performAtomic o) :=
  ((h.foldl_fst fun h' => by exact h'.atomicStep).opClearPoison).opDeliver

theorem State.Keeps.performAccLoad {s₀ s : State} (h : s₀.Keeps s) {o} : s₀.Keeps (s.performAccLoad o) :=
  State.Keeps.congr (State.Keeps.foldl (.ite h.opCarry.logPut (h.opCarry.logPut.foldl fun h' => h'.charge)) (fun h' => h'.noteAccess))

theorem State.Keeps.performAccStore {s₀ s : State} (h : s₀.Keeps s) {o} : s₀.Keeps (s.performAccStore o) := by
  unfold State.performAccStore
  dsimp only
  split
  · exact (h.foldl fun h' => h'.opWrite).opTouched
  · exact ((h.foldl fun h' => h'.opWrite).opTouched).clearPoison

theorem State.Keeps.performWellAdd {s₀ s : State} (h : s₀.Keeps s) {o} : s₀.Keeps (s.performWellAdd o) := by
  refine State.Keeps.updOwner (State.Keeps.clearPoison (h.carry.foldl fun h' => ?_))
  split
  next hu => exact (h'.spoilCards.of_fst hu).writeAll.charge

theorem State.Keeps.performWellTake {s₀ s : State} (h : s₀.Keeps s) {o} : s₀.Keeps (s.performWellTake o) :=
  h.opDeliver.foldl fun h' => h'.placeResult

theorem State.Keeps.perform {s₀ s : State} (h : s₀.Keeps s) {o moments} : s₀.Keeps (s.perform o moments) := by
  unfold State.perform
  split
  · exact h.performLoad
  · exact h.performStore
  · exact h.performStore
  · exact h.performAtomic
  · exact h.performAccLoad
  · exact h.performAccStore
  · exact h.performWellAdd
  · exact h.performWellTake

theorem State.Keeps.savePath {s₀ s : State} (h : s₀.Keeps s) {r} : s₀.Keeps (s.savePath r) := by
  unfold State.savePath
  split
  · split
    · exact h
    · exact h.imageWrite.imageWrite
  · exact h

theorem State.Keeps.endQuiet {s₀ s : State} (h : s₀.Keeps s) {r v} : s₀.Keeps (s.endQuiet r v) := by
  unfold State.endQuiet
  split
  · exact h
  split
  · exact (((h.foldl fun h' => h'.placeResult).logPut).passWord).savePath
  · exact h

theorem State.Keeps.wakeQuiet {s₀ s : State} (h : s₀.Keeps s) {o n} : s₀.Keeps (s.wakeQuiet o n) := h.foldl fun h' => h'.endQuiet

theorem State.Keeps.completeOp {s₀ s : State} (h : s₀.Keeps s) {o moments} : s₀.Keeps (s.completeOp o moments) := by
  unfold State.completeOp
  dsimp only
  split
  · exact h.perform.sbFall.dropOp.wakeQuiet
  · exact h.perform.sbFall.dropOp

theorem State.Keeps.writeHeaderAreas {s₀ s : State} (h : s₀.Keeps s) {x y z} : s₀.Keeps (s.writeHeaderAreas x y z) := h.writeAreas.takeFreeOf

theorem State.Keeps.spadOut {s₀ s : State} (h : s₀.Keeps s) {x y core} : s₀.Keeps (s.spadOut x y core) :=
  (h.foldl fun h' => h'.imageWrite).foldl fun h' => h'.elim h'.markPoison

theorem State.Keeps.chargeVirt {s₀ s : State} (h : s₀.Keeps s) {o va n} : s₀.Keeps (s.chargeVirt o va n) :=
  h.foldl fun h' => by split; exacts [h'.charge, h']

theorem State.Keeps.writeVirt {s₀ s : State} (h : s₀.Keeps s) {o va bs} : s₀.Keeps (s.writeVirt o va bs) :=
  h.foldl fun h' => by split; exacts [h', h'.writeAll.charge]

theorem State.Keeps.ringPost {s₀ s : State} (h : s₀.Keeps s) {o base l2 size bs} : s₀.Keeps (s.ringPost o base l2 size bs).1 := by
  unfold State.ringPost
  split
  · split
    · exact h.chargeVirt
    · exact h.chargeVirt.writeVirt.writeVirt
  · exact h

theorem State.Keeps.report {s₀ s : State} (h : s₀.Keeps s) {o tag detail disp imageid} : s₀.Keeps (s.report o tag detail disp imageid) :=
  State.Keeps.interrupt (by split; exacts [.ite h h.ringPost, h])
@[simp] theorem Owner.bump_lasting (w : Owner) (n v : Nat) : (w.bump n v).lasting = w.lasting := rfl

@[simp] theorem Owner.event_lasting (w : Owner) (code n : Nat) : (w.event code n).lasting = w.lasting :=
  List.foldlRecOn (motive := fun u : Owner => u.lasting = w.lasting) (List.range 4) _ rfl fun u hu k _ => by
    split
    · exact hu
    · exact hu

theorem State.Keeps.spillLine {s₀ s : State} (h : s₀.Keeps s) {x y z n} : s₀.Keeps (s.spillLine x y z n) := by
  refine State.Keeps.updGroup (State.Keeps.updOwner (.ite ?_ h.imageWrite.takeFreeOf) fun _ => by simp)
  refine h.imageWrite.takeFreeOf.foldl fun h' => ?_
  split
  · exact h'.markPoison
  · exact h'

theorem State.Keeps.mmaEnds {s₀ s : State} (h : s₀.Keeps s) {m} : s₀.Keeps (s.mmaEnds m) := by
  unfold State.mmaEnds
  extract_lets t ran seen s1 s2 s3
  have h1 : s₀.Keeps s1 := h.updOwner fun _ => by simp
  have h3 : s₀.Keeps s3 := h1.congr
  exact h3.foldl fun h' => h'.sbFall

theorem State.Keeps.tilesOut {s₀ s : State} (h : s₀.Keeps s) {x y} : s₀.Keeps (s.tilesOut x y) := by
  refine State.Keeps.updBlock (State.Keeps.congr (State.Keeps.foldl h fun h' => ?_))
  dsimp only
  split
  · refine h'.imageWrite.foldl fun h₂ => ?_
    split
    · exact h₂.markPoison
    · exact h₂
  · exact h'.imageWrite

theorem State.Keeps.spillLines {s₀ s : State} (h : s₀.Keeps s) {x y z f} : s₀.Keeps (s.spillLines x y z f) := h.foldl fun h' => h'.spillLine

theorem State.Keeps.wspillWrites {s₀ s : State} (h : s₀.Keeps s) {c lo n areas} : s₀.Keeps (s.wspillWrites c lo n areas) := h.spillLines.writeAreas

theorem State.Keeps.wspillEnds {s₀ s : State} (h : s₀.Keeps s) {r} : s₀.Keeps (s.wspillEnds r) := by
  unfold State.wspillEnds
  split
  · exact h
  split
  · exact h.wspillWrites.passWord
  · exact h

theorem State.Keeps.finishNext {s₀ s : State} (h : s₀.Keeps s) {l b} : s₀.Keeps (s.finishNext l b) := by
  unfold State.finishNext
  dsimp only
  split
  · exact h.completeOp
  split
  · exact h.mmaEnds
  · exact h

theorem State.Keeps.finishMatrix {s₀ s : State} (h : s₀.Keeps s) {l b} : s₀.Keeps (s.finishMatrix l b) := h.foldl fun h' => h'.finishNext

/-! ### What a pre-emption does to residency -/

/-- A block that is there stays there. -/
theorem State.Keeps.block?_isSome {s t : State} (h : s.Keeps t) {l b : Nat} (hy : (s.block? l b).isSome = true) : (t.block? l b).isSome = true := by
  have hs := h.stay l b
  unfold State.stay at hs
  rw [← Option.isSome_map, hs, Option.isSome_map]
  exact hy

/-- What becomes of the residency of a block that is pre-empted. -/
def stayOnceLeft (r : Option Nat × Bool) : Option Nat × Bool := if r.1.isSome then (none, true) else r

theorem State.stay_updBlock (s : State) (l b : Nat) (f : Block → Block) (hf : ∀ y, (f y).index = y.index) (hs : ∀ y, (f y).stay = (none, true))
    (k j : Nat) : (s.updBlock l b f).stay k j = if k = l ∧ j = b then (s.stay l b).map fun _ => (none, true) else s.stay k j := by
  unfold State.stay
  rw [State.block?_updBlock _ _ _ _ hf]
  cases hy : s.block? k j with
  | none =>
    split
    · next h => simp [← h.1, ← h.2, hy]
    · rfl
  | some y =>
    have hj : y.index = j := by
      obtain ⟨x, -, hb⟩ := Option.bind_eq_some_iff.mp hy
      simpa using List.find?_some hb
    simp only [Option.map_some, hj]
    split
    · next h => simp [← h.1, ← h.2, hy, hs]
    · rfl

/-- A pre-emption of a resident block is a change of that block, between operations that keep residency; of another it is nothing. -/
theorem State.preemptBlock_cases (s : State) (l b : Nat) (payer : Option Nat) :
    (∀ y, s.block? l b = some y → y.cluster = none) ∧ s.preemptBlock l b payer = s ∨
      (∃ y, s.block? l b = some y ∧ y.cluster.isSome = true) ∧ ∃ u, s.Keeps u ∧ ∃ f : Block → Block, (∀ y, (f y).index = y.index) ∧
        (∀ y, (f y).stay = (none, true)) ∧ (u.updBlock l b f).Keeps (s.preemptBlock l b payer) := by
  unfold State.preemptBlock
  split
  next hx => exact .inl ⟨fun y hy => by simp [State.block?, hx] at hy, rfl⟩
  next x hx =>
  have hl : s.block? l b = x.block? b := by rw [State.block?, hx, Option.bind_some]
  split
  next hy => exact .inl ⟨fun z hz => by simp [hl, hy] at hz, rfl⟩
  next y hy =>
  rw [hy] at hl
  split
  next hc =>
    refine .inl ⟨fun z hz => ?_, rfl⟩
    rw [hl] at hz
    exact Option.some.inj hz ▸ Option.isNone_iff_eq_none.mp hc
  next hc =>
  refine .inr ⟨⟨y, hl, by simpa [Option.isSome_iff_ne_none] using hc⟩, ?_⟩
  extract_lets core quiet s1 s2 s3
  have h1 : s.Keeps s1 := (State.Keeps.refl s).foldl fun h => h.wspillEnds
  have h3 : s.Keeps s3 := State.Keeps.finishMatrix h1.updBlock
  have hb3 : (s3.block? l b).isSome = true := h3.block?_isSome (by rw [hl, Option.isSome_some])
  split
  next hx3 => simp [State.block?, hx3] at hb3
  next x3 hx3 =>
  split
  next hy3 => simp [State.block?, hx3, hy3] at hb3
  next y3 hy3 =>
  extract_lets s4 s5 x' s6 s7 s8
  have h4 : s.Keeps s4 := h3.foldl fun h => h.writeHeaderAreas
  have h5 : s.Keeps s5 := h4.foldl fun h => h.freeReservation
  have h7 : s.Keeps s7 := h5.spadOut.tilesOut.congr
  refine ⟨s7, h7, _, ?_, ?_, (State.Keeps.refl s8).updLaunch.noteCluster⟩
  · exact fun _ => rfl
  · exact fun _ => rfl

theorem State.preemptBlock_tables (s : State) (l b : Nat) (payer : Option Nat) : s.KeepsTables (s.preemptBlock l b payer) := by
  obtain ⟨-, h⟩ | ⟨-, u, hu, f, -, -, h⟩ := s.preemptBlock_cases l b payer
  · rw [h]
    exact .refl s
  · exact (hu.toKeepsTables.congr (t := u.updBlock l b f)).trans h.toKeepsTables

theorem State.preemptBlock_stay (s : State) (l b : Nat) (payer : Option Nat) (k j : Nat) :
    (s.preemptBlock l b payer).stay k j = if k = l ∧ j = b then (s.stay l b).map stayOnceLeft else s.stay k j := by
  obtain ⟨hn, h⟩ | ⟨⟨y, hy, hc⟩, u, hu, f, hf, hs, h⟩ := s.preemptBlock_cases l b payer
  · rw [h]
    split
    next hk =>
      rw [hk.1, hk.2]
      unfold State.stay
      cases hy : s.block? l b with
      | none => rfl
      | some y => simp [stayOnceLeft, Block.stay, hn y hy]
    · rfl
  · rw [h.stay, State.stay_updBlock _ _ _ _ hf hs, hu.stay, hu.stay]
    have hl : s.stay l b = some y.stay := by rw [State.stay, hy, Option.map_some]
    rw [hl]
    simp [stayOnceLeft, Block.stay, hc]

/-! ### What pre-emptions, one after the other, do -/

theorem State.left_iff (s : State) (v : Nat × Nat) : s.Left v ↔ s.stay v.1 v.2 = some (none, true) := by
  unfold State.Left State.stay
  simp [Option.map_eq_some_iff, Block.stay]

theorem State.preemptAll_tables (s : State) (vs : List (Nat × Nat)) (payer : Option Nat) : s.KeepsTables (s.preemptAll vs payer) :=
  List.foldlRecOn (motive := s.KeepsTables) vs _ (.refl s) fun u hu v _ => hu.trans (u.preemptBlock_tables v.1 v.2 payer)

/-- A block that has left stays away. -/
theorem State.Left.preemptBlock {s : State} {v : Nat × Nat} (h : s.Left v) (l b : Nat) (payer : Option Nat) : (s.preemptBlock l b payer).Left v := by
  rw [State.left_iff] at *
  rw [State.preemptBlock_stay]
  split
  next hk => rw [← hk.1, ← hk.2, h, Option.map_some]; rfl
  · exact h

theorem State.Left.preemptAll {s : State} {v : Nat × Nat} (h : s.Left v) (vs : List (Nat × Nat)) (payer : Option Nat) :
    (s.preemptAll vs payer).Left v :=
  List.foldlRecOn (motive := fun u : State => u.Left v) vs _ h fun _ hu w _ => hu.preemptBlock w.1 w.2 payer

theorem State.stands_iff (s : State) (v : Nat × Nat) : s.Stands v ↔ ∃ r, s.stay v.1 v.2 = some r ∧ r.1.isSome = true := by
  unfold State.Stands State.stay
  simp [Option.map_eq_some_iff, Block.stay]

/-- A resident block that is pre-empted has left. -/
theorem State.Stands.left_preemptBlock {s : State} {l b : Nat} (h : s.Stands (l, b)) (payer : Option Nat) :
    (s.preemptBlock l b payer).Left (l, b) := by
  obtain ⟨r, hr, hc⟩ := (s.stands_iff _).mp h
  rw [State.left_iff, State.preemptBlock_stay, if_pos ⟨rfl, rfl⟩, hr, Option.map_some, stayOnceLeft, if_pos hc]

theorem State.Stands.preemptBlock_other {s : State} {v : Nat × Nat} (h : s.Stands v) {l b : Nat} (hv : v ≠ (l, b)) (payer : Option Nat) :
    (s.preemptBlock l b payer).Stands v := by
  have hv' : ¬(v.1 = l ∧ v.2 = b) := fun e => hv (Prod.ext e.1 e.2)
  obtain ⟨r, hr, hc⟩ := (s.stands_iff _).mp h
  refine (State.stands_iff _ _).mpr ⟨r, ?_, hc⟩
  rw [State.preemptBlock_stay, if_neg hv', hr]

/-- A resident block of a list has left once the whole list is pre-empted. -/
theorem State.Stands.left_preemptAll {s : State} {v : Nat × Nat} (h : s.Stands v) {vs : List (Nat × Nat)} (hv : v ∈ vs) (payer : Option Nat) :
    (s.preemptAll vs payer).Left v := by
  induction vs generalizing s with
  | nil => cases hv
  | cons w ws ih =>
    by_cases hw : v = w
    · subst hw
      exact h.left_preemptBlock payer |>.preemptAll ws payer
    · exact ih (h.preemptBlock_other (l := w.1) (b := w.2) hw payer) ((List.mem_cons.mp hv).resolve_left hw)

/-- A stop of an owner leaves every owner's translations and the reverse ownership table. -/
theorem State.stopOwner_tables (s : State) (o : Nat) (tag : List Word) (detail : Word) (imageid : DWord) :
    s.KeepsTables (s.stopOwner o tag detail imageid) := by
  unfold State.stopOwner
  split
  · exact .refl s
  extract_lets s1 blocks s2 s3 s4
  have h1 : s.KeepsTables s1.recount := ((State.KeepsTables.refl s).congr (t := s1)).trans (State.Keeps.refl s1).recount.toKeepsTables
  have h2 : s.KeepsTables s2 := h1.trans (s1.recount.preemptAll_tables blocks none)
  have h4 : s.KeepsTables s4 := (h2.updOwner (o := o) (f := fun w => { w with stopped := true })).congr
  exact h4.trans (State.Keeps.refl s4).report.interrupt.toKeepsTables

end Sys2Proof.Machine
end

section
/-! SUPPORT. Starts, owner reset and migration. -/

namespace Sys2Proof.Machine

/-! ### Starts -/

theorem imageGood_iff {image : List Byte} {version rollback : Nat} {signature : BitVec 512} :
    imageGood image version rollback signature = true ↔ Config.sm2Verify (sm3 image) signature = true ∧ rollback ≤ version := by
  simp [imageGood]

theorem recordValid_iff {t : Option (Nat × Int)} {version : Nat} {inlet : Int} :
    recordValid t version inlet = true ↔ t = some (version, inlet / 50) := by
  cases t with
  | none => simp [recordValid]
  | some r => simp [recordValid, band, Prod.ext_iff]

/-- Nothing is under way and no owner is there; repairs stay, and no filter wakes the module. -/
def State.Gone (t : State) (f : Firmware) : Prop :=
  t.cycle = 0 ∧ (∀ o, (t.owner o).valid = false) ∧ t.launches = [] ∧ t.queues = [] ∧ t.records = [] ∧ t.ops = [] ∧
    t.origins = [] ∧ t.reservations = [] ∧ t.tiles = [] ∧ t.firmware.spareMap = f.spareMap ∧ ∀ e ∈ t.firmware.wake, e.valid = false

theorem State.owner_started_valid (s : State) (f : Firmware) (dies : List Die) (poison : List Nat) (links : Links) (o : Nat) :
    ((s.started f dies poison links).owner o).valid = false := by
  unfold State.owner
  simp only [State.started, List.getD_eq_getElem?_getD, List.getElem?_map]
  cases s.owners[o]? with
  | none => rfl
  | some w => rfl

theorem Firmware.restart_wake (f : Firmware) (warm : Bool) (training : Option (Nat × Int)) :
    ∀ e ∈ (f.restart warm training).wake, e.valid = false := by
  intro e he
  obtain ⟨e', -, rfl⟩ := List.mem_map.mp he
  rfl

theorem State.started_restart_gone (s : State) (f : Firmware) (warm : Bool) (training : Option (Nat × Int)) (dies : List Die) (poison : List Nat)
    (links : Links) : (s.started (f.restart warm training) dies poison links).Gone f :=
  ⟨rfl, s.owner_started_valid _ _ _ _, rfl, rfl, rfl, rfl, rfl, rfl, rfl, rfl, f.restart_wake warm training⟩

theorem State.started_bootRom_gone (s : State) (f : Firmware) (warm : Bool) (dies : List Die) (poison : List Nat) (links : Links) :
    (s.started (f.bootRom warm) dies poison links).Gone f :=
  ⟨rfl, s.owner_started_valid _ _ _ _, rfl, rfl, rfl, rfl, rfl, rfl, rfl, rfl, f.restart_wake warm f.training⟩

theorem State.view_started_mem (s : State) (f : Firmware) (dies : List Die) (poison : List Nat) (links : Links) (v : Nat) :
    ((s.started f dies poison links).view v).mem = (dies.getD v ⟨[], [], []⟩).mem := by
  simp only [State.view, State.started, List.getD_eq_getElem?_getD, List.getElem?_map]
  cases dies[v]? with
  | none => rfl
  | some d => rfl

theorem State.sameMemory_of_view {s t : State} (h : ∀ v, (t.view v).mem = (s.view v).mem) : s.SameMemory t := fun v pa => by
  simp [State.readPhys, h v]

theorem State.carry_dies_of_transit_nil {s : State} (h : s.transit = []) (sel : Transit → Bool) : (s.carry sel).dies = s.dies := by
  simp [State.carry, State.carryTo, State.settle, h]

theorem State.started_sameMemory (s : State) (f : Firmware) (poison : List Nat) (links : Links) : s.SameMemory (s.started f s.dies poison links) :=
  State.sameMemory_of_view fun v => s.view_started_mem f s.dies poison links v

theorem State.started_reset_readPhys (s : State) (f : Firmware) (poison : List Nat) (links : Links) (view pa : Nat) :
    (s.started f State.reset.dies poison links).readPhys view pa 1 = [0] :=
  State.readPhys_of_view_empty ((s.view_started_mem f State.reset.dies poison links view).trans (State.reset_view_mem view)) pa 1

theorem exec_coldStart_of_good {s : State} (h : imageGood s.firmware.image s.firmware.version s.firmware.rollback s.firmware.signature = true)
    (inlet : Int) (device : BitVec 12) : exec (.coldStart inlet device) s =
      .next (s.started (s.firmware.restart false (some (s.firmware.version, inlet / 50))) State.reset.dies []
        { Links.start with deviceNumber := device }) := congrArg _ (if_pos h)

theorem exec_coldStart_of_bad {s : State} (h : ¬imageGood s.firmware.image s.firmware.version s.firmware.rollback s.firmware.signature = true)
    (inlet : Int) (device : BitVec 12) : exec (.coldStart inlet device) s =
      .next (s.started (s.firmware.bootRom false) s.dies s.poison s.links) := congrArg _ (if_neg h)

/-- The first start after the module was out of its slot is a cold one. -/
theorem exec_warmStart_of_removed {s : State} (h : s.firmware.removed = true) (inlet : Int) (device : BitVec 12) :
    exec (.warmStart inlet device) s = exec (.coldStart inlet device) s := if_pos h

/-- The views as a warm start keeps them: every write in transit carried, and the vector clocks at zero. -/
def State.carriedDies (s : State) : List Die := (s.carry fun _ => true).dies.map fun d => { d with clock := [0, 0, 0, 0] }

/-- A warm start with no write in transit keeps what every view reads. -/
theorem State.started_carried_sameMemory {s : State} (h : s.transit = []) (f : Firmware) (poison : List Nat) (links : Links) :
    s.SameMemory (s.started f s.carriedDies poison links) := by
  refine State.sameMemory_of_view fun v => ?_
  rw [State.view_started_mem, State.carriedDies, State.carry_dies_of_transit_nil h]
  simp only [State.view, List.getD_eq_getElem?_getD, List.getElem?_map]
  cases s.dies[v]? with
  | none => rfl
  | some d => rfl

/-- A warm start in the slot trains the links unless the saved record holds. -/
theorem exec_warmStart_of_good {s : State} (hr : s.firmware.removed = false)
    (h : imageGood s.firmware.image s.firmware.version s.firmware.rollback s.firmware.signature = true) (inlet : Int) (device : BitVec 12) :
    exec (.warmStart inlet device) s =
      if recordValid s.firmware.training s.firmware.version inlet then
        .next (s.started (s.firmware.restart true s.firmware.training) s.carriedDies s.poison { s.links with deviceNumber := device })
      else
        .next (s.started (s.firmware.restart true (some (s.firmware.version, inlet / 50))) s.carriedDies s.poison
          { Links.start with deviceNumber := device }) :=
  (if_neg (by simp [hr])).trans (if_pos h)

theorem exec_warmStart_of_bad {s : State} (hr : s.firmware.removed = false)
    (h : ¬imageGood s.firmware.image s.firmware.version s.firmware.rollback s.firmware.signature = true) (inlet : Int) (device : BitVec 12) :
    exec (.warmStart inlet device) s = .next (s.started (s.firmware.bootRom true) s.dies s.poison s.links) :=
  (if_neg (by simp [hr])).trans (if_neg h)

/-! ### Region handles -/

theorem bits_eq_extractLsb' {w : Nat} (v : BitVec w) (hi lo : Nat) : bits v.toNat hi lo = (v.extractLsb' lo (hi + 1 - lo)).toNat := by
  simp [bits, BitVec.extractLsb'_toNat, Nat.shiftRight_eq_div_pow]

/-- The checks of the region-checking unit, over an entry that is there. -/
theorem Firmware.reach_eq_some_iff {f : Firmware} {h : DWord} {write : Bool} {pa : Nat} (hr : f.running = true) :
    f.reach h 8 write = some pa ↔ f.Reaches h write pa := by
  have h0 : h.toNat % 2 ^ 32 = (h.extractLsb' 0 32).toNat := by simp [BitVec.extractLsb'_toNat]
  have h4 : h.extractLsb' 32 4 = 0#4 ↔ bits h.toNat 35 32 = 0 := by
    rw [bits_eq_extractLsb', ← BitVec.toNat_inj]
    rfl
  have h16 (e : BitVec 16) : e.toNat = bits h.toNat 51 36 ↔ h.extractLsb' 36 16 = e := by
    rw [bits_eq_extractLsb', BitVec.toNat_inj, eq_comm]
  have h12 : bits h.toNat 63 52 = (h.extractLsb' 52 12).toNat := bits_eq_extractLsb' h 63 52
  unfold Firmware.reach Firmware.Reaches Firmware.region
  dsimp only
  rw [h12]
  cases hf : f.regions.find? fun e => e.1 == (h.extractLsb' 52 12).toNat with
  | none => simp
  | some e =>
    simp [hr, h4, h16, and_assoc, eq_comm (a := pa)]

theorem State.request_of_reaches {s : State} {h : DWord} {write : Bool} {pa : Nat} (hr : s.firmware.Reaches h write pa) (act : State → State) :
    s.request h write act = act (s.reaching pa) := by
  unfold State.request State.reachRecord
  rw [if_pos hr.1, (Firmware.reach_eq_some_iff hr.1).mpr hr]
  rfl

theorem State.request_of_not_reaches {s : State} {h : DWord} {write : Bool} (hr : ∀ pa, ¬s.firmware.Reaches h write pa) (act : State → State) :
    s.request h write act = s.answered := by
  unfold State.request State.reachRecord
  split
  next hrun =>
    have hn : s.firmware.reach h 8 write = none :=
      Option.eq_none_iff_forall_ne_some.mpr fun pa hpa => hr pa ((Firmware.reach_eq_some_iff hrun).mp hpa)
    rw [hn]
    rfl
  · rfl

/-! ### What is forgotten with an owner -/

/-- What carrying writes in transit changes. -/
def State.SameButMemory (s t : State) : Prop := ∃ ds tr m, t = { s with dies := ds, transit := tr, moment := m }

theorem State.SameButMemory.trans {s t u : State} (h : s.SameButMemory t) (h' : t.SameButMemory u) : s.SameButMemory u := by
  obtain ⟨ds, tr, m, rfl⟩ := h
  obtain ⟨ds', tr', m', rfl⟩ := h'
  exact ⟨ds', tr', m', rfl⟩

theorem State.sameButMemory_applyAt (s : State) (m : Nat) (t : Transit) (v : Nat) : s.SameButMemory (s.applyAt m t v) := by
  unfold State.applyAt
  split
  · exact ⟨_, _, _, rfl⟩
  · exact ⟨_, _, _, rfl⟩

theorem State.SameButMemory.foldl {α : Type} {s u : State} {f : State → α → State} {l : List α} (h : s.SameButMemory u)
    (hf : ∀ v a, State.SameButMemory v (f v a)) : s.SameButMemory (l.foldl f u) :=
  List.foldlRecOn (motive := s.SameButMemory) l f h fun v hv a _ => hv.trans (hf v a)

theorem State.SameButMemory.refl (s : State) : s.SameButMemory s := ⟨_, _, _, rfl⟩

theorem State.sameButMemory_applyAll (s : State) (m : Nat) (vs : List Nat) (t : Transit) : s.SameButMemory (s.applyAll m vs t) :=
  (State.SameButMemory.refl s).foldl fun u v => u.sameButMemory_applyAt m (u.transitOf t) v

theorem State.sameButMemory_settle (s : State) (m : Nat) : s.SameButMemory { s.settle with moment := m } := ⟨_, _, _, rfl⟩

theorem State.sameButMemory_carry (s : State) (sel : Transit → Bool) : s.SameButMemory (s.carry sel) := by
  rw [State.carry, State.carryTo_eq]
  refine State.SameButMemory.trans ?_ (State.sameButMemory_settle _ _)
  exact (State.SameButMemory.refl s).foldl fun u t => u.sameButMemory_applyAll s.moment [0, 1, 2, 3, 4] t

theorem State.recount_eq (s : State) : ∃ c, s.recount = { s with contention := c } :=
  List.foldlRecOn (motive := fun u : State => ∃ c, u = { s with contention := c }) _ _ ⟨_, rfl⟩ fun u ⟨c, hu⟩ k _ => by
    subst hu
    unfold State.noteOldest
    split
    · exact ⟨_, rfl⟩
    · split
      · exact ⟨_, rfl⟩
      · exact ⟨_, rfl⟩

/-- Entries of the reverse ownership table become invalid one after the other. -/
def State.clearEntries (s : State) (ns : List Nat) : State := ns.foldl (fun s n => s.setEntry n 0) s

theorem State.clearEntries_eq (s : State) (ns : List Nat) : ∃ os m, s.clearEntries ns = { s with owners := os, ownership := m } :=
  List.foldlRecOn (motive := fun u : State => ∃ os m, u = { s with owners := os, ownership := m }) ns _ ⟨_, _, rfl⟩ fun u ⟨os, m, hu⟩ n _ => by
    subst hu
    exact ⟨_, _, rfl⟩

theorem State.owner_setEntry (s : State) (n : Nat) (v : Word) (k : Nat) :
    (s.setEntry n v).owner k = { s.owner k with tlb := (s.owner k).tlb.filter fun e => e.permanent || !e.mapsPage (pagePa n) } := by
  simp only [State.owner, State.setEntry, State.unmapPage, List.getD_eq_getElem?_getD, List.getElem?_map]
  cases s.owners[k]? with
  | none => rfl
  | some w => rfl

theorem State.owner_clearEntries (s : State) (ns : List Nat) (k : Nat) : (s.clearEntries ns).owner k =
    { s.owner k with tlb := (s.owner k).tlb.filter fun e => e.permanent || ns.all fun n => !e.mapsPage (pagePa n) } := by
  induction ns generalizing s with
  | nil => simp [State.clearEntries]
  | cons n ns ih =>
    refine (ih (s.setEntry n 0)).trans ?_
    rw [State.owner_setEntry]
    simp only [List.filter_filter, List.all_cons]
    congr 2
    funext e
    cases e.permanent
    · simp [Bool.and_comm]
    · simp

theorem State.ownership_clearEntries (s : State) (ns : List Nat) (k : Nat) :
    (s.clearEntries ns).ownership.get k = if k ∈ ns then 0 else s.ownership.get k := by
  induction ns generalizing s with
  | nil => simp [State.clearEntries]
  | cons n ns ih =>
    refine (ih (s.setEntry n 0)).trans ?_
    by_cases hk : k = n
    · subst hk
      simp [State.setEntry]
    · simp [State.setEntry, State.unmapPage, hk, Sparse.get_put_other _ _ hk]

theorem Sparse.mem_of_get_ne_zero {w : Nat} {m : Sparse w} {n : Nat} (h : m.get n ≠ 0) : (n, m.get n) ∈ m := by
  induction m with
  | nil => exact absurd rfl h
  | cons e r ih =>
    obtain ⟨k, v⟩ := e
    unfold Sparse.get at h ⊢
    split at h
    next hn => simp [hn]
    next hn => simp [hn, ih h]

/-- A page whose entry names an owner is one of its pages. -/
theorem State.mem_pagesOf {s : State} {o n : Nat} (h : s.ownership.get n ≠ 0) (ho : bits (s.ownership.get n).toNat 29 24 = o) : n ∈ s.pagesOf o :=
  List.mem_map.mpr ⟨_, List.mem_filter.mpr ⟨Sparse.mem_of_get_ne_zero h, by simpa using ho⟩, rfl⟩

/-- `t` is `s` without the launches, records, origins and queues of an owner; the owners and their pages stand. -/
structure State.Without (s t : State) (o : Nat) : Prop where
  owners : t.owners = s.owners
  ownership : t.ownership = s.ownership
  launches : t.launches = s.launches.filter fun x => x.owner != o
  queues : t.queues = s.queues.filter fun q => q.owner != o
  records : t.records = s.records.filter fun e => e.owner != o
  origins : t.origins = s.origins.filter fun g => !g.owned o

/-- An owner is forgotten: its lists go, then its record, then its pages. -/
theorem State.forget_eq (s : State) (o : Nat) :
    ∃ t c, s.Without t o ∧ s.forget o = { (t.updOwner o Owner.vacated).clearEntries (s.pagesOf o) with contention := c } := by
  unfold State.forget
  extract_lets mine s1 s2
  obtain ⟨ds, tr, m, hs1⟩ : s.SameButMemory s1 := s.sameButMemory_carry _
  obtain ⟨c, hc⟩ := ((s2.updOwner o Owner.vacated).revokePages o).recount_eq
  have h2 : s.Without s2 o := by
    simp only [s2, hs1]
    exact ⟨rfl, rfl, rfl, rfl, rfl, rfl⟩
  have hp : (s2.updOwner o Owner.vacated).pagesOf o = s.pagesOf o := by
    unfold State.pagesOf
    rw [State.updOwner_ownership, h2.ownership]
  refine ⟨s2, c, h2, ?_⟩
  rw [hc, State.revokePages, hp]
  rfl

theorem State.forget_lists (s : State) (o : Nat) :
    (s.forget o).launches = s.launches.filter (fun x => x.owner != o) ∧ (s.forget o).queues = s.queues.filter (fun q => q.owner != o) ∧
      (s.forget o).records = s.records.filter (fun e => e.owner != o) ∧ (s.forget o).origins = s.origins.filter (fun g => !g.owned o) := by
  obtain ⟨t, c, ht, h⟩ := s.forget_eq o
  obtain ⟨os, ow, hc⟩ := (t.updOwner o Owner.vacated).clearEntries_eq (s.pagesOf o)
  rw [h, hc]
  exact ⟨ht.launches, ht.queues, ht.records, ht.origins⟩

theorem State.owner_forget (s : State) (o k : Nat) : ∃ t : State, t.owners = s.owners ∧ (s.forget o).owner k =
    { (t.updOwner o Owner.vacated).owner k with
      tlb := ((t.updOwner o Owner.vacated).owner k).tlb.filter fun e => e.permanent || (s.pagesOf o).all fun n => !e.mapsPage (pagePa n) } := by
  obtain ⟨t, c, ht, h⟩ := s.forget_eq o
  refine ⟨t, ht.owners, ?_⟩
  rw [h]
  exact State.owner_clearEntries _ _ k

theorem State.owner_forget_other (s : State) {o k : Nat} (hk : k ≠ o) : (s.forget o).owner k =
    { s.owner k with tlb := (s.owner k).tlb.filter fun e => e.permanent || (s.pagesOf o).all fun n => !e.mapsPage (pagePa n) } := by
  obtain ⟨t, ht, h⟩ := s.owner_forget o k
  have hw : (t.updOwner o Owner.vacated).owner k = s.owner k := by
    rw [State.owner_updOwner_other _ _ _ _ hk, State.owner, ht, State.owner]
  rw [h, hw]

theorem State.owner_forget_self (s : State) (o : Nat) : ((s.forget o).owner o).valid = false ∧ ((s.forget o).owner o).tlb = [] := by
  obtain ⟨t, -, h⟩ := s.owner_forget o o
  have hw : ((t.updOwner o Owner.vacated).owner o).valid = false ∧ ((t.updOwner o Owner.vacated).owner o).tlb = [] := by
    by_cases ho : o < t.owners.length
    · rw [State.owner_updOwner_same _ _ _ ho]
      exact ⟨rfl, rfl⟩
    · simp [State.owner, State.updOwner, ho, Owner.absent]
  rw [h]
  exact ⟨hw.1, by simp only [hw.2, List.filter_nil]⟩

theorem State.ownership_forget (s : State) (o k : Nat) :
    (s.forget o).ownership.get k = if k ∈ s.pagesOf o then 0 else s.ownership.get k := by
  obtain ⟨t, c, ht, h⟩ := s.forget_eq o
  rw [h, ← ht.ownership]
  exact State.ownership_clearEntries _ _ k

/-- No page is an owner's any more once it is forgotten. -/
theorem State.forget_no_page (s : State) (o n : Nat) (hv : ((s.forget o).ownership.get n).getLsbD 31 = true) :
    ((s.forget o).ownership.get n).extractLsb' 24 6 ≠ BitVec.ofNat 6 o ∨ 64 ≤ o := by
  by_contra! hc
  obtain ⟨he, ho⟩ := hc
  rw [State.ownership_forget] at hv he
  split at hv
  · simp at hv
  next hn =>
  rw [if_neg hn] at he
  refine hn (State.mem_pagesOf ?_ ?_)
  · intro h0
    simp [h0] at hv
  · rw [bits_eq_extractLsb', he, BitVec.toNat_ofNat]
    exact Nat.mod_eq_of_lt ho

/-! ### Owner reset -/

theorem State.KeepsTables.valid {s t : State} (h : s.KeepsTables t) (o : Nat) : (t.owner o).valid = (s.owner o).valid := congrArg (·.1) (h.owner o)

theorem State.KeepsTables.tlb {s t : State} (h : s.KeepsTables t) (o : Nat) : (t.owner o).tlb = (s.owner o).tlb := congrArg (·.2.1) (h.owner o)

theorem State.KeepsTables.migrating {s t : State} (h : s.KeepsTables t) (o : Nat) : (t.owner o).migrating = (s.owner o).migrating :=
  congrArg (·.2.2) (h.owner o)

theorem State.KeepsTables.pagesOf {s t : State} (h : s.KeepsTables t) (o : Nat) : t.pagesOf o = s.pagesOf o := by
  unfold State.pagesOf
  rw [h.ownership]

/-- Another owner loses the entries that map a page of the one that is forgotten, and no more. -/
theorem State.KeepsTables.forget_other {s t : State} (h : s.KeepsTables t) {o k : Nat} (hk : k ≠ o) :
    ((t.forget o).owner k).valid = (s.owner k).valid ∧
      ∀ e, e ∈ ((t.forget o).owner k).tlb ↔ e ∈ (s.owner k).tlb ∧ (e.permanent = true ∨ ∀ n ∈ s.pagesOf o, e.mapsPage (pagePa n) = false) := by
  rw [t.owner_forget_other hk]
  refine ⟨h.valid k, fun e => ?_⟩
  simp [h.tlb k, h.pagesOf o]

/-! ### Migration -/

theorem exec_migration_of_reaches {s : State} {handle : DWord} {pa : Nat} (h : s.firmware.Reaches handle true pa) (m : MigrationStep) :
    exec (.migration m handle) s = .next ((s.reaching pa).migrate m) := congrArg _ (State.request_of_reaches h _)

/-- A migration starts: the owner's resident blocks leave, once it runs no handler group. -/
theorem State.migrate_start_spec {s : State} {o : Nat} (hv : (s.owner o).valid = true) (hs : (s.owner o).stopped = false)
    (hm : (s.owner o).migrating = none) : ((s.migrate (.start o)).owner o).migrating = some s.cycle ∧
      (s.handlersOf o = [] → ∀ x ∈ s.launches, x.owner = o → s.launch? x.seq = some x → x.handler = none → ∀ y ∈ x.blocks,
        x.block? y.index = some y → y.cluster.isSome = true → y.unfinished = true → (s.migrate (.start o)).Left (x.seq, y.index)) := by
  unfold State.migrate
  simp only [hv, hs, hm, Option.isSome_none, Bool.not_true, Bool.or_self, Bool.false_eq_true, if_false]
  have ho : o < s.owners.length := by
    by_contra hn
    simp [State.owner, hn, Owner.absent] at hv
  have h1 : ((s.updOwner o fun w => { w with migrating := some s.cycle }).owner o).migrating = some s.cycle := by
    rw [State.owner_updOwner_same _ _ _ ho]
  refine ⟨?_, fun hh x hx hxo hl hxh y hy hb hc hu => ?_⟩
  · split
    · exact (State.preemptAll_tables ..).migrating o |>.trans h1
    · exact h1
  · rw [hh, List.isEmpty_nil, if_pos rfl]
    refine State.Stands.left_preemptAll ⟨y, ?_, hc⟩ (List.mem_flatMap.mpr ⟨x, ?_, List.mem_map.mpr ⟨y, ?_, rfl⟩⟩) none
    · exact (congrArg (·.bind fun x => x.block? y.index) hl).trans hb
    · exact List.mem_filter.mpr ⟨hx, by simp [hxo, hxh]⟩
    · exact List.mem_filter.mpr ⟨hy, by simp [hc, hu]⟩

theorem State.migrate_start_of_not {s : State} {o : Nat}
    (h : (s.owner o).valid = false ∨ (s.owner o).stopped = true ∨ (s.owner o).migrating.isSome = true) : s.migrate (.start o) = s := by
  unfold State.migrate
  refine if_pos ?_
  obtain h | h | h := h
  · simp [h]
  · simp [h]
  · simp [h]

theorem State.migrate_flip_of_none {s : State} {o : Nat} (hm : (s.owner o).migrating = none) : s.migrate (.flip o) = s := by
  simp only [State.migrate, hm]

theorem State.migrate_abandon_of_none {s : State} {o : Nat} (hm : (s.owner o).migrating = none) : s.migrate (.abandon o) = s := by
  simp only [State.migrate, hm]

/-- What leaves at the flip. -/
theorem State.departure_spec (s : State) (o : Nat) : (s.departure o).owner = { s.owner o with migrating := none } ∧
    (s.departure o).origins = s.origins.filter (fun g => g.owner == o) ∧ (s.departure o).records = s.records.filter (fun e => e.owner == o) ∧
    ∀ n ∈ s.pagesOf o, (n, s.ownership.get n) ∈ (s.departure o).pages := by
  unfold State.departure
  extract_lets +onlyGivenNames s1 ns
  obtain ⟨ds, tr, m, h1⟩ : s.SameButMemory s1 := s.sameButMemory_carry _
  have hns : ns = s.pagesOf o := by
    simp only [ns, h1]
    rfl
  rw [hns, h1]
  exact ⟨rfl, rfl, rfl, fun n hn => List.mem_map.mpr ⟨n, hn, rfl⟩⟩

/-- The flip of an owner that is drained in time. -/
theorem State.migrate_flip_spec {s : State} {o c : Nat} (hm : (s.owner o).migrating = some c) (hd : s.drained o = true)
    (hc : s.cycle ≤ c + 600000000) :
    ∃ d, ((s.migrate (.flip o)).owner o).valid = false ∧ (∀ x ∈ (s.migrate (.flip o)).launches, x.owner ≠ o) ∧
      ((s.migrate (.flip o)).departed.find? fun e => e.num == o) = some d ∧ d.owner = { s.owner o with migrating := none } ∧
      d.origins = s.origins.filter (fun g => g.owner == o) ∧ d.records = s.records.filter (fun e => e.owner == o) ∧
      ∀ n ∈ s.pagesOf o, (n, s.ownership.get n) ∈ d.pages := by
  have hf : s.migrate (.flip o) = { s.forget o with departed := s.departure o :: s.departed.filter fun d => d.num != o } := by
    simp only [State.migrate, hm]
    exact if_pos ⟨hd, hc⟩
  rw [hf]
  refine ⟨s.departure o, (s.owner_forget_self o).1, ?_, ?_, s.departure_spec o⟩
  · simp [(s.forget_lists o).1]
  · exact List.find?_cons_of_pos (by simp [State.departure])

theorem State.migrate_flip_of_not {s : State} {o c : Nat} (hm : (s.owner o).migrating = some c)
    (h : s.drained o = false ∨ c + 600000000 < s.cycle) : s.migrate (.flip o) = s := by
  simp only [State.migrate, hm]
  refine if_neg fun hn => ?_
  obtain hd | hc := h
  · exact Bool.false_ne_true (hd.symm.trans hn.1)
  · exact absurd hn.2 hc.not_ge

theorem State.migrate_abandon_spec {s : State} {o c : Nat} (hm : (s.owner o).migrating = some c) (hc : c + 600000000 ≤ s.cycle) :
    ((s.migrate (.abandon o)).owner o).migrating = none ∧ (s.migrate (.abandon o)).launches = s.launches := by
  have hf : s.migrate (.abandon o) = s.updOwner o fun w => { w with migrating := none } := by
    simp only [State.migrate, hm]
    exact if_pos hc
  have ho : o < s.owners.length := by
    by_contra hn
    simp [State.owner, hn, Owner.absent] at hm
  rw [hf, State.owner_updOwner_same _ _ _ ho]
  exact ⟨rfl, rfl⟩

theorem State.migrate_abandon_of_lt {s : State} {o c : Nat} (hm : (s.owner o).migrating = some c) (hc : s.cycle < c + 600000000) :
    s.migrate (.abandon o) = s := by
  simp only [State.migrate, hm]
  exact if_neg hc.not_ge

/-! ### Arrival -/

/-- What making room for an arriving owner leaves as it was. -/
structure State.KeepsLists (s t : State) : Prop where
  cycle : t.cycle = s.cycle
  origins : t.origins = s.origins
  records : t.records = s.records
  departed : t.departed = s.departed
  places : t.owners.length = s.owners.length
  valid : ∀ k, (t.owner k).valid = (s.owner k).valid

theorem State.KeepsLists.refl (s : State) : s.KeepsLists s := ⟨rfl, rfl, rfl, rfl, rfl, fun _ => rfl⟩

theorem State.KeepsLists.congr {s₀ s t : State} (h : s₀.KeepsLists s) (hc : t.cycle = s.cycle := by rfl) (ho : t.origins = s.origins := by rfl)
    (hr : t.records = s.records := by rfl) (hd : t.departed = s.departed := by rfl) (hw : t.owners = s.owners := by rfl) : s₀.KeepsLists t where
  cycle := hc.trans h.cycle
  origins := ho.trans h.origins
  records := hr.trans h.records
  departed := hd.trans h.departed
  places := (congrArg _ hw).trans h.places
  valid k := by
    unfold State.owner
    rw [hw]
    exact h.valid k

theorem State.KeepsLists.setEntry {s₀ s : State} (h : s₀.KeepsLists s) (n : Nat) (v : Word) : s₀.KeepsLists (s.setEntry n v) where
  cycle := h.cycle
  origins := h.origins
  records := h.records
  departed := h.departed
  places := (List.length_map ..).trans h.places
  valid k := by
    rw [State.owner_setEntry]
    exact h.valid k

theorem State.KeepsLists.markPoison {s₀ s : State} (h : s₀.KeepsLists s) (pa : Nat) : s₀.KeepsLists (s.markPoison pa) := by
  unfold State.markPoison
  split
  · exact h
  · exact h.congr

theorem State.KeepsLists.foldl {α : Type} {s₀ s : State} {f : State → α → State} {l : List α} (h : s₀.KeepsLists s)
    (hf : ∀ u a, s₀.KeepsLists u → s₀.KeepsLists (f u a)) : s₀.KeepsLists (l.foldl f s) :=
  List.foldlRecOn (motive := s₀.KeepsLists) l f h fun u hu a _ => hf u a hu

theorem State.arriveOwner_of_not {s : State} {o : Nat} {pages : List (Nat × Nat)}
    (h : ∀ d ∈ s.departed, d.num = o → s.canArrive d pages = false) : s.arriveOwner o pages = s := by
  unfold State.arriveOwner
  split
  · rfl
  next d hd =>
  have hn : d.num = o := by simpa using List.find?_some hd
  rw [h d (List.mem_of_find?_eq_some hd) hn]
  rfl

/-- An owner that has left and can arrive. -/
theorem State.arriveOwner_spec {s : State} {o : Nat} {pages : List (Nat × Nat)} {d : Departure}
    (hd : (s.departed.find? fun e => e.num == o) = some d) (hc : s.canArrive d pages = true) (ho : o < s.owners.length) :
    ((s.arriveOwner o pages).owner o).valid = d.owner.valid ∧
      (s.arriveOwner o pages).origins = s.origins ++ d.origins.map (fun g => { g with at_ := s.cycle }) ∧
      (s.arriveOwner o pages).records.map (fun e => (e.id, e.prog, e.inprog, e.words)) =
        (s.records ++ d.records).map (fun e => (e.id, e.prog, e.inprog, e.words)) ∧
      (∀ e ∈ (s.arriveOwner o pages).departed, e.num ≠ o) ∧
      ∀ k, k ≠ o → ((s.arriveOwner o pages).owner k).valid = (s.owner k).valid := by
  unfold State.arriveOwner
  split
  next hn => simp [hd] at hn
  next e he =>
  obtain rfl : d = e := Option.some.inj (hd.symm.trans he)
  rw [if_neg (by simp [hc])]
  extract_lets +onlyGivenNames s1 s2 s3 s4
  have h1 : s.KeepsLists s1 := (State.KeepsLists.refl s).foldl fun u e hu => State.KeepsLists.setEntry (hu.congr (t := u.clearPage _)) _ _
  have h2 : s.KeepsLists s2 := h1.foldl fun u e hu => hu.congr
  have h3 : s.KeepsLists s3 := h2.foldl fun u e hu => hu.markPoison _
  have h4 : o < s4.owners.length := ho.trans_eq h3.places.symm
  refine ⟨?_, ?_, ?_, ?_, fun k hk => ?_⟩
  · rw [State.owner_updOwner_same _ _ _ h4]
    rfl
  · rw [State.updOwner_origins]
    simp only [s4, h3.origins, h3.cycle]
  · rw [State.updOwner_records]
    simp [s4, h3.records]
  · rw [State.updOwner_departed]
    simp [s4]
  · rw [State.owner_updOwner_other _ _ _ _ hk]
    exact h3.valid k

/-- Settles O58: the three parts, each by what the firmware's request does in each of its cases. -/
theorem startsAndResets : Obligations.StartsAndResets := by
  refine ⟨fun s inlet device => ?_, fun s o handle => ?_, fun s o handle => ?_⟩
  · intro f good gone
    have hgood : imageGood f.image f.version f.rollback f.signature = true ↔ good := imageGood_iff
    have running_of_good (hg : good) {t : State} (ht : t.firmware.running = true) : t.firmware.running = true ↔ good := ⟨fun _ => hg, fun _ => ht⟩
    have running_of_bad (hg : ¬good) {t : State} (ht : t.firmware.running = false) : t.firmware.running = true ↔ good :=
      ⟨fun h => absurd (ht.symm.trans h) Bool.false_ne_true, fun h => absurd h hg⟩
    refine ⟨?_, fun hr => exec_warmStart_of_removed hr inlet device, fun hr => ?_⟩
    · by_cases hg : good
      · exact ⟨_, exec_coldStart_of_good (hgood.mpr hg) inlet device, s.started_restart_gone .., running_of_good hg rfl, rfl,
          fun _ => ⟨rfl, rfl, rfl, rfl, rfl, s.started_reset_readPhys _ _ _⟩⟩
      · exact ⟨_, exec_coldStart_of_bad (mt hgood.mp hg) inlet device, s.started_bootRom_gone .., running_of_bad hg rfl, rfl,
          fun h => absurd h hg⟩
    · by_cases hg : good
      · rw [exec_warmStart_of_good hr (hgood.mpr hg)]
        by_cases hv : recordValid f.training f.version inlet = true
        · exact ⟨_, if_pos hv, s.started_restart_gone .., running_of_good hg rfl, rfl, rfl, fun ht => State.started_carried_sameMemory ht _ _ _,
            fun _ _ => ⟨rfl, rfl⟩, fun _ hn => absurd (recordValid_iff.mp hv) hn⟩
        · exact ⟨_, if_neg hv, s.started_restart_gone .., running_of_good hg rfl, rfl, rfl, fun ht => State.started_carried_sameMemory ht _ _ _,
            fun _ hs => absurd (recordValid_iff.mpr hs) hv, fun _ _ => ⟨rfl, rfl⟩⟩
      · exact ⟨_, exec_warmStart_of_bad hr (mt hgood.mp hg) inlet device, s.started_bootRom_gone .., running_of_bad hg rfl, rfl, rfl,
          fun _ => s.started_sameMemory _ _ _, fun h => absurd h hg, fun h => absurd h hg⟩
  · intro f i
    refine ⟨fun hn => congrArg _ (State.request_of_not_reaches hn _), fun pa hr => ?_⟩
    intro stopped
    have hi : exec i s = .next (if (s.owner o).valid then (if stopped.ownerBusy o then stopped else stopped.forget o) else s.reaching pa) :=
      congrArg _ (State.request_of_reaches hr _)
    have hk : s.KeepsTables stopped := ((State.KeepsTables.refl s).congr (t := s.reaching pa)).trans (State.stopOwner_tables ..)
    refine ⟨fun hv => ?_, fun hv hb => ?_, fun hv hb => ?_⟩
    · simp [hi, hv]
    · simp [hi, hv, hb]
    · obtain ⟨hl, hq, hrec, hg⟩ := stopped.forget_lists o
      refine ⟨stopped.forget o, ?_, (stopped.owner_forget_self o).1, (stopped.owner_forget_self o).2, ?_, ?_, ?_, ?_,
        fun k => hk.forget_other, stopped.forget_no_page o⟩
      · simp [hi, hv, hb]
      · simp [hl]
      · simp [hq]
      · simp [hrec]
      · simp [hg, Origin.owned]
  · intro w
    refine ⟨fun hn m => congrArg _ (State.request_of_not_reaches hn _), fun pa hr => ?_⟩
    intro u
    have hx (m : MigrationStep) : exec (.migration m handle) s = .next (u.migrate m) := exec_migration_of_reaches hr m
    simp only [hx]
    refine ⟨fun h => ?_, fun hv hs hm => ⟨_, rfl, u.migrate_start_spec hv hs hm⟩, fun hm => ?_,
      fun c hm => ⟨fun hd hc => ?_, fun h => ?_, fun hc => ?_, fun hc => ?_⟩,
      fun pages => ⟨fun h => ?_, fun d hd hc ho => ⟨_, rfl, State.arriveOwner_spec (s := u) hd hc ho⟩⟩⟩
    · rw [State.migrate_start_of_not (s := u) h]
    · rw [State.migrate_flip_of_none (s := u) hm, State.migrate_abandon_of_none (s := u) hm]
      exact ⟨rfl, rfl⟩
    · obtain ⟨d, hd⟩ := State.migrate_flip_spec (s := u) hm hd hc
      exact ⟨_, d, rfl, hd⟩
    · rw [State.migrate_flip_of_not (s := u) hm h]
    · rw [State.migrate_abandon_of_lt (s := u) hm hc]
    · exact ⟨_, rfl, State.migrate_abandon_spec (s := u) hm hc⟩
    · exact congrArg _ (State.arriveOwner_of_not (s := u) h)

end Sys2Proof.Machine
end

section
/-! SUPPORT. What a word of a path leaves outside its group: changes of the group and metering, one after the other. -/

namespace Sys2Proof.Machine

/-- `t` is `s` after changes of the group of `c` and metering, and `c'` is the path's context then; without a log all of memory is as it was (R401). -/
structure State.Within (s : State) (c : Ctx) (t : State) (c' : Ctx) : Prop where
  ctx : t.ctx? c.ref = some c'
  beyond : s.SameBeyond t c c'
  owner : c'.launch.owner = c.launch.owner
  replay : c.launch.replay = none → c'.launch.replay = none
  dies : c.launch.replay = none → t.dies = s.dies

theorem State.Within.ref {s t : State} {c c' : Ctx} (h : s.Within c t c') : c'.ref = c.ref := (State.ctx?_parts h.ctx).1

theorem State.Within.here {s t : State} {c c' : Ctx} (h : s.Within c t c') : t.ctx? c'.ref = some c' := h.ref.symm ▸ h.ctx

theorem State.SameBeyond.trans {s t u : State} {c d e : Ctx} (hr : d.ref = c.ref) (h : s.SameBeyond t c d) (k : t.SameBeyond u d e) :
    s.SameBeyond u c e where
  owners o := (k.owners o).trans (h.owners o)
  groups l b g hn := (k.groups l b g (hr ▸ hn)).trans (h.groups l b g hn)
  launches l hl := (k.launches l (hr ▸ hl)).trans (h.launches l hl)
  launch := k.launch.trans h.launch
  block := k.block.trans h.block

theorem State.Within.trans {s t u : State} {c d e : Ctx} (h : s.Within c t d) (k : t.Within d u e) : s.Within c u e where
  ctx := h.ref ▸ k.ctx
  beyond := h.beyond.trans h.ref k.beyond
  owner := k.owner.trans h.owner
  replay hn := k.replay (h.replay hn)
  dies hn := (k.dies (h.replay hn)).trans (h.dies hn)

/-- Nothing that a context is made of has changed. -/
theorem State.Within.congr {s t u : State} {c c' : Ctx} (h : s.Within c t c') (hl : u.launches = t.launches) (ho : u.owners = t.owners)
    (hd : u.dies = t.dies) : s.Within c u c' where
  ctx := (State.ctx?_congr hl _).trans h.ctx
  beyond :=
    ⟨fun o => by simpa only [State.owner, ho] using h.beyond.owners o, fun l b g hn => (State.group?_congr hl l b g).trans (h.beyond.groups l b g hn),
      fun l hn => by simpa only [State.launch?, hl] using h.beyond.launches l hn, h.beyond.launch, h.beyond.block⟩
  owner := h.owner
  replay := h.replay
  dies hn := hd.trans (h.dies hn)

/-- Metering, with the log of the launch. -/
theorem State.Within.metered {s t : State} {c : Ctx} (hc : s.ctx? c.ref = some c) (h : State.Metered c.ref.launch s t)
    (hd : c.launch.replay = none → t.dies = s.dies) : ∃ x, s.Within c t { c with launch := x } := by
  obtain ⟨x, hx, -, -, hs, ho, hr⟩ := h.ctx? hc
  exact ⟨x, hx, ⟨h.owners, fun l b g _ => h.group? l b g, fun l hl => h.launch?_other hl, hs, rfl⟩, ho, hr, hd⟩

/-- A change of the group, which keeps its number and leaves a live path in the entry. -/
theorem State.Within.updPathGroup {s : State} {c : Ctx} (hc : s.ctx? c.ref = some c) (f : Group → Group) (hf : ∀ z : Group, (f z).index = z.index)
    {p : Path} (hp : (f c.group).paths[c.ref.path]? = some p) (hv : p.valid = true) :
    s.Within c (s.updPathGroup c.ref f) (c.withGroup f p) where
  ctx := State.ctx?_updPathGroup hc f (fun z hz => (hf z).trans hz) hp hv
  beyond :=
    ⟨fun _ => rfl, fun l b g hn => State.group?_updGroup_other s _ _ _ l b g f (fun z hz => (hf z).trans hz) hn,
      fun l hl => State.launch?_updLaunch_other s _ l _ hl fun _ hx => hx, rfl, rfl⟩
  owner := rfl
  replay := id
  dies _ := rfl

/-- A change of the path itself. -/
theorem State.Within.updPath {s : State} {c : Ctx} (hc : s.ctx? c.ref = some c) (f : Path → Path) (hv : (f c.path).valid = true) :
    s.Within c (s.updPath c.ref f) (c.withGroup (fun z => z.updPath c.ref.path f) (f c.path)) :=
  .updPathGroup hc (fun z => z.updPath c.ref.path f) (fun _ => rfl) (by simp [Group.updPath, (State.ctx?_parts hc).2.2.2.2.1]) hv

theorem State.Within.elsewhere {s t : State} {c c' : Ctx} (h : s.Within c t c') (hu : s.SameUnits t) : s.SameElsewhere t c c' :=
  ⟨h.beyond, fun hn v pa => State.readPhys_congr (h.dies hn) v pa 1, hu⟩

/-! ### The issue of a word, its log, and its end -/

@[simp] theorem State.noteDraw_dies (s : State) (w p : Nat) (b : Bool) : (s.noteDraw w p b).dies = s.dies := by
  unfold State.noteDraw
  split <;> rfl

theorem Ctx.noted_path {s : State} {c : Ctx} (hc : s.ctx? c.ref = some c) (i : Instr) (extra : Nat) :
    (c.noted s i extra).paths[c.ref.path]? = some (c.path.noteIssue (issueOf c i extra) s.cycle (s.owner c.launch.owner).free) := by
  simp [Group.noteIssue_paths, (State.ctx?_parts hc).2.2.2.2.1]

/-- The issue of a word: the group and the path account for it. -/
theorem State.Within.noteIssue {s : State} {c : Ctx} (hc : s.ctx? c.ref = some c) (i : Instr) (extra : Nat) :
    ∃ c', s.Within c (s.noteIssue c i (issueOf c i extra)) c' ∧ c'.group = c.noted s i extra ∧
      c'.path = c.path.noteIssue (issueOf c i extra) s.cycle (s.owner c.launch.owner).free := by
  have h1 := State.Within.updPathGroup hc
    (fun z => z.noteIssue c.ref.path c.path (c.path.spanOf i) (issueOf c i extra) s.cycle (s.owner c.launch.owner).free)
    (fun _ => rfl) (Ctx.noted_path hc i extra) (State.ctx?_parts hc).2.2.2.2.2
  have hm := State.noteIssue_metered s c i (issueOf c i extra)
  obtain ⟨x, h2⟩ := State.Within.metered h1.here hm fun hn => by
    cases hcn : c.path.counted
    · simp [State.noteIssue, hcn, State.logSwitch_dies (p := c.ref) (State.ctx?_parts h1.here).2.1 hn]
    · simp [State.noteIssue, hcn]
  exact ⟨_, h1.trans h2, rfl, rfl⟩

theorem State.SameUnits.noteIssue (s : State) (c : Ctx) (i : Instr) (w : Issue) : s.SameUnits (s.noteIssue c i w) :=
  (State.SameUnits.updPathGroup s _ _).trans (State.noteIssue_metered s c i w).units

/-- The path goes on past a word of `d`'s: the values of its log records that have changed are written first. -/
theorem State.Within.finish {s : State} {c : Ctx} (hc : s.ctx? c.ref = some c) {d : Ctx} (hd : d.ref = c.ref) (i : Instr) :
    ∃ c' lf, s.Within c (s.finish d i) c' ∧
      c'.group = { c.group with logFix := lf }.updPath c.ref.path (fun q => q.advance (d.path.spanOf i)) ∧
      c'.path = c.path.advance (d.path.spanOf i) := by
  obtain ⟨-, hx, -, -, hp, hv⟩ := State.ctx?_parts hc
  obtain ⟨u, hu, ⟨fx, hfx⟩, hus⟩ := State.flushLog_metered s c.ref
  obtain ⟨x, h1⟩ := State.Within.metered hc hu fun hn => congrArg State.dies (hus _ hx hn)
  have h2 := State.Within.updPathGroup h1.here (fun z => { z with logFix := fx z }.updPath c.ref.path fun q => q.advance (d.path.spanOf i))
    (fun _ => rfl) (p := c.path.advance (d.path.spanOf i)) (by simp [Group.updPath, hp]) (by simpa using hv)
  refine ⟨_, fx c.group, h1.trans h2 |>.congr (congrArg State.launches ?_) (congrArg State.owners ?_) (congrArg State.dies ?_), rfl, rfl⟩ <;>
  · simp only [State.finish, hd, hfx]
    exact State.updPathGroup_twice u c.ref _ _ fun _ => rfl

theorem State.SameUnits.flushLog (s : State) (r : PathRef) : s.SameUnits (s.flushLog r) := by
  obtain ⟨u, hu, ⟨fx, hfx⟩, -⟩ := State.flushLog_metered s r
  rw [hfx]
  exact hu.units.trans (.updPathGroup u r _)

theorem State.SameUnits.finish (s : State) (d : Ctx) (i : Instr) : s.SameUnits (s.finish d i) :=
  (State.SameUnits.flushLog s d.ref).trans (.updPathGroup _ _ _)

end Sys2Proof.Machine
end

section
/-! SUPPORT. The words that act in no lane: their opcodes lie outside the vector words'. -/

namespace Sys2Proof.Machine

/-- The opcode of a word that lies `k` bits up in it (R136). -/
def opcodeAt {n : Nat} (w : BitVec n) (k : Nat) : Nat := w.toNat / 2 ^ k % 2 ^ 7

theorem opcodeAt_append {n m : Nat} (w : BitVec n) (x : BitVec m) {k : Nat} (h : m ≤ k) : opcodeAt (w ++ x) k = opcodeAt w (k - m) := by
  obtain ⟨j, rfl⟩ := Nat.exists_eq_add_of_le h
  have hx : (w ++ x).toNat / 2 ^ m = w.toNat := by
    rw [BitVec.toNat_append, Nat.shiftLeft_eq, Nat.mul_comm, ← Nat.two_pow_add_eq_or_of_lt x.isLt, Nat.mul_add_div (Nat.two_pow_pos m),
      Nat.div_eq_of_lt x.isLt, Nat.add_zero]
  rw [opcodeAt, opcodeAt, pow_add, ← Nat.div_div_eq_div_mul, hx, Nat.add_sub_cancel_left]

theorem opcodeAt_zero {n : Nat} (w : BitVec n) (op : BitVec 7) : opcodeAt (w ++ op) 0 = op.toNat := by
  rw [opcodeAt, BitVec.toNat_append, Nat.shiftLeft_eq, Nat.mul_comm, ← Nat.two_pow_add_eq_or_of_lt op.isLt, pow_zero, Nat.div_one,
    Nat.mul_add_mod, Nat.mod_eq_of_lt op.isLt]

theorem ite_ne {α : Type} {p : Prop} [Decidable p] {a b c : α} (ha : a ≠ c) (hb : b ≠ c) : (if p then a else b) ≠ c := by
  split
  · exact ha
  · exact hb

/-- The vector words lie between the opcodes 0x20 and 0x5E (R114). -/
theorem wordKind_ne_vector {w : Word} (h : opcodeAt w 23 < 0x20 ∨ 0x5E < opcodeAt w 23) : wordKind w ≠ some .vector := by
  unfold wordKind
  extract_lets op sub b
  replace h : op < 0x20 ∨ 0x5E < op := h
  clear_value op sub b
  have h1 : op ≠ 0x30 := by omega
  have h2 : op ≠ 0x3D := by omega
  have h3 : ¬((0x20 ≤ op ∧ op ≤ 0x48) ∨ (0x50 ≤ op ∧ op ≤ 0x5E)) := by omega
  rw [if_neg h1, if_neg h2, if_neg h3]
  repeat' apply ite_ne
  all_goals exact nofun

/-- A word outside the vector opcodes, and of no lane-wise group, does not act in lanes. -/
theorem State.IssuesIdle.notOutside {s : State} {c : Ctx} {i : Instr} (h : s.IssuesIdle c i) {w : Word} {ws : List Word}
    (hl : laneWise i = (encode i).head?.elim false fun w => wordKind w == some .vector) (he : encode i = w :: ws)
    (ho : opcodeAt w 23 < 0x20 ∨ 0x5E < opcodeAt w 23) : False := by
  have := h.lanes
  simp [actsInLanes, hl, he, wordKind_ne_vector ho] at this

end Sys2Proof.Machine
end

section
/-! SUPPORT. Words that act in lanes and find none active: O28. -/

namespace Sys2Proof.Machine

/-! ### What such a word may still change -/

/-- A change of group that leaves every register of path `k` as it reads. -/
structure Group.QuietChange (k : Nat) (z y : Group) : Prop extends Group.RegisterChange k z y where
  reads : ∀ l b r lane, y.getReg l b k r lane = z.getReg l b k r lane

theorem Group.QuietChange.rfl' (k : Nat) (z : Group) : Group.QuietChange k z z := ⟨.rfl' k z, fun _ _ _ _ => rfl⟩

theorem Group.QuietChange.trans {k : Nat} {x y z : Group} (h : Group.QuietChange k x y) (g : Group.QuietChange k y z) : Group.QuietChange k x z :=
  ⟨h.toRegisterChange.trans g.toRegisterChange, fun l b r lane => (g.reads l b r lane).trans (h.reads l b r lane)⟩

/-- A change of a path in what concerns its word alone. -/
theorem Group.QuietChange.updPath (k : Nat) (z : Group) (f : Path → Path) (hf : ∀ p : Path, p.SameButRegs (f p) ∧ (f p).priv = p.priv ∧ (f p).mask = p.mask) :
    Group.QuietChange k z (z.updPath k f) where
  index := rfl
  standing := rfl
  flags := rfl
  paths := ⟨f, fun p => (hf p).1, rfl⟩
  reads l b r lane := by
    refine Group.getReg_congr (y := z.updPath k f) (z := z) rfl rfl rfl rfl ?_ ?_ r lane <;>
    · simp only [Group.updPath, List.getD_eq_getElem?_getD, List.getElem?_modify]
      cases z.paths[k]? <;> simp [hf]

/-- A result for no lane, of a register that is no scalar, places nothing. -/
theorem Group.QuietChange.produce_nil {r : LaneReg} (hr : ∀ n, r ≠ .scal n) (z : Group) (l b k ready : Nat) (covered : Bool) :
    Group.QuietChange k z (z.produce l b k r [] ready covered) := by
  have hz : ∃ hs, z.produce l b k r [] ready covered = { z with hazards := hs } := by
    have hreach : ∀ (es : List Reach) (y : Group), es.foldl (fun y _ => y) y = y := fun es y => by induction es <;> simp_all
    cases r with
    | scal n => exact absurd rfl (hr n)
    | stack n => exact ⟨_, hreach _ _⟩
    | oper n => exact ⟨_, hreach _ _⟩
  obtain ⟨hs, hz⟩ := hz
  rw [hz]
  exact ⟨.hazards k z hs, fun l b r lane => z.getReg_hazards hs l b k r lane⟩

/-- From `t` and `d` on to `u` and `e`, seen from the issue in `s` and `c`: the group changes in no register, and the rest is metering. -/
structure State.Rests (s : State) (c : Ctx) (t : State) (d : Ctx) (u : State) (e : Ctx) : Prop where
  within : s.Within c u e
  units : t.SameUnits u
  quiet : Group.QuietChange c.ref.path d.group e.group

theorem State.Rests.rfl' {s t : State} {c d : Ctx} (h : s.Within c t d) : s.Rests c t d t d :=
  ⟨h, ⟨t.launches, t.owners, t.governor, t.dies, t.moment, rfl⟩, .rfl' _ _⟩

theorem State.Rests.updPathGroup {s t u : State} {c d e : Ctx} (h : s.Rests c t d u e) (f : Group → Group)
    (hi : ∀ z : Group, (f z).index = z.index) (hf : Group.QuietChange c.ref.path e.group (f e.group)) :
    ∃ e', s.Rests c t d (u.updPathGroup c.ref f) e' := by
  obtain ⟨g, hg, hp⟩ := hf.paths
  have hc := h.within.here
  have hp' : (f e.group).paths[e.ref.path]? = some (g e.path) := by
    rw [hp, h.within.ref, List.getElem?_modify, ← h.within.ref, (State.ctx?_parts hc).2.2.2.2.1]
    simp
  have hw := h.within.trans (State.Within.updPathGroup hc f hi hp' ((hg e.path).valid.trans (State.ctx?_parts hc).2.2.2.2.2))
  exact ⟨_, h.within.ref ▸ hw, h.units.trans (.updPathGroup _ _ _), h.quiet.trans hf⟩

theorem State.Rests.metered {s t u v : State} {c d e : Ctx} (h : s.Rests c t d u e) (hm : State.Metered c.ref.launch u v)
    (hd : c.launch.replay = none → v.dies = u.dies) : ∃ e', s.Rests c t d v e' := by
  obtain ⟨x, hx, -, -, hs, ho, hr⟩ := hm.ctx? h.within.ctx
  have hb : u.SameBeyond v e { e with launch := x } := ⟨hm.owners, fun l b g _ => hm.group? l b g, fun l hl => hm.launch?_other (h.within.ref ▸ hl), hs, rfl⟩
  exact ⟨_, ⟨hx, h.within.beyond.trans h.within.ref hb, ho.trans h.within.owner, fun hn => hr (h.within.replay hn),
    fun hn => (hd hn).trans (h.within.dies hn)⟩, h.units.trans hm.units, h.quiet⟩

/-! ### Where it leaves its path -/

/-- A word without an active lane issues, leaves every register as it was, and its path goes on. -/
theorem State.IssuesIdle.goesOn {s : State} {c : Ctx} {i : Instr} (h : s.IssuesIdle c i) (body : State → State)
    (hx : exec i s = .next (s.completes c i 0 body))
    (hb : ∀ d, s.Within c (s.noteIssue c i (issueOf c i 0)) d →
      ∃ e, s.Rests c (s.noteIssue c i (issueOf c i 0)) d (body (s.noteIssue c i (issueOf c i 0))) e) :
    ∃ t c', s.RegisterWord c i [] t c' ∧ c.SameFlags c' ∧ c.path.SameLast c'.path := by
  have hc : s.ctx? c.ref = some c := by
    have h1 := (State.running?_ctx h.running).1
    exact (State.ctx?_parts h1).1.symm ▸ h1
  obtain ⟨d, hd, hdg, hdp⟩ := State.Within.noteIssue hc i 0
  obtain ⟨e, he, heu, ⟨⟨-, hst, hfl, g, hg, hpaths⟩, hreads⟩⟩ := hb d hd
  obtain ⟨c', lf, hw, hcg, hcp⟩ := State.Within.finish he.here he.ref.symm i
  have hep : e.path = g d.path := by
    have h1 := (State.ctx?_parts he.here).2.2.2.2.1
    rw [hpaths, he.ref, List.getElem?_modify, ← hd.ref, (State.ctx?_parts hd.here).2.2.2.2.1] at h1
    simpa using h1.symm
  obtain ⟨a1, a2, a3, a4, a5, a6, a7, a8⟩ := hg d.path
  rw [he.ref] at hcg
  rw [hep, hdp] at hcp
  rw [hdp] at a1 a2 a3 a4 a5 a6 a7 a8
  refine ⟨_, c', ⟨hx, (he.trans hw).ctx, ⟨?_, ?_, ?_, ?_⟩, (he.trans hw).elsewhere ?_, ⟨fun k hk => ?_, fun r lane _ _ => ?_, ?_⟩, ?_⟩, ?_, ?_⟩
  · rw [hcp, Path.advance_place]
    simp only [Path.placeAfter, Path.count, Path.header, a6, a7, a8]
    rfl
  · rw [hcp, Path.advance_nextIssue, a3]
    rfl
  · rw [hcp, Path.advance_pfx]
  · rw [hcp, Path.advance_valid, a2]
    exact (State.ctx?_parts hc).2.2.2.2.2
  · exact ((State.SameUnits.noteIssue s c i _).trans heu).trans (.finish _ c i)
  · have hk' : ¬ c.ref.path = k := fun e => hk e.symm
    rw [hcg]
    simp only [Group.updPath, List.getElem?_modify, hpaths, hdg, Group.noteIssue_paths, hk', if_false]
    cases c.group.paths[k]? <;> rfl
  · rw [hcg, Group.getReg_advance, Group.getReg_logFix, hreads, hdg, Group.getReg_noteIssue]
  · rw [hcp, Path.advance_standing, a1]
    rfl
  · rw [hcg]
    exact hst.trans (hdg ▸ c.group.noteIssue_standing ..)
  · show c'.group.flags = c.group.flags
    rw [hcg]
    exact hfl.trans (hdg ▸ rfl)
  · rw [hcp]
    obtain ⟨b1, b2, b3, b4⟩ := a5
    unfold Path.advance Path.SameLast
    split <;> exact ⟨b1, b2, b3, b4⟩

/-- A word that does nothing at all. -/
theorem State.IssuesIdle.passes {s : State} {c : Ctx} {i : Instr} (h : s.IssuesIdle c i) (hx : exec i s = .next (s.completes c i 0 id)) :
    ∃ t c', s.RegisterWord c i [] t c' ∧ c.SameFlags c' ∧ c.path.SameLast c'.path :=
  h.goesOn id hx fun d hd => ⟨d, .rfl' hd⟩

/-! ### The words of each kind -/

theorem State.IssuesIdle.laneList {s : State} {c : Ctx} {i : Instr} (h : s.IssuesIdle c i) : laneList c.path.selected = [] := by
  rw [h.idle]
  decide

theorem State.IssuesIdle.uniform {s : State} {c : Ctx} {i : Instr} (h : s.IssuesIdle c i) : c.path.uniform = false := by
  have := h.lanes
  simp only [actsInLanes, Bool.and_eq_true, Bool.not_eq_true'] at this
  exact this.2

theorem State.IssuesIdle.laneWord {s : State} {c : Ctx} {i : Instr} (h : s.IssuesIdle c i) {d : BitVec 8} {n : Ctx → Nat} {flags : Bool}
    {f : State → Ctx → Nat → FRes} : s.laneWord i d n flags f = .next (s.completes c i 0 id) := by
  simp [State.laneWord, h.word, vectorResults, h.laneList, State.vectorBody, State.completes]

/-- A word that folds or combines lanes, of which there is none. -/
theorem State.IssuesIdle.reduction {s : State} {c : Ctx} {i : Instr} (h : s.IssuesIdle c i) {d a : BitVec 8}
    {f : Nat → FpMode → List (Nat × Nat) → List LaneRes} (hf : ∀ code md, f code md [] = []) :
    s.reduction i d a f = .next (s.completes c i 0 id) := by
  simp [State.reduction, h.word, h.laneList, hf, State.vectorBody, State.completes]

theorem State.IssuesIdle.gatherLanes {s : State} {c : Ctx} {i : Instr} (h : s.IssuesIdle c i) (d v : Nat) (from_ : Nat → Nat) :
    s.gatherLanes c i d v from_ = s.completes c i 0 id := by
  simp [State.gatherLanes, h.laneList, State.vectorBody, State.completes]

theorem reduce_nil (code : Nat) (md : FpMode) (iop : IntTy → Bool → List Int → Nat) (fop : Fmt → FpMode → Nat → Nat → FRes) :
    reduce code md iop fop [] = [] := by
  unfold reduce
  split
  · rfl
  · split <;> rfl

theorem execRedAdd_idle {s : State} {c : Ctx} {st d a} (h : s.IssuesIdle c (.redAdd st d a)) :
    execRedAdd st d a s = .next (s.completes c (.redAdd st d a) 0 id) := h.reduction fun _ _ => reduce_nil ..

theorem execRedMin_idle {s : State} {c : Ctx} {st d a} (h : s.IssuesIdle c (.redMin st d a)) :
    execRedMin st d a s = .next (s.completes c (.redMin st d a) 0 id) := h.reduction fun _ _ => reduce_nil ..

theorem execRedMax_idle {s : State} {c : Ctx} {st d a} (h : s.IssuesIdle c (.redMax st d a)) :
    execRedMax st d a s = .next (s.completes c (.redMax st d a) 0 id) := h.reduction fun _ _ => reduce_nil ..

theorem execScanAdd_idle {s : State} {c : Ctx} {st d a} (h : s.IssuesIdle c (.scanAdd st d a)) :
    execScanAdd st d a s = .next (s.completes c (.scanAdd st d a) 0 id) :=
  h.reduction fun code _ => by cases fmtOfCode code <;> rfl

theorem execMatchKeys_idle {s : State} {c : Ctx} {st d a} (h : s.IssuesIdle c (.matchKeys st d a)) :
    execMatchKeys st d a s = .next (s.completes c (.matchKeys st d a) 0 id) := by
  simp [execMatchKeys, h.word, h.laneList, State.vectorBody, State.completes]

theorem execCvtb_idle {s : State} {c : Ctx} {st d a b} (h : s.IssuesIdle c (.cvtb st d a b)) :
    execCvtb st d a b s = .next (s.completes c (.cvtb st d a b) 0 id) := by
  simp [execCvtb, h.word, h.laneList, State.vectorBody, State.completes]

theorem execTlbw_idle {s : State} {c : Ctx} {st a} (h : s.IssuesIdle c (.tlbw st a)) :
    execTlbw st a s = .next (s.completes c (.tlbw st a) 0 id) := by
  simp [execTlbw, h.word, h.uniform, h.laneList, State.completes]

theorem execTrap_idle {s : State} {c : Ctx} {st k} (h : s.IssuesIdle c (.trap st k)) :
    execTrap st k s = .next (s.completes c (.trap st k) 0 id) := by
  simp [execTrap, h.word, h.uniform, h.laneList, State.completes, State.faultLanes]

/-- `orig` names its lanes' words, of which there are none. -/
theorem execOrig_idle {s : State} {c : Ctx} {st d n} (h : s.IssuesIdle c (.orig st d n)) :
    ∃ t c', s.RegisterWord c (.orig st d n) [] t c' ∧ c.SameFlags c' ∧ c.path.SameLast c'.path := by
  let body (s1 : State) : State :=
    match fieldRegs c.group.depth d.toNat 1 with
    | [.stack k] => s1.updPathGroup c.ref fun z =>
        z.produce c.ref.launch c.ref.block c.ref.path (.stack k) [] ((issueOf c (.orig st d n) 0).ends s.cycle + 1) false
    | [.oper k] => s1.updPathGroup c.ref fun z =>
        z.produce c.ref.launch c.ref.block c.ref.path (.oper k) [] ((issueOf c (.orig st d n) 0).ends s.cycle + 1) false
    | _ => s1
  refine h.goesOn body ?_ fun e he => ?_
  · show execOrig st d n s = _
    simp only [execOrig, h.word, h.laneList, List.map_nil]
    congr 2
    funext s1
    simp only [body]
    split <;> simp_all
  · simp only [body]
    split
    · exact (State.Rests.rfl' he).updPathGroup _ (fun z => z.produce_index ..) (.produce_nil (r := .stack _) (fun _ h => nomatch h) ..)
    · exact (State.Rests.rfl' he).updPathGroup _ (fun z => z.produce_index ..) (.produce_nil (r := .oper _) (fun _ h => nomatch h) ..)
    · exact ⟨e, .rfl' he⟩

/-! ### Access words -/

theorem Lanes.and_not_zero (m : Lanes) : m &&& ~~~(0 : Lanes) = m := by
  rw [show ~~~(0 : Lanes) = BitVec.allOnes 96 from rfl, BitVec.and_allOnes]

theorem State.dropFlagOps_zero (s : State) (r : PathRef) : s.dropFlagOps r 0 = s := by
  unfold State.dropFlagOps
  simp only [Lanes.and_not_zero, ite_self, List.map_id']

theorem Path.zeroable_idle {p : Path} (h : p.selected = 0) : p.zeroable = 0 := by
  have hb : beatLanes 0 = 0 := by decide
  rw [Path.zeroable, h, hb]
  exact (congrArg (· &&& p.member) BitVec.zero_and).trans BitVec.zero_and

/-- Only the recording of a launch makes a record of a word's inputs: the state but for metering, or that and the place of the record in the path. -/
theorem State.logInput_metered (s : State) (c : Ctx) (ty : Nat) (m : Lanes) (payload : List Byte) : ∃ v, State.Metered c.ref.launch s v ∧
    (c.launch.replay = none → v = s) ∧
    ((s.logInput c ty m payload).1 = v ∨ ∃ l, (s.logInput c ty m payload).1 = v.updPath c.ref fun p => { p with logged := some l }) := by
  have turned : State.Metered c.ref.launch s (if c.path.counted then s else s.logTurn c.ref c.path.wordAddr) := by
    split
    · exact .rfl' _ s
    · exact .logTurn s c.ref _
  have consumed (u : State) : State.Metered c.ref.launch u (u.logConsume c.ref).1 := by
    unfold State.logConsume
    split
    · exact .rfl' _ u
    · split
      · exact .rfl' _ u
      · split
        · exact .rfl' _ u
        · exact .updReplay _ u _
  unfold State.logInput
  split
  · exact ⟨s, .rfl' _ s, fun _ => rfl, .inl rfl⟩
  · rename_i r hr
    have absent {v : State} : c.launch.replay = none → v = s := fun hn => by simp [hr] at hn
    dsimp only
    generalize (if c.path.counted then s else s.logTurn c.ref c.path.wordAddr) = u at turned ⊢
    cases hl : c.path.logged with
    | some l => exact ⟨u, turned, absent, .inl (by cases r.replaying <;> rfl)⟩
    | none =>
      cases hp : r.replaying with
      | true =>
        have hm := turned.trans (consumed u)
        generalize u.logConsume c.ref = made at hm ⊢
        obtain ⟨v, _ | l⟩ := made
        · exact ⟨v, hm, absent, .inl rfl⟩
        · exact ⟨v, hm, absent, .inr ⟨l, rfl⟩⟩
      | false =>
        have hm := turned.trans (.logRecord u ty c.ref c.path.wordAddr payload)
        generalize u.logRecord ty c.ref c.path.wordAddr payload = made at hm ⊢
        obtain ⟨v, _ | a⟩ := made
        · exact ⟨v, hm, absent, .inl rfl⟩
        · exact ⟨v, hm, absent, .inr ⟨_, rfl⟩⟩

theorem State.logged_state (s : State) (c : Ctx) (o : Op) (held : Nat → DWord) (m : Lanes) :
    (s.logged c o held m).1 = s ∨ ∃ ty n payload, (s.logged c o held m).1 = (s.logInput c ty n payload).1 := by
  unfold State.logged
  split
  · exact .inl rfl
  · exact .inr ⟨_, _, _, rfl⟩

/-- An access word without an active lane starts nothing (R216). -/
theorem State.IssuesIdle.access {s : State} {c : Ctx} {w : AccessWord} (h : s.IssuesIdle c w.i) (hsb : c.group.sbCount w.sb < 63) (four : Ctx → Nat) :
    ∃ o held m, s.access w four = .next (s.completes c w.i 0 fun s1 => (s1.logged c o held m).1.updPathGroup c.ref fun z =>
      z.updPath c.ref.path fun p => { p with zeroedWord := p.zeroedWord || false }) := by
  have hl : c.accessLanes = [] := by simp [Ctx.accessLanes, h.uniform, h.laneList]
  have hz := Path.zeroable_idle h.idle
  have hsb' : ¬ 63 ≤ c.group.sbCount w.sb := by omega
  have h0 : laneSet [] = 0 := rfl
  have h1 : Machine.laneList 0 = [] := by decide
  refine Exists.intro ?o (Exists.intro ?held (Exists.intro ?m ?eq))
  case eq =>
    simp only [State.access, h.word, State.issueAccess, hsb', hl, h.uniform, hz, h0, h1, List.map_nil, List.filterMap_nil, List.append_nil, ite_self,
    State.dropFlagOps_zero, Sparse.puts, List.foldl_nil, List.isEmpty_nil, if_false, State.completes]
    rfl

/-- Such a word goes on: of its path only the word's own marks change. -/
theorem State.IssuesIdle.accessGoesOn {s : State} {c : Ctx} {i : Instr} (h : s.IssuesIdle c i) {w : AccessWord} {four : Ctx → Nat}
    (hx : exec i s = s.access w four) (hi : w.i = i) (hsb : c.group.sbCount w.sb < 63) :
    ∃ t c', s.RegisterWord c i [] t c' ∧ c.SameFlags c' ∧ c.path.SameLast c'.path := by
  subst hi
  obtain ⟨o, held, m, ha⟩ := h.access hsb four
  refine h.goesOn _ (hx.trans ha) fun d hd => ?_
  generalize s.noteIssue c w.i (issueOf c w.i 0) = t at hd
  have hlog : ∃ e, s.Rests c t d (t.logged c o held m).1 e := by
    rcases t.logged_state c o held m with hs | ⟨ty, n, bs, hs⟩
    · exact ⟨d, hs.symm ▸ .rfl' hd⟩
    · obtain ⟨v, hm, hv, hl⟩ := t.logInput_metered c ty n bs
      obtain ⟨e, he⟩ := (State.Rests.rfl' hd).metered hm fun hn => congrArg State.dies (hv hn)
      rcases hl with hl | ⟨l, hl⟩
      · exact ⟨e, hs.trans hl ▸ he⟩
      · obtain ⟨e', he'⟩ := he.updPathGroup (fun z => z.updPath c.ref.path fun p => { p with logged := some l }) (fun _ => rfl)
          (.updPath _ _ _ fun p => ⟨⟨rfl, rfl, rfl, rfl, ⟨rfl, rfl, rfl, rfl⟩, rfl, rfl, rfl⟩, rfl, rfl⟩)
        exact ⟨e', hs.trans hl ▸ he'⟩
  obtain ⟨e, he⟩ := hlog
  exact he.updPathGroup _ (fun _ => rfl) (.updPath _ _ _ fun p => ⟨⟨rfl, rfl, rfl, rfl, ⟨rfl, rfl, rfl, rfl⟩, rfl, rfl, rfl⟩, rfl, rfl⟩)

/-! ### The statement -/

/-- A word that is no event and no lane word of any kind. -/
theorem State.IssuesIdle.notEvent {s : State} {c : Ctx} {i : Instr} (h : s.IssuesIdle c i) (hl : laneWise i = false) : False := by
  have := h.lanes
  simp [actsInLanes, hl] at this

/-- Settles O28, by the kind of word: without an active lane each of them issues and goes on. -/
theorem idleWords : Obligations.IdleWords := by
  unfold Obligations.IdleWords
  intro s c i h hsb hother
  cases i with
  | addVectorInt | subVectorInt | mulVectorInt | mulhVectorInt | divVectorInt | remVectorInt | andVector | orVector | xorVector | shlVector
  | shrVector | sarVector | minVectorInt | maxVectorInt | selVector | movVector | notVector | absVectorInt | negVectorInt | clzVector
  | popcVector | addFloat | subFloat | mulFloat | fmaFloat | divFloat | sqrt | rsq | rcp | minFloat | maxFloat | classify | absFloat
  | negFloat | addF64 | subF64 | mulF64 | fmaF64 | cvtF64 | cvtF32 | cvtF16 | cvtBf16 | cvtE4m3 | cvtE5m2 | cvtL32 | cvtInt | cvtCode
  | lnsmul | lnsdiv | lnsadd | lnsroot | lnspow => exact h.passes h.laneWord
  | redAdd => exact h.passes (execRedAdd_idle h)
  | redMin => exact h.passes (execRedMin_idle h)
  | redMax => exact h.passes (execRedMax_idle h)
  | scanAdd => exact h.passes (execScanAdd_idle h)
  | shfl | bcast => exact h.passes ((h.word _).trans (congrArg _ (h.gatherLanes ..)))
  | matchKeys => exact h.passes (execMatchKeys_idle h)
  | cvtb => exact h.passes (execCvtb_idle h)
  | tlbw => exact h.passes (execTlbw_idle h)
  | trap => exact h.passes (execTrap_idle h)
  | orig => exact execOrig_idle h
  | ld | gather | st | stStrong | scatter | atom => exact h.accessGoesOn rfl rfl (hsb _)
  | cmpVectorInt st k d a b => exact absurd rfl (hother st k d a b 0 0 0).1
  | cmpFloat st k d a b => exact absurd rfl (hother st k d a b 0 0 0).2.1
  | wellAdd st a n sb => exact absurd rfl (hother st 0 0 a 0 n sb 0).2.2.1
  | wellTake st a n sb t => exact absurd rfl (hother st 0 0 a 0 n sb t).2.2.2.1
  | hret st a => exact absurd rfl (hother st 0 0 a 0 0 0 0).2.2.2.2
  | pfx | add | sub | mul | mulh | div | rem | and | or | xor | shl | shr | sar | min | max | sel | cmp | mov | not | abs | neg | clz | popc
  | mmov | mnot | mpop | movk | mand | mor | mxor | mandn | bra | brz | brnz | call | fork | join | trip | nop | ret | exit | sleep | rdmode
  | wrmode | fence | barInit | barArrive | barArrivec | barWait | waita | mma | gang | opres | opready | oprel | mwait | accAlloc | accFree
  | accSt | accLd | cpyk | dzk | coll | quiet | tlbinv | ctr | wspill =>
    refine (h.notOutside rfl rfl ?_).elim
    repeat rw [opcodeAt_append (h := by decide)]
    rw [opcodeAt_zero]
    decide
  | _ => exact (h.notEvent rfl).elim

end Sys2Proof.Machine
end

section
/-! SUPPORT. Two writers of a group: what a scalar result changes, and what it leaves of another path. -/

namespace Sys2Proof.Machine

theorem Group.updPath_id (z : Group) (k : Nat) : (z.updPath k fun p => p) = z := by
  have h : z.paths.modify k (fun p => p) = z.paths := by
    apply List.ext_getElem?
    intro i
    simp [List.getElem?_modify]
  simp [Group.updPath, h]

theorem Group.updPath_twice (z : Group) (k : Nat) (f g : Path → Path) : (z.updPath k f).updPath k g = z.updPath k fun p => g (f p) := by
  have h : (z.paths.modify k f).modify k g = z.paths.modify k fun p => g (f p) := by
    apply List.ext_getElem?
    intro i
    simp only [List.getElem?_modify]
    cases z.paths[i]? <;> by_cases hi : k = i <;> simp [hi]
  simp [Group.updPath, h]

theorem Group.updPath_at {z : Group} {k : Nat} {p : Path} (h : z.paths[k]? = some p) (f : Path → Path) : (z.updPath k f).paths[k]? = some (f p) := by
  simp [Group.updPath, h]

theorem Group.updPath_other (z : Group) {k j : Nat} (h : j ≠ k) (f : Path → Path) : (z.updPath k f).paths[j]? = z.paths[j]? := by
  simp [Group.updPath, h.symm]

/-- A change of a path outside its own scalars and its mask leaves every register as it reads. -/
theorem Group.getReg_updPath (z : Group) (k : Nat) (f : Path → Path) (hf : ∀ p : Path, (f p).priv = p.priv ∧ (f p).mask = p.mask)
    (l b : Nat) (r : LaneReg) (i : Nat) : (z.updPath k f).getReg l b k r i = z.getReg l b k r i := by
  refine Group.getReg_congr (y := z.updPath k f) (z := z) rfl rfl rfl rfl ?_ ?_ r i <;>
  · simp only [Group.updPath, List.getD_eq_getElem?_getD, List.getElem?_modify]
    cases z.paths[k]? <;> simp [hf]

theorem Group.getReg_joins (z : Group) (js : List JoinRec) (l b k : Nat) (r : LaneReg) (i : Nat) :
    Group.getReg { z with joins := js } l b k r i = z.getReg l b k r i := by
  cases r <;> rfl

/-- A shared scalar reads the same from every path (R28). -/
theorem Group.getReg_shared (z : Group) (l b j k : Nat) {n : Nat} (h : n < 108) (i : Nat) : z.getReg l b j (.scal n) i = z.getReg l b k (.scal n) i := by
  simp [Group.getReg, readScalar, h]

/-- What a write of scalar `n` does to the path that writes it. -/
structure Path.Writes (n : Nat) (f : Path → Path) : Prop where
  regs : ∀ p : Path, p.SameButRegs (f p)
  pfx : ∀ p : Path, (f p).pfx = p.pfx
  mask : n < 125 → ∀ p : Path, (f p).mask = p.mask
  priv : ∀ (p : Path) (m : Nat), m ≠ n → (f p).priv.get m = p.priv.get m

theorem Path.Writes.id (n : Nat) : Path.Writes n fun p => p := ⟨.rfl', fun _ => rfl, fun _ _ => rfl, fun _ _ _ => rfl⟩

theorem Path.Writes.put (n : Nat) (v : Word) : Path.Writes n fun p => { p with priv := p.priv.put n v } :=
  ⟨fun _ => ⟨rfl, rfl, rfl, rfl, ⟨rfl, rfl, rfl, rfl⟩, rfl, rfl, rfl⟩, fun _ => rfl, fun _ _ => rfl, fun p _ h => Sparse.get_put_other p.priv v h⟩

theorem Path.Writes.maskWord (n : Nat) (v : Word) (h : 125 ≤ n) : Path.Writes n fun p => p.setMaskWord (n - 125) v := by
  refine ⟨fun p => p.setMaskWord_keeps _ v, fun p => ?_, fun hn => by omega, fun p m _ => ?_⟩ <;>
  · unfold Path.setMaskWord
    rfl

/-- The group `y` after path `k` of `z` has written scalar `n`. -/
structure Group.ScalarWrite (k n : Nat) (z y : Group) : Prop extends Group.RegisterChange k z y where
  writes : ∃ f, Path.Writes n f ∧ y.paths = z.paths.modify k f
  scalars : 108 ≤ n → y.scalars = z.scalars
  reaches : y.reaches = z.reaches
  arrays : y.oper = z.oper ∧ y.stack = z.stack

theorem Group.ScalarWrite.unwritten (k n : Nat) (z : Group) (ss : Sparse 32) (hs : List Hazard) (h : n < 108 ∨ ss = z.scalars) :
    Group.ScalarWrite k n z { z with scalars := ss, hazards := hs } where
  index := rfl
  standing := rfl
  flags := rfl
  paths := ⟨fun p => p, .rfl', (congrArg Group.paths (z.updPath_id k)).symm⟩
  writes := ⟨fun p => p, .id n, (congrArg Group.paths (z.updPath_id k)).symm⟩
  scalars hn := h.resolve_left (by omega)
  reaches := rfl
  arrays := ⟨rfl, rfl⟩

theorem Group.ScalarWrite.hazards (k n : Nat) (z : Group) (hs : List Hazard) : Group.ScalarWrite k n z { z with hazards := hs } :=
  .unwritten k n z z.scalars hs (.inr rfl)

theorem Group.ScalarWrite.own (k n : Nat) (z : Group) {f : Path → Path} (hs : List Hazard) (hf : Path.Writes n f) :
    Group.ScalarWrite k n z { z.updPath k f with hazards := hs } :=
  ⟨⟨rfl, rfl, rfl, f, hf.regs, rfl⟩, ⟨f, hf, rfl⟩, fun _ => rfl, rfl, rfl, rfl⟩

/-- A scalar result changes the shared scalars, or its own path, where no beat is yet to issue. -/
theorem Group.ScalarWrite.produce {z : Group} (hz : z.reaches = []) (l b k n : Nat) (v : Word) (ready : Nat) (covered : Bool) :
    Group.ScalarWrite k n z (z.produce l b k (.scal n) [(0, v)] ready covered) := by
  unfold Group.produce
  dsimp only
  split
  · exact .hazards k n z _
  · rw [Group.reachInto_nil (by simpa using hz)]
    simp only [List.foldl_cons, List.foldl_nil, Group.putReg, Group.writeScalar]
    split
    · exact .unwritten k n z _ _ (.inl ‹_›)
    · split
      · exact .own k n z _ (.put n v)
      · split
        · exact .own k n z _ (.maskWord n v ‹_›)
        · exact .hazards k n z _

/-- Another path's own scalars read as before it; so does every register but the one written. -/
theorem Group.ScalarWrite.getReg_other {k n : Nat} {z y : Group} (h : Group.ScalarWrite k n z y) (hn : 108 ≤ n) (l b : Nat) {j : Nat} (hj : j ≠ k)
    (r : LaneReg) (i : Nat) : y.getReg l b j r i = z.getReg l b j r i := by
  obtain ⟨f, -, hp⟩ := h.writes
  have hpath : y.paths[j]? = z.paths[j]? := by simp [hp, hj.symm]
  have hd := congrArg Group.depth h.standing
  refine Group.getReg_congr (h.scalars hn) h.arrays.1 h.arrays.2 hd ?_ ?_ r i <;>
  · simp only [List.getD_eq_getElem?_getD, hpath]

end Sys2Proof.Machine
end

section
/-! SUPPORT. `fork`: what it does to the group, where it moves all or no lanes, and where it splits the path (R30, R31, R154). -/

namespace Sys2Proof.Machine

/-- A scalar result of a path of `c`'s group, where no beat is yet to issue. -/
theorem State.Within.writeScalarReg {s : State} {c d : Ctx} (hc : s.ctx? c.ref = some c) (hd : d.ref = c.ref) (hz : c.group.reaches = [])
    (n : Nat) (v : Word) (ready : Nat) (covered : Bool) :
    ∃ c' f, s.Within c (s.writeScalarReg d n v ready covered) c' ∧
      c'.group = c.group.produce c.ref.launch c.ref.block c.ref.path (.scal n) [(0, v)] ready covered ∧ c'.path = f c.path ∧ Path.Writes n f := by
  obtain ⟨f, hf, hp⟩ := (Group.ScalarWrite.produce hz c.ref.launch c.ref.block c.ref.path n v ready covered).writes
  obtain ⟨-, -, -, -, hc0, hv⟩ := State.ctx?_parts hc
  rw [State.writeScalarReg, hd]
  refine ⟨_, f, .updPathGroup hc (fun z => z.produce c.ref.launch c.ref.block c.ref.path (.scal n) [(0, v)] ready covered) (fun z => z.produce_index ..)
    (p := f c.path) (by rw [hp, List.getElem?_modify, hc0]; simp) ((hf.regs c.path).valid.trans hv), rfl, rfl, hf⟩

/-! ### A fork that does not split -/

/-- The lanes that a fork moves (R30). -/
abbrev State.forkMoves (s : State) (c : Ctx) (a : BitVec 8) : Lanes := c.path.mask &&& s.maskOperand c a.toNat 0

/-- The generation that a fork gives its record (R31). -/
abbrev Ctx.forkGen (c : Ctx) (r : Nat) : BitVec 8 := (c.group.joins.getD r ⟨0, false, 0⟩).gen + 1

/-- The group of a fork that does not split: the record is free again, and the path goes to `target`. -/
def Group.forkedWhole (z : Group) (k r : Nat) (gen : BitVec 8) (target : Nat) : Group :=
  { z with joins := z.joins.modify r fun _ => ⟨gen, false, 0⟩ }.updPath k fun p => p.goto target

theorem Group.forkedWhole_at {z : Group} {k : Nat} {p : Path} (h : z.paths[k]? = some p) (r : Nat) (gen : BitVec 8) (target : Nat) :
    (z.forkedWhole k r gen target).paths[k]? = some (p.goto target) :=
  Group.updPath_at (z := { z with joins := _ }) h _

theorem Group.forkedWhole_other (z : Group) {j k : Nat} (h : j ≠ k) (r : Nat) (gen : BitVec 8) (target : Nat) :
    (z.forkedWhole k r gen target).paths[j]? = z.paths[j]? :=
  Group.updPath_other { z with joins := _ } h _

theorem Group.getReg_forkedWhole (z : Group) (k r : Nat) (gen : BitVec 8) (target l b : Nat) (q : LaneReg) (i : Nat) :
    (z.forkedWhole k r gen target).getReg l b k q i = z.getReg l b k q i :=
  (Group.getReg_updPath { z with joins := _ } k (fun p => p.goto target) (fun _ => ⟨rfl, rfl⟩) l b q i).trans (z.getReg_joins _ l b k q i)

/-- `i` of `c` issues, frees record `r`, sends its path to `target`, and writes `v` to scalar `n`. -/
def State.forkWhole (s : State) (c : Ctx) (i : Instr) (extra r : Nat) (gen : BitVec 8) (target n : Nat) (v : Word) : State :=
  ((s.noteIssue c i (issueOf c i extra)).updPathGroup c.ref fun z => z.forkedWhole c.ref.path r gen target).writeScalarReg c n v (s.cycle + 1) false

theorem execFork_noEntry {s : State} {c : Ctx} {st d a v} (h : s.Issues c (.fork st d a v)) (he : c.group.freeEntry = none) :
    execFork st d a v s = .next (s.illegal c 35) := by
  simp [execFork, h.word, he]

theorem execFork_noRecord {s : State} {c : Ctx} {st d a v} (h : s.Issues c (.fork st d a v)) (he : c.group.freeEntry ≠ none)
    (hr : c.group.freeRecord = none) : execFork st d a v s = .next (s.illegal c 36) := by
  obtain ⟨e, he⟩ := Option.ne_none_iff_exists'.mp he
  simp [execFork, h.word, he, hr]

theorem execFork_whole {s : State} {c : Ctx} {st d a v} {e r : Nat} (h : s.Issues c (.fork st d a v)) (he : c.group.freeEntry = some e)
    (hr : c.group.freeRecord = some r) (hm : s.forkMoves c a = 0 ∨ s.forkMoves c a = c.path.mask) :
    execFork st d a v s = .next (s.forkWhole c (.fork st d a v) (if s.forkMoves c a ≠ 0 then 2 else 0) r (c.forkGen r)
      (if s.forkMoves c a ≠ 0 then c.path.target v else c.path.nextPc) (d.toNat - 0x40) (token (c.forkGen r) r)) := by
  have hs : (s.forkMoves c a != 0 && s.forkMoves c a != c.path.mask) = false := by
    rcases hm with hm | hm <;> simp [hm]
  simp only [execFork, h.word, he, hr, hs, State.forkWhole, Group.forkedWhole, State.stepChild, Bool.false_eq_true, if_false, false_and, Bool.false_and, bne_iff_ne]

theorem State.Issues.noted_reaches {s : State} {c : Ctx} {i : Instr} (h : s.Issues c i) (extra : Nat) : (c.noted s i extra).reaches = [] :=
  List.filter_eq_nil_iff.mpr fun e he => by simpa using h.beats e he

theorem Ctx.noted_getReg (c : Ctx) (s : State) (i : Instr) (extra l b k : Nat) (r : LaneReg) (lane : Nat) :
    (c.noted s i extra).getReg l b k r lane = c.group.getReg l b k r lane := by
  refine Group.getReg_congr (y := c.noted s i extra) (z := c.group) rfl rfl rfl rfl ?_ ?_ r lane <;>
  · simp only [Group.noteIssue_paths, List.getD_eq_getElem?_getD, List.getElem?_modify]
    cases c.group.paths[k]? <;> by_cases hk : c.ref.path = k <;> simp [Path.noteIssue, hk]

theorem Path.target_mod {n : Nat} (p : Path) (ofs : BitVec n) : p.target ofs % 2 ^ 64 = p.target ofs := by
  unfold Path.target
  omega

theorem Ctx.writesLast_noted {c : Ctx} {n ready : Nat} (h : c.WritesLast n ready) (s : State) (i : Instr) (extra : Nat) :
    (LaneReg.scal n).shared = true → ∀ x ∈ (c.noted s i extra).hazards, x.path ≠ c.ref.path → x.reg = .scal n →
      x.ready < ready ∨ (x.ready = ready ∧ x.path < c.ref.path) :=
  fun hs x hx => h (by simpa [LaneReg.shared] using hs) x (List.mem_filter.mp hx).1

/-- The path of a fork that does not split, once it has issued. -/
theorem State.Issues.forkWhole {s t : State} {c : Ctx} {i : Instr} (h : s.Issues c i) {extra r : Nat} {gen : BitVec 8} {target n : Nat} {v : Word}
    (ht : t = s.forkWhole c i extra r gen target n v) :
    ∃ c', t.ctx? c.ref = some c' ∧ s.SameElsewhere t c c' ∧ c.SameGroup c' [.scal n] ∧ c.SameFlags c' ∧ c.path.SameLast c'.path ∧
      c'.group.standing = { c.group.standing with joins := c.group.joins.set r ⟨gen, false, 0⟩ } ∧ c.ScalarReads s c' n v ∧
      c.Jumped s i extra (target % 2 ^ 64) c' := by
  subst ht
  obtain ⟨d, hd, hdg, hdp⟩ := State.Within.noteIssue h.ctx i extra
  have hd0 : d.group.paths[c.ref.path]? = some d.path := hd.ref ▸ (State.ctx?_parts hd.here).2.2.2.2.1
  have hv0 := (State.ctx?_parts hd.here).2.2.2.2.2
  have he := State.Within.updPathGroup hd.here (fun z => z.forkedWhole c.ref.path r gen target) (fun _ => rfl) (p := d.path.goto target)
    (by rw [hd.ref]; exact Group.forkedWhole_at hd0 ..) hv0
  rw [hd.ref] at he
  -- the group before the token is written
  have hz : (d.group.forkedWhole c.ref.path r gen target).reaches = [] := by
    show d.group.reaches = []
    rw [hdg]
    exact h.noted_reaches extra
  have hreads (q : LaneReg) (j : Nat) : (d.group.forkedWhole c.ref.path r gen target).getReg c.ref.launch c.ref.block c.ref.path q j =
      c.group.getReg c.ref.launch c.ref.block c.ref.path q j := by
    rw [Group.getReg_forkedWhole, hdg, c.noted_getReg]
  obtain ⟨c', f, hw, hg, hp, hf⟩ := State.Within.writeScalarReg he.here (he.ref.trans hd.ref).symm hz n v (s.cycle + 1) false
  rw [he.ref, hd.ref] at hg
  replace hg : c'.group = (d.group.forkedWhole c.ref.path r gen target).produce _ _ _ _ _ _ _ := hg
  replace hp : c'.path = f (d.path.goto target) := hp
  have hs := Group.ScalarWrite.produce hz c.ref.launch c.ref.block c.ref.path n v (s.cycle + 1) false
  rw [← hg] at hs
  obtain ⟨a1, a2, a3, a4, a5, a6, a7, a8⟩ := hf.regs (d.path.goto target)
  rw [← hp] at a1 a2 a3 a4 a5 a6 a7 a8
  have hall := (hd.trans he).trans hw
  refine ⟨c', hall.ctx, hall.elsewhere ?_, ⟨fun k hk => ?_, fun q j hj hq => ?_, ?_⟩, ?_, ?_, ?_, fun hl => ?_, ⟨⟨?_, ?_⟩, ?_, ?_, ?_⟩⟩
  · exact ((State.SameUnits.noteIssue s c i _).trans (.updPathGroup _ _ _)).trans (.updPathGroup _ _ _)
  · obtain ⟨g, -, hg⟩ := hs.writes
    rw [hg, List.getElem?_modify, Group.forkedWhole_other _ hk, hdg]
    simp [Group.noteIssue_paths, hk.symm]
  · rw [hg, Group.getReg_produce_other hz _ _ _ _ _ _ _ _ _ hj (by simp) (.inl fun e => hq (by simp [e])), hreads]
  · rw [a1, hdp]
    rfl
  · show c'.group.flags = c.group.flags
    rw [hs.flags, Group.forkedWhole, hdg]
    rfl
  · obtain ⟨b1, b2, b3, b4⟩ := a5
    rw [hdp] at b1 b2 b3 b4
    exact ⟨b1, b2, b3, b4⟩
  · rw [hs.standing, List.set_eq_modify, hdg]
    rfl
  · have hw := Ctx.writesLast_noted hl s i extra
    rw [Ctx.reg, hall.ref, hg, Group.getReg_produce_same hz _ _ _ _ _ _ _ _ (d.path.goto target) (Group.forkedWhole_at hd0 ..)
      (by rw [hdg]; exact hw), hreads, hdp]
    rfl
  · rw [a6]
    rfl
  · rw [a7]
    rfl
  · rw [a3, hdp]
    rfl
  · rw [hp, hf.pfx]
    rfl
  · rw [a2]
    exact hv0

/-! ### A fork that splits its path -/

/-- The parent of a fork: it keeps the other lanes and stands at the next clause (R30). -/
def Path.forkParent (p : Path) (r : Nat) (moving : Lanes) (next : Nat) (live : Lanes) : Path :=
  { p.goto next with
    member := p.member &&& ~~~moving, present := p.present &&& ~~~moving, mask := live &&& ~~~moving, tokens := p.tokens ||| BitVec.ofNat 4 (2 ^ r) }

/-- The child of a fork: it holds the moving lanes at the target (R30). -/
def Path.forkChild (p : Path) (r : Nat) (moving : Lanes) (target : Nat) : Path :=
  { p.goto target with
    member := moving, present := moving, mask := moving, tokens := p.tokens ||| BitVec.ofNat 4 (2 ^ r)
    stepLeft := none
    issuedAt := none
    stopSoon := none }

theorem Group.split_at {z : Group} {k e r : Nat} {live moving : Lanes} {target next : Nat} {p : Path} (hp : z.paths[k]? = some p) (hk : e ≠ k)
    (he : e < z.paths.length) :
    (z.split k e r live moving target next).paths[k]? = some (p.forkParent r moving next live) ∧
      (z.split k e r live moving target next).paths[e]? = some (p.forkChild r moving target) ∧
      ∀ j, j ≠ k → j ≠ e → (z.split k e r live moving target next).paths[j]? = z.paths[j]? := by
  obtain ⟨hl, -⟩ := List.getElem?_eq_some_iff.mp hp
  have hd : z.paths.getD k Path.dead = p := by simp [hp]
  refine ⟨?_, ?_, fun j hj hje => ?_⟩ <;> simp only [Group.split, hd]
  · rw [List.getElem?_set_ne hk, List.getElem?_set_self hl]
    rfl
  · rw [List.getElem?_set_self (by simpa using he)]
    rfl
  · rw [List.getElem?_set_ne hje.symm, List.getElem?_set_ne hj.symm]

/-- What becomes of the copies of a child's own scalars: those that the parent is yet to receive hold anything. -/
structure Path.Spoiled (us : List Unseen) (f : Path → Path) : Prop where
  regs : ∀ p : Path, p.SameButRegs (f p)
  mask : ∀ p : Path, (f p).mask = p.mask
  priv : ∀ (p : Path) (n : Nat), (∀ u ∈ us, u.reg ≠ .scal n) → (f p).priv.get n = p.priv.get n

theorem Group.spoilCopies_form (z : Group) (k e : Nat) (free : Nat → DWord) : ∃ f, z.spoilCopies k e free = z.updPath e f ∧ Path.Spoiled z.unseen f := by
  have hall : ∀ (us : List Unseen) (y : Group), (∀ u ∈ us, u ∈ z.unseen) → ∃ f, us.foldl (fun z u => match u.reg with
      | .scal n => if 108 ≤ n ∧ n < 121 then z.updPath e fun p => { p with priv := p.priv.put n ((free n).setWidth 32) } else z
      | _ => z) y = y.updPath e f ∧ Path.Spoiled z.unseen f := by
    intro us
    induction us with
    | nil => exact fun y _ => ⟨fun p => p, (y.updPath_id e).symm, .rfl', fun _ => rfl, fun _ _ _ => rfl⟩
    | cons u us ih =>
      intro y hu
      have hus : ∀ v ∈ us, v ∈ z.unseen := fun v hv => hu v (List.mem_cons_of_mem _ hv)
      rw [List.foldl_cons]
      split
      · rename_i n hn
        split
        · obtain ⟨f, hf, h1, h2, h3⟩ := ih (y.updPath e fun p => { p with priv := p.priv.put n ((free n).setWidth 32) }) hus
          refine ⟨fun p => f { p with priv := p.priv.put n ((free n).setWidth 32) }, ?_, fun p => ?_, fun p => (h2 _).trans rfl, fun p m hm => ?_⟩
          · rw [hf, Group.updPath_twice]
          · exact ((Path.Writes.put n _).regs p).trans (h1 _)
          · exact (h3 _ m hm).trans (Sparse.get_put_other p.priv _ fun e => hm u (hu u List.mem_cons_self) (e ▸ hn))
        · exact ih y hus
      · exact ih y hus
  exact hall _ z fun u hu => List.mem_of_mem_filter hu

/-- The group of a fork that splits. -/
def Group.forkedSplit (z : Group) (k e r : Nat) (gen : BitVec 8) (live moving : Lanes) (target next : Nat) (free : Nat → DWord) : Group :=
  ({ z with joins := z.joins.modify r fun _ => ⟨gen, true, 0⟩ }.split k e r live moving target next).spoilCopies k e free

/-- The child's own copy of the token (R31). -/
def Group.copyToken (z : Group) (l b e n : Nat) (v : Word) (ready : Nat) : Group :=
  if 108 ≤ n then z.produce l b e (.scal n) [(0, v)] ready false else z

theorem Group.copyToken_index (z : Group) (l b e n : Nat) (v : Word) (ready : Nat) : (z.copyToken l b e n v ready).index = z.index := by
  unfold Group.copyToken
  split
  · exact z.produce_index ..
  · rfl

theorem Group.ScalarWrite.copyToken {z : Group} (hz : z.reaches = []) (l b e n : Nat) (v : Word) (ready : Nat) :
    Group.ScalarWrite e n z (z.copyToken l b e n v ready) := by
  unfold Group.copyToken
  split
  · exact .produce hz l b e n v ready false
  · exact .hazards e n z z.hazards

/-- `i` of `c` issues and splits its path into itself and entry `e`, under record `r`; both hold the token `v` in scalar `n`. -/
def State.forkSplit (s : State) (c : Ctx) (i : Instr) (e r : Nat) (gen : BitVec 8) (moving : Lanes) (target n : Nat) (v : Word) : State :=
  (((s.noteIssue c i (issueOf c i 2)).updPathGroup c.ref fun z =>
    z.forkedSplit c.ref.path e r gen c.path.mask moving target c.path.nextPc (s.freeOf c.launch.owner)).writeScalarReg c n v (s.cycle + 1) false).updPathGroup
      c.ref fun z => z.copyToken c.ref.launch c.ref.block e n v (s.cycle + 1)

theorem execFork_split {s : State} {c : Ctx} {st d a v} {e r : Nat} (h : s.Issues c (.fork st d a v)) (he : c.group.freeEntry = some e)
    (hr : c.group.freeRecord = some r) (h0 : s.forkMoves c a ≠ 0) (hm : s.forkMoves c a ≠ c.path.mask) :
    execFork st d a v s = .next ((s.forkSplit c (.fork st d a v) e r (c.forkGen r) (s.forkMoves c a) (c.path.target v) (d.toNat - 0x40)
      (token (c.forkGen r) r)).stepChild { c.ref with path := e } c.path.stepLeft.isSome) := by
  have hs : (s.forkMoves c a != 0 && s.forkMoves c a != c.path.mask) = true := by
    rw [bne_iff_ne.mpr h0, bne_iff_ne.mpr hm]
    rfl
  by_cases hn : 108 ≤ d.toNat - 0x40
  · simp only [execFork, h.word, he, hr, hs, h0, hn, bne_iff_ne, ne_eq, not_false_eq_true, if_true, Bool.true_and, and_self, State.forkSplit,
      Group.forkedSplit, Group.copyToken]
  · simp only [execFork, h.word, he, hr, hs, h0, hn, bne_iff_ne, ne_eq, not_false_eq_true, if_true, Bool.true_and, and_false, if_false, State.forkSplit,
      Group.forkedSplit, Group.copyToken, State.updPathGroup_id]

/-- The group `y` is `z` with the path of entry `k` split into `pa` there and `ch` in entry `e`, under record `r`. -/
structure Group.SplitInto (z y : Group) (k e r : Nat) (gen : BitVec 8) (pa ch : Path) : Prop where
  parent : y.paths[k]? = some pa
  child : y.paths[e]? = some ch
  others : ∀ j, j ≠ k → j ≠ e → y.paths[j]? = z.paths[j]?
  standing : y.standing = { z.standing with joins := z.joins.set r ⟨gen, true, 0⟩ }
  hazards : y.hazards = z.hazards
  reaches : y.reaches = z.reaches
  index : y.index = z.index

theorem Group.forkedSplit_form {z : Group} {k e : Nat} {p : Path} (hp : z.paths[k]? = some p) (hk : e ≠ k) (he : e < z.paths.length) (r : Nat)
    (gen : BitVec 8) (live moving : Lanes) (target next : Nat) (free : Nat → DWord) : ∃ f, Path.Spoiled z.unseen f ∧
      Group.SplitInto z (z.forkedSplit k e r gen live moving target next free) k e r gen (p.forkParent r moving next live)
        (f (p.forkChild r moving target)) := by
  let y : Group := { z with joins := z.joins.modify r fun _ => ⟨gen, true, 0⟩ }
  obtain ⟨h1, h2, h3⟩ := Group.split_at (z := y) (r := r) (live := live) (moving := moving) (target := target) (next := next) hp hk he
  obtain ⟨f, hf, hs⟩ := (y.split k e r live moving target next).spoilCopies_form k e free
  refine ⟨f, hs, ?_⟩
  have hy : z.forkedSplit k e r gen live moving target next free = (y.split k e r live moving target next).updPath e f := hf
  rw [hy]
  exact ⟨(Group.updPath_other _ hk.symm f).trans h1, Group.updPath_at h2 f, fun j hj hje => (Group.updPath_other _ hje f).trans (h3 j hj hje),
    (by rw [List.set_eq_modify]; rfl), rfl, rfl, rfl⟩

theorem Group.forkedSplit_index (z : Group) (k e r : Nat) (gen : BitVec 8) (live moving : Lanes) (target next : Nat) (free : Nat → DWord) :
    (z.forkedSplit k e r gen live moving target next free).index = z.index := by
  unfold Group.forkedSplit
  obtain ⟨f, hf, -⟩ := Group.spoilCopies_form (({ z with joins := z.joins.modify r fun _ => ⟨gen, true, 0⟩ } : Group).split k e r live moving target next)
    k e free
  rw [hf]
  rfl

/-- A path of another entry of the group is left as it was. -/
theorem State.Within.updOther {s : State} {c : Ctx} (hc : s.ctx? c.ref = some c) (f : Group → Group) (hf : ∀ z : Group, (f z).index = z.index)
    (hp : (f c.group).paths[c.ref.path]? = c.group.paths[c.ref.path]?) :
    s.Within c (s.updPathGroup c.ref f) (c.withGroup f c.path) :=
  .updPathGroup hc f hf (hp.trans (State.ctx?_parts hc).2.2.2.2.1) (State.ctx?_parts hc).2.2.2.2.2

/-- What a fork that splits leaves: its path `c'` and the child `q` of entry `e`, each with the token in scalar `n`. -/
structure State.ForkLeaves (s : State) (c : Ctx) (i : Instr) (e r : Nat) (gen : BitVec 8) (moving : Lanes) (target n : Nat) (v : Word) (t : State)
    (c' : Ctx) (q : Path) : Prop where
  ctx : t.ctx? c.ref = some c'
  entry : c'.group.paths[e]? = some q
  elsewhere : s.SameElsewhere t c c'
  parent : ∃ f, Path.Writes n f ∧
    c'.path = f ((c.path.noteIssue (issueOf c i 2) s.cycle (s.owner c.launch.owner).free).forkParent r moving c.path.nextPc c.path.mask)
  child : ∃ f g, Path.Writes n f ∧ Path.Spoiled c.group.unseen g ∧
    q = f (g ((c.path.noteIssue (issueOf c i 2) s.cycle (s.owner c.launch.owner).free).forkChild r moving target))
  others : ∀ j, j ≠ c.ref.path → j ≠ e → c'.group.paths[j]? = c.group.paths[j]?
  standing : c'.group.standing = { c.group.standing with joins := c.group.joins.set r ⟨gen, true, 0⟩ }
  token : c.WritesLast n (s.cycle + 1) → n < 121 →
    c'.reg (.scal n) 0 = v ∧ c'.group.getReg c.ref.launch c.ref.block e (.scal n) 0 = v

theorem LaneReg.kept_scal {n : Nat} (h : n < 121) (p : Path) (v old : Word) : (LaneReg.scal n).kept p v old = v := by
  simp [LaneReg.kept, h]

theorem State.Issues.forkSplit {s t : State} {c : Ctx} {i : Instr} (h : s.Issues c i) {e r : Nat} {gen : BitVec 8} {moving : Lanes} {target n : Nat}
    {v : Word} (ht : t = s.forkSplit c i e r gen moving target n v) (hk : e ≠ c.ref.path) (he : e < c.group.paths.length) :
    ∃ c' q, s.ForkLeaves c i e r gen moving target n v t c' q := by
  subst ht
  obtain ⟨d, hd, hdg, hdp⟩ := State.Within.noteIssue h.ctx i 2
  have hd0 : d.group.paths[c.ref.path]? = some d.path := hd.ref ▸ (State.ctx?_parts hd.here).2.2.2.2.1
  have he0 : e < d.group.paths.length := by simpa [hdg, Group.noteIssue_paths] using he
  obtain ⟨fs, hfs, h1⟩ := Group.forkedSplit_form hd0 hk he0 r gen c.path.mask moving target c.path.nextPc (s.freeOf c.launch.owner)
  -- the two paths, then the token in the parent's registers, then in the child's
  have w1 := State.Within.updPathGroup hd.here (fun z => z.forkedSplit c.ref.path e r gen c.path.mask moving target c.path.nextPc
    (s.freeOf c.launch.owner)) (fun z => z.forkedSplit_index ..)
    (p := d.path.forkParent r moving c.path.nextPc c.path.mask) (by rw [hd.ref]; exact h1.parent) (State.ctx?_parts hd.here).2.2.2.2.2
  rw [hd.ref] at w1
  have hz1 := h1.reaches.trans ((congrArg Group.reaches hdg).trans (h.noted_reaches 2))
  obtain ⟨d2, fp, w2, hg2, hp2, hfp⟩ := State.Within.writeScalarReg w1.here (w1.ref.trans hd.ref).symm hz1 n v (s.cycle + 1) false
  rw [w1.ref, hd.ref] at hg2
  generalize hy : d.group.forkedSplit c.ref.path e r gen c.path.mask moving target c.path.nextPc (s.freeOf c.launch.owner) = y at h1 hz1
  replace hg2 : d2.group = y.produce c.ref.launch c.ref.block c.ref.path (.scal n) [(0, v)] (s.cycle + 1) false := hy ▸ hg2
  have k2 := Group.ScalarWrite.produce hz1 c.ref.launch c.ref.block c.ref.path n v (s.cycle + 1) false
  rw [← hg2] at k2
  have hz2 := k2.reaches.trans hz1
  have k3 := Group.ScalarWrite.copyToken hz2 c.ref.launch c.ref.block e n v (s.cycle + 1)
  obtain ⟨f2, hf2, hp2'⟩ := k2.writes
  obtain ⟨f3, hf3, hp3⟩ := k3.writes
  have hr2 : d2.ref = c.ref := (w2.ref.trans w1.ref).trans hd.ref
  have w3 := State.Within.updOther w2.here (fun z => z.copyToken c.ref.launch c.ref.block e n v (s.cycle + 1)) (fun z => z.copyToken_index ..)
    (by rw [hp3, hr2, List.getElem?_modify]; simp [hk])
  rw [hr2] at w3
  have hall := ((hd.trans w1).trans w2).trans w3
  have hchild : d2.group.paths[e]? = some (fs (d.path.forkChild r moving target)) := by
    rw [hp2', List.getElem?_modify, h1.child]
    simp [hk.symm]
  have hq : (d2.group.copyToken c.ref.launch c.ref.block e n v (s.cycle + 1)).paths[e]? = some (f3 (fs (d.path.forkChild r moving target))) := by
    rw [hp3, List.getElem?_modify, hchild]
    simp
  refine ⟨_, _, hall.ctx, hq, hall.elsewhere ?_, ⟨fp, hfp, ?_⟩,
    ⟨f3, fs, hf3, ?_, ?_⟩, fun j hj hje => ?_, ?_, fun hl hn => ?_⟩
  · exact (((State.SameUnits.noteIssue s c i _).trans (.updPathGroup _ _ _)).trans (.updPathGroup _ _ _)).trans (.updPathGroup _ _ _)
  · show d2.path = _
    rw [hp2, ← hdp]
    rfl
  · rw [hdg] at hfs
    exact hfs
  · rw [hdp]
  · show (d2.group.copyToken c.ref.launch c.ref.block e n v (s.cycle + 1)).paths[j]? = _
    rw [hp3, List.getElem?_modify, hp2', List.getElem?_modify, h1.others j hj hje, hdg]
    simp [hj.symm, hje.symm, Group.noteIssue_paths]
  · refine (k3.standing.trans (k2.standing.trans h1.standing)).trans ?_
    rw [hdg]
    rfl
  · have hw := Ctx.writesLast_noted hl s i 2
    have hk2 : d2.group.getReg c.ref.launch c.ref.block c.ref.path (.scal n) 0 = v := by
      rw [hg2, Group.getReg_produce_same hz1 _ _ _ _ _ _ _ _ _ h1.parent (by rw [h1.hazards, hdg]; exact hw), LaneReg.kept_scal hn]
    rw [Ctx.reg, hall.ref]
    show (d2.group.copyToken c.ref.launch c.ref.block e n v (s.cycle + 1)).getReg c.ref.launch c.ref.block c.ref.path (.scal n) 0 = v ∧
      (d2.group.copyToken c.ref.launch c.ref.block e n v (s.cycle + 1)).getReg c.ref.launch c.ref.block e (.scal n) 0 = v
    by_cases hs : 108 ≤ n
    · have hown : (LaneReg.scal n).shared = true → False := by simp [LaneReg.shared, hs]
      refine ⟨(k3.getReg_other hs _ _ hk.symm _ _).trans hk2, ?_⟩
      rw [Group.copyToken, if_pos hs, Group.getReg_produce_same hz2 _ _ _ _ _ _ _ _ _ hchild fun hx => (hown hx).elim, LaneReg.kept_scal hn]
    · rw [Group.copyToken, if_neg hs]
      exact ⟨hk2, (Group.getReg_shared _ _ _ _ _ (by omega) _).trans hk2⟩

end Sys2Proof.Machine
end

section
/-! SUPPORT. Where paths stand through the operations that act for others (`State.Frame`): transfers, spills, reports, pre-emptions and the stop of
an owner leave a path's place, but for a path whose word they end. -/

namespace Sys2Proof.Machine

-- Short lemmas that cite each other: elaborated one after the other, they need no thread each.
set_option Elab.async false

/-- Where a path stands: whether it is there, its state, its word, and whether it is stopped. -/
def Path.place (p : Path) : Bool × PathStatus × Nat × Option Nat := (p.valid, p.status, p.idx, p.stopped)

/-- Where the paths of a group stand. -/
def Group.places (z : Group) : List (Bool × PathStatus × Nat × Option Nat) := z.paths.map Path.place

/-- A property of states that looks at launches alone and, in their groups, at where paths stand. -/
structure State.Frame (P : State → Prop) : Prop where
  congr : ∀ {s t : State}, P s → t.launches = s.launches → P t
  updLaunch : ∀ {s : State} {l f}, P s → (∀ x : Launch, (f x).seq = x.seq) → (∀ x : Launch, (f x).blocks = x.blocks) → P (s.updLaunch l f)
  updBlock : ∀ {s : State} {l b f}, P s → (∀ y : Block, (f y).index = y.index) → (∀ y : Block, (f y).groups = y.groups) → P (s.updBlock l b f)
  updGroup : ∀ {s : State} {l b g f}, P s → (∀ z : Group, (f z).index = z.index) → (∀ z : Group, (f z).places = z.places) → P (s.updGroup l b g f)

/-! ### Groups -/

theorem Group.places_updPath (z : Group) (k : Nat) (f : Path → Path) (hf : ∀ p : Path, (f p).place = p.place) : (z.updPath k f).places = z.places := by
  unfold Group.places Group.updPath
  apply List.ext_getElem?
  intro i
  simp only [List.getElem?_map, List.getElem?_modify]
  cases z.paths[i]? with
  | none => rfl
  | some p => by_cases h : k = i <;> simp [h, hf]

theorem Path.SameButRegs.place {p q : Path} (h : p.SameButRegs q) : q.place = p.place := by
  have hs := congrArg Path.status h.standing
  have hp := congrArg Path.stopped h.standing
  exact Prod.ext h.valid (Prod.ext hs (Prod.ext h.idx hp))

theorem Group.places_putReg (z : Group) (k : Nat) (r : LaneReg) (lane : Nat) (v : Word) : (z.putReg k r lane v).places = z.places := by
  obtain ⟨f, hf, hp⟩ := z.putReg_paths k r lane v
  exact (congrArg (List.map Path.place) hp).trans (z.places_updPath k f fun p => (hf p).place)

theorem Group.places_putDest (z : Group) (k : Nat) (r : Option LaneReg) (lane : Nat) (v : Word) : (z.putDest k r lane v).places = z.places := by
  cases r with
  | none => rfl
  | some r => exact z.places_putReg k r lane v

theorem Group.places_reachInto (z : Group) (k : Nat) (r : Option LaneReg) (val : Reach → Option Word) (ready : Nat) :
    (z.reachInto k r val ready).places = z.places := by
  unfold Group.reachInto
  refine List.foldlRecOn (motive := fun y : Group => y.places = z.places) _ _ rfl fun y hy e _ => ?_
  split
  · exact hy
  · dsimp only
    split
    · exact (y.places_putDest ..).trans hy
    · refine (Group.places_updPath _ _ _ ?_).trans ((y.places_putDest ..).trans hy)
      exact fun _ => rfl

theorem Group.places_produce (z : Group) (l b k : Nat) (r : LaneReg) (vals : List (Nat × Word)) (ready : Nat) (covered : Bool) :
    (z.produce l b k r vals ready covered).places = z.places := by
  unfold Group.produce
  dsimp only
  split
  · rfl
  · refine (Group.places_reachInto _ _ _ _ _).trans ?_
    exact List.foldlRecOn (motive := fun y : Group => y.places = z.places) vals _ rfl fun y hy e _ => (y.places_putReg ..).trans hy

theorem foldl_keeps {α : Type} {P : State → Prop} {f : State → α → State} {l : List α} {s : State} (h : P s) (hf : ∀ {u : State} {a}, P u → P (f u a)) :
    P (l.foldl f s) :=
  List.foldlRecOn (motive := P) l f h fun _ hu _ _ => hf hu

theorem foldl_fst_keeps {α β : Type} {P : State → Prop} {f : State × α → β → State × α} {l : List β} {s : State} {a : α} (h : P s)
    (hf : ∀ {q : State × α} {b}, P q.1 → P (f q b).1) : P (l.foldl f (s, a)).1 :=
  List.foldlRecOn (motive := fun q : State × α => P q.1) l f h fun _ hq _ _ => hf hq

theorem ite_keeps {c : Prop} [Decidable c] {P : State → Prop} {s t : State} (hs : P s) (ht : P t) : P (if c then s else t) := by
  split
  · exact hs
  · exact ht

/-- The state of a pair that an operation answers. -/
theorem of_fst_keeps {α : Type} {P : State → Prop} {p : State × α} {s : State} {a : α} (h : P p.1) (e : p = (s, a)) : P s := by
  subst e
  exact h

theorem elim_keeps {α : Type} {P : State → Prop} {o : Option α} {f : α → State} {s : State} (h : P s) (hf : ∀ {a}, P (f a)) : P (o.elim s f) := by
  cases o with
  | none => exact h
  | some a => exact hf

namespace State.Frame
variable {P : State → Prop} {s : State}

/-! ### Memory, owners, and units -/

theorem settle (F : Frame P) (h : P s) : P s.settle := F.congr h rfl

theorem applyAt (F : Frame P) (h : P s) {m t view} : P (s.applyAt m t view) := by
  unfold State.applyAt
  split
  · exact h
  · exact F.congr h rfl

theorem carryTo (F : Frame P) (h : P s) {vs sel} : P (s.carryTo vs sel) :=
  F.congr (F.settle (foldl_keeps h fun h' => foldl_keeps h' fun h₂ => F.applyAt h₂)) rfl

theorem carry (F : Frame P) (h : P s) {sel} : P (s.carry sel) := F.carryTo h

theorem launchWrite (F : Frame P) (h : P s) {vs t} : P (s.launchWrite vs t) :=
  F.settle (foldl_keeps (F.congr (ite_keeps h (F.carryTo h)) rfl) fun h' => F.applyAt h')

theorem markPoison (F : Frame P) (h : P s) {pa} : P (s.markPoison pa) := by
  unfold State.markPoison
  split
  · exact h
  · exact F.congr h rfl

theorem writeAll (F : Frame P) (h : P s) {pa bs} : P (s.writeAll pa bs) := F.congr h rfl

theorem charge (F : Frame P) (h : P s) {o pa n} : P (s.charge o pa n) := F.congr h rfl

theorem updOwner (F : Frame P) (h : P s) {o f} : P (s.updOwner o f) := F.congr h rfl

theorem clearPoison (F : Frame P) (h : P s) {rs} : P (s.clearPoison rs) := F.congr h rfl

theorem takeFreeOf (F : Frame P) (h : P s) {o n} : P (s.takeFreeOf o n) := F.congr h rfl

theorem amendVirt (F : Frame P) (h : P s) {o va bs} : P (s.amendVirt o va bs) := foldl_keeps h fun h' => elim_keeps h' (F.writeAll h')

theorem logLanes (F : Frame P) (h : P s) {o l n vals} : P (s.logLanes o l n vals) := foldl_keeps h fun h' => elim_keeps h' (F.amendVirt h')

theorem logPut (F : Frame P) (h : P s) {o l off bs} : P (s.logPut o l off bs) := elim_keeps h (F.amendVirt h)

theorem chargeVirt (F : Frame P) (h : P s) {o va n} : P (s.chargeVirt o va n) :=
  foldl_keeps h fun h' => by split; exacts [F.charge h', h']

theorem writeVirt (F : Frame P) (h : P s) {o va bs} : P (s.writeVirt o va bs) :=
  foldl_keeps h fun h' => by split; exacts [h', F.charge (F.writeAll h')]

theorem ringPost (F : Frame P) (h : P s) {o base l2 size bs} : P (s.ringPost o base l2 size bs).1 := by
  unfold State.ringPost
  split
  · split
    · exact F.chargeVirt h
    · exact F.writeVirt (F.writeVirt (F.chargeVirt h))
  · exact h

theorem interrupt (F : Frame P) (h : P s) {o cause} : P (s.interrupt o cause) := by
  unfold State.interrupt
  dsimp only
  split <;> exact F.congr h rfl

theorem report (F : Frame P) (h : P s) {o tag detail disp imageid} : P (s.report o tag detail disp imageid) := by
  unfold State.report
  extract_lets rb s1
  have h1 : P s1 := by
    unfold s1
    split
    · exact ite_keeps h (F.ringPost h)
    · exact h
  exact F.interrupt h1

theorem noteOldest (F : Frame P) (h : P s) {core} : P (s.noteOldest core) := by
  unfold State.noteOldest
  split
  · exact F.congr h rfl
  · split
    · exact h
    · exact F.congr h rfl

theorem noteCluster (F : Frame P) (h : P s) {k} : P (s.noteCluster k) := foldl_keeps h fun h' => F.noteOldest h'

theorem recount (F : Frame P) (h : P s) : P s.recount := foldl_keeps h fun h' => F.noteOldest h'

theorem freeReservation (F : Frame P) (h : P s) {core q} : P (s.freeReservation core q) := F.congr h rfl

theorem dropOp (F : Frame P) (h : P s) {id} : P (s.dropOp id) := F.congr h rfl

theorem opCarry (F : Frame P) (h : P s) {o ids} : P (s.opCarry o ids) := by
  unfold State.opCarry
  split
  · exact h
  · exact F.carryTo h

theorem spoilCards (F : Frame P) (h : P s) {o addr bs} : P (s.spoilCards o addr bs).1 := by
  dsimp only [State.spoilCards]
  split
  · exact h
  · refine F.takeFreeOf ?_
    split
    · exact F.congr h rfl
    · exact foldl_keeps (F.congr h rfl) fun h' => F.writeAll h'

theorem opClearPoison (F : Frame P) (h : P s) {o n} : P (s.opClearPoison o n) := by
  unfold State.opClearPoison
  split
  · exact h
  · exact F.clearPoison h

theorem atomicMeets (F : Frame P) (h : P s) {die pa n} : P (s.atomicMeets die pa n) := by
  unfold State.atomicMeets
  dsimp only
  split
  · exact h
  · exact F.carryTo h

/-! ### Groups, and the images of their blocks -/

theorem updPathGroup (F : Frame P) (h : P s) {r f} (hi : ∀ z : Group, (f z).index = z.index) (hp : ∀ z : Group, (f z).places = z.places) :
    P (s.updPathGroup r f) := F.updGroup h hi hp

theorem noteImage (F : Frame P) (h : P s) {l b g id pa n} : P (s.noteImage l b g id pa n) := by
  refine F.updGroup h (fun _ => rfl) fun z => ?_
  unfold Group.places
  rw [List.map_map]
  refine List.map_congr_left fun p _ => ?_
  simp only [Function.comp]
  split
  · rfl
  · rfl

theorem imageWrite (F : Frame P) (h : P s) {x y g core va bs lane} : P (s.imageWrite x y g core va bs lane) :=
  foldl_keeps h fun h' => by split; exacts [h', F.clearPoison (F.charge (F.noteImage (F.launchWrite h')))]

theorem writeAreas (F : Frame P) (h : P s) {x y z areas} : P (s.writeAreas x y z areas) := foldl_keeps h fun h' => F.imageWrite h'

theorem writeHeaderAreas (F : Frame P) (h : P s) {x y z} : P (s.writeHeaderAreas x y z) := F.takeFreeOf (F.writeAreas h)

theorem spillLine (F : Frame P) (h : P s) {x y z n} : P (s.spillLine x y z n) := by
  unfold State.spillLine
  extract_lets va s1 poisoned s2 s3
  have h1 : P s1 := F.takeFreeOf (F.imageWrite h)
  have h2 : P s2 := by
    unfold s2
    split
    · exact foldl_keeps h1 fun h' => by split; exacts [F.markPoison h', h']
    · exact h1
  exact F.updGroup (F.updOwner h2) (fun _ => rfl) fun _ => rfl

theorem spillLines (F : Frame P) (h : P s) {x y z f} : P (s.spillLines x y z f) := foldl_keeps h fun h' => F.spillLine h'

theorem flushLog (F : Frame P) (h : P s) {r} : P (s.flushLog r) := by
  unfold State.flushLog
  split
  · split
    · exact h
    · exact F.updPathGroup (foldl_keeps h fun h' => F.amendVirt h') (fun _ => rfl) fun _ => rfl
  · exact h

theorem noteAccess (F : Frame P) (h : P s) {o addr n m read wrote} : P (s.noteAccess o addr n m read wrote) :=
  F.updPathGroup h (fun _ => rfl) fun _ => Group.places_updPath _ _ _ fun _ => rfl

theorem sbFall (F : Frame P) (h : P s) {ref k} : P (s.sbFall ref k) := by
  have h' : P (s.updPathGroup ref fun z => z.sbSet k (z.sbCount k - 1)) := F.updPathGroup h (fun _ => rfl) fun _ => rfl
  unfold State.sbFall
  dsimp only
  split
  · exact h'
  split
  · exact h'
  split
  · exact h'
  split
  · exact h'
  · exact F.imageWrite h'

theorem placeFlags (F : Frame P) (h : P s) {ref lane v} : P (s.placeFlags ref lane v) := by
  have h' : P (s.updPathGroup ref fun z => { z with flags := z.flags.put lane (z.flags.get lane ||| v) }) := F.updPathGroup h (fun _ => rfl) fun _ => rfl
  unfold State.placeFlags
  split
  · exact h
  split
  · exact h
  split
  · exact h
  split
  · exact h
  dsimp only
  split
  · exact h'
  · exact F.imageWrite h'

theorem placeHeld (F : Frame P) (h : P s) {ref : PathRef} {r : LaneReg} {lane : Nat} {v : Word} {val : Reach → Option Word} {t : Nat} :
    P (s.updPathGroup ref fun z => (z.putReg ref.path r lane v).reachInto ref.path (some r) val t) :=
  F.updPathGroup h (fun z => by simp) fun z => (Group.places_reachInto _ _ _ _ _).trans (z.places_putReg ..)

theorem placeScalar (F : Frame P) (h : P s) {ref : PathRef} {r : LaneReg} {lane : Nat} {v : Word} {t : Nat} :
    P (s.updPathGroup ref fun z =>
      if r.shared then z.produce ref.launch ref.block ref.path r [(0, v)] t false else z.putReg ref.path r lane v) := by
  refine F.updPathGroup h (fun z => ?_) fun z => ?_
  · split
    · exact z.produce_index ..
    · exact z.putReg_index ..
  · split
    · exact z.places_produce ..
    · exact z.places_putReg ..

theorem placeReg (F : Frame P) (h : P s) {ref r lane v} : P (s.placeReg ref r lane v) := by
  dsimp only [State.placeReg]
  split
  · exact h
  split
  · exact h
  split
  · exact h
  split
  · exact h
  split
  · split
    · exact F.placeHeld h
    · refine F.updPathGroup (F.imageWrite (ite_keeps h (F.imageWrite h))) (fun z => ?_) fun z => ?_
      · split <;> rfl
      · split <;> rfl
  · split
    · exact F.placeHeld h
    · exact F.imageWrite (F.placeHeld h)
  · split
    · exact F.placeScalar h
    split
    · exact F.placeScalar h
    · exact F.imageWrite (F.placeScalar h)

theorem placeResult (F : Frame P) (h : P s) {ref r lane v} : P (s.placeResult ref r lane v) := F.flushLog (F.placeReg h)

theorem savePath (F : Frame P) (h : P s) {r} : P (s.savePath r) := by
  unfold State.savePath
  split
  · split
    · exact h
    · exact F.imageWrite (F.imageWrite h)
  · exact h

end State.Frame

end Sys2Proof.Machine
end

section
/-! SUPPORT. Completions, pre-emptions, stops and faults under a frame (`State.Frame`). -/

namespace Sys2Proof.Machine

set_option Elab.async false

namespace State.Frame
variable {P : State → Prop} {s : State}

/-! ### Completions -/

theorem opDeliver (F : Frame P) (h : P s) {o vals} : P (s.opDeliver o vals) := by
  unfold State.opDeliver
  dsimp only
  split
  · exact foldl_keeps (F.logLanes h) fun h' => F.placeFlags h'
  · exact foldl_keeps (foldl_keeps (F.logLanes h) fun h' => F.placeFlags h') fun h' =>
      ite_keeps (F.placeResult (F.placeResult h')) (F.placeResult h')

theorem performLoad (F : Frame P) (h : P s) {o moments} : P (s.performLoad o moments) :=
  F.opDeliver (foldl_keeps (ite_keeps (F.opCarry h) (foldl_keeps (F.opCarry h) fun h' => F.charge h')) fun h' => F.noteAccess h')

theorem spadWrite (F : Frame P) (h : P s) {l b core addr bs ids} : P (s.spadWrite l b core addr bs ids) := by
  unfold State.spadWrite
  split
  · exact h
  split
  · exact h
  split
  · exact F.updBlock (F.congr h rfl) (fun _ => rfl) fun _ => rfl
  · exact F.imageWrite h

theorem barUpdate (F : Frame P) (h : P s) {l b core addr f} : P (s.barUpdate l b core addr f) := by
  unfold State.barUpdate
  dsimp only
  split
  · exact F.spadWrite h
  · exact F.updBlock (F.spadWrite h) (fun _ => rfl) fun _ => rfl

theorem noteUpdate (F : Frame P) (h : P s) {l b a t rank} : P (s.updBlock l b fun y => y.noteUpdate a t rank) :=
  F.updBlock h (fun _ => rfl) fun _ => rfl

theorem opTouched (F : Frame P) (h : P s) {o ranges} : P (s.opTouched o ranges) := by
  unfold State.opTouched
  split
  · exact foldl_keeps h fun h' => F.barUpdate (F.noteUpdate h')
  · exact h

theorem opWrite (F : Frame P) (h : P s) {o lane addr bs read} : P (s.opWrite o lane addr bs read) := by
  unfold State.opWrite
  split
  next u bs' hu =>
  have hu : P u := of_fst_keeps (F.spoilCards h) hu
  refine F.noteAccess (ite_keeps (F.spadWrite hu) ?_)
  dsimp only
  split <;> exact F.launchWrite (F.charge hu)

theorem performStore (F : Frame P) (h : P s) {o} : P (s.performStore o) :=
  F.opClearPoison (F.opTouched (foldl_keeps h fun h' => F.opWrite h'))

theorem atomicStep (F : Frame P) (h : P s) {o e} : P (s.atomicStep o e).1 :=
  F.opTouched (F.opWrite (ite_keeps h (F.opCarry (F.atomicMeets h))))

theorem performAtomic (F : Frame P) (h : P s) {o} : P (s.performAtomic o) :=
  F.opDeliver (F.opClearPoison (foldl_fst_keeps h fun h' => by exact F.atomicStep h'))

theorem performAccLoad (F : Frame P) (h : P s) {o} : P (s.performAccLoad o) :=
  F.congr (foldl_keeps (ite_keeps (F.logPut (F.opCarry h)) (foldl_keeps (F.logPut (F.opCarry h)) fun h' => F.charge h')) fun h' => F.noteAccess h') rfl

theorem performAccStore (F : Frame P) (h : P s) {o} : P (s.performAccStore o) := by
  unfold State.performAccStore
  dsimp only
  exact ite_keeps (F.opTouched (foldl_keeps h fun h' => F.opWrite h')) (F.clearPoison (F.opTouched (foldl_keeps h fun h' => F.opWrite h')))

theorem performWellAdd (F : Frame P) (h : P s) {o} : P (s.performWellAdd o) := by
  refine F.updOwner (F.clearPoison (foldl_keeps (F.carry h) fun h' => ?_))
  split
  next t bs ht =>
  exact F.charge (F.writeAll (of_fst_keeps (F.spoilCards h') ht))

theorem performWellTake (F : Frame P) (h : P s) {o} : P (s.performWellTake o) :=
  foldl_keeps (F.opDeliver h) fun h' => F.placeResult h'

theorem perform (F : Frame P) (h : P s) {o moments} : P (s.perform o moments) := by
  unfold State.perform
  split
  · exact F.performLoad h
  · exact F.performStore h
  · exact F.performStore h
  · exact F.performAtomic h
  · exact F.performAccLoad h
  · exact F.performAccStore h
  · exact F.performWellAdd h
  · exact F.performWellTake h

theorem mmaEnds (F : Frame P) (h : P s) {m} : P (s.mmaEnds m) := by
  unfold State.mmaEnds
  extract_lets t ran seen s1 s2 s3
  have h3 : P s3 := F.congr h rfl
  exact foldl_keeps h3 fun h' => F.sbFall h'

theorem spadOut (F : Frame P) (h : P s) {x y core} : P (s.spadOut x y core) :=
  foldl_keeps (foldl_keeps h fun h' => F.imageWrite h') fun h' => elim_keeps h' (F.markPoison h')

theorem tilesOut (F : Frame P) (h : P s) {x y} : P (s.tilesOut x y) := by
  refine F.updBlock (F.congr (foldl_keeps h fun h' => ?_) rfl) (fun _ => rfl) fun _ => rfl
  dsimp only
  refine ite_keeps (foldl_keeps (F.imageWrite h') fun h₂ => ?_) (F.imageWrite h')
  split
  · exact F.markPoison h₂
  · exact h₂

end State.Frame

/-! ### Words that end aside -/

/-- A path waits at a word that another's operation may end: `quiet`, or a `wspill` that a tier cap holds. -/
def Path.endsAside (p : Path) : Prop := (∃ d, p.status = .waiting (.quiet d)) ∨ ∃ lo n areas, p.status = .waiting (.wspill lo n areas)

/-- A block whose paths stop at their word boundaries. -/
def Block.atBoundary (y : Block) : Block :=
  { y with groups := y.groups.map fun z => { z with paths := z.paths.map Path.preempted, hazards := [], flagHazards := [], reaches := [] } }

/-- A frame that outlasts the end of a word that ends aside, and the boundary of a pre-emption. -/
structure State.WideFrame (P : State → Prop) : Prop extends State.Frame P where
  passWord : ∀ {s : State} {r p}, P s → s.path? r = some p → p.endsAside → P (s.passWord r)
  boundary : ∀ {s : State} {l b}, P s → P (s.updBlock l b Block.atBoundary)

/-- Where the paths of a group stand. -/
def State.places (s : State) (l b g : Nat) : Option (List (Bool × PathStatus × Nat × Option Nat)) := (s.group? l b g).map Group.places

theorem State.places_congr {s t : State} (h : t.launches = s.launches) (l b g : Nat) : t.places l b g = s.places l b g := by
  rw [State.places, State.group?_congr h, State.places]

theorem State.group?_updLaunch (s : State) (l : Nat) (f : Launch → Launch) (hs : ∀ x, (f x).seq = x.seq) (hb : ∀ x, (f x).blocks = x.blocks)
    (k b g : Nat) : (s.updLaunch l f).group? k b g = s.group? k b g := by
  simp only [State.group?, State.block?, State.launch?_updLaunch s l f hs]
  cases s.launch? k with
  | none => rfl
  | some x =>
    simp only [Option.map_some, Option.bind_some, Launch.block?]
    split
    · rw [hb]
    · rfl

theorem State.group?_updBlock (s : State) (l b : Nat) (f : Block → Block) (hi : ∀ y, (f y).index = y.index) (hg : ∀ y, (f y).groups = y.groups)
    (k j g : Nat) : (s.updBlock l b f).group? k j g = s.group? k j g := by
  simp only [State.group?, State.block?_updBlock s l b f hi]
  cases s.block? k j with
  | none => rfl
  | some y =>
    simp only [Option.map_some, Option.bind_some, Block.group?]
    split
    · rw [hg]
    · rfl

theorem Block.group?_updGroup (y : Block) (g : Nat) (f : Group → Group) (hf : ∀ z, (f z).index = z.index) (k : Nat) :
    (y.updGroup g f).group? k = (y.group? k).map fun z => if z.index = g then f z else z :=
  find?_map_ite _ _ _ _ hf _

theorem State.group?_updGroup (s : State) (l b g : Nat) (f : Group → Group) (hf : ∀ z, (f z).index = z.index) (k j i : Nat) :
    (s.updGroup l b g f).group? k j i = (s.group? k j i).map fun z => if k = l ∧ j = b ∧ i = g then f z else z := by
  unfold State.updGroup State.group?
  rw [State.block?_updBlock s l b (fun y => y.updGroup g f) fun _ => rfl]
  cases hy : s.block? k j with
  | none => rfl
  | some y =>
    have hj : y.index = j := by
      obtain ⟨x, -, hb⟩ := Option.bind_eq_some_iff.mp hy
      simpa using List.find?_some hb
    simp only [Option.map_some, Option.bind_some, hj]
    by_cases hk : k = l ∧ j = b
    · rw [if_pos hk, Block.group?_updGroup y g f hf]
      cases hz : y.group? i with
      | none => rfl
      | some z =>
        have hi : z.index = i := by simpa using List.find?_some hz
        simp [hi, hk.1, hk.2]
    · have hk' : ¬(k = l ∧ j = b ∧ i = g) := fun h => hk ⟨h.1, h.2.1⟩
      simp only [if_neg hk, if_neg hk', Option.map_id']

theorem State.Frame.places (s₀ : State) : State.Frame fun t => ∀ l b g, t.places l b g = s₀.places l b g where
  congr h hl l b g := (State.places_congr hl l b g).trans (h l b g)
  updLaunch {s l f} h hs hb k b g := by rw [← h k b g, State.places, State.group?_updLaunch s l f hs hb, State.places]
  updBlock {s l b f} h hi hg k j g := by rw [← h k j g, State.places, State.group?_updBlock s l b f hi hg, State.places]
  updGroup {s l b g f} h hi hp k j i := by
    rw [← h k j i, State.places, State.group?_updGroup s l b g f hi, State.places, Option.map_map]
    congr 1
    funext z
    simp only [Function.comp]
    split
    · exact hp z
    · rfl

/-- A path whose group's places stand is there, and stands where it stood. -/
theorem State.path?_of_places {s t : State} {r : PathRef} {p : Path} (h : t.places r.launch r.block r.group = s.places r.launch r.block r.group)
    (hp : s.path? r = some p) : ∃ q, t.path? r = some q ∧ q.place = p.place := by
  obtain ⟨z, hz, hzp⟩ := Option.bind_eq_some_iff.mp hp
  rw [State.places, State.places, hz] at h
  obtain ⟨y, hy, hyz⟩ := Option.map_eq_some_iff.mp h
  have hi := congrArg (fun l => l[r.path]?) hyz
  simp only [Group.places, List.getElem?_map, hzp, Option.map_some] at hi
  obtain ⟨q, hq, hqp⟩ := Option.map_eq_some_iff.mp hi
  exact ⟨q, by rw [State.path?, hy, Option.bind_some, hq], hqp⟩

theorem State.path?_of_ctx? {s : State} {r : PathRef} {c : Ctx} (h : s.ctx? r = some c) : s.path? r = some c.path := by
  obtain ⟨-, hx, hy, hz, hp, -⟩ := State.ctx?_parts h
  simp [State.path?, State.group?, State.block?, hx, hy, hz, hp]

/-- A word that ends aside, after operations that leave where paths stand. -/
theorem State.WideFrame.passAfter {P : State → Prop} (F : State.WideFrame P) {s t : State} {c : Ctx} {r : PathRef} (h : P t) (hc : s.ctx? r = some c)
    (he : c.path.endsAside) (ht : ∀ l b g, t.places l b g = s.places l b g) : P (t.passWord r) := by
  obtain ⟨q, hq, hqp⟩ := State.path?_of_places (ht _ _ _) (State.path?_of_ctx? hc)
  have hs : q.status = c.path.status := congrArg (·.2.1) hqp
  refine F.passWord h hq ?_
  unfold Path.endsAside
  rw [hs]
  exact he

end Sys2Proof.Machine
end

section
/-! SUPPORT. Pre-emptions, the stop of an owner and the collection of origins under a wide frame (`State.WideFrame`). -/

namespace Sys2Proof.Machine

namespace State.WideFrame
variable {P : State → Prop} {s : State}

theorem wspillEnds (F : WideFrame P) (h : P s) {r} : P (s.wspillEnds r) := by
  unfold State.wspillEnds
  split
  next => exact h
  next c hc =>
  split
  next lo n areas hw =>
    have hp : ∀ l b g, (s.wspillWrites c lo n areas).places l b g = s.places l b g :=
      (Frame.places s).writeAreas ((Frame.places s).spillLines fun _ _ _ => rfl)
    exact F.passAfter (F.toFrame.writeAreas (F.toFrame.spillLines h)) hc (.inr ⟨lo, n, areas, hw⟩) hp
  next => exact h

theorem endQuiet (F : WideFrame P) (h : P s) {r v} : P (s.endQuiet r v) := by
  unfold State.endQuiet
  split
  next => exact h
  next c hc =>
  split
  next d hq =>
    have G := Frame.places s
    exact F.toFrame.savePath (F.passAfter (F.toFrame.logPut (foldl_keeps h fun h' => F.toFrame.placeResult h')) hc (.inl ⟨d, hq⟩)
      (G.logPut (foldl_keeps (P := fun t => ∀ l b g, t.places l b g = s.places l b g) (fun _ _ _ => rfl) fun h' => G.placeResult h')))
  next => exact h

theorem completeOp (F : WideFrame P) (h : P s) {o moments} : P (s.completeOp o moments) := by
  have h' : P (((s.perform o moments).sbFall o.path o.sb).dropOp o.id) := F.toFrame.dropOp (F.toFrame.sbFall (F.toFrame.perform h))
  unfold State.completeOp
  dsimp only
  split
  · exact foldl_keeps h' fun h₂ => F.endQuiet h₂
  · exact h'

theorem finishMatrix (F : WideFrame P) (h : P s) {l b} : P (s.finishMatrix l b) := by
  refine foldl_keeps h fun h' => ?_
  unfold State.finishNext
  dsimp only
  split
  · exact F.completeOp h'
  · split
    · exact F.toFrame.mmaEnds h'
    · exact h'

theorem preemptBlock (F : WideFrame P) (h : P s) {l b payer} : P (s.preemptBlock l b payer) := by
  unfold State.preemptBlock
  split
  · exact h
  split
  · exact h
  split
  · exact h
  extract_lets core quiet s1 s2 s3
  have h1 : P s1 := foldl_keeps h fun h' => F.wspillEnds h'
  have h2 : P s2 := F.boundary h1
  have h3 : P s3 := F.finishMatrix h2
  split
  · exact h3
  split
  · exact h3
  extract_lets s4 s5 x' s6 s7 s8
  have h5 : P s5 := foldl_keeps (foldl_keeps h3 fun h' => F.toFrame.writeHeaderAreas h') fun h' => F.toFrame.freeReservation h'
  have h7 : P s7 := F.congr (F.toFrame.tilesOut (F.toFrame.spadOut h5)) rfl
  have h8 : P s8 := F.updBlock h7 (fun _ => rfl) fun _ => rfl
  refine F.toFrame.noteCluster ?_
  exact F.updLaunch h8 (fun _ => rfl) fun _ => rfl

/-- The stop of an owner, where the property outlasts the end of its handler groups. -/
theorem stopOwner (F : WideFrame P) (h : P s) {o tag detail imageid}
    (hk : P { s with launches := s.launches.map fun x => if x.owner = o ∧ x.handler.isSome then x.kill else x }) : P (s.stopOwner o tag detail imageid) := by
  unfold State.stopOwner
  split
  · exact h
  extract_lets s1 blocks s2 s3 s4
  have h2 : P s2 := foldl_keeps (F.toFrame.recount hk) fun h' => F.preemptBlock h'
  have h4 : P s4 := F.congr h2 rfl
  exact F.toFrame.interrupt (F.toFrame.report h4)

end State.WideFrame

/-- An origin is collected apart from launches. -/
theorem State.Frame.collect {P : State → Prop} {s : State} (F : State.Frame P) (h : P s) {o kind detail tag src completed depth unit mark addr marked} :
    P (s.collect o kind detail tag src completed depth unit mark addr marked) := by
  refine F.congr h ?_
  unfold State.collect
  dsimp only
  split
  · split <;> rfl
  · split <;> split <;> rfl

/-! ### A frame for one path -/

/-- What holds of the path of entry `r`; `d` where there is none. -/
def State.At (r : PathRef) (d : Prop) (Q : Path → Prop) (s : State) : Prop := (s.path? r).elim d Q

theorem State.At.of_places {r : PathRef} {d : Prop} {Q : Path → Prop} (hQ : ∀ p q : Path, q.place = p.place → Q p → Q q) {s t : State}
    (h : State.At r d Q s) (ht : t.places r.launch r.block r.group = s.places r.launch r.block r.group) : State.At r d Q t := by
  unfold State.At at *
  cases hs : s.path? r with
  | some p =>
    obtain ⟨q, hq, hp⟩ := State.path?_of_places ht hs
    rw [hs] at h
    rw [hq]
    exact hQ p q hp h
  | none =>
    cases hq : t.path? r with
    | none => simpa [hs] using h
    | some q =>
      obtain ⟨p, hp, -⟩ := State.path?_of_places ht.symm hq
      rw [hs] at hp
      cases hp

theorem State.Frame.at (r : PathRef) (d : Prop) {Q : Path → Prop} (hQ : ∀ p q : Path, q.place = p.place → Q p → Q q) : State.Frame (State.At r d Q) where
  congr h hl := h.of_places hQ (State.places_congr hl _ _ _)
  updLaunch {s _ _} h hs hb := h.of_places hQ ((State.Frame.places s).updLaunch (fun _ _ _ => rfl) hs hb _ _ _)
  updBlock {s _ _ _} h hi hg := h.of_places hQ ((State.Frame.places s).updBlock (fun _ _ _ => rfl) hi hg _ _ _)
  updGroup {s _ _ _ _} h hi hp := h.of_places hQ ((State.Frame.places s).updGroup (fun _ _ _ => rfl) hi hp _ _ _)

theorem State.path?_updPath (s : State) (r q : PathRef) (f : Path → Path) :
    (s.updPath r f).path? q = (s.path? q).map fun p => if q = r then f p else p := by
  unfold State.updPath State.updPathGroup State.path?
  rw [State.group?_updGroup s r.launch r.block r.group (fun z => z.updPath r.path f) fun _ => rfl]
  cases s.group? q.launch q.block q.group with
  | none => rfl
  | some z =>
    simp only [Option.map_some, Option.bind_some]
    split
    next h =>
      obtain ⟨h1, h2, h3⟩ := h
      simp only [Group.updPath, List.getElem?_modify]
      have hiff : r.path = q.path ↔ q = r := by
        constructor
        · intro h4
          cases q; cases r
          simp_all
        · rintro rfl
          rfl
      simp only [hiff]
      rfl
    next h =>
      have hne : q ≠ r := fun e => h (by simp [e])
      simp [hne]

theorem State.path?_boundary (s : State) (l b : Nat) (q : PathRef) :
    (s.updBlock l b Block.atBoundary).path? q = (s.path? q).map fun p => if q.launch = l ∧ q.block = b then p.preempted else p := by
  unfold State.path? State.group?
  rw [State.block?_updBlock s l b Block.atBoundary fun _ => rfl]
  cases hy : s.block? q.launch q.block with
  | none => rfl
  | some y =>
    have hj : y.index = q.block := by
      obtain ⟨x, -, hb⟩ := Option.bind_eq_some_iff.mp hy
      simpa using List.find?_some hb
    simp only [Option.map_some, Option.bind_some, hj]
    split
    next h =>
      have hg : y.atBoundary.group? q.group = (y.group? q.group).map fun z =>
          { z with paths := z.paths.map Path.preempted, hazards := [], flagHazards := [], reaches := [] } := by
        unfold Block.group? Block.atBoundary
        rw [List.find?_map]
        rfl
      rw [hg]
      cases y.group? q.group with
      | none => rfl
      | some z => simp [List.getElem?_map]
    next h => simp

/-- What holds of a path while it neither waits at a word that ends aside nor at one that a boundary ends. -/
theorem State.WideFrame.at (r : PathRef) (d : Prop) {Q : Path → Prop} (hQ : ∀ p q : Path, q.place = p.place → Q p → Q q)
    (hpass : ∀ p : Path, Q p → p.endsAside → Q { p.advance p.rawSpan with status := .ready }) (hpre : ∀ p : Path, Q p → Q p.preempted) :
    State.WideFrame (State.At r d Q) where
  toFrame := State.Frame.at r d hQ
  passWord {s q p} h hp he := by
    unfold State.At State.passWord at *
    rw [State.path?_updPath]
    cases hs : s.path? r with
    | none => simpa [hs] using h
    | some p' =>
      rw [hs] at h
      simp only [Option.map_some, Option.elim_some] at h ⊢
      split
      next e =>
        rw [← e, hs] at hp
        cases hp
        exact hpass _ h he
      next => exact h
  boundary {s l b} h := by
    unfold State.At at *
    rw [State.path?_boundary]
    cases hs : s.path? r with
    | none => simpa [hs] using h
    | some p =>
      rw [hs] at h
      simp only [Option.map_some, Option.elim_some] at h ⊢
      split
      · exact hpre p h
      · exact h

end Sys2Proof.Machine
end

section
/-! SUPPORT. The path that stops, and its siblings. -/

namespace Sys2Proof.Machine

theorem State.Frame.postStop {P : State → Prop} (F : State.Frame P) {s : State} (h : P s) {o ws} : P (s.postStop o ws) := by
  unfold State.postStop
  dsimp only
  split
  · exact F.updOwner h
  · split
    next t ht => exact of_fst_keeps (F.ringPost h) ht
    next t ht => exact F.updOwner (of_fst_keeps (F.ringPost h) ht)

/-- A path that stops, where the property holds once it is marked. -/
theorem State.Frame.stopOne_at {P : State → Prop} (F : State.Frame P) {s : State} {r : PathRef} {c : Ctx} {cause bk : Nat} (hc : s.ctx? r = some c)
    (hr : P (s.updPath r fun p => { p with stopped := some cause, stopSoon := none, stepLeft := none })) : P (s.stopOne r cause bk) := by
  unfold State.stopOne
  rw [hc]
  dsimp only
  split
  · exact hr
  · exact F.postStop (F.carry (F.writeHeaderAreas (F.spillLines hr)))

theorem State.Frame.stopOne {P : State → Prop} (F : State.Frame P) {s : State} {r : PathRef} {cause bk : Nat} (h : P s)
    (hr : P (s.updPath r fun p => { p with stopped := some cause, stopSoon := none, stepLeft := none })) : P (s.stopOne r cause bk) := by
  cases hc : s.ctx? r with
  | none => simpa [State.stopOne, hc] using h
  | some c => exact F.stopOne_at hc hr

theorem State.At.updPath_other {r q : PathRef} {d : Prop} {Q : Path → Prop} {s : State} (h : State.At q d Q s) (hq : q ≠ r) (f : Path → Path) :
    State.At q d Q (s.updPath r f) := by
  unfold State.At at *
  rw [State.path?_updPath]
  simpa [hq] using h

/-- A path that is there and stopped for a cause. -/
def State.StoppedFor (s : State) (r : PathRef) (cause : Nat) : Prop := State.At r False (fun p => p.valid = true ∧ p.stopped = some cause) s

theorem State.StoppedFor.there {s : State} {r : PathRef} {cause : Nat} (h : s.StoppedFor r cause) :
    ∃ p, s.path? r = some p ∧ p.valid = true ∧ p.stopped = some cause := by
  unfold State.StoppedFor State.At at h
  cases hp : s.path? r with
  | none => simp [hp] at h
  | some p => exact ⟨p, rfl, by simpa [hp] using h⟩

theorem State.StoppedFor.frame (r : PathRef) (cause : Nat) : State.Frame fun s => s.StoppedFor r cause :=
  .at r False fun _ _ hp ⟨hv, hs⟩ => ⟨(congrArg (·.1) hp).trans hv, (congrArg (·.2.2.2) hp).trans hs⟩

/-- The stop of a path of the same group leaves it stopped. -/
theorem State.StoppedFor.stopSibling {s : State} {r q : PathRef} {cause : Nat} (h : s.StoppedFor q cause) (hq : q ≠ r) :
    (s.stopSibling r).StoppedFor q cause := by
  unfold State.stopSibling
  split
  · exact h
  · split
    · exact h
    · split
      · exact (frame q cause).stopOne h (h.updPath_other hq _)
      · exact h.updPath_other hq _

theorem State.stopPath_stops {s : State} {r : PathRef} {c : Ctx} (h : s.ctx? r = some c) (cause bk : Nat) : (s.stopPath r cause bk).StoppedFor r cause := by
  have hv := (State.ctx?_parts h).2.2.2.2.2
  have hu : (s.updPath r fun p => { p with stopped := some cause, stopSoon := none, stepLeft := none }).StoppedFor r cause := by
    unfold State.StoppedFor State.At
    rw [State.path?_updPath, State.path?_of_ctx? h]
    simp [hv]
  have h1 := (State.StoppedFor.frame r cause).stopOne_at (bk := bk) h hu
  unfold State.stopPath
  dsimp only
  split
  · refine List.foldlRecOn (motive := fun u : State => u.StoppedFor r cause) _ _ h1 fun u hu k hk => hu.stopSibling fun e => ?_
    have hk' : k ≠ r.path := by simpa using (List.mem_filter.mp hk).2
    exact hk' (congrArg PathRef.path e).symm
  · exact h1

end Sys2Proof.Machine
end

section
/-! SUPPORT. `fork` settled: what each of its two paths holds (O9). -/

namespace Sys2Proof.Machine

theorem Ctx.Jumped.congr {s : State} {c c' : Ctx} {i : Instr} {extra target target' : Nat} (h : c.Jumped s i extra target c') (ht : target = target') :
    c.Jumped s i extra target' c' := ht ▸ h

theorem State.path?_of_ctx {s : State} {r : PathRef} {c : Ctx} (h : s.ctx? r = some c) (e : Nat) :
    s.path? { r with path := e } = c.group.paths[e]? := by
  obtain ⟨-, hx, hy, hz, -, -⟩ := State.ctx?_parts h
  simp [State.path?, State.group?, State.block?, hx, hy, hz]

section
variable {s t : State} {c c' : Ctx} {i : Instr} {e r target n : Nat} {gen : BitVec 8} {moving : Lanes} {v : Word} {q : Path}

theorem State.ForkLeaves.jumped (h : s.ForkLeaves c i e r gen moving target n v t c' q) (hv : c.path.valid = true) :
    c.Jumped s i 2 ((c.path.pc + 4 * (c.path.count + 1)) % 2 ^ 64) c' := by
  obtain ⟨f, hf, hp⟩ := h.parent
  rw [← Nat.mod_mod]
  refine ⟨⟨?_, ?_⟩, ?_, ?_, ?_⟩ <;> rw [hp]
  · exact (hf.regs _).pc
  · exact (hf.regs _).idx
  · exact (hf.regs _).nextIssue
  · exact hf.pfx _
  · exact (hf.regs _).valid.trans hv

/-- The parent keeps the other lanes, and holds the token (R30). -/
theorem State.ForkLeaves.parent_holds (h : s.ForkLeaves c i e r gen moving target n v t c' q) :
    c'.path.member = c.path.member &&& ~~~moving ∧ c'.path.present = c.path.present &&& ~~~moving ∧
      c'.path.tokens = c.path.tokens ||| BitVec.ofNat 4 (2 ^ r) ∧ (n < 125 → c'.path.mask = c.path.mask &&& ~~~moving) := by
  obtain ⟨f, hf, hp⟩ := h.parent
  have hs := (hf.regs ((c.path.noteIssue (issueOf c i 2) s.cycle (s.owner c.launch.owner).free).forkParent r moving c.path.nextPc c.path.mask)).standing
  rw [← hp] at hs
  have hm := congrArg Path.member hs
  have hr := congrArg Path.present hs
  have ht := congrArg Path.tokens hs
  refine ⟨hm, hr, ht, fun hn => ?_⟩
  rw [hp]
  exact hf.mask hn _

/-- The child stands at the target with the moving lanes, as late as its parent (R30, R150). -/
theorem State.ForkLeaves.child_stands (h : s.ForkLeaves c i e r gen moving target n v t c' q) (hv : c.path.valid = true) :
    q.valid = true ∧ q.pc = target % 2 ^ 64 ∧ q.idx = 0 ∧ q.nextIssue = c'.path.nextIssue ∧ q.member = moving ∧ q.present = moving ∧
      q.tokens = c.path.tokens ||| BitVec.ofNat 4 (2 ^ r) ∧ q.status = c.path.status ∧ (n < 125 → q.mask = moving) := by
  obtain ⟨f, hf, hp⟩ := h.parent
  obtain ⟨fe, fs, hfe, hfs, hq⟩ := h.child
  let ch := (c.path.noteIssue (issueOf c i 2) s.cycle (s.owner c.launch.owner).free).forkChild r moving target
  have hall : ch.SameButRegs (fe (fs ch)) := (hfs.regs ch).trans (hfe.regs _)
  rw [← hq] at hall
  have hm := congrArg Path.member hall.standing
  have ht := congrArg Path.tokens hall.standing
  have hst := congrArg Path.status hall.standing
  refine ⟨hall.valid.trans hv, hall.pc, hall.idx, hall.nextIssue.trans ?_, hm, hall.present, ht, hst, fun hn => ?_⟩
  · rw [hp, (hf.regs _).nextIssue]
    rfl
  · rw [hq]
    exact (hfe.mask hn _).trans (hfs.mask _)

/-- The child's copies of its parent's own scalars (R30). -/
theorem State.ForkLeaves.child_priv (h : s.ForkLeaves c i e r gen moving target n v t c' q) {m : Nat} (hm : m ≠ n)
    (hu : ∀ u ∈ c.group.unseen, u.reg ≠ .scal m) : q.priv.get m = c.path.priv.get m := by
  obtain ⟨fe, fs, hfe, hfs, hq⟩ := h.child
  rw [hq]
  exact (hfe.priv _ m hm).trans (hfs.priv _ m hu)

end

/-- Settles O9, by the lanes that the fork moves: none or all, or some of them. -/
theorem fork : Obligations.Fork := by
  unfold Obligations.Fork
  refine ⟨fun s c st d a v h => ⟨execFork_noEntry h, execFork_noRecord h, fun e r he hr _ hm => ?_⟩,
    fun s c st d a v e r h he hr hel hek hstep h0 hm => ?_,
    fun s c st d a v e r h hstep he hr hrl hel hek h0 hm => ?_⟩
  · obtain ⟨c', h1, h2, h3, h4, h5, h6, h7, h8⟩ := h.forkWhole rfl
    refine ⟨_, c', execFork_whole h he hr hm, h1, h2, h3, h4, h5, h6, h7, fun h0 => ?_, fun h0 => ?_⟩
    · rw [if_neg (not_not_intro h0), if_neg (not_not_intro h0)] at h8
      exact h8.congr (Nat.mod_mod _ _)
    · rw [if_pos h0, if_pos h0] at h8
      exact h8.congr (c.path.target_mod v)
  · have hx := execFork_split h he hr h0 hm
    rw [hstep, State.stepChild, if_pos rfl] at hx
    obtain ⟨c', q, hf⟩ := h.forkSplit (r := r) (gen := c.forkGen r) (moving := s.forkMoves c a) (target := c.path.target v) (n := d.toNat - 0x40)
      (v := token (c.forkGen r) r) rfl hek hel
    have hq := (hf.child_stands (State.ctx?_parts h.ctx).2.2.2.2.2).1
    obtain ⟨-, hl, hb, hg, -, -⟩ := State.ctx?_parts hf.ctx
    have hstop := State.stopPath_stops (State.ctx?_of_parts (r := { c.ref with path := e }) hl hb hg hf.entry hq) 2 0
    obtain ⟨p, hp, hpv⟩ := hstop.there
    exact ⟨_, p, hx, hp, hpv⟩
  · have hx := execFork_split h he hr h0 hm
    rw [hstep, State.stepChild, if_neg nofun] at hx
    have hv := (State.ctx?_parts h.ctx).2.2.2.2.2
    obtain ⟨c', q, hf⟩ := h.forkSplit rfl hek hel
    obtain ⟨p1, p2, p3, p4⟩ := hf.parent_holds
    obtain ⟨q1, q2, q3, q4, q5, q6, q7, q8, q9⟩ := hf.child_stands hv
    exact ⟨_, c', q, hx, hf.ctx, (State.path?_of_ctx hf.ctx e).trans hf.entry, hf.elsewhere, hf.jumped hv, p1, p2, p3, q1,
      q2.trans (c.path.target_mod v), q3, q4, q5, q6, q7, q8, fun hd => ⟨p4 (by omega), q9 (by omega)⟩, fun n _ _ hn hu => hf.child_priv hn hu,
      hf.others, hf.standing, hf.token⟩

end Sys2Proof.Machine
end

section
/-! SUPPORT. Every instruction has a meaning: an event always, a word of a path that runs. -/

namespace Sys2Proof.Machine

/-- A word of the current path, where it runs. -/
theorem State.word_answers {s : State} (h : s.running?.isSome = true) (i : Instr) (eff : Ctx → State → State) : ∃ t, s.word i eff = .next t := by
  obtain ⟨c, hc⟩ := Option.isSome_iff_exists.mp h
  unfold State.word
  rw [hc]
  dsimp only
  split <;> exact ⟨_, rfl⟩

/-- A word of programs, or the trap of what is none. -/
def wordOfPath (i : Instr) : Prop := encode i ≠ [] ∨ ∃ d, i = .illegalInstruction d

theorem word_exec_answers {i : Instr} (hi : wordOfPath i) {s : State} (h : s.running?.isSome = true) : ∃ t, exec i s = .next t := by
  cases i with
  | add | sub | mul | mulh | div | rem | and | or | xor | shl | shr | sar | min | max | sel | cmp | mov | not | abs | neg | clz | popc | mmov |
  mnot | mpop | movk | mand | mor | mxor | mandn | bra | brz | brnz | call | fork | join | trip | nop | ret | exit | sleep | rdmode | wrmode |
  addVectorInt | subVectorInt | mulVectorInt | mulhVectorInt | divVectorInt | remVectorInt | andVector | orVector | xorVector | shlVector | shrVector
  | sarVector | minVectorInt | maxVectorInt | selVector | cmpVectorInt | movVector | notVector | absVectorInt | negVectorInt | clzVector | popcVector
  | addFloat | subFloat | mulFloat | fmaFloat | divFloat | sqrt | rsq | rcp | minFloat | maxFloat | cmpFloat | classify | absFloat | negFloat | addF64
  | subF64 | mulF64 | fmaF64 | shfl | bcast | matchKeys | redAdd | redMin | redMax | scanAdd | cvtF64 | cvtF32 | cvtF16 | cvtBf16 | cvtE4m3 | cvtE5m2
  | cvtL32 | cvtInt | cvtCode | cvtb | lnsmul | lnsdiv | lnsadd | lnsroot | lnspow | ld | gather | st | stStrong | scatter | atom | fence | barInit |
  barArrive | barArrivec | barWait | waita | mma | gang | opres | opready | oprel | mwait | accAlloc | accFree | accSt | accLd | cpyk | dzk | coll |
  wellAdd | wellTake | quiet | tlbw | tlbinv | orig | hret | trap | ctr | wspill => exact State.word_answers h _ _
  | pfx | illegalInstruction =>
    obtain ⟨c, hc⟩ := Option.isSome_iff_exists.mp h
    simp only [exec, execPfx, execIllegalInstruction, hc]
    exact ⟨_, rfl⟩
  | _ => exact (hi.elim (· rfl) fun ⟨_, h⟩ => nomatch h).elim

theorem event_answers {i : Instr} (hi : ¬wordOfPath i) (s : State) : ∃ t, exec i s = .next t := by
  cases i with
  | loadComplete | storePerformed | accLdComplete | originResume | rampSlotBoundary | governorHold | ballastIssue | governorLimitWrite | faultedBlock
  | contentionPreempt | meteringPeriodBoundary | issueThrottle | rsvtimeExhausted | bandwidthCapHold | throttlingVictim | correctedError |
  debugCmdStop | debugCmdResume | debugCmdStep | debugCmdStopMode | coldStart | ownerSetup | ownerReset | memberWithdrawn | migration | peerChunkRetry
  | attestationRequest | firmwareUpdate | hbmRowRemap | hbmChannelRetire | flitCrcRetry | pcieLinkDown | translationEntryDrop | dieCacheEviction |
  controlCorePowerGate | wakeFilterWrite => exact ⟨_, rfl⟩
  | sleepExpire | fenceFinish | barWaitFinish | exitBarrierTest | waitaFinish | mmaStart | mmaComplete | opresGrant | opreadyFinish | oprelFinish |
  accAllocGrant | engineChunkDone | engineRecordComplete | engineRecordFault | collectiveChunkReceive | collectiveComplete | blockEnd | wellAddRoom |
  quiescenceDeclared | pathHoldRelease | clauseWaitClear | windowRefill | windowSpill | groupEnd | handlerCollectorLaunch | notifyWrite |
  queueSlotBind | launchHeaderRead | dependenceMet | specialise | blockAdmit | blockPlace | launchComplete | preempt | watchdogExpire | sampleWrite |
  samplingSelectWrite | controlRegisterWrite | hostWindowRead | hostWindowWrite | poisonMark | debugStop | stopRecordDeferred | stepDone |
  replayDiverged | warmStart | queueSetup | communicatorFill | moduleRemoval | coreSpare | titeyxLaneSpare | titeyxPortFail | noPortReachesMember |
  cxlPortOutOfService | managementFrame | controlCoreWake | wellOpComplete | pcieLinkRetrained | msixVectorUnmask =>
    dsimp only [exec, execSleepExpire, execFenceFinish, execBarWaitFinish, execExitBarrierTest, execWaitaFinish, execMmaStart, execMmaComplete,
      execOpresGrant, execOpreadyFinish, execOprelFinish, execAccAllocGrant, execEngineChunkDone, execEngineRecordComplete, execEngineRecordFault,
      execCollectiveChunkReceive, execCollectiveComplete, execBlockEnd, execWellAddRoom, execQuiescenceDeclared, execPathHoldRelease,
      execClauseWaitClear, execWindowRefill, execWindowSpill, execGroupEnd, execHandlerCollectorLaunch, execNotifyWrite, execQueueSlotBind,
      execLaunchHeaderRead, execDependenceMet, execSpecialise, execBlockAdmit, execBlockPlace, execLaunchComplete, execPreempt, execWatchdogExpire,
      execSampleWrite, execSamplingSelectWrite, execControlRegisterWrite, execHostWindowRead, execHostWindowWrite, execPoisonMark, execDebugStop,
      execStopRecordDeferred, execStepDone, execReplayDiverged, execWarmStart, execQueueSetup, execCommunicatorFill, execModuleRemoval, execCoreSpare,
      execTiteyxLaneSpare, execTiteyxPortFail, execNoPortReachesMember, execCxlPortOutOfService, execManagementFrame, execControlCoreWake,
      execWellOpComplete, execPcieLinkRetrained, execMsixVectorUnmask]
    repeat' split
    all_goals exact ⟨_, rfl⟩
  | illegalInstruction d => exact absurd (.inr ⟨d, rfl⟩) hi
  | _ => exact absurd (.inl nofun) hi

end Sys2Proof.Machine
end

section
/-! SUPPORT. A path that faults at the header of its clause does not stand at a word afterwards. -/

namespace Sys2Proof.Machine

-- Short lemmas that cite each other: elaborated one after the other, they need no thread each.
set_option Elab.async false

/-- A live path before a clause that waits for its handler. -/
def Path.HeldAtHeader (p : Path) : Prop := p.valid = true → p.idx = 0 ∧ p.status = .waiting .handler

theorem Path.HeldAtHeader.ofPlace {p q : Path} (h : q.place = p.place) (hp : p.HeldAtHeader) : q.HeldAtHeader := by
  have hvalid : q.valid = p.valid := congrArg (·.1) h
  have hstatus : q.status = p.status := congrArg (·.2.1) h
  have hidx : q.idx = p.idx := congrArg (·.2.2.1) h
  intro hv
  obtain ⟨hi, hs⟩ := hp (hvalid ▸ hv)
  exact ⟨hidx.trans hi, hstatus.trans hs⟩

theorem Path.HeldAtHeader.pass {p : Path} (hp : p.HeldAtHeader) (h : p.endsAside) : Path.HeldAtHeader { p.advance p.rawSpan with status := .ready } := by
  intro hv
  have hv' : p.valid = true := by
    rw [← hv]
    unfold Path.advance
    dsimp only
    split <;> rfl
  obtain ⟨d, hq⟩ | ⟨lo, n, areas, hq⟩ := h
  · cases (hp hv').2.symm.trans hq
  · cases (hp hv').2.symm.trans hq

theorem Path.HeldAtHeader.preempted {p : Path} (hp : p.HeldAtHeader) : p.preempted.HeldAtHeader := by
  unfold Path.preempted
  split
  · exact fun hv => absurd (hp hv).2 (by rw [‹p.status = _›]; nofun)
  · exact fun hv => absurd (hp hv).2 (by rw [‹p.status = _›]; nofun)
  · exact hp

/-- No live path stands at a reference, or one before a clause that waits for its handler. -/
def State.HeldAtHeader (r : PathRef) : State → Prop := State.At r True Path.HeldAtHeader

theorem State.HeldAtHeader.wide (r : PathRef) : State.WideFrame (State.HeldAtHeader r) :=
  .at r True (fun _ _ h hp => hp.ofPlace h) (fun _ hp h => hp.pass h) fun _ hp => hp.preempted

theorem State.heldAtHeader_iff {r : PathRef} {s : State} : State.HeldAtHeader r s ↔ ∀ p, s.path? r = some p → p.HeldAtHeader := by
  unfold State.HeldAtHeader State.At
  cases s.path? r <;> simp

theorem State.path?_eq_launch (s : State) (r : PathRef) : s.path? r =
    (s.launch? r.launch).bind fun x => (x.block? r.block).bind fun y => (y.group? r.group).bind fun z => z.paths[r.path]? := by
  simp [State.path?, State.group?, State.block?, Option.bind_assoc]

/-- The paths of an ended launch are dead. -/
theorem Launch.kill_path {x : Launch} {b g k : Nat} {p : Path}
    (h : ((x.kill.block? b).bind fun y => (y.group? g).bind fun z => z.paths[k]?) = some p) : p.valid = false := by
  obtain ⟨y, hy, h⟩ := Option.bind_eq_some_iff.mp h
  obtain ⟨z, hz, hp⟩ := Option.bind_eq_some_iff.mp h
  obtain ⟨y', -, rfl⟩ := List.mem_map.mp (List.mem_of_find?_eq_some hy)
  obtain ⟨z', -, rfl⟩ := List.mem_map.mp (List.mem_of_find?_eq_some hz)
  simp only [List.getElem?_map, Option.map_eq_some_iff] at hp
  obtain ⟨q, -, rfl⟩ := hp
  rfl

theorem State.HeldAtHeader.killed {r : PathRef} {s : State} (h : State.HeldAtHeader r s) (P : Launch → Prop) [DecidablePred P] :
    State.HeldAtHeader r { s with launches := s.launches.map fun x => if P x then x.kill else x } := by
  rw [State.heldAtHeader_iff] at *
  intro p hp
  have hl : State.launch? { s with launches := s.launches.map fun x => if P x then x.kill else x } r.launch =
      (s.launch? r.launch).map fun x => if P x then x.kill else x := by
    unfold State.launch?
    rw [List.find?_map]
    congr 2
    funext x
    simp only [Function.comp]
    split <;> rfl
  rw [State.path?_eq_launch, hl] at hp
  obtain ⟨x, hx, hp⟩ := Option.bind_eq_some_iff.mp hp
  obtain ⟨x', hx', rfl⟩ := Option.map_eq_some_iff.mp hx
  split at hp
  · intro hv
    rw [Launch.kill_path hp] at hv
    cases hv
  · refine h p ?_
    rw [State.path?_eq_launch, hx']
    exact hp

theorem State.HeldAtHeader.stopOwner {r : PathRef} {s : State} (h : State.HeldAtHeader r s) {o tag detail imageid} :
    State.HeldAtHeader r (s.stopOwner o tag detail imageid) := (wide r).stopOwner h (h.killed _)

/-! ### Lanes that leave -/

/-- The entry `k` of a path table holds no live path. -/
def Group.Lacks (z : Group) (k : Nat) : Prop := ∀ p, z.paths[k]? = some p → p.valid = false

theorem Group.dropPath_lacks (z : Group) (k : Nat) : (z.dropPath k).Lacks k := by
  intro p hp
  unfold Group.dropPath at hp
  rw [List.getElem?_set_self'] at hp
  obtain ⟨q, -, rfl⟩ := Option.map_eq_some_iff.mp hp
  rfl

namespace Group.Lacks
variable {z : Group} {k : Nat}

theorem dropPath (h : z.Lacks k) (j : Nat) : (z.dropPath j).Lacks k := by
  by_cases hj : j = k
  · exact hj ▸ z.dropPath_lacks j
  · intro p hp
    unfold Group.dropPath at hp
    rw [List.getElem?_set_ne hj] at hp
    exact h p hp

theorem updPath (h : z.Lacks k) (j : Nat) {f : Path → Path} (hf : ∀ p : Path, (f p).valid = p.valid) : (z.updPath j f).Lacks k := by
  intro p hp
  simp only [Group.updPath, List.getElem?_modify] at hp
  obtain ⟨q, hq, rfl⟩ := Option.map_eq_some_iff.mp hp
  split
  · exact (hf q).trans (h q hq)
  · exact h q hq

theorem freeJoin (h : z.Lacks k) (r : Nat) : (z.freeJoin r).Lacks k := h

theorem merge (h : z.Lacks k) (r t : Nat) : (z.merge r t).Lacks k := by
  unfold Group.merge
  dsimp only
  split
  · exact h
  · refine freeJoin (List.foldlRecOn (motive := fun y : Group => y.Lacks k) _ _ (h.updPath _ fun p => ?_) fun y hy j _ => hy.dropPath j) r
    unfold Path.advance
    dsimp only
    split <;> rfl

theorem settle (h : z.Lacks k) (t : Nat) : (z.settle t).Lacks k := by
  refine List.foldlRecOn (motive := fun y : Group => y.Lacks k) _ _ h fun y hy _ _ => ?_
  refine List.foldlRecOn (motive := fun y : Group => y.Lacks k) _ _ hy fun w hw r _ => ?_
  split
  · exact hw.merge r t
  · split
    · exact hw.freeJoin r
    · exact hw

end Group.Lacks

theorem Group.vacate_lacks (z : Group) (k : Nat) : (z.vacate k).Lacks k := by
  unfold Group.vacate
  dsimp only
  split
  · exact z.dropPath_lacks k
  · exact (z.dropPath_lacks k).updPath _ fun _ => rfl

/-- A group and its path, less the lanes that leave (R158). -/
def Group.thinned (k : Nat) (gone : Lanes) (z : Group) : Group :=
  let z := z.updPath k fun p => { p with present := p.present &&& ~~~gone, mask := p.mask &&& ~~~gone }
  { z with items := z.items &&& ~~~gone, tags := z.tags.filter fun t => !laneOn gone t.lane }

/-- What the leaving of lanes does to their group, joins included (R158). -/
def Group.without (k : Nat) (gone : Lanes) (t : Nat) (z : Group) : Group :=
  let y := (if ((z.thinned k gone).paths.getD k Path.dead).present = 0 then (z.thinned k gone).vacate k else z.thinned k gone).settle t
  { y with done := y.paths.all fun p => p.present == 0 }

theorem Group.merge_index (z : Group) (r t : Nat) : (z.merge r t).index = z.index := by
  unfold Group.merge
  dsimp only
  split
  · rfl
  · exact List.foldlRecOn (motive := fun y : Group => y.index = z.index) _ _ rfl fun y hy j _ => hy

theorem Group.settle_index (z : Group) (t : Nat) : (z.settle t).index = z.index := by
  refine List.foldlRecOn (motive := fun y : Group => y.index = z.index) _ _ rfl fun y hy _ _ => ?_
  refine List.foldlRecOn (motive := fun y : Group => y.index = z.index) _ _ hy fun w hw r _ => ?_
  split
  · exact (w.merge_index r t).trans hw
  · split
    · exact hw
    · exact hw

theorem Group.vacate_index (z : Group) (k : Nat) : (z.vacate k).index = z.index := by
  unfold Group.vacate
  dsimp only
  split <;> rfl

theorem Group.without_paths (k : Nat) (gone : Lanes) (t : Nat) (z : Group) : (z.without k gone t).paths =
    ((if ((z.thinned k gone).paths.getD k Path.dead).present = 0 then (z.thinned k gone).vacate k else z.thinned k gone).settle t).paths := by
  dsimp only [Group.without]

theorem Group.without_index (k : Nat) (gone : Lanes) (t : Nat) (z : Group) : (z.without k gone t).index = z.index := by
  unfold Group.without
  dsimp only
  rw [Group.settle_index]
  split
  · exact Group.vacate_index _ k
  · rfl

theorem Group.without_lacks {k : Nat} {gone : Lanes} {z : Group} {p : Path} (hp : z.paths[k]? = some p) (hg : p.present &&& ~~~gone = 0) (t : Nat) :
    (z.without k gone t).Lacks k := by
  have hz : ((z.thinned k gone).paths.getD k Path.dead).present = 0 := by
    rw [List.getD_eq_getElem?_getD, Group.thinned, Group.updPath_at hp]
    exact hg
  intro q hq
  rw [Group.without_paths, if_pos hz] at hq
  exact (Group.vacate_lacks (z.thinned k gone) k).settle t q hq

/-- Lanes leave a state in which the groups are as they were. -/
theorem State.leave_eq (s : State) (c : Ctx) (gone : Lanes) :
    ∃ u : State, (∀ l b g, u.group? l b g = s.group? l b g) ∧ s.leave c gone = u.updPathGroup c.ref (Group.without c.ref.path gone u.cycle) := by
  unfold State.leave
  extract_lets late s1 s2
  refine ⟨s2, fun l b g => ?_, rfl⟩
  have hs1 : s1.group? l b g = s.group? l b g := by
    unfold s1
    cases late with
    | nil => rfl
    | cons a _ =>
      refine State.group?_updBlock s _ _ _ ?_ ?_ _ _ _
      · exact fun _ => rfl
      · exact fun _ => rfl
  refine (State.group?_updBlock s1 _ _ _ ?_ ?_ _ _ _).trans hs1
  · exact fun _ => rfl
  · exact fun _ => rfl

theorem State.path?_updPathGroup (s : State) (r : PathRef) {f : Group → Group} (hf : ∀ z : Group, (f z).index = z.index) :
    (s.updPathGroup r f).path? r = (s.group? r.launch r.block r.group).bind fun z => (f z).paths[r.path]? := by
  rw [State.updPathGroup, State.path?, State.group?_updGroup _ _ _ _ _ hf]
  cases s.group? r.launch r.block r.group <;> simp

/-- A path whose last lanes leave is no longer in the table (R158). -/
theorem State.leave_lacks {s : State} {c : Ctx} {q : Path} {gone : Lanes} (hq : s.path? c.ref = some q) (hg : q.present &&& ~~~gone = 0) :
    ∀ p, (s.leave c gone).path? c.ref = some p → p.valid = false := by
  obtain ⟨z, hz, hzq⟩ := Option.bind_eq_some_iff.mp hq
  obtain ⟨u, hu, he⟩ := s.leave_eq c gone
  intro p hp
  rw [he, State.path?_updPathGroup u c.ref (Group.without_index _ _ _), hu, hz, Option.bind_some] at hp
  exact Group.without_lacks hzq hg u.cycle p hp

/-! ### The fault of a path -/

namespace State.HeldAtHeader
variable {s : State} {r : PathRef}

theorem leave {c : Ctx} {q : Path} {gone : Lanes} (hq : s.path? c.ref = some q) (hg : q.present &&& ~~~gone = 0) :
    State.HeldAtHeader c.ref (s.leave c gone) :=
  State.heldAtHeader_iff.mpr fun p hp hv => by
    rw [State.leave_lacks hq hg p hp] at hv
    cases hv

theorem originOf {c : Ctx} (h : State.HeldAtHeader c.ref s) {src lane f completed mark} :
    State.HeldAtHeader c.ref (s.originOf c src lane (BitVec.allOnes 96) f completed mark) := by
  unfold State.originOf
  extract_lets tag add
  have hadd : ∀ unit, State.HeldAtHeader c.ref (add unit) := fun unit => (wide c.ref).toFrame.collect h
  split
  · cases hd : s.ctx? c.ref with
    | none => exact h
    | some d =>
      have hr : d.ref = c.ref := (State.ctx?_parts hd).1
      have hp := State.path?_of_ctx? hd
      rw [← hr] at hp ⊢
      refine leave (c := { d with path := { d.path with pc := c.path.pc, idx := c.path.idx } }) hp ?_
      rw [BitVec.allOnes_and, BitVec.and_not_self]
  · split
    · split
      · exact (hadd _).stopOwner
      · exact hadd _
    · exact hadd _

theorem faulted {c : Ctx} {p : Path} (hp : s.path? c.ref = some p) (hi : p.idx = 0) (completed : Bool) :
    State.HeldAtHeader c.ref (s.faulted c completed) := by
  obtain ⟨z, hz, hzp⟩ := Option.bind_eq_some_iff.mp hp
  refine State.heldAtHeader_iff.mpr fun q hq _ => ?_
  rw [State.faulted, State.path?_updPathGroup _ _ ?_, hz, Option.bind_some, Group.updPath_at (z := z.settled c.ref.path) hzp] at hq
  · cases hq
    exact ⟨hi, rfl⟩
  · exact fun _ => rfl

end State.HeldAtHeader

theorem Path.resume_idx {p : Path} (h : p.idx = 0) : p.resume.idx = 0 := by
  unfold Path.resume
  split
  · exact h
  split
  · exact h
  rfl

theorem Path.resume_valid (p : Path) : p.resume.valid = p.valid := by
  unfold Path.resume Path.advance
  split
  · rfl
  split
  · rfl
  split
  · rfl
  · dsimp only
    split <;> rfl

/-- A path that faults before its clause stands at no word of it, if it is still there. -/
theorem State.faultPath_idx {s : State} {c d : Ctx} {p : Path} {f : FaultCase} {completed : Bool} (hp : s.path? c.ref = some p) (hi : p.idx = 0)
    (hd : (s.faultPath c f completed).ctx? c.ref = some d) : d.path.idx = 0 := by
  have hq := State.path?_of_ctx? hd
  have hv := (State.ctx?_parts hd).2.2.2.2.2
  unfold State.faultPath at hq
  extract_lets s1 lane mark gone s2 at hq
  have h2 : State.HeldAtHeader c.ref s2 := (State.HeldAtHeader.faulted hp hi completed).originOf
  have h3 : State.HeldAtHeader c.ref (if gone then s2.reportNone c lane f else s2) := ite_keeps ((State.HeldAtHeader.wide c.ref).toFrame.report h2) h2
  generalize (if gone then s2.reportNone c lane f else s2) = s3 at h3 hq
  rw [State.heldAtHeader_iff] at h3
  unfold State.resumePath at hq
  split at hq
  · split at hq
    · rw [State.path?_updPath] at hq
      obtain ⟨q, hq, he⟩ := Option.map_eq_some_iff.mp hq
      rw [if_pos rfl] at he
      rw [← he] at hv ⊢
      exact Path.resume_idx (h3 q hq (q.resume_valid.symm.trans hv)).1
    · exact (h3 _ hq hv).1
  · exact (h3 _ hq hv).1

end Sys2Proof.Machine
end

section
/-! SUPPORT. What decodes is a word. -/

namespace Sys2Proof.Machine

/-- A decoder's answer spells an instruction that has words, or names none. -/
def spellsWord : Except Reject Instr → Prop
  | .ok i | .error (.mustBeZero i) | .error (.reservedField i) => encode i ≠ []
  | _ => True

theorem spellsWord_ok (i : Instr) : spellsWord (.ok i) ↔ encode i ≠ [] := Iff.rfl

theorem spellsWord_unassigned : spellsWord (.error .unassigned) ↔ True := Iff.rfl

theorem spellsWord_reservedSub : spellsWord (.error .reservedSub) ↔ True := Iff.rfl

theorem spellsWord_zeros (zs : List Nat) (i : Instr) : spellsWord (zeros zs i) ↔ encode i ≠ [] := by
  unfold zeros
  split
  · exact Iff.rfl
  · exact Iff.rfl

theorem spellsWord_reserved (r : Nat) (i : Instr) : spellsWord (reserved r i) ↔ encode i ≠ [] := by
  unfold reserved
  split
  · exact Iff.rfl
  · exact Iff.rfl

theorem decodeWord_spellsWord (w x : Word) : spellsWord (decodeWord w x) := by
  unfold decodeWord
  repeat' split
  all_goals simp only [spellsWord_ok, spellsWord_unassigned, spellsWord_reservedSub, spellsWord_zeros, spellsWord_reserved]
  all_goals exact List.cons_ne_nil _ _

theorem encode_ne_nil_of_decodeWord {w x : Word} {i : Instr} (h : decodeWord w x = .ok i) : encode i ≠ [] := by
  have hs := decodeWord_spellsWord w x
  rwa [h] at hs

theorem prefixed_word {w v x : Word} {i : Instr} (h : (prefixed w v x).word = .ok i) : encode i ≠ [] := by
  unfold prefixed at h
  dsimp only at h
  split at h
  · cases h
  · split at h
    · cases h
    next j hj =>
      split at h
      · cases h
      · cases h
        exact encode_ne_nil_of_decodeWord hj

theorem hereAt_word {ws : List Word} {k : Nat} {i : Instr} (h : (hereAt ws k).word = .ok i) : encode i ≠ [] := by
  unfold hereAt at h
  dsimp only at h
  split at h
  · exact prefixed_word h
  · split at h
    · cases h
    next j hj =>
      cases h
      exact encode_ne_nil_of_decodeWord hj

/-- What stands at a path's place is a word, or runs as the trap of what is none. -/
theorem Path.here_wordOfPath (p : Path) : wordOfPath p.here.instr := by
  unfold Here.instr
  cases h : p.here.word with
  | ok i => exact .inl (hereAt_word h)
  | error d => exact .inr ⟨d, rfl⟩

end Sys2Proof.Machine
end

section
/-! SUPPORT. The turn of a path answers an instruction that has a meaning, or none. -/

namespace Sys2Proof.Machine

set_option Elab.async false

theorem State.path?_updPath_same {s : State} {r : PathRef} {p : Path} (h : s.path? r = some p) (f : Path → Path) :
    (s.updPath r f).path? r = some (f p) := by
  rw [State.path?_updPath, h, Option.map_some, if_pos rfl]

/-- A path that comes to wait for its clause stands where it stood. -/
theorem State.awaitClause_idx {s : State} {r : PathRef} {p d : Path} (hp : s.path? r = some p)
    (hd : (s.setStatus r (.waiting .clause)).path? r = some d) : d.idx = p.idx := by
  obtain ⟨z, hz, hzp⟩ := Option.bind_eq_some_iff.mp hp
  have he : s.setStatus r (.waiting .clause) = s.updPathGroup r fun z => (z.settled r.path).updPath r.path fun p => { p with status := .waiting .clause } :=
    rfl
  rw [he, State.path?_updPathGroup _ _ ?_, hz, Option.bind_some, Group.updPath_at (z := z.settled r.path) hzp, Option.some.injEq] at hd
  · exact (congrArg Path.idx hd).symm
  · exact fun _ => rfl

theorem State.chargeCode_launches (s : State) (o va n : Nat) : (s.chargeCode o va n).launches = s.launches ∧ (s.chargeCode o va n).cur = s.cur := by
  unfold State.chargeCode
  split
  · exact ⟨rfl, rfl⟩
  · exact ⟨rfl, rfl⟩

/-- A path that has begun its clause stands where it stood; one that has not stands at no word. -/
theorem State.beginClause_begun {s : State} {c d : Ctx} (hc : s.ctx? c.ref = some c) (h0 : c.path.idx = 0)
    (hd : (s.beginClause c).ctx? c.ref = some d) (hi : d.path.idx ≠ 0) :
    d.block.cluster = c.block.cluster ∧ (s.beginClause c).cur = s.cur := by
  have hp := State.path?_of_ctx? hc
  unfold State.beginClause at hd ⊢
  by_cases hcap : c.path.fetched = [] ∧ s.pumpHeld c.launch = true
  · rw [if_pos hcap] at hd
    have hq := State.path?_of_ctx? hd
    rw [State.heldByCap, State.path?_updPath_same hp, Option.some.injEq] at hq
    exact absurd ((congrArg Path.idx hq).symm.trans h0) hi
  rw [if_neg hcap] at hd ⊢
  cases hws : (if c.path.fetched = [] then s.fetchClause c else .ok c.path.fetched) with
  | error f =>
    rw [hws] at hd
    exact absurd (State.faultPath_idx hp h0 hd) hi
  | ok ws =>
    rw [hws] at hd
    dsimp only at hd ⊢
    generalize hs1 : (if c.path.fetched = [] then s.chargeCode c.launch.owner c.path.pc (4 * ws.length) else s) = s1 at hd ⊢
    have h1 : s1.launches = s.launches ∧ s1.cur = s.cur := by
      rw [← hs1]
      split
      · exact s.chargeCode_launches ..
      · exact ⟨rfl, rfl⟩
    have hc1 : s1.ctx? c.ref = some c := (State.ctx?_congr h1.1 _).trans hc
    have hc2 := State.ctx?_updPath hc1 (fun p => { p with fetched := ws }) (State.ctx?_parts hc).2.2.2.2.2
    have hp2 := State.path?_of_ctx? hc2
    cases hdet : clauseDetail (ws.headD 0).toNat ws.tail with
    | some e =>
      rw [hdet] at hd
      exact absurd (State.faultPath_idx (c := { c with path := { c.path with fetched := ws } }) hp2 h0 hd) hi
    | none =>
      rw [hdet] at hd
      dsimp only at hd ⊢
      split at hd
      next hw =>
        rw [if_pos hw]
        refine ⟨?_, h1.2⟩
        have hp' := (State.ctx?_parts hc2).2.2.2.2.1
        have hc3 := State.ctx?_updPathGroup hc2 (fun z => (z.waitSeen (ws.headD 0).toNat).updPath c.ref.path fun p => { p with idx := 1 })
          (fun _ hz => hz) (Group.updPath_at hp' fun p => { p with idx := 1 }) (State.ctx?_parts hc).2.2.2.2.2
        cases hd.symm.trans hc3
        rfl
      · exact absurd ((State.awaitClause_idx hp2 (State.path?_of_ctx? hd)).trans h0) hi

theorem State.chargeTest_launches (s : State) (c : Ctx) : (s.chargeTest c).launches = s.launches ∧ (s.chargeTest c).cur = s.cur := by
  have hcharge : ∀ o va n, (s.chargeVirt o va n).launches = s.launches ∧ (s.chargeVirt o va n).cur = s.cur := fun o va n =>
    foldl_keeps (P := fun u => u.launches = s.launches ∧ u.cur = s.cur) ⟨rfl, rfl⟩ fun h => by split; exacts [h, h]
  unfold State.chargeTest State.chargeWindow
  dsimp only
  split
  · exact ⟨rfl, rfl⟩
  · split
    · exact ⟨rfl, rfl⟩
    · exact hcharge ..

/-- What a move answers has a meaning in the state that the move reaches. -/
def Answers (m : State × Option Instr) : Prop := ∀ i, m.2 = some i → ∃ t, exec i m.1 = .next t

theorem Answers.none (s : State) : Answers (s, .none) := fun i (h : .none = some i) => by cases h

theorem not_wordOfPath {i : Instr} (he : encode i = []) (hne : ∀ d, i ≠ .illegalInstruction d) : ¬wordOfPath i :=
  fun hw => hw.elim (· he) fun ⟨d, hd⟩ => hne d hd

theorem Answers.event (s : State) {i : Instr} (h : ¬wordOfPath i) : Answers (s, some i) := fun _ e => by
  cases e
  exact event_answers h s

theorem State.running?_isSome {s : State} {c : Ctx} (h : s.ctx? s.cur = some c) (hk : c.block.cluster.isSome = true) : s.running?.isSome = true := by
  unfold State.running?
  rw [h]
  dsimp only
  rw [if_pos hk]
  rfl

theorem State.pickWord_answers {s : State} {c : Ctx} (hc : s.ctx? s.cur = some c) (hk : c.block.cluster.isSome = true) : Answers (s.pickWord c) := by
  unfold State.pickWord
  split
  · exact .event _ (not_wordOfPath rfl nofun)
  · dsimp only
    split
    · exact .event _ (not_wordOfPath rfl nofun)
    · intro i hi
      cases hi
      obtain ⟨hl, hcur⟩ := s.chargeTest_launches c
      obtain ⟨hr, -, -, -, -, hv⟩ := State.ctx?_parts hc
      have hc1 : (s.chargeTest c).ctx? c.ref = some c := by rw [State.ctx?_congr hl, hr, hc]
      have hc2 := State.ctx?_updPath hc1 (fun p => { p with pfx := c.path.here.pfx }) hv
      refine word_exec_answers c.path.here_wordOfPath (State.running?_isSome
        (c := c.withGroup (fun z => z.updPath c.ref.path fun p => { p with pfx := c.path.here.pfx }) { c.path with pfx := c.path.here.pfx }) ?_ hk)
      rw [← hc2]
      exact congrArg _ (hcur.trans hr.symm)

theorem State.takeTurn_answers {s : State} {r : PathRef} (hr : s.cur = r) : Answers (s.takeTurn r) := by
  subst hr
  unfold State.takeTurn
  split
  · exact .none _
  next c hc =>
  split
  · exact .none _
  next hoff =>
  have hk : c.block.cluster.isSome = true := by
    simp only [State.offered, State.couldIssue, State.wouldIssue, Bool.not_eq_true', Bool.not_eq_false, Bool.and_eq_true] at hoff
    exact hoff.1.1.1.1.1.1.1.1.1
  split
  · exact .event _ (not_wordOfPath rfl nofun)
  · dsimp only
    split
    · exact .none _
    next d hd =>
    split
    next hready =>
      have hi : d.path.idx ≠ 0 := by simpa using (Bool.and_eq_true_iff.mp hready).2
      have href := (State.ctx?_parts hc).1
      by_cases h0 : c.path.idx = 0
      · rw [if_pos h0] at hd ⊢
        rw [← href] at hc hd
        obtain ⟨hcl, hcur⟩ := State.beginClause_begun hc h0 hd hi
        exact State.pickWord_answers (by rw [hcur, ← href, hd]) (hcl ▸ hk)
      · rw [if_neg h0] at hd ⊢
        cases hc.symm.trans hd
        exact State.pickWord_answers hc hk
    · exact .none _

theorem State.turn_answers (s : State) (r : PathRef) (dt : Nat) : Answers (s.turn r dt) := State.takeTurn_answers rfl

theorem eventInstr_eq {e i : Instr} (h : eventInstr e = some i) : i = e ∧ ¬wordOfPath e := by
  unfold eventInstr at h
  split at h
  · cases h
  next hne =>
    split at h
    next he =>
      cases h
      exact ⟨rfl, not_wordOfPath he hne⟩
    · cases h

theorem eventInstr_event {e : Instr} (he : encode e = []) (hne : ∀ d, e ≠ .illegalInstruction d) : eventInstr e = some e := by
  unfold eventInstr
  split
  next d => exact absurd rfl (hne d)
  · exact if_pos he

theorem State.nextMove_answers (s : State) : Answers s.nextMove := by
  unfold State.nextMove
  split
  · exact s.turn_answers _ _
  · exact State.turn_answers _ _ _
  next dt e rest =>
    intro i hi
    obtain ⟨rfl, hw⟩ := eventInstr_eq hi
    exact event_answers hw _

theorem step_answers (s : State) : ∃ t, step s = .next t := by
  unfold step
  split
  next t i h =>
    have ha := s.nextMove_answers
    rw [h] at ha
    exact ha i rfl
  next t h => exact ⟨t, rfl⟩

end Sys2Proof.Machine
end

section
/-! SUPPORT. Every step answers a next state, and turns follow R287 (O23). -/

namespace Sys2Proof.Machine

theorem State.ctx?_keys {s : State} {r : PathRef} {c : Ctx} (h : s.ctx? r = some c) :
    c.launch.seq = r.launch ∧ c.block.index = r.block ∧ c.group.index = r.group := by
  obtain ⟨-, hx, hy, hz, -, -⟩ := State.ctx?_parts h
  exact ⟨by simpa using List.find?_some hx, by simpa using List.find?_some hy, by simpa using List.find?_some hz⟩

/-- A live path of a resident group of a core is one of the core's paths. -/
theorem State.mem_pathsOn {s : State} {d : Ctx} {core : Nat} (hd : s.ctx? d.ref = some d) (h4 : d.ref.path < 4)
    (hg : (d.launch, d.block, d.group) ∈ s.groupsOn core) : d ∈ s.pathsOn core := by
  obtain ⟨-, -, -, -, hp, hv⟩ := State.ctx?_parts hd
  obtain ⟨hl, hb, hz⟩ := State.ctx?_keys hd
  refine List.mem_flatMap.mpr ⟨_, hg, List.mem_filterMap.mpr ⟨d.ref, ?_, hd⟩⟩
  refine List.mem_filterMap.mpr ⟨d.ref.path, List.mem_range.mpr h4, ?_⟩
  simp [hp, hv, hl, hb, hz]

/-- A path is not offered issue while one whose turn comes before could issue. -/
theorem State.not_offered_of_before {s : State} {c d : Ctx} (hd : d ∈ s.pathsOn c.group.core) (hb : s.before d c = true)
    (hi : s.couldIssue d = true) : s.offered c = false := by
  have : (s.pathsOn c.group.core).any (fun d => s.before d c && s.couldIssue d) = true :=
    List.any_eq_true.mpr ⟨d, hd, by simp [hb, hi]⟩
  simp [State.offered, this]

/-- In one owner a handler's group comes before another launch's (rank 3 of R287). -/
theorem State.before_of_handler {s : State} {c d : Ctx} (ho : d.launch.owner = c.launch.owner) (hd : d.launch.handler.isSome = true)
    (hc : c.launch.handler = none) (hl : d.ref.launch ≠ c.ref.launch) : s.before d c = true := by
  simp [State.before, hl, ho, hd, hc]

/-- Of two owners the one that has issued less of its allotment comes first (rank 4 of R287). -/
theorem State.before_of_owner {s : State} {c d : Ctx} (ho : d.launch.owner ≠ c.launch.owner) (hl : d.ref.launch ≠ c.ref.launch)
    (h : (s.owner d.launch.owner).periodIssued * (s.owner c.launch.owner).record.issuew <
      (s.owner c.launch.owner).periodIssued * (s.owner d.launch.owner).record.issuew) : s.before d c = true := by
  simp [State.before, hl, ho, State.ownerBefore, h]

/-- In groups of one rank the one whose last issue is older comes first (rank 5 of R287). -/
theorem State.before_of_lastIssue {s : State} {c d : Ctx} (ho : d.launch.owner = c.launch.owner)
    (hh : d.launch.handler.isSome = c.launch.handler.isSome)
    (hg : ¬(d.ref.launch = c.ref.launch ∧ d.ref.block = c.ref.block ∧ d.ref.group = c.ref.group)) (hd : d.group.cWords ≠ 0) (hc : c.group.cWords ≠ 0)
    (h : d.group.lastIssue < c.group.lastIssue) : s.before d c = true := by
  simp [State.before, hg, ho, hh, Ctx.turnKey, hd, hc, lexLt, h]

/-- A word with beats is not offered issue while four paths of its core hold the pipes (R286). -/
theorem State.not_offered_of_pipes {s : State} {c : Ctx} (hb : (s.nextIssueOf c).beats ≠ 0) (hp : 4 ≤ s.pipesHeld c.group.core) : s.offered c = false := by
  have : s.hasPlace c.group.core (s.nextIssueOf c) = false := by
    rw [State.hasPlace, if_neg hb]
    exact decide_eq_false (Nat.not_lt.mpr hp)
  simp [State.offered, State.couldIssue, this]

/-- An event of the agenda happens after its cycles. -/
theorem step_event {s : State} {dt : Nat} {e : Instr} {rest : List Move} (ha : s.agenda = .event dt e :: rest) (he : encode e = [])
    (hne : ∀ d, e ≠ .illegalInstruction d) : step s = exec e (State.openFor (State.advance { s with agenda := rest } dt) e) := by
  unfold step State.nextMove
  rw [ha]
  dsimp only
  rw [eventInstr_event he hne]

/-- Settles O23: a word is offered only from a path that runs, and stays so once its clause has begun; the turns are the cases of `before`. -/
theorem stepAnswers : Obligations.StepAnswers := by
  unfold Obligations.StepAnswers
  refine ⟨step_answers, fun s dt e rest => step_event, fun s c d hd _ h4 _ hg hi h => ?_, fun s c => State.not_offered_of_pipes⟩
  refine State.not_offered_of_before (State.mem_pathsOn hd h4 hg) ?_ hi
  obtain ⟨ho, hd, hc, hl⟩ | ⟨ho, hl, h⟩ | ⟨ho, hh, hg, hd, hc, h⟩ := h
  · exact State.before_of_handler ho hd hc hl
  · exact State.before_of_owner ho hl h
  · exact State.before_of_lastIssue ho hh hg hd hc h

end Sys2Proof.Machine
end

section
/-! SUPPORT. A `well.take` whose items lie outside the 96 lanes of a group: its high words and its low words meet in the operand file (O44). -/

namespace Sys2Proof.Machine

/-- A `well.take` of one path that hands an item to lane 0 and one to a lane number that no group has, with `o0` and `o1` as its destination. -/
def takePastLanes : Op where
  id := 0
  kind := .wellTake
  path := ⟨0, 0, 0, 0⟩
  owner := 0
  core := 0
  sb := 0
  issued := 0
  sp := false
  scope := 0
  width := 8
  ty := 0
  aop := 32
  lanes := []
  fixed := [(0, 0x100000000), (96, 0)]
  dest := some (.oper 0)
  pair := true
  zeroed := 0
  uniform := false
  tile := 0
  form := 0
  after := []
  preds := []
  horizon := 0
  logAt := none
  toFlags := 0

/-- One resident group, after a cold start, with that operation in flight. -/
def takingPastLanes : State := { State.reset with launches := [placedLaunch 0], ops := [takePastLanes], nextId := 1 }

/-- The block of that group. -/
def blockPastLanes : Block := { Block.fresh 0 with cluster := some 0, groups := [placedGroup] }

theorem takingPastLanes_resident : takingPastLanes.Resident takePastLanes.path blockPastLanes placedGroup :=
  ⟨rfl, rfl, rfl, rfl, rfl⟩

theorem takingPastLanes_ready : takingPastLanes.opReady takePastLanes = true := by decide +kernel

theorem takingPastLanes_completes :
    exec (.wellOpComplete takePastLanes.id) takingPastLanes = .next (takingPastLanes.completeOp takePastLanes) := by
  have hfind : takingPastLanes.ops.find? (fun o => o.id == takePastLanes.id && (o.kind == .wellAdd || o.kind == .wellTake)) = some takePastLanes := by
    decide +kernel
  change execWellOpComplete takePastLanes.id takingPastLanes = _
  unfold execWellOpComplete
  rw [hfind]
  dsimp only
  rw [if_pos takingPastLanes_ready]

/-- The low word of lane number 96 of `o0` lies where lane 0 of `o1` does, and it is written last: the high word of lane 0's item is lost. -/
theorem takingPastLanes_loses_high_word :
    ((takingPastLanes.completeOp takePastLanes).group? takePastLanes.path.launch takePastLanes.path.block takePastLanes.path.group).map
      (fun z => z.getReg 0 0 0 (.oper 1) 0) = some 0 := by decide +kernel

/-- Refutes O44: the last clause bounds by 96 the lane that is read, and not the others that receive an item. Lane number 96 of the low register is lane 0
of the high one, so an operation that holds an item for each leaves lane 0 without its high word. -/
theorem not_wells : ¬ Obligations.Wells := by
  unfold Obligations.Wells
  rintro ⟨-, -, hcomplete, -, -⟩
  obtain ⟨-, hready⟩ := hcomplete takingPastLanes takePastLanes blockPastLanes placedGroup rfl takingPastLanes_resident rfl rfl (.inr rfl) rfl nofun nofun
  obtain ⟨t, z', hexec, hgroup, -, -, -, -, hitems⟩ := hready takingPastLanes_ready
  have hnodup : (takePastLanes.fixed.map (·.1)).Nodup := by decide
  obtain ⟨-, hhigh⟩ := hitems (.oper 0) 0 rfl rfl rfl rfl (.inl rfl) hnodup (0, 0x100000000) (.head _) (by decide)
  cases takingPastLanes_completes.symm.trans hexec
  have hlost := takingPastLanes_loses_high_word
  rw [hgroup, Option.map_some, Option.some.injEq] at hlost
  exact absurd (hlost.symm.trans hhigh) (by decide)

end Sys2Proof.Machine
end

section
/-! SUPPORT. Sets of lanes, and the bits of an operand. -/

namespace Sys2Proof.Machine

/-! ### Sets of lanes -/

theorem mem_laneList {m : Lanes} {l : Nat} : l ∈ laneList m ↔ l < 96 ∧ m.getLsbD l = true := by
  simp [laneList]

theorem laneSet_getLsbD (ls : List Nat) {l : Nat} (hl : l < 96) : (laneSet ls).getLsbD l = decide (l ∈ ls) := by
  have step (i : Nat) : (BitVec.ofNat 96 (2 ^ i)).getLsbD l = decide (l = i) := by
    rw [BitVec.getLsbD_ofNat, Nat.testBit_two_pow, decide_eq_true hl, Bool.true_and, decide_eq_decide, eq_comm]
  have fold (m : Lanes) : (ls.foldl (fun m i => m ||| BitVec.ofNat 96 (2 ^ i)) m).getLsbD l = (m.getLsbD l || decide (l ∈ ls)) := by
    induction ls generalizing m with
    | nil => simp
    | cons i ls ih => rw [List.foldl_cons, ih, BitVec.getLsbD_or, step, Bool.or_assoc, ← Bool.decide_or, decide_eq_decide.mpr List.mem_cons]
  rw [laneSet, fold]
  simp

theorem ofMaskWords_eq_append (a b c : Word) : ofMaskWords a b c = c ++ (b ++ a : BitVec 64) := by
  apply BitVec.eq_of_toNat_eq
  have ha := a.isLt
  have hba := (b ++ a : BitVec 64).isLt
  rw [BitVec.toNat_append, ← Nat.shiftLeft_add_eq_or_of_lt hba, BitVec.toNat_append, ← Nat.shiftLeft_add_eq_or_of_lt ha]
  have hb := b.isLt; have hc := c.isLt
  simp only [ofMaskWords, BitVec.toNat_ofNat, Nat.shiftLeft_eq]
  omega

/-- A lane lies in an issued beat where its mask word is nonzero (R22). -/
theorem beatLanes_getLsbD (m : Lanes) {l : Nat} (hl : l < 96) : (beatLanes m).getLsbD l = (maskWord m (l / 32) != 0) := by
  have word (j : Nat) {k : Nat} (hk : k < 32) : (if maskWord m j = 0 then 0 else BitVec.allOnes 32).getLsbD k = (maskWord m j != 0) := by
    split
    · simp [*]
    · rw [BitVec.getLsbD_allOnes, decide_eq_true hk, eq_comm, bne_iff_ne]
      assumption
  rw [beatLanes, ofMaskWords_eq_append, BitVec.getLsbD_append, BitVec.getLsbD_append]
  rcases (by omega : l < 32 ∨ (32 ≤ l ∧ l < 64) ∨ 64 ≤ l) with h | h | h
  · rw [if_pos (by omega), if_pos h, word 0 h, Nat.div_eq_of_lt h]
  · rw [if_pos (by omega), if_neg (by omega), word 1 (by omega), show l / 32 = 1 by omega]
  · rw [if_neg (by omega), word 2 (by omega), show l / 32 = 2 by omega]

theorem Path.zeroable_getLsbD (p : Path) {l : Nat} (hl : l < 96) :
    p.zeroable.getLsbD l = (p.member.getLsbD l && maskWord p.selected (l / 32) != 0 && !p.selected.getLsbD l) := by
  rw [Path.zeroable, BitVec.getLsbD_and, BitVec.getLsbD_and, BitVec.getLsbD_not, beatLanes_getLsbD _ hl, decide_eq_true hl, Bool.true_and,
    Bool.and_comm, Bool.and_assoc]

/-! ### The lanes of an access word -/

theorem laneList_ne_nil {m : Lanes} (h : m ≠ 0) : laneList m ≠ [] := fun hn => h <| BitVec.eq_of_getLsbD_eq fun i hi => by
  cases hb : m.getLsbD i with
  | false => exact BitVec.getLsbD_zero.symm
  | true => exact absurd (mem_laneList.mpr ⟨hi, hb⟩) (hn ▸ List.not_mem_nil)

theorem Ctx.accessLanes_ne_nil {c : Ctx} (h : c.path.uniform = true ∨ c.path.selected ≠ 0) : c.accessLanes ≠ [] := by
  unfold Ctx.accessLanes
  split
  · exact List.cons_ne_nil _ _
  · rename_i hu
    exact laneList_ne_nil (h.resolve_left hu)

/-! ### The bits of an operand -/

theorem wrapInt_lt (w : Nat) (n : Int) : wrapInt w n < 2 ^ w := by
  have h : (0 : Int) < 2 ^ w := by positivity
  have h2 := Int.emod_lt_of_pos n h
  unfold wrapInt
  zify
  rwa [Int.toNat_of_nonneg (Int.emod_nonneg _ h.ne')]

theorem NumKind.pow_width_le {k : NumKind} (h : k.width ≤ 64) : 2 ^ k.width ≤ 2 ^ 64 := Nat.pow_le_pow_right (by norm_num) h

theorem numKind_width_le (c : Nat) : (numKind c).width ≤ 64 := by
  unfold numKind
  split
  next f _ => cases f <;> decide
  next =>
    split
    · decide
    · show codeWidth c ≤ 64
      unfold codeWidth
      split_ifs <;> decide

/-- The value of a constant that is no special pattern, by its number. -/
def constDyadic (n : Nat) : Dyadic := if n < 26 then ⟨constInt n, 0⟩ else constFrac n

theorem ofDyadic_constDyadic_lt (f : Fmt) : ∀ n < 29, (f.ofDyadic FpMode.plain false (constDyadic n)).v < 2 ^ 64 := by
  cases f <;> decide +kernel

theorem constBits_log_lt : ∀ n < 29, constBits .log n < 2 ^ 64 := by decide +kernel

/-- An inline constant fits 64 bits (R127). -/
theorem constBits_lt {k : NumKind} (hk : k.width ≤ 64) (n : Nat) : constBits k n < 2 ^ 64 := by
  have hw := NumKind.pow_width_le hk
  have h1 : 0 < 2 ^ k.width := by positivity
  by_cases hn : n < 29
  · cases k with
    | log => exact constBits_log_lt n hn
    | flt f =>
      have h := ofDyadic_constDyadic_lt f n hn
      simpa [constBits, constDyadic, show n ≠ 29 by omega, show n ≠ 30 by omega, show ¬31 ≤ n by omega] using h
    | int w =>
      simp only [constBits, show n ≠ 29 by omega, show n ≠ 30 by omega, show ¬31 ≤ n by omega, if_false]
      refine lt_of_lt_of_le ?_ hw
      split
      · exact wrapInt_lt w _
      · exact Nat.mod_lt _ h1
  · have h2 : 2 ^ (k.width - 1) ≤ 2 ^ 63 := Nat.pow_le_pow_right (by norm_num) (by omega)
    unfold constBits
    dsimp only
    rcases (by omega : n = 29 ∨ n = 30 ∨ 31 ≤ n) with rfl | rfl | h
    · rw [if_pos rfl]
      omega
    · rw [if_neg (by decide), if_pos rfl]
      omega
    · rw [if_neg (by omega), if_neg (by omega), if_pos h]
      omega

theorem State.operand_lt (s : State) (c : Ctx) (i : Instr) (v slot : Nat) {k : NumKind} (hk : k.width ≤ 64) (lane : Nat) :
    s.operand c i v slot k lane < 2 ^ 64 := by
  unfold State.operand
  split
  · exact constBits_lt hk _
  · exact (Nat.mod_lt _ (by positivity)).trans_le (NumKind.pow_width_le hk)

end Sys2Proof.Machine
end

section
/-! SUPPORT. An access word that starts an operation: the operation in flight, its counter, and the path that goes on (R63, R192, R194). -/

namespace Sys2Proof.Machine

/-! ### Metering that no log records -/

/-- `t` differs from `s` in launches, owners and governor alone. -/
def State.Accounts (s t : State) : Prop := ∃ ls os g, t = { s with launches := ls, owners := os, governor := g }

theorem State.Accounts.trans {s t u : State} (h : s.Accounts t) (k : t.Accounts u) : s.Accounts u := by
  obtain ⟨ls, os, g, rfl⟩ := h
  obtain ⟨ls', os', g', rfl⟩ := k
  exact ⟨ls', os', g', rfl⟩

theorem State.Accounts.updLaunch (s : State) (l : Nat) (f : Launch → Launch) : s.Accounts (s.updLaunch l f) := ⟨_, s.owners, s.governor, rfl⟩

theorem State.Accounts.updOwner (s : State) (o : Nat) (f : Owner → Owner) : s.Accounts (s.updOwner o f) := ⟨s.launches, _, s.governor, rfl⟩

theorem State.Accounts.noteDraw (s : State) (w p : Nat) (b : Bool) : s.Accounts (s.noteDraw w p b) := by
  unfold State.noteDraw
  split
  · exact ⟨s.launches, s.owners, s.governor, rfl⟩
  · exact ⟨s.launches, s.owners, _, rfl⟩

theorem State.Accounts.logSwitch {s : State} {p : PathRef} {x : Launch} (hx : s.launch? p.launch = some x) (hr : x.replay = none) (addr : Nat) :
    s.Accounts (s.logSwitch p addr) := by
  have h : s.logTurn p addr = s := by simp [State.logTurn, hx, hr]
  rw [State.logSwitch, h]
  exact .updLaunch s _ _

/-- The issue of a word of a launch that records no log. -/
theorem State.Accounts.noteIssue {s : State} {c : Ctx} (hc : s.ctx? c.ref = some c) (hr : c.launch.replay = none) (i : Instr) (w : Issue) :
    s.Accounts (s.noteIssue c i w) := by
  have hx := State.launch?_updLaunch_same s c.ref.launch (fun x => x.updBlock c.ref.block fun y => y.updGroup c.ref.group fun z =>
    z.noteIssue c.ref.path c.path (c.path.spanOf i) w s.cycle (s.owner c.launch.owner).free) fun _ h => h
  rw [(State.ctx?_parts hc).2.1] at hx
  unfold State.noteIssue
  refine State.Accounts.trans ?_ (.noteDraw _ _ _ _)
  refine State.Accounts.trans ?_ (.updOwner _ _ _)
  refine State.Accounts.trans ?_ (.updLaunch _ _ _)
  split
  · exact .updLaunch s _ _
  · exact (State.Accounts.updLaunch s _ _).trans (.logSwitch hx hr _)

theorem State.flushLog_unlogged {s : State} {r : PathRef} {x : Launch} (hx : s.launch? r.launch = some x) (hr : x.replay = none) : s.flushLog r = s := by
  unfold State.flushLog
  split
  next y hy =>
    rw [hx] at hy
    cases hy
    simp [hr]
  next => rfl

theorem State.Accounts.finish {s : State} {c : Ctx} (hc : s.ctx? c.ref = some c) (hr : c.launch.replay = none) {d : Ctx} (hd : d.ref = c.ref) (i : Instr) :
    s.Accounts (s.finish d i) := by
  rw [State.finish, hd, State.flushLog_unlogged (State.ctx?_parts hc).2.1 hr]
  exact .updLaunch _ _ _

theorem Owner.unmetered_event (o : Owner) (code n : Nat) : (o.event code n).unmetered = o.unmetered := by
  refine List.foldlRecOn (motive := fun w : Owner => w.unmetered = o.unmetered) _ _ rfl fun w hw k _ => ?_
  split
  · exact hw
  · exact hw

/-! ### What an access changes in its group -/

/-- A word that takes over lanes' flags leaves them zero until its values come (R84), and a word that zeroes lanes does so once (R130). -/
def Group.accessed (z : Group) (k : Nat) (flags zeroed : Lanes) : Group :=
  ({ z with flags := z.flags.puts ((laneList flags).map fun l => (l, 0)) } : Group).updPath k fun p =>
    { p with zeroedWord := p.zeroedWord || zeroed != 0 }

/-- The group once the operation `o` of path `k` is in flight under the number `id`, to fill lanes `m` of `regs`. -/
def Group.starts (z : Group) (k : Nat) (o : Op) (id : Nat) (regs : List LaneReg) (m : Lanes) : Group :=
  ((z.accessed k o.toFlags o.zeroed).sbRise o.sb).markUnseen id k o.sb regs m

theorem Group.starts_path {z : Group} {k : Nat} {p : Path} (h : z.paths[k]? = some p) (o : Op) (id : Nat) (regs : List LaneReg) (m : Lanes) :
    (z.starts k o id regs m).paths[k]? = some { p with zeroedWord := p.zeroedWord || o.zeroed != 0 } :=
  Group.updPath_at (z := { z with flags := _ }) h _

theorem Group.starts_other (z : Group) {j k : Nat} (h : j ≠ k) (o : Op) (id : Nat) (regs : List LaneReg) (m : Lanes) :
    (z.starts k o id regs m).paths[j]? = z.paths[j]? := Group.updPath_other { z with flags := _ } h _

theorem Group.getReg_starts (z : Group) (k : Nat) (o : Op) (id : Nat) (regs : List LaneReg) (m : Lanes) (l b : Nat) (r : LaneReg) (i : Nat) :
    (z.starts k o id regs m).getReg l b k r i = z.getReg l b k r i := by
  refine Group.getReg_congr (y := z.starts k o id regs m) (z := z) rfl rfl rfl rfl ?_ ?_ r i <;>
  · rw [List.getD_eq_getElem?_getD, List.getD_eq_getElem?_getD]
    cases h : z.paths[k]? with
    | none =>
      have hn : (z.starts k o id regs m).paths[k]? = none := by
        simp [Group.starts, Group.accessed, Group.markUnseen, Group.sbRise, Group.sbSet, Group.updPath, h]
      rw [hn]
    | some p => rw [Group.starts_path h]; rfl

theorem Group.starts_flags (z : Group) (k : Nat) (o : Op) (id : Nat) (regs : List LaneReg) (m : Lanes) {l : Nat} (hl : o.toFlags.getLsbD l = false) :
    (z.starts k o id regs m).flags.get l = z.flags.get l := by
  refine Sparse.get_puts_other _ _ _ fun e he => ?_
  obtain ⟨j, hj, rfl⟩ := List.mem_map.mp he
  rintro rfl
  rw [(mem_laneList.mp hj).2] at hl
  cases hl

theorem Group.starts_unseen (z : Group) (k : Nat) (o : Op) (id : Nat) (regs : List LaneReg) (m : Lanes) :
    (z.starts k o id regs m).unseen.map (fun u => (u.path, u.sb, u.reg)) =
      z.unseen.map (fun u => (u.path, u.sb, u.reg)) ++ regs.map fun r => (k, o.sb, r) := by
  show (z.unseen ++ regs.map _).map _ = _
  rw [List.map_append, List.map_map]
  rfl

/-! ### What it changes in the state -/

theorem State.updOwner_id (s : State) (o : Nat) : (s.updOwner o fun w => w) = s := by
  have h : s.owners.modify o (fun w => w) = s.owners := List.modify_id o s.owners
  rw [State.updOwner, h]

/-- An operation enters flight: its owner is metered, and its group counts it. -/
theorem State.startOp_eq (s : State) (c : Ctx) (o : Op) (regs : List LaneReg) (m : Lanes) : ∃ f : Owner → Owner, (∀ w, (f w).unmetered = w.unmetered) ∧
    s.startOp c o regs m = (({ s with ops := s.ops ++ [{ o with id := s.nextId }], nextId := s.nextId + 1 } : State).updOwner o.owner f).updPathGroup c.ref
      fun z => (z.sbRise o.sb).markUnseen s.nextId c.ref.path o.sb regs m := by
  unfold State.startOp
  extract_lets t far u
  by_cases h : far = 0
  · exact ⟨fun w => w, fun _ => rfl, by rw [State.updOwner_id, show u = t from if_pos h]; rfl⟩
  · exact ⟨_, fun w => w.unmetered_event 4 far, by rw [show u = _ from if_neg h]; rfl⟩

/-- The operation `o` of a path enters flight, to fill lanes `m` of `regs`. -/
def State.startAccess (s : State) (c : Ctx) (o : Op) (regs : List LaneReg) (m : Lanes) : State :=
  ((s.dropFlagOps c.ref o.toFlags).updPathGroup c.ref fun z => z.accessed c.ref.path o.toFlags o.zeroed).startOp c o regs m

theorem State.StartsOp.startAccess (s : State) (c : Ctx) (o : Op) (regs : List LaneReg) (m : Lanes) :
    (s.dropFlagOps c.ref o.toFlags).StartsOp (s.startAccess c o regs m) { o with id := s.nextId } := by
  obtain ⟨f, -, h⟩ := State.startOp_eq ((s.dropFlagOps c.ref o.toFlags).updPathGroup c.ref fun z => z.accessed c.ref.path o.toFlags o.zeroed) c o regs m
  exact ⟨rfl, _, _, s.governor, h⟩

theorem State.StartsOp.between {s t u v : State} {r : PathRef} {m : Lanes} {o : Op} (h : s.Accounts t) (k : (t.dropFlagOps r m).StartsOp u o)
    (l : u.Accounts v) : (s.dropFlagOps r m).StartsOp v o := by
  obtain ⟨ls, os, g, rfl⟩ := h
  obtain ⟨hid, ls', os', g', rfl⟩ := k
  obtain ⟨ls'', os'', g'', rfl⟩ := l
  exact ⟨hid, ls'', os'', g'', rfl⟩

theorem State.Within.startAccess {s : State} {c : Ctx} (hc : s.ctx? c.ref = some c) {d : Ctx} (hd : d.ref = c.ref) (o : Op) (regs : List LaneReg)
    (m : Lanes) : ∃ c', s.Within c (s.startAccess d o regs m) c' ∧ c'.group = c.group.starts c.ref.path o s.nextId regs m ∧
      c'.path = { c.path with zeroedWord := c.path.zeroedWord || o.zeroed != 0 } := by
  obtain ⟨-, -, -, -, hp, hv⟩ := State.ctx?_parts hc
  -- the group takes over the flags, the owner is metered, and the group counts the operation
  have h1 := (State.Within.updPathGroup hc (fun z => z.accessed c.ref.path o.toFlags o.zeroed) (fun _ => rfl)
    (p := { c.path with zeroedWord := c.path.zeroedWord || o.zeroed != 0 }) (Group.updPath_at (z := { c.group with flags := _ }) hp _) hv).congr
    (u := { (s.dropFlagOps d.ref o.toFlags).updPathGroup c.ref fun z => z.accessed c.ref.path o.toFlags o.zeroed with
      ops := (s.dropFlagOps d.ref o.toFlags).ops ++ [{ o with id := s.nextId }], nextId := s.nextId + 1 }) rfl rfl rfl
  obtain ⟨f, hf, h⟩ := State.startOp_eq ((s.dropFlagOps d.ref o.toFlags).updPathGroup d.ref fun z => z.accessed d.ref.path o.toFlags o.zeroed) d o regs m
  obtain ⟨x, h2⟩ := State.Within.metered h1.here (.updOwner _ _ o.owner f hf) fun _ => rfl
  have h3 := State.Within.updPathGroup h2.here (fun z => (z.sbRise o.sb).markUnseen s.nextId c.ref.path o.sb regs m) (fun _ => rfl)
    (State.ctx?_parts h2.here).2.2.2.2.1 hv
  refine ⟨_, ((h1.trans h2).trans h3).congr (congrArg State.launches ?_) (congrArg State.owners ?_) (congrArg State.dies ?_), rfl, rfl⟩ <;>
  · rw [State.startAccess, h, hd]
    rfl

/-- An operation of a path enters flight and its word is over, where no log is recorded. -/
theorem State.Accounts.startAccess {s v : State} (hv : s.Accounts v) {d : Ctx} (hd : v.ctx? d.ref = some d) (hr : d.launch.replay = none) {c : Ctx}
    (hc : c.ref = d.ref) (i : Instr) (o : Op) (regs : List LaneReg) (m : Lanes) :
    ∃ e lf, v.Within d ((v.startAccess c o regs m).finish c i) e ∧
      (s.dropFlagOps c.ref o.toFlags).StartsOp ((v.startAccess c o regs m).finish c i) { o with id := s.nextId } ∧
      e.group = { d.group.starts d.ref.path o s.nextId regs m with logFix := lf }.updPath d.ref.path (fun q => q.advance (c.path.spanOf i)) ∧
      e.path = ({ d.path with zeroedWord := d.path.zeroedWord || o.zeroed != 0 } : Path).advance (c.path.spanOf i) := by
  obtain ⟨e, he, heg, hep⟩ := State.Within.startAccess hd hc o regs m
  obtain ⟨e', lf, hf, hfg, hfp⟩ := State.Within.finish he.here (hc.trans he.ref.symm) i
  have hid : v.nextId = s.nextId := by
    obtain ⟨ls, os, g, rfl⟩ := hv
    rfl
  rw [heg, he.ref, hid] at hfg
  rw [hep] at hfp
  refine ⟨e', lf, he.trans hf, ?_, hfg, hfp⟩
  rw [← hid]
  exact .between hv (.startAccess v c o regs m) (.finish he.here (he.replay hr) (hc.trans he.ref.symm) i)

/-- The path of `c` that has issued `i` stands past it. -/
theorem Ctx.Past.advanced {s : State} {c c' : Ctx} {i : Instr} (hv : c.path.valid = true) {free : Nat} {b : Bool}
    (h : c'.path = ({ c.path.noteIssue (issueOf c i 0) s.cycle free with zeroedWord := b } : Path).advance (c.path.spanOf i)) : c.Past s i 0 c' where
  place := by
    rw [h, Path.advance_place]
    rfl
  next := by
    rw [h, Path.advance_nextIssue]
    rfl
  prefixed := by rw [h, Path.advance_pfx]
  live := by
    rw [h, Path.advance_valid]
    exact hv

end Sys2Proof.Machine
end

section
/-! SUPPORT. What an access word asks for, and what its issue does where its lanes' addresses are all good, none good, or all beyond (R63, R192, R322). -/

namespace Sys2Proof.Machine

/-! ### What an access word asks for -/

/-- The registers that an access word fills. -/
def Ctx.accessRegs (c : Ctx) (w : AccessWord) : List LaneReg := if w.kind.reads then fieldRegs c.group.depth w.dst (regsOf w.ty) else []

/-- The lanes that an access word zeroes under MZ (R130). -/
def Ctx.accessZeroed (c : Ctx) (w : AccessWord) : Lanes :=
  if c.mz && !c.path.zeroedWord && !c.path.uniform && !isS w.dst && !(c.accessRegs w).isEmpty then c.path.zeroable else 0

/-- The lanes whose flags are the destination of an access word, of those in which it acts (R84). -/
def AccessWord.flags (w : AccessWord) (lanes : List Nat) : Lanes := if w.kind.reads && w.dst == 0xCB then laneSet lanes else 0

/-- The operation of an access word, under no number yet: the lanes whose address has a place, and those beyond their scratchpad's allocation. -/
def State.accessOp (s : State) (c : Ctx) (w : AccessWord) (four : Nat) (good : List (Nat × Nat)) (beyond : List Nat) : Op :=
  { s.blankOp c w.kind w.sb with
    sp := w.sp
    scope := if w.sp ∧ 3 ≤ w.scope then 3 else w.scope
    width := w.width
    ty := w.ty
    aop := w.aop
    lanes := good.map fun e => (e.1, e.2, (s.accessData c w four e.1).1, (s.accessData c w four e.1).2)
    fixed := if w.kind.reads then beyond.map fun l => (l, 0) else []
    dest := (c.accessRegs w).head?
    pair := (c.accessRegs w).length == 2
    zeroed := c.accessZeroed w
    toFlags := w.flags (good.map (·.1) ++ beyond)
    after := s.conflicts c w.sp (good.map fun e => (e.2, w.width)) }

theorem Ctx.accessRegs_eq (c : Ctx) (w : AccessWord) :
    (if w.kind.reads = true then fieldRegs c.group.depth w.dst (regsOf w.ty) else []) = c.accessRegs w := rfl

theorem Ctx.accessZeroed_eq (c : Ctx) (w : AccessWord) :
    (if (c.mz && !c.path.zeroedWord && !c.path.uniform && !isS w.dst &&
      !(if w.kind.reads = true then fieldRegs c.group.depth w.dst (regsOf w.ty) else []).isEmpty) = true then c.path.zeroable else 0) =
        c.accessZeroed w := rfl

theorem AccessWord.flags_eq (w : AccessWord) (lanes : List Nat) :
    (if (w.kind.reads && w.dst == 0xCB) = true then laneSet lanes else 0) = w.flags lanes := rfl

@[simp] theorem AccessWord.flags_nil (w : AccessWord) : w.flags [] = 0 := ite_self _

/-- A word that fills registers reads. -/
theorem Ctx.accessRegs_head? (c : Ctx) (w : AccessWord) : (if w.kind.reads = true then (c.accessRegs w).head? else none) = (c.accessRegs w).head? := by
  unfold Ctx.accessRegs
  split <;> rfl

/-- A word that zeroes lanes writes no scalar (R130). -/
theorem Ctx.isS_of_accessZeroed {c : Ctx} {w : AccessWord} (h : c.accessZeroed w ≠ 0) : isS w.dst = false := by
  cases hs : isS w.dst with
  | false => rfl
  | true => exact absurd (by simp [Ctx.accessZeroed, hs]) h

theorem State.logged_unlogged (s : State) {c : Ctx} (hr : c.launch.replay = none) (o : Op) (ho : o.logAt = none) (held : Nat → DWord) (m : Lanes) :
    s.logged c o held m = (s, o) := by
  have h : ({ o with logAt := none } : Op) = o := by rw [← ho]
  unfold State.logged State.logInput
  rw [hr]
  split
  · rfl
  · exact Prod.ext rfl h

/-- What the addresses of an access word's lanes meet, outside a replay. -/
theorem State.accessPlaces {s : State} {c : Ctx} {w : AccessWord} (hr : c.launch.replay = none) {P : Nat → Place}
    (h : ∀ l ∈ c.accessLanes, s.lanePlace c w l = P l) :
    c.accessLanes.map (fun l => (l, if c.replaying && w.kind == .load then w.dryPlace c (s.laneAddress c w l) else s.lanePlace c w l)) =
      c.accessLanes.map fun l => (l, P l) :=
  List.map_congr_left fun l hl => by simp [Ctx.replaying, hr, h l hl]

/-- A word that is no retry writes its destination: it acts in the lowest active lane, or for its path (R161, R195). -/
theorem Ctx.accessKeeps {c : Ctx} (hx : c.path.reexec = none) (ha : c.path.uniform = true ∨ c.path.selected ≠ 0) (w : AccessWord) :
    (!isS w.dst || c.accessLanes.contains ((lowest { c.path with reexec := none }.selected).getD c.path.namingLane) || c.path.uniform) = true := by
  cases hu : c.path.uniform with
  | true => simp
  | false =>
    have hp : ({ c.path with reexec := none } : Path) = c.path := by rw [← hx]
    obtain ⟨a, r, har⟩ := List.exists_cons_of_ne_nil (laneList_ne_nil (ha.resolve_left (by simp [hu])))
    simp [hp, Ctx.accessLanes, hu, lowest, har]

/-! ### What its issue does -/

section
variable {s : State} {c : Ctx} {w : AccessWord} (hsb : c.group.sbCount w.sb < 63) (hr : c.launch.replay = none)
include hsb hr

/-- Every lane's address has a place: the word starts its operation. -/
theorem State.issueAccess_good (hx : c.path.reexec = none) (ha : c.path.uniform = true ∨ c.path.selected ≠ 0) (four : Nat) {addr : Nat → Nat}
    (h : ∀ l ∈ c.accessLanes, s.lanePlace c w l = .at_ (addr l)) :
    s.issueAccess c w four = ((s.noteIssue c w.i (issueOf c w.i 0)).startAccess c (s.accessOp c w four (c.accessLanes.map fun l => (l, addr l)) [])
      (c.accessRegs w) (laneSet c.accessLanes ||| c.accessZeroed w)).finish c w.i := by
  have hne : c.accessLanes.isEmpty = false := by simp [Ctx.accessLanes_ne_nil ha]
  unfold State.issueAccess
  rw [if_neg (by omega)]
  dsimp only
  rw [State.accessPlaces hr h]
  simp only [List.filterMap_map, Function.comp_def, List.filterMap_none, List.filterMap_eq_map']
  split
  · contradiction
  simp only [List.map_map, Function.comp_def, List.map_id', List.map_nil, List.append_nil, Ctx.accessKeeps hx ha w, hne,
    ↓Ctx.accessZeroed_eq, Ctx.accessRegs_eq, AccessWord.flags_eq]
  rw [State.logged_unlogged _ hr _ rfl]
  simp only [State.startAccess, State.accessOp, List.map_map, List.map_id', Function.comp_def, List.append_nil, List.map_nil, ite_self,
    Bool.and_true, Ctx.accessRegs_head?, if_true, Bool.false_and, Bool.false_eq_true, if_false]
  rfl

/-- Every lane lies beyond its scratchpad's allocation: the violation of its block, and an operation that reads zero (R346). -/
theorem State.issueAccess_beyond (hx : c.path.reexec = none) (ha : c.path.uniform = true ∨ c.path.selected ≠ 0) (four : Nat) {addr : Nat → Nat}
    (h : ∀ l ∈ c.accessLanes, s.lanePlace c w l = .beyond (addr l)) {l : Nat} (hl : c.accessLanes.head? = some l) :
    s.issueAccess c w four =
      (((s.noteIssue c w.i (issueOf c w.i 0)).violate c (s.tagOf c l ⟨9, 1, addr l, w.kind.access⟩) 1).startAccess c
        (s.accessOp c w four [] c.accessLanes) (c.accessRegs w) (laneSet c.accessLanes ||| c.accessZeroed w)).finish c w.i := by
  have hne : c.accessLanes.isEmpty = false := by simp [Ctx.accessLanes_ne_nil ha]
  obtain ⟨r, hlr⟩ := List.head?_eq_some_iff.mp hl
  unfold State.issueAccess
  rw [if_neg (by omega)]
  dsimp only
  rw [State.accessPlaces hr h]
  simp only [List.filterMap_map, Function.comp_def, List.filterMap_none, List.filterMap_eq_map']
  split
  · contradiction
  simp only [List.map_map, Function.comp_def, List.map_id', List.map_nil, List.nil_append, Ctx.accessKeeps hx ha w, hne,
    ↓Ctx.accessZeroed_eq, Ctx.accessRegs_eq, AccessWord.flags_eq]
  rw [State.logged_unlogged _ hr _ rfl]
  simp only [State.startAccess, State.accessOp, List.nil_append, List.map_nil, Bool.and_true, Ctx.accessRegs_head?, if_true, Bool.false_and,
    Bool.false_eq_true, if_false]
  rw [hlr]
  rfl

/-- No lane's address is good: each lane is an origin of its own, and MZ still zeroes the inactive lanes (R322). -/
theorem State.issueAccess_faults (ha : c.path.selected ≠ 0) (hu : c.path.uniform = false) (four : Nat) {f : Nat → FaultCase}
    (h : ∀ l ∈ c.accessLanes, s.lanePlace c w l = .fault (f l)) :
    s.issueAccess c w four = (if c.accessZeroed w = 0 then s.noteIssue c w.i (issueOf c w.i 0)
      else ((s.noteIssue c w.i (issueOf c w.i 0)).updPath c.ref fun p => { p with zeroedWord := true }).startOp c (s.accessOp c w four [] [])
        (c.accessRegs w) (c.accessZeroed w)).faultLanes c (c.accessLanes.map fun l => (l, f l)) false s.nextId := by
  have h0 : laneSet [] = 0 := rfl
  have h1 : laneList 0 = [] := by decide
  have hne : (c.accessLanes.map fun l => (l, f l)) ≠ [] := mt List.map_eq_nil_iff.mp (Ctx.accessLanes_ne_nil (.inr ha))
  obtain ⟨e, es, he⟩ := List.exists_cons_of_ne_nil hne
  unfold State.issueAccess
  rw [if_neg (by omega)]
  extract_lets +onlyGivenNames lanes places faults good beyond s1
  have hp : places = c.accessLanes.map fun l => (l, Place.fault (f l)) := State.accessPlaces hr h
  have hg : good = [] := by simp [good, hp]
  have hb : beyond = [] := by simp [beyond, hp]
  have hf : faults = e :: es := by rw [← he]; simp [faults, hp]
  clear_value good beyond faults
  subst hg hb hf
  rw [he]
  simp only [hu]
  refine congrArg (fun t : State => t.faultLanes c (e :: es) false s.nextId) ?_
  simp only [List.map_nil, List.nil_append, ↓Ctx.accessZeroed_eq, Ctx.accessRegs_eq, AccessWord.flags_eq]
  rw [State.logged_unlogged _ hr _ rfl]
  simp only [AccessWord.flags_nil, State.dropFlagOps_zero, h0, h1, Sparse.puts, List.map_nil, List.foldl_nil]
  by_cases hz : c.accessZeroed w = 0
  · rw [if_pos (by simp [hz]), if_pos hz]
    simp only [hz, bne_self_eq_false, Bool.or_false]
    exact (congrArg (s1.updPathGroup c.ref) (funext fun z => Group.updPath_id z _)).trans (State.updPathGroup_id s1 _)
  · have hor : 0 ||| c.accessZeroed w = c.accessZeroed w := BitVec.zero_or
    rw [if_neg (by simpa using hz), if_neg hz]
    simp only [bne_iff_ne.mpr hz, Bool.or_true, Ctx.isS_of_accessZeroed hz, Bool.not_false, Bool.true_or, Bool.and_true, Ctx.accessRegs_head?,
      if_true, hor, State.accessOp, List.append_nil, List.map_nil, AccessWord.flags_nil]
    rfl

/-- In a uniform clause the path is the origin (R116). -/
theorem State.issueAccess_uniform (hu : c.path.uniform = true) (four : Nat) {f : FaultCase} (h : s.lanePlace c w c.path.namingLane = .fault f) :
    s.issueAccess c w four = (s.noteIssue c w.i (issueOf c w.i 0)).faultPath c f false := by
  have hl : c.accessLanes = [c.path.namingLane] := if_pos hu
  have hP : ∀ l ∈ c.accessLanes, s.lanePlace c w l = Place.fault f := by simp [hl, h]
  unfold State.issueAccess
  rw [if_neg (by omega)]
  dsimp only
  rw [State.accessPlaces hr hP, hl]
  simp only [List.map_cons, List.map_nil, List.filterMap_cons, List.filterMap_nil, hu]
  rw [State.logged_unlogged _ hr _ rfl]

end

end Sys2Proof.Machine
end

section
/-! SUPPORT. What an access word leaves: its path past the word, its group as it was but for the operation that it counts, and the operation's fields
(R63, R84, R192, R194). -/

namespace Sys2Proof.Machine

/-! ### The word -/

/-- An access word acts as its entry in the table of access words says. -/
theorem State.Issues.access {s : State} {c : Ctx} {i : Instr} {w : AccessWord} (h : s.Issues c i) (hw : Spec.access i = some w) :
    w.i = i ∧ ∃ four, exec i s = .next (s.issueAccess c w four) ∧ (w.kind = .atomic → four = c.fourth (BitVec.ofNat 8 w.dst)) := by
  cases i
  case atom st d a b sb ty sc sp op =>
    cases hw
    refine ⟨rfl, c.fourth d, h.word _, fun _ => ?_⟩
    rw [BitVec.ofNat_toNat, BitVec.setWidth_eq]
  case ld | gather | st | stStrong | scatter =>
    cases hw
    exact ⟨rfl, 0, h.word _, fun hk => by cases hk⟩
  all_goals cases hw

theorem Spec.width_eq_codeWidth (n : Nat) : Spec.width n = codeWidth n := by
  unfold Spec.width codeWidth
  split <;> simp_all

/-- The lanes' flags come from this access: the accesses before it set them no more (R84). -/
theorem AccessWord.dropFlagOps_flags (s : State) (c : Ctx) (w : AccessWord) (lanes : List Nat) :
    (if w.kind.reads = true ∧ w.dst = 0xCB then s.dropFlagOps c.ref (laneSet lanes) else s) = s.dropFlagOps c.ref (w.flags lanes) := by
  unfold AccessWord.flags
  split
  next h => rw [if_pos (by simpa using h)]
  next h => rw [if_neg (by simpa using h), State.dropFlagOps_zero]

theorem AccessWord.flags_getLsbD (w : AccessWord) (lanes : List Nat) {l : Nat} (hl : l < 96) :
    (w.flags lanes).getLsbD l = true ↔ w.kind.reads = true ∧ w.dst = 0xCB ∧ l ∈ lanes := by
  unfold AccessWord.flags
  split
  next h =>
    obtain ⟨hr, hd⟩ : w.kind.reads = true ∧ w.dst = 0xCB := by simpa using h
    rw [laneSet_getLsbD lanes hl, decide_eq_true_iff]
    exact ⟨fun hm => ⟨hr, hd, hm⟩, fun hm => hm.2.2⟩
  next h =>
    have hn : ¬(w.kind.reads = true ∧ w.dst = 0xCB) := by simpa using h
    exact ⟨fun hm => by simp at hm, fun hm => (hn ⟨hm.1, hm.2.1⟩).elim⟩

/-- The lanes that MZ zeroes are inactive lanes of issued beats that the path owns (R130). -/
theorem Ctx.accessZeroed_getLsbD {c : Ctx} (hz : c.path.zeroedWord = false) (w : AccessWord) {l : Nat} (hl : l < 96) :
    (c.accessZeroed w).getLsbD l = (c.mz && !c.path.uniform && !isS w.dst && !(c.accessRegs w).isEmpty && c.path.member.getLsbD l &&
      maskWord c.path.selected (l / 32) != 0 && !c.path.selected.getLsbD l) := by
  unfold Ctx.accessZeroed
  rw [hz, Bool.not_false, Bool.and_true]
  split
  next h => rw [h, Path.zeroable_getLsbD _ hl, Bool.true_and]
  next h => rw [Bool.eq_false_of_not_eq_true h]; simp

/-- MZ off, a scalar destination, none at all, or no inactive lane of its own: the word zeroes no lane. -/
theorem Ctx.accessZeroed_eq_zero {c : Ctx} {w : AccessWord} (h : c.mz = false ∨ isS w.dst = true ∨ c.accessRegs w = [] ∨ c.path.zeroable = 0) :
    c.accessZeroed w = 0 := by
  unfold Ctx.accessZeroed
  rcases h with h | h | h | h <;> simp [h]

/-- Under MZ a word in lanes that fills registers zeroes the inactive lanes. -/
theorem Ctx.accessZeroed_eq_zeroable {c : Ctx} {w : AccessWord} (hz : c.path.zeroedWord = false) (hu : c.path.uniform = false) (hm : c.mz = true)
    (hs : isS w.dst = false) (hr : c.accessRegs w ≠ []) : c.accessZeroed w = c.path.zeroable := by
  simp [Ctx.accessZeroed, hz, hu, hm, hs, hr]

/-! ### The data that it stores -/

theorem State.accessData_store (s : State) (c : Ctx) {w : AccessWord} (hk : w.kind = .store ∨ w.kind = .strong) (four l : Nat) :
    (s.accessData c w four l).1.toNat = s.operand c w.i w.dst 4 (numKind w.ty) l := by
  have h : s.accessData c w four l = (BitVec.ofNat 64 (s.operand c w.i w.dst 4 (numKind w.ty) l), 0) := by
    unfold State.accessData
    rcases hk with hk | hk <;> rw [hk]
  rw [h, BitVec.toNat_ofNat, Nat.mod_eq_of_lt (s.operand_lt c w.i w.dst 4 (numKind_width_le _) l)]

theorem State.accessData_atomic (s : State) (c : Ctx) {w : AccessWord} (hk : w.kind = .atomic) (four l : Nat) :
    (s.accessData c w four l).1.toNat = s.operand c w.i four 4 (numKind w.ty) l ∧
      (s.accessData c w four l).2.toNat = s.operand c w.i w.dst 6 (numKind w.ty) l := by
  have h : s.accessData c w four l = (BitVec.ofNat 64 (s.operand c w.i four 4 (numKind w.ty) l),
      BitVec.ofNat 64 (s.operand c w.i w.dst 6 (numKind w.ty) l)) := by
    unfold State.accessData
    rw [hk]
  rw [h, BitVec.toNat_ofNat, BitVec.toNat_ofNat, Nat.mod_eq_of_lt (s.operand_lt c w.i four 4 (numKind_width_le _) l),
    Nat.mod_eq_of_lt (s.operand_lt c w.i w.dst 6 (numKind_width_le _) l)]
  exact ⟨rfl, rfl⟩

/-! ### The path and the group -/

section
variable {s : State} {c c' : Ctx} {i : Instr} {o : Op} {id : Nat} {regs : List LaneReg} {m : Lanes} {lf : List (Nat × Word)}
  (hg : c'.group = ({ (c.noted s i 0).starts c.ref.path o id regs m with logFix := lf } : Group).updPath c.ref.path (fun q => q.advance (c.path.spanOf i)))
include hg

/-- What the group of a path that starts an operation keeps. -/
theorem Ctx.SameGroup.ofStarts {b : Bool}
    (hp : c'.path = ({ c.path.noteIssue (issueOf c i 0) s.cycle (s.owner c.launch.owner).free with zeroedWord := b } : Path).advance (c.path.spanOf i)) :
    c.SameGroup c' [] where
  paths k hk := by
    rw [hg, Group.updPath_other _ hk]
    exact (Group.starts_other _ hk o id regs m).trans (Group.updPath_other { c.group with paths := c.group.paths } hk _)
  registers r l _ _ := by rw [hg, Group.getReg_advance, Group.getReg_logFix, Group.getReg_starts, Ctx.noted_getReg]
  path := by
    rw [hp, Path.advance_standing]
    rfl

theorem Ctx.flags_ofStarts {l : Nat} (hl : o.toFlags.getLsbD l = false) : c'.group.flags.get l = c.group.flags.get l := by
  rw [hg]
  exact Group.starts_flags (c.noted s i 0) c.ref.path o id regs m hl

theorem Ctx.unseen_ofStarts : c'.group.unseen.map (fun u => (u.path, u.sb, u.reg)) =
    c.group.unseen.map (fun u => (u.path, u.sb, u.reg)) ++ regs.map fun r => (c.ref.path, o.sb, r) := by
  rw [hg]
  exact Group.starts_unseen (c.noted s i 0) c.ref.path o id regs m

theorem Ctx.sb_ofStarts : c'.group.sb = c.group.sb.set o.sb (c.group.sbCount o.sb + 1) := by
  rw [hg]
  rfl

end

theorem Path.SameLast.advance {p q : Path} (h : p.SameLast q) (n : Nat) : p.SameLast (q.advance n) := by
  obtain ⟨h0, h1, h2, h3⟩ := h
  unfold Path.advance
  split <;> exact ⟨h0, h1, h2, h3⟩

/-- Where it leaves its path, in whatever state `v` its issue has made: past the word, with the operation in flight. -/
theorem State.Issues.startsAccess {s : State} {c : Ctx} {i : Instr} (h : s.Issues c i) {v : State} (hv : s.Accounts v) {d : Ctx}
    (hd : v.ctx? c.ref = some d) (hr : d.launch.replay = none) (hg : d.group = c.noted s i 0)
    (hp : d.path = c.path.noteIssue (issueOf c i 0) s.cycle (s.owner c.launch.owner).free) (o : Op) (regs : List LaneReg) (m : Lanes) :
    ∃ t c' lf, t = (v.startAccess c o regs m).finish c i ∧ v.Within d t c' ∧ t.ctx? c.ref = some c' ∧ c.Past s i 0 c' ∧
      (s.dropFlagOps c.ref o.toFlags).StartsOp t { o with id := s.nextId } ∧
      c'.group = ({ (c.noted s i 0).starts c.ref.path o s.nextId regs m with logFix := lf } : Group).updPath c.ref.path
        (fun q => q.advance (c.path.spanOf i)) ∧
      c'.path = ({ c.path.noteIssue (issueOf c i 0) s.cycle (s.owner c.launch.owner).free with
        zeroedWord := c.path.zeroedWord || o.zeroed != 0 } : Path).advance (c.path.spanOf i) := by
  have hdr : d.ref = c.ref := (State.ctx?_parts hd).1
  obtain ⟨c', lf, hw, hs, hcg, hcp⟩ := State.Accounts.startAccess hv (hdr ▸ hd) hr hdr.symm i o regs m
  rw [hg, hdr] at hcg
  rw [hp] at hcp
  exact ⟨_, c', lf, rfl, hw, hdr ▸ hw.ctx, .advanced (State.ctx?_parts h.ctx).2.2.2.2.2 hcp, hs, hcg, hcp⟩

theorem State.SameBeyond.violation {s t : State} {c c' : Ctx} (h : s.SameBeyond t c c') : c'.block.violation = c.block.violation := by
  have hb := congrArg Block.violation h.block
  exact hb

theorem State.Accounts.violate (s : State) (c : Ctx) (tag : List Word) (n : Nat) : s.Accounts (s.violate c tag n) := .updLaunch s _ _

/-- The violation of a block is recorded beside everything else of it. -/
theorem State.ctx?_violate {s : State} {c : Ctx} (hc : s.ctx? c.ref = some c) {e : Ctx} (he : c.ref = e.ref) (tag : List Word) (n : Nat) :
    (s.violate e tag n).ctx? e.ref = some { c with
      launch := c.launch.updBlock c.ref.block fun y => { y with violation := y.violation.orElse fun _ => some (tag, BitVec.ofNat 32 n) },
      block := { c.block with violation := c.block.violation.orElse fun _ => some (tag, BitVec.ofNat 32 n) } } := by
  obtain ⟨-, hx, hy, hz, hp, hv⟩ := State.ctx?_parts hc
  rw [State.violate, ← he]
  refine State.ctx?_of_parts (z := c.group) (p := c.path) ?_ ?_ hz hp hv
  · have h := State.launch?_updLaunch_same s c.ref.launch (fun x => x.updBlock c.ref.block fun y =>
      { y with violation := y.violation.orElse fun _ => some (tag, BitVec.ofNat 32 n) }) fun _ h => h
    rw [hx] at h
    exact h
  · have h := Launch.block?_updBlock_same c.launch c.ref.block
      (fun y => { y with violation := y.violation.orElse fun _ => some (tag, BitVec.ofNat 32 n) }) fun _ h => h
    rw [hy] at h
    exact h

end Sys2Proof.Machine
end

section
/-! SUPPORT. The access words' obligation. -/

namespace Sys2Proof.Machine

/-- Settles O35: a word whose counter is full waits; otherwise its issue is known by what its lanes' addresses meet, and leaves one operation in flight,
an exception for each lane, or the violation of its block. -/
theorem accessWords : Obligations.AccessWords := by
  intro s c i w hw h ha
  obtain ⟨rfl, four, hx, h4⟩ := h.access hw
  have hc := h.ctx
  obtain ⟨d, hd, hdg, hdp⟩ := State.Within.noteIssue hc w.i 0
  refine ⟨fun hsb => ?_, fun hsb hr hre hz => ⟨fun addr hP => ?_, fun f hu hP => ⟨fun hno => ?_, fun hmz hs hne hm => ?_⟩, fun f l hu hl hP => ?_,
    fun addr hP hs => ?_⟩⟩
  · rw [hx, State.issueAccess, if_pos hsb]
  · -- every lane has its place
    rw [State.issueAccess_good hsb hr hre ha four hP] at hx
    obtain ⟨t, c', lf, ht, hwd, hct, hpast, hs, hcg, hcp⟩ := h.startsAccess (.noteIssue hc hr w.i _) hd.ctx (hd.replay hr) hdg hdp
      (s.accessOp c w four (c.accessLanes.map fun l => (l, addr l)) []) (c.accessRegs w) (laneSet c.accessLanes ||| c.accessZeroed w)
    rw [← ht] at hx
    have hfl : (s.accessOp c w four (c.accessLanes.map fun l => (l, addr l)) []).toFlags = w.flags c.accessLanes := by
      simp [State.accessOp, Function.comp_def]
    rw [AccessWord.dropFlagOps_flags, ← hfl]
    refine ⟨t, c', _, hx, hct, hpast, (hd.trans hwd).beyond, hs, .ofStarts hcg hcp, fun l hl hno => Ctx.flags_ofStarts hcg ?_, ?_, Ctx.sb_ofStarts hcg,
      Ctx.unseen_ofStarts hcg, rfl, rfl, rfl, rfl, rfl, rfl, ?_, rfl, rfl, ?_, rfl, ?_, rfl, ?_, fun hk => ?_, fun hk => ?_, fun l hl => ?_,
      fun l hl => ?_⟩
    · rw [hfl, Bool.eq_false_iff]
      exact mt (AccessWord.flags_getLsbD w _ hl).mp hno
    · rw [hcp]
      exact Path.SameLast.advance ⟨rfl, rfl, rfl, rfl⟩ _
    · rw [Spec.width_eq_codeWidth]
      rfl
    · exact ite_self _
    · exact beq_iff_eq
    · simp [State.accessOp, Function.comp_def]
    · simp [State.accessOp, Function.comp_def, State.accessData_store s c hk]
    · simp [State.accessOp, Function.comp_def, State.accessData_atomic s c hk, h4 hk]
    · rw [show Op.toFlags _ = _ from hfl]
      exact AccessWord.flags_getLsbD w _ hl
    · exact Ctx.accessZeroed_getLsbD hz w hl
  · -- no lane's address is good, and MZ zeroes none
    have hsel : c.path.selected ≠ 0 := ha.resolve_left (by simp [hu])
    rw [hx, State.issueAccess_faults hsb hr hsel hu four hP, if_pos (Ctx.accessZeroed_eq_zero hno)]
  · -- no lane's address is good, and MZ zeroes the inactive lanes
    have hsel : c.path.selected ≠ 0 := ha.resolve_left (by simp [hu])
    have hzd : c.accessZeroed w = c.path.zeroable := Ctx.accessZeroed_eq_zeroable hz hu hmz hs hne
    refine ⟨s.accessOp c w four [] [], rfl, rfl, rfl, rfl, ite_self _, rfl, beq_iff_eq, hzd, ?_⟩
    rw [hx, State.issueAccess_faults hsb hr hsel hu four hP, if_neg (hzd ▸ hm), hzd]
    rfl
  · subst hl
    rw [hx, State.issueAccess_uniform hsb hr hu four hP]
  · -- every lane lies beyond its scratchpad
    obtain ⟨l, ls, hls⟩ := List.exists_cons_of_ne_nil (Ctx.accessLanes_ne_nil ha)
    have hl : c.accessLanes.head? = some l := by rw [hls]; rfl
    rw [State.issueAccess_beyond hsb hr hre ha four hP hl] at hx
    have hv := State.ctx?_violate hd.here hd.ref (s.tagOf c l ⟨9, 1, addr l, w.kind.access⟩) 1
    obtain ⟨t, c', lf, ht, hwd, hct, hpast, hso, -, -⟩ := h.startsAccess ((State.Accounts.noteIssue hc hr w.i _).trans (.violate _ c _ 1)) hv
      (hd.replay hr) hdg hdp (s.accessOp c w four [] c.accessLanes) (c.accessRegs w) (laneSet c.accessLanes ||| c.accessZeroed w)
    rw [← ht] at hx
    refine ⟨t, c', { s.accessOp c w four [] c.accessLanes with id := s.nextId }, hx, hct, hpast, ?_, rfl, rfl, rfl, rfl, ?_⟩
    · obtain ⟨-, ls, os, g, rfl⟩ := hso
      rw [AccessWord.dropFlagOps_flags]
      rfl
    · rw [hl, hwd.beyond.violation, ← hd.beyond.violation]
      rfl

end Sys2Proof.Machine
end

section
/-! SUPPORT. What the writes of an image leave of every group (R58, R60, R290): all but the order of its later accesses, and, for a spill, the state of its
lines. A word that a path waits at goes on once such writes are done. -/

namespace Sys2Proof.Machine

/-! ### Groups but for what a change touches -/

/-- A group without what orders its later accesses, and its paths', after its earlier ones (R260). -/
def Group.unlinked (z : Group) : Group := { z with wrote := [], paths := z.paths.map Path.unordered }

/-- A group without that order, and without the state of its lines. -/
def Group.unspilled (z : Group) : Group := { z.unlinked with lines := [], spilled := [] }

/-- The cycle and every group stand, as far as `f` looks. -/
def State.SameGroups {α : Type} (f : Group → α) (s t : State) : Prop := t.cycle = s.cycle ∧ ∀ l b g, (t.group? l b g).map f = (s.group? l b g).map f

section
variable {α : Type} {f : Group → α}

theorem State.SameGroups.refl (s : State) : State.SameGroups f s s := ⟨rfl, fun _ _ _ => rfl⟩

theorem State.SameGroups.trans {s t u : State} (h : State.SameGroups f s t) (k : State.SameGroups f t u) : State.SameGroups f s u :=
  ⟨k.1.trans h.1, fun l b g => (k.2 l b g).trans (h.2 l b g)⟩

theorem State.SameGroups.ofLaunches {s t : State} (hc : t.cycle = s.cycle) (hl : t.launches = s.launches) : State.SameGroups f s t :=
  ⟨hc, fun l b g => by rw [State.group?_congr hl]⟩

theorem State.SameGroups.updGroup (s : State) (l b g : Nat) {h : Group → Group} (hi : ∀ z, (h z).index = z.index) (hf : ∀ z, f (h z) = f z) :
    State.SameGroups f s (s.updGroup l b g h) := by
  refine ⟨rfl, fun k j i => ?_⟩
  rw [State.group?_updGroup s l b g h hi, Option.map_map]
  refine congrArg (Option.map · _) (funext fun z => ?_)
  simp only [Function.comp]
  split
  · exact hf z
  · rfl

theorem State.SameGroups.foldl {β : Type} (s : State) (h : State → β → State) (hh : ∀ u a, State.SameGroups f u (h u a)) (as : List β) :
    State.SameGroups f s (as.foldl h s) :=
  List.foldlRecOn (motive := State.SameGroups f s) as h (.refl s) fun u hu a _ => hu.trans (hh u a)

theorem State.SameGroups.map {β : Type} {s t : State} (h : State.SameGroups f s t) {g : Group → β} (k : α → β) (hg : ∀ z, g z = k (f z)) :
    State.SameGroups g s t := by
  have e : g = k ∘ f := funext hg
  exact ⟨h.1, fun l b i => by rw [e, ← Option.map_map, h.2 l b i, Option.map_map]⟩

end

/-! ### The writes of an image -/

theorem State.enter_launches (s : State) (vs : List Nat) (t : Transit) :
    (s.enter vs t).cycle = s.cycle ∧ (s.enter vs t).launches = s.launches := by
  obtain ⟨ds, tr, m, h⟩ := State.sameButMemory_applyAll
    ({ s with nextId := s.nextId + 1, transit := s.transit ++ [{ t with id := s.nextId, clock := (s.view t.die).clock, moment := s.moment }],
              moment := s.moment + 1 } : State) s.moment vs { t with id := s.nextId, clock := (s.view t.die).clock, moment := s.moment }
  rw [State.enter, h]
  exact ⟨rfl, rfl⟩

theorem State.carryTo_launches (s : State) (vs : List Nat) (sel : Transit → Bool) :
    (s.carryTo vs sel).cycle = s.cycle ∧ (s.carryTo vs sel).launches = s.launches := by
  have h : s.SameButMemory (s.carryTo vs sel) := by
    rw [State.carryTo_eq]
    exact ((State.SameButMemory.refl s).foldl fun u t => u.sameButMemory_applyAll s.moment vs t).trans (State.sameButMemory_settle _ _)
  obtain ⟨ds, tr, m, h⟩ := h
  rw [h]
  exact ⟨rfl, rfl⟩

theorem State.SameGroups.launchWrite {α : Type} {f : Group → α} (s : State) (vs : List Nat) (t : Transit) :
    State.SameGroups f s (s.launchWrite vs t) := by
  rw [State.launchWrite_eq]
  refine State.SameGroups.trans (t := if t.preds.isEmpty then s else s.carryTo vs fun u => t.preds.contains u.id) ?_ ?_
  · split
    · exact .refl s
    · exact .ofLaunches (s.carryTo_launches _ _).1 (s.carryTo_launches _ _).2
  · exact .ofLaunches (State.enter_launches _ _ _).1 (State.enter_launches _ _ _).2

theorem State.SameGroups.noteImage (s : State) (l b g id pa n : Nat) : State.SameGroups Group.unlinked s (s.noteImage l b g id pa n) := by
  refine .updGroup s l b g (fun _ => rfl) fun z => ?_
  simp only [Group.unlinked, List.map_map]
  congr 1
  refine List.map_congr_left fun p _ => ?_
  simp only [Function.comp]
  split <;> rfl

theorem State.SameGroups.charge {α : Type} {f : Group → α} (s : State) (o pa n : Nat) : State.SameGroups f s (s.charge o pa n) := .ofLaunches rfl rfl

theorem State.SameGroups.clearPoison {α : Type} {f : Group → α} (s : State) (ranges : List (Nat × Nat)) :
    State.SameGroups f s (s.clearPoison ranges) := .ofLaunches rfl rfl

/-- One piece of an image, which lies on one page, is written at `pa`. -/
def State.pieceWrite (s : State) (x : Launch) (y : Block) (g core lane pa : Nat) (bs : List Byte) (n : Nat) : State :=
  (((s.writeOrdinary ⟨x.seq, y.index, g, 0⟩ lane (dieOf core) pa bs (s.imageBefore x.seq y.index pa n)).noteImage x.seq y.index g s.nextId pa n).charge
    x.owner pa n).clearPoison [(pa, n)]

theorem State.SameGroups.pieceWrite (s : State) (x : Launch) (y : Block) (g core lane pa : Nat) (bs : List Byte) (n : Nat) :
    State.SameGroups Group.unlinked s (s.pieceWrite x y g core lane pa bs n) := by
  have h1 : State.SameGroups Group.unlinked s
      (s.writeOrdinary ⟨x.seq, y.index, g, 0⟩ lane (dieOf core) pa bs (s.imageBefore x.seq y.index pa n)) := .launchWrite s _ _
  exact ((h1.trans (.noteImage _ x.seq y.index g s.nextId pa n)).trans (.charge _ x.owner pa n)).trans (.clearPoison _ [(pa, n)])

theorem State.SameGroups.imageWrite (s : State) (x : Launch) (y : Block) (g core va : Nat) (bs : List Byte) (lane : Nat) :
    State.SameGroups Group.unlinked s (s.imageWrite x y g core va bs lane) := by
  refine .foldl s _ (fun u pc => ?_) _
  split
  · exact .refl u
  next pa _ => exact .pieceWrite u x y g core lane pa ((bs.drop pc.2.1).take pc.2.2) pc.2.2

/-- The lines of a group after one of them is spilled: it is clean, and its image holds it (R58). -/
def Group.spill (z : Group) (n : Nat) : Group :=
  { z with lines := z.lines.map fun l => if l.n = n then { l with dirty := false } else l
           spilled := if z.spilled.contains n then z.spilled else z.spilled ++ [n] }

/-- The state in which the image of a line holds the line, before the line counts as clean. -/
def State.lineOut (s : State) (x : Launch) (y : Block) (z : Group) (n : Nat) : State :=
  s.imageWrite x y z.index z.core (x.header.ctxOf y.slot z.index + lineOff n) ((s.shown x z).lineBytes n) 97

/-- Only marks are new: of one block after the other, where it is marked. -/
theorem State.onlyPoison_foldl {α : Type} (s : State) {f : State → α → State} (hf : ∀ (u : State) (a : α), ∃ po, f u a = { u with poison := po })
    (as : List α) : ∃ po, as.foldl f s = { s with poison := po } := by
  refine List.foldlRecOn (motive := fun u : State => ∃ po, u = { s with poison := po }) as f ⟨s.poison, rfl⟩ fun u hu a _ => ?_
  obtain ⟨po, rfl⟩ := hu
  obtain ⟨po', h⟩ := hf { s with poison := po } a
  exact ⟨po', h⟩

theorem State.markPoison_eq (s : State) (pa : Nat) : ∃ po, s.markPoison pa = { s with poison := po } := by
  unfold State.markPoison
  split
  · exact ⟨s.poison, rfl⟩
  · exact ⟨_, rfl⟩

/-- What a spill does beyond the writes of the image: marks, metering, free values. -/
theorem State.spillLine_eq (s : State) (x : Launch) (y : Block) (z : Group) (n : Nat) :
    ∃ os po, s.spillLine x y z n = ({ s.lineOut x y z n with owners := os, poison := po } : State).updGroup x.seq y.index z.index fun z => z.spill n := by
  unfold State.spillLine
  extract_lets va s1 bad s2 s3
  have h1 : ∃ os, s1 = { s.lineOut x y z n with owners := os } := ⟨_, (rfl : s1 = (s.lineOut x y z n).takeFreeOf x.owner (96 * z.unseen.length))⟩
  clear_value s1
  obtain ⟨os, rfl⟩ := h1
  have h2 : ∃ po, s2 = { s.lineOut x y z n with owners := os, poison := po } := by
    simp only [s2]
    split
    · refine State.onlyPoison_foldl _ (fun u k => ?_) _
      split
      · exact u.markPoison_eq _
      · exact ⟨u.poison, rfl⟩
    · exact ⟨_, rfl⟩
  clear_value s2
  obtain ⟨po, rfl⟩ := h2
  exact ⟨_, po, rfl⟩

end Sys2Proof.Machine
end

section
/-! SUPPORT. A path that waits at a word goes on (R115, R153, R229, R231, R255). -/

namespace Sys2Proof.Machine

/-! ### A spill leaves every group but for its lines -/

theorem State.SameGroups.spillLine (s : State) (x : Launch) (y : Block) (z : Group) (n : Nat) :
    State.SameGroups Group.unspilled s (s.spillLine x y z n) := by
  obtain ⟨os, po, h⟩ := s.spillLine_eq x y z n
  have h1 : State.SameGroups Group.unspilled s (s.lineOut x y z n) :=
    (State.SameGroups.imageWrite s x y z.index z.core _ _ 97).map (fun z => { z with lines := [], spilled := [] }) fun _ => rfl
  have h2 : State.SameGroups Group.unspilled (s.lineOut x y z n) { s.lineOut x y z n with owners := os, poison := po } := .ofLaunches rfl rfl
  rw [h]
  exact (h1.trans h2).trans (.updGroup _ x.seq y.index z.index (fun _ => rfl) fun _ => rfl)

theorem State.SameGroups.wspillWrites (s : State) (c : Ctx) (lo n : Nat) (areas : List (Nat × List Byte)) :
    State.SameGroups Group.unspilled s (s.wspillWrites c lo n areas) := by
  refine State.SameGroups.trans (t := s.spillLines c.launch c.block c.group fun k => n == 0 || (decide (lo ≤ k) && decide (k < lo + n))) ?_ ?_
  · exact .foldl s _ (fun u k => .spillLine u c.launch c.block c.group k) _
  · refine .foldl _ _ (fun u e => ?_) areas
    exact (State.SameGroups.imageWrite u c.launch c.block c.group.index c.group.core _ e.2 96).map
      (fun z => { z with lines := [], spilled := [] }) fun _ => rfl

/-! ### The path and its registers after it -/

theorem Group.unspilled_paths {y z : Group} (h : y.unspilled = z.unspilled) (k : Nat) :
    (y.paths[k]?).map Path.unordered = (z.paths[k]?).map Path.unordered := by
  have hp : y.paths.map Path.unordered = z.paths.map Path.unordered := congrArg Group.paths h
  rw [← List.getElem?_map, hp, List.getElem?_map]

/-- Where a path stands, and its own registers, are no part of the order of its accesses. -/
theorem Path.of_unordered {p q : Path} (h : p.unordered = q.unordered) :
    p.valid = q.valid ∧ p.priv = q.priv ∧ p.mask = q.mask ∧ p.placeAfter p.rawSpan = q.placeAfter q.rawSpan := by
  have hv := congrArg Path.valid h
  have hp := congrArg Path.priv h
  have hm := congrArg Path.mask h
  have hs := congrArg (fun p : Path => p.placeAfter p.rawSpan) h
  exact ⟨hv, hp, hm, hs⟩

/-- The order of accesses and the lines' state are no part of what a register reads. -/
theorem Group.getReg_unspilled {y z : Group} (h : y.unspilled = z.unspilled) (l b k : Nat) (r : LaneReg) (i : Nat) :
    y.getReg l b k r i = z.getReg l b k r i := by
  obtain ⟨hs, ho, ht, hd⟩ : y.scalars = z.scalars ∧ y.oper = z.oper ∧ y.stack = z.stack ∧ y.depth = z.depth := by
    simpa [Group.unspilled, Group.unlinked] using congrArg (fun u : Group => (u.scalars, u.oper, u.stack, u.depth)) h
  have hk := Group.unspilled_paths h k
  obtain ⟨hp, hm⟩ : (y.paths.getD k Path.dead).priv = (z.paths.getD k Path.dead).priv ∧
      (y.paths.getD k Path.dead).mask = (z.paths.getD k Path.dead).mask := by
    rw [List.getD_eq_getElem?_getD, List.getD_eq_getElem?_getD]
    cases hy : y.paths[k]? with
    | none => cases hz : z.paths[k]? <;> simp [hy, hz] at hk ⊢
    | some p =>
      cases hz : z.paths[k]? with
      | none => simp [hy, hz] at hk
      | some q =>
        rw [hy, hz] at hk
        obtain ⟨-, hp, hm, -⟩ := Path.of_unordered (Option.some.inj hk)
        exact ⟨hp, hm⟩
  exact Group.getReg_congr hs ho ht hd hp hm r i

theorem State.group?_of_ctx? {s : State} {r : PathRef} {c : Ctx} (h : s.ctx? r = some c) : s.group? r.launch r.block r.group = some c.group := by
  obtain ⟨-, hx, hy, hz, -, -⟩ := State.ctx?_parts h
  simp [State.group?, State.block?, hx, hy, hz]

/-- A live path of a group that is there is at hand. -/
theorem State.ctx?_of_group? {s : State} {r : PathRef} {z : Group} {p : Path} (hz : s.group? r.launch r.block r.group = some z)
    (hp : z.paths[r.path]? = some p) (hv : p.valid = true) : ∃ c, s.ctx? r = some c ∧ c.group = z ∧ c.path = p := by
  obtain ⟨y, hy, hg⟩ := Option.bind_eq_some_iff.mp hz
  obtain ⟨x, hx, hb⟩ := Option.bind_eq_some_iff.mp hy
  exact ⟨⟨r, x, y, z, p⟩, State.ctx?_of_parts hx hb hg hp hv, rfl, rfl⟩

theorem State.SameGroups.ctx? {s t : State} (h : State.SameGroups Group.unspilled s t) {c : Ctx} (hc : s.ctx? c.ref = some c) :
    ∃ d, t.ctx? c.ref = some d ∧ d.group.unspilled = c.group.unspilled ∧ d.path.unordered = c.path.unordered := by
  obtain ⟨-, -, -, -, hp, hv⟩ := State.ctx?_parts hc
  have hg := h.2 c.ref.launch c.ref.block c.ref.group
  rw [State.group?_of_ctx? hc] at hg
  obtain ⟨z, hz, hzc⟩ := Option.map_eq_some_iff.mp hg
  have hk := Group.unspilled_paths hzc c.ref.path
  rw [hp] at hk
  obtain ⟨p, hzp, hpc⟩ := Option.map_eq_some_iff.mp hk
  have hpv : p.valid = true := (Path.of_unordered hpc).1.trans hv
  obtain ⟨d, hd, rfl, rfl⟩ := State.ctx?_of_group? hz hzp hpv
  exact ⟨d, hd, hzc, hpc⟩

/-- A path that is done with the word at which it waits. -/
def Path.passed (p : Path) : Path := { p.advance p.rawSpan with status := .ready }

theorem Path.passed_spec (p : Path) : p.passed.valid = p.valid ∧ p.passed.priv = p.priv ∧ p.passed.mask = p.mask ∧ p.passed.pfx = none ∧
    (p.passed.pc, p.passed.idx) = p.placeAfter p.rawSpan :=
  ⟨Path.advance_valid _ _, Path.advance_priv _ _, Path.advance_mask _ _, Path.advance_pfx _ _, Path.advance_place _ _⟩

theorem State.passWord_eq (s : State) (r : PathRef) : s.passWord r = s.updPath r Path.passed := rfl

/-- The path of `c` goes on past the word at which it waits, once whatever else changes its group's lines and order alone. -/
theorem State.SameGroups.goesOn {s t : State} (h : State.SameGroups Group.unspilled s t) {c : Ctx} (hc : s.ctx? c.ref = some c) :
    c.GoesOn s (t.passWord c.ref) := by
  obtain ⟨d, hd, hdg, hdp⟩ := h.ctx? hc
  obtain ⟨hdr, -, -, -, hp, hv⟩ := State.ctx?_parts hd
  obtain ⟨-, -, -, hplace⟩ := Path.of_unordered hdp
  obtain ⟨hvp, -, -, hpfx, hpl⟩ := d.path.passed_spec
  rw [State.passWord_eq]
  refine ⟨_, State.ctx?_updPath hd Path.passed (hvp.trans hv), rfl, hpl.trans hplace, hpfx, fun r l _ => ?_, h.1⟩
  have hreg := Group.getReg_updPath d.group c.ref.path Path.passed (fun p => ⟨p.passed_spec.2.1, p.passed_spec.2.2.1⟩) c.ref.launch c.ref.block r l
  rw [Group.getReg_unspilled hdg] at hreg
  exact (congrArg (fun q : PathRef => (d.group.updPath c.ref.path Path.passed).getReg q.launch q.block q.path r l) hdr).trans hreg

end Sys2Proof.Machine
end

section
/-! SUPPORT. What releases a held path (R63, R115, R153, R229, R231, R250, R255, R347). -/

namespace Sys2Proof.Machine

/-- A path of a block that is away is not released. -/
theorem exec_pathHoldRelease_away {s : State} {c : Ctx} (hc : s.ctx? c.ref = some c) (ha : c.block.cluster = none) :
    exec (.pathHoldRelease c.ref) s = .next s := by
  change execPathHoldRelease c.ref s = _
  simp [execPathHoldRelease, hc, ha]

section
variable {s : State} {c : Ctx} (hc : s.ctx? c.ref = some c) (hr : c.block.cluster.isSome = true)
include hc hr

theorem exec_pathHoldRelease_counter {k : Nat} (hw : c.path.status = .waiting (.counter k)) :
    exec (.pathHoldRelease c.ref) s = .next (if c.group.sbCount k < 63 then s.setStatus c.ref .ready else s) := by
  change execPathHoldRelease c.ref s = _
  simp [execPathHoldRelease, hc, Option.isNone_eq_false_iff.mpr hr, hw]

theorem exec_pathHoldRelease_pump {ls : List Nat} (hw : c.path.status = .waiting (.pump ls)) : exec (.pathHoldRelease c.ref) s =
    .next (if ∀ n ∈ ls, n ∈ c.path.served ∨ ∃ e ∈ c.group.lines, e.n = n then s.setStatus c.ref .ready else s) := by
  change execPathHoldRelease c.ref s = _
  simp [execPathHoldRelease, hc, Option.isNone_eq_false_iff.mpr hr, hw]

theorem exec_pathHoldRelease_drain {ids : List Nat} (hw : c.path.status = .waiting (.drain ids)) : exec (.pathHoldRelease c.ref) s =
    .next (if ∃ o ∈ s.ops, o.id ∈ ids then s else s.setStatus c.ref .ready) := by
  change execPathHoldRelease c.ref s = _
  simp [execPathHoldRelease, hc, Option.isNone_eq_false_iff.mpr hr, hw]

theorem exec_pathHoldRelease_wspill {lo n : Nat} {areas : List (Nat × List Byte)} (hw : c.path.status = .waiting (.wspill lo n areas)) :
    exec (.pathHoldRelease c.ref) s =
      .next (if s.pumpHeld c.launch = true then s else (s.wspillWrites c lo n areas).passWord c.ref) := by
  change execPathHoldRelease c.ref s = _
  simp [execPathHoldRelease, State.wspillEnds, hc, Option.isNone_eq_false_iff.mpr hr, hw]

theorem exec_pathHoldRelease_mwait {k : Nat} (hw : c.path.status = .waiting (.mwait k)) : exec (.pathHoldRelease c.ref) s =
    .next (if s.mmaPending c.ref c.group.core k = true then s else s.passWord c.ref) := by
  change execPathHoldRelease c.ref s = _
  simp [execPathHoldRelease, hc, Option.isNone_eq_false_iff.mpr hr, hw]

theorem exec_pathHoldRelease_accFree {m : Word} (hw : c.path.status = .waiting (.accFree m)) : exec (.pathHoldRelease c.ref) s =
    .next (if s.mmaWrites c.group.core m = true then s else (s.freeTiles c.ref c.group.core m).passWord c.ref) := by
  change execPathHoldRelease c.ref s = _
  simp [execPathHoldRelease, hc, Option.isNone_eq_false_iff.mpr hr, hw]

theorem exec_pathHoldRelease_latch {m : MmaArgs} (hw : c.path.status = .waiting (.latch m)) (ho : c.block.orphan c.group c.path = true) :
    exec (.pathHoldRelease c.ref) s = .next (s.faultPath c ⟨10, 3, 0, 3⟩ false) := by
  change execPathHoldRelease c.ref s = _
  simp [execPathHoldRelease, hc, Option.isNone_eq_false_iff.mpr hr, hw, ho]

/-- A path that waits at `wspill` writes what a tier cap held once the cap lets it, and goes on (R255). -/
theorem wspill_released {lo n : Nat} {areas : List (Nat × List Byte)} (hw : c.path.status = .waiting (.wspill lo n areas)) :
    (s.pumpHeld c.launch = true → exec (.pathHoldRelease c.ref) s = .next s) ∧
      (s.pumpHeld c.launch = false → ∃ t, exec (.pathHoldRelease c.ref) s = .next t ∧ c.GoesOn s t) := by
  rw [exec_pathHoldRelease_wspill hc hr hw]
  refine ⟨fun h => by rw [if_pos h], fun h => ⟨_, by rw [h, if_neg Bool.false_ne_true], ?_⟩⟩
  exact (State.SameGroups.wspillWrites s c lo n areas).goesOn hc

/-- A path that waits at `mwait` goes on once its group's tile has no job (R229). -/
theorem mwait_released {k : Nat} (hw : c.path.status = .waiting (.mwait k)) :
    (s.mmaPending c.ref c.group.core k = true → exec (.pathHoldRelease c.ref) s = .next s) ∧
      (s.mmaPending c.ref c.group.core k = false → ∃ t, exec (.pathHoldRelease c.ref) s = .next t ∧ c.GoesOn s t ∧ t.tiles = s.tiles) := by
  rw [exec_pathHoldRelease_mwait hc hr hw]
  exact ⟨fun h => by rw [if_pos h], fun h => ⟨_, by rw [h, if_neg Bool.false_ne_true], (State.SameGroups.refl s).goesOn hc, rfl⟩⟩

/-- A path that waits at `acc.free` frees its tiles once no job writes one, and goes on (R231). -/
theorem accFree_released {m : Word} (hw : c.path.status = .waiting (.accFree m)) :
    (s.mmaWrites c.group.core m = true → exec (.pathHoldRelease c.ref) s = .next s) ∧
      (s.mmaWrites c.group.core m = false → ∃ t, exec (.pathHoldRelease c.ref) s = .next t ∧ c.GoesOn s t ∧
        ∀ u ∈ s.tiles, u ∈ t.tiles ↔ ¬(u.core = c.group.core ∧ m.getLsbD u.t = true ∧ u.launch = c.ref.launch ∧ u.block = c.ref.block)) := by
  rw [exec_pathHoldRelease_accFree hc hr hw]
  refine ⟨fun h => by rw [if_pos h], fun h => ⟨_, by rw [h, if_neg Bool.false_ne_true], ?_, fun u hu => ?_⟩⟩
  · exact (State.SameGroups.ofLaunches (t := s.freeTiles c.ref c.group.core m) rfl rfl).goesOn hc
  · show u ∈ (s.freeTiles c.ref c.group.core m).tiles ↔ _
    simp only [State.freeTiles, List.mem_filter, hu, true_and]
    rw [Bool.not_eq_true', Bool.eq_false_iff]
    simp [and_assoc]

end

/-- A path that stands before a clause goes on once the counters that the clause names read zero (R115). -/
theorem clauseWait_released {s : State} {c : Ctx} (hc : s.ctx? c.ref = some c) (hw : c.path.status = .waiting .clause) :
    (c.group.waitClear c.path.header = false → exec (.clauseWaitClear c.ref) s = .next s) ∧
      (c.group.waitClear c.path.header = true → ∃ t c', exec (.clauseWaitClear c.ref) s = .next t ∧ t.ctx? c.ref = some c' ∧
        c'.path = { c.path with status := .ready } ∧ t = { s with launches := t.launches }) := by
  have hx : exec (.clauseWaitClear c.ref) s = .next (if c.group.waitClear c.path.header then s.setStatus c.ref .ready else s) := by
    change execClauseWaitClear c.ref s = _
    simp [execClauseWaitClear, hc, hw]
  rw [hx]
  have hready := State.ctx?_updPath hc (fun p => { p with status := .ready }) (State.ctx?_parts hc).2.2.2.2.2
  exact ⟨fun h => by rw [h, if_neg Bool.false_ne_true], fun h => ⟨_, _, (congrArg Host.Outcome.next (if_pos h)).trans rfl, hready, rfl, rfl⟩⟩

end Sys2Proof.Machine
end

section
/-! SUPPORT. Bytes that a view of device memory takes: of a write in transit that it applies, and of an image (R58, R259, R290). -/

namespace Sys2Proof.Machine

/-! ### Bytes at one view -/

/-- View `v` takes `bs` from `pa` on, and every other byte of every view stands. -/
def State.Writes (s t : State) (v pa : Nat) (bs : List Byte) : Prop := ∀ view q, Sparse.get (w := 8) (t.view view).mem q =
  if view = v ∧ pa ≤ q ∧ q < pa + bs.length then bs.getD (q - pa) 0 else Sparse.get (w := 8) (s.view view).mem q

theorem State.view_congr {s t : State} (h : t.dies = s.dies) (v : Nat) : t.view v = s.view v := by rw [State.view, h, State.view]

theorem State.Writes.congr {s t u : State} {v pa : Nat} {bs : List Byte} (h : s.Writes t v pa bs) (hd : u.dies = t.dies) : s.Writes u v pa bs :=
  fun view q => by rw [State.view_congr hd, h view q]

theorem State.Writes.nothing {s t : State} (v pa : Nat) (hd : t.dies = s.dies) : s.Writes t v pa [] := fun view q => by
  rw [State.view_congr hd, if_neg (by simp)]

/-- What a view reads where it holds given bytes. -/
theorem State.readPhys_of_bytes {t : State} {v pa : Nat} {bs : List Byte}
    (h : ∀ q, pa ≤ q → q < pa + bs.length → Sparse.get (w := 8) (t.view v).mem q = bs.getD (q - pa) 0) : t.readPhys v pa bs.length = bs := by
  apply List.ext_getElem
  · simp [State.readPhys, Memory.read]
  · intro i h1 h2
    simp only [State.readPhys, Memory.read, List.getElem_map, List.getElem_range]
    rw [h (pa + i) (by omega) (by omega), Nat.add_sub_cancel_left]
    simp [List.getD_eq_getElem?_getD, h2]

theorem State.Writes.read_same {s t : State} {v pa : Nat} {bs : List Byte} (h : s.Writes t v pa bs) : t.readPhys v pa bs.length = bs :=
  State.readPhys_of_bytes fun q hlo hhi => by rw [h v q, if_pos ⟨rfl, hlo, hhi⟩]

theorem State.readPhys_one (s : State) (view q : Nat) : s.readPhys view q 1 = [Sparse.get (w := 8) (s.view view).mem q] := rfl

theorem State.Writes.read_other {s t : State} {v pa : Nat} {bs : List Byte} (h : s.Writes t v pa bs) {view q : Nat}
    (hq : ¬(view = v ∧ pa ≤ q ∧ q < pa + bs.length)) : t.readPhys view q 1 = s.readPhys view q 1 := by
  rw [State.readPhys_one, State.readPhys_one, h view q, if_neg hq]

/-- Bytes that follow one another are taken one piece after the other. -/
theorem State.Writes.append {s t u : State} {v pa n : Nat} {as bs : List Byte} (h : s.Writes t v pa as) (hn : as.length = n)
    (k : t.Writes u v (pa + n) bs) : s.Writes u v pa (as ++ bs) := by
  subst hn
  intro view q
  rw [k view q, h view q, List.length_append, List.getD_eq_getElem?_getD, List.getD_eq_getElem?_getD, List.getD_eq_getElem?_getD]
  by_cases h2 : view = v ∧ pa + as.length ≤ q ∧ q < pa + as.length + bs.length
  · rw [if_pos h2, if_pos ⟨h2.1, by omega, by omega⟩, List.getElem?_append_right (by omega)]
    congr 2
    omega
  · rw [if_neg h2]
    by_cases h1 : view = v ∧ pa ≤ q ∧ q < pa + as.length
    · rw [if_pos h1, if_pos ⟨h1.1, by omega, by omega⟩, List.getElem?_append_left (by omega)]
    · rw [if_neg h1, if_neg]
      rintro ⟨hv, hlo, hhi⟩
      simp only [hv, true_and] at h1 h2
      omega

/-! ### Writes in transit -/

/-- A view that has not applied a write of a lane takes its bytes. -/
theorem State.applyAt_writes {s : State} {t : Transit} {v : Nat} (m : Nat) (ha : t.atomic = false) (hn : v ∉ t.applied) (hv : v < s.dies.length) :
    s.Writes (s.applyAt m t v) v t.addr t.bytes := by
  have hc : t.applied.contains v = false := by simpa using hn
  have hland (d : Die) : (d.land m t).mem = Memory.write d.mem t.addr t.bytes := by
    unfold Die.land
    rw [ha]
    rfl
  intro view q
  unfold State.applyAt
  rw [hc, if_neg Bool.false_ne_true]
  simp only [State.view, List.getD_eq_getElem?_getD, List.getElem?_modify]
  by_cases hvv : view = v
  · subst hvv
    simp [hv, hland, Memory.get_write]
  · simp [hvv, Ne.symm hvv]

/-- Every write in transit has its number, and ends at or before `pa`. -/
def State.EndsBy (s : State) (pa : Nat) : Prop := ∀ u ∈ s.transit, u.id < s.nextId ∧ u.addr + u.bytes.length ≤ pa

/-- A write that enters transit has its number, its die's clock and the moment. -/
def State.stamped (s : State) (t : Transit) : Transit := { t with id := s.nextId, clock := (s.view t.die).clock, moment := s.moment }

/-- The state in which it is in transit, applied nowhere. -/
def State.withNew (s : State) (t : Transit) : State :=
  { s with nextId := s.nextId + 1, transit := s.transit ++ [s.stamped t], moment := s.moment + 1 }

theorem State.withNew_transitOf {s : State} (h : ∀ u ∈ s.transit, u.id < s.nextId) (t : Transit) :
    (s.withNew t).transitOf (s.stamped t) = s.stamped t := by
  have hn : s.transit.find? (fun u => u.id == s.nextId) = none := List.find?_eq_none.mpr fun u hu => by simpa using (h u hu).ne
  have hf : (s.withNew t).transit.find? (fun u => u.id == (s.stamped t).id) = some (s.stamped t) := by
    show (s.transit ++ [s.stamped t]).find? (fun u => u.id == s.nextId) = _
    rw [List.find?_append, hn, Option.none_or, List.find?_cons_of_pos (by simp [State.stamped])]
  rw [State.transitOf, hf, Option.getD_some]

theorem State.enter_one {s : State} (h : ∀ u ∈ s.transit, u.id < s.nextId) (v : Nat) (t : Transit) :
    s.enter [v] t = ((s.withNew t).applyAt s.moment (s.stamped t) v).settle :=
  congrArg (fun u => ((s.withNew t).applyAt s.moment u v).settle) (State.withNew_transitOf h t)

theorem State.mem_applyAt_transit {s : State} {m v : Nat} {t u : Transit} (h : u ∈ (s.applyAt m t v).transit) :
    ∃ e ∈ s.transit, u.id = e.id ∧ u.addr = e.addr ∧ u.bytes = e.bytes := by
  unfold State.applyAt at h
  split at h
  · exact ⟨u, h, rfl, rfl, rfl⟩
  · obtain ⟨e, he, rfl⟩ := List.mem_map.mp h
    refine ⟨e, he, ?_⟩
    split <;> exact ⟨rfl, rfl, rfl⟩

/-- A new write is applied at the view that it enters at, and is in transit from then on. -/
theorem State.enter_writes {s : State} {v : Nat} {t : Transit} (ha : t.atomic = false) (hn : t.applied = []) (hv : v < s.dies.length)
    (hs : s.EndsBy t.addr) : s.Writes (s.enter [v] t) v t.addr t.bytes ∧ (s.enter [v] t).EndsBy (t.addr + t.bytes.length) := by
  have hnone : v ∉ (s.stamped t).applied := fun h => by
    rw [show (s.stamped t).applied = [] from hn] at h
    cases h
  rw [State.enter_one (fun u hu => (hs u hu).1)]
  refine ⟨fun view q => State.applyAt_writes (s := s.withNew t) (t := s.stamped t) s.moment ha hnone hv view q, fun u hu => ?_⟩
  obtain ⟨e, he, hid, haddr, hbytes⟩ := State.mem_applyAt_transit (List.mem_filter.mp hu).1
  have hnext : ((s.withNew t).applyAt s.moment (s.stamped t) v).settle.nextId = s.nextId + 1 := State.applyAt_nextId _ _ _ _
  rw [hid, haddr, hbytes, hnext]
  obtain he | he := List.mem_append.mp he
  · exact ⟨by have := (hs e he).1; omega, by have := (hs e he).2; omega⟩
  · rw [List.mem_singleton.mp he]
    exact ⟨Nat.lt_succ_self _, le_refl _⟩

end Sys2Proof.Machine
end

section
/-! SUPPORT. A line's image takes the line, on one page or two (R58, R60, R290). -/

namespace Sys2Proof.Machine

/-! ### One piece of an image -/

theorem State.imagePa_congr {s t : State} (h : s.KeepsTables t) (x : Launch) (y : Block) (va : Nat) : t.imagePa x y va = s.imagePa x y va := by
  have hv : t.vaRead x.owner va = s.vaRead x.owner va := by
    unfold State.vaRead Owner.translate Owner.entry?
    rw [h.tlb]
  unfold State.imagePa
  rw [hv]

theorem State.closed_nil (s : State) : s.closed [] = [] := by simp [State.closed]

theorem State.imageBefore_nil {s : State} {pa : Nat} (h : s.EndsBy pa) (l b n : Nat) : s.imageBefore l b pa n = [] := by
  have ho : s.overlapping pa n = [] := List.filter_eq_nil_iff.mpr fun u hu => by
    have := (h u hu).2
    simp
    omega
  rw [State.imageBefore, ho]
  exact s.closed_nil

theorem State.pieceWrite_keeps (s : State) (x : Launch) (y : Block) (g core lane pa : Nat) (bs : List Byte) (n : Nat) :
    s.Keeps (s.pieceWrite x y g core lane pa bs n) := (State.Keeps.refl s).writeOrdinary.noteImage.charge.clearPoison

theorem State.applyAt_dies_length (s : State) (m : Nat) (t : Transit) (v : Nat) : (s.applyAt m t v).dies.length = s.dies.length := by
  unfold State.applyAt
  split
  · rfl
  · exact List.length_modify _ _ _

/-- Beyond the write itself a piece takes no byte, and enters nothing into transit. -/
theorem State.pieceNoted_memory (u : State) (l b g id o pa n : Nat) (ranges : List (Nat × Nat)) :
    (((u.noteImage l b g id pa n).charge o pa n).clearPoison ranges).dies = u.dies ∧
      (((u.noteImage l b g id pa n).charge o pa n).clearPoison ranges).transit = u.transit ∧
      (((u.noteImage l b g id pa n).charge o pa n).clearPoison ranges).nextId = u.nextId := ⟨rfl, rfl, rfl⟩

theorem State.EndsBy.congr {s t : State} {pa : Nat} (h : s.EndsBy pa) (ht : t.transit = s.transit) (hn : t.nextId = s.nextId) : t.EndsBy pa :=
  fun u hu => hn ▸ h u (ht ▸ hu)

theorem State.pieceWrite_writes {s : State} {x : Launch} {y : Block} {g core lane pa : Nat} (hs : s.EndsBy pa) (hd : dieOf core < s.dies.length)
    (bs : List Byte) (n : Nat) :
    s.Writes (s.pieceWrite x y g core lane pa bs n) (dieOf core) pa bs ∧ (s.pieceWrite x y g core lane pa bs n).EndsBy (pa + bs.length) ∧
      (s.pieceWrite x y g core lane pa bs n).dies.length = s.dies.length := by
  have hw : s.writeOrdinary ⟨x.seq, y.index, g, 0⟩ lane (dieOf core) pa bs (s.imageBefore x.seq y.index pa n) =
      s.enter [dieOf core] (blankWrite ⟨x.seq, y.index, g, 0⟩ lane (dieOf core) pa bs []) := by
    rw [State.imageBefore_nil hs]
    rfl
  obtain ⟨hwr, hend⟩ := State.enter_writes (t := blankWrite ⟨x.seq, y.index, g, 0⟩ lane (dieOf core) pa bs []) rfl rfl hd hs
  have hlen : (s.enter [dieOf core] (blankWrite ⟨x.seq, y.index, g, 0⟩ lane (dieOf core) pa bs [])).dies.length = s.dies.length := by
    rw [State.enter_one fun u hu => (hs u hu).1]
    exact State.applyAt_dies_length _ _ _ _
  unfold State.pieceWrite
  rw [hw]
  obtain ⟨h1, h2, h3⟩ := State.pieceNoted_memory (s.enter [dieOf core] (blankWrite ⟨x.seq, y.index, g, 0⟩ lane (dieOf core) pa bs [])) x.seq y.index g
    s.nextId x.owner pa n [(pa, n)]
  exact ⟨hwr.congr h1, hend.congr h2 h3, h1 ▸ hlen⟩

/-! ### All of them -/

/-- What a write of an image does with one of its pieces. -/
def State.imagePiece (s : State) (x : Launch) (y : Block) (g core lane : Nat) (bs : List Byte) (pc : Nat × Nat × Nat) : State :=
  (s.imagePa x y pc.1).elim s fun pa => s.pieceWrite x y g core lane pa ((bs.drop pc.2.1).take pc.2.2) pc.2.2

theorem State.imageWrite_eq (s : State) (x : Launch) (y : Block) (g core va : Nat) (bs : List Byte) (lane : Nat) : s.imageWrite x y g core va bs lane =
    (pagePieces (bs.length / 8192 + 2) va 0 bs.length).foldl (fun u pc => u.imagePiece x y g core lane bs pc) s := by
  refine congrArg (fun f => (pagePieces (bs.length / 8192 + 2) va 0 bs.length).foldl f s) (funext fun u => funext fun pc => ?_)
  unfold State.imagePiece
  split
  next h => rw [h]; rfl
  next pa h => rw [h]; rfl

/-- Bytes whose addresses follow one another are written there, whatever pages they lie on. -/
theorem State.pagePieces_writes {x : Launch} {y : Block} {g core lane : Nat} {bs : List Byte} (k : Nat) : ∀ {s : State} {va off n pa : Nat},
    n = 0 ∨ va % 8192 + n ≤ 8192 * k → off + n ≤ bs.length → s.EndsBy pa → dieOf core < s.dies.length →
    (∀ j < n, s.imagePa x y (va + j) = some (pa + j)) →
    s.Writes ((pagePieces k va off n).foldl (fun u pc => u.imagePiece x y g core lane bs pc) s) (dieOf core) pa ((bs.drop off).take n) := by
  induction k with
  | zero =>
    intro s va off n pa hk ho hs hd hpa
    rw [show n = 0 by omega, List.take_zero]
    exact .nothing _ _ rfl
  | succ k ih =>
    intro s va off n pa hk ho hs hd hpa
    unfold pagePieces
    split
    next hn =>
      rw [hn, List.take_zero]
      exact .nothing _ _ rfl
    next hn =>
      dsimp only
      rw [List.foldl_cons]
      generalize hm : min n (8192 - va % 8192) = m
      have hpiece : s.imagePiece x y g core lane bs (va, off, m) = s.pieceWrite x y g core lane pa ((bs.drop off).take m) m := by
        have h0 := hpa 0 (by omega)
        simp only [Nat.add_zero] at h0
        rw [State.imagePiece, h0]
        rfl
      have hlen : ((bs.drop off).take m).length = m := by
        rw [List.length_take, List.length_drop]
        omega
      obtain ⟨hw, he, hl⟩ := State.pieceWrite_writes (x := x) (y := y) (g := g) (lane := lane) hs hd ((bs.drop off).take m) m
      have hkeep := (s.pieceWrite_keeps x y g core lane pa ((bs.drop off).take m) m).toKeepsTables
      rw [hpiece]
      rw [hlen] at he
      have hbound : n - m = 0 ∨ (va + m) % 8192 + (n - m) ≤ 8192 * k := by
        rcases Nat.le_total n (8192 - va % 8192) with h | h
        · exact .inl (by omega)
        · exact .inr (by omega)
      have hrest := ih (s := s.pieceWrite x y g core lane pa ((bs.drop off).take m) m) (va := va + m) (off := off + m) (n := n - m)
        (pa := pa + m) hbound (by omega) he (by rw [hl]; exact hd) (fun j hj => by
          rw [State.imagePa_congr hkeep, Nat.add_assoc, hpa _ (by omega), Nat.add_assoc])
      have happ := hw.append hlen hrest
      rw [← List.drop_drop, ← List.take_add, show m + (n - m) = n by omega] at happ
      exact happ

theorem State.imageWrite_writes {s : State} {x : Launch} {y : Block} {core va pa : Nat} {bs : List Byte} (hs : s.transit = [])
    (hd : dieOf core < s.dies.length) (hpa : ∀ j < bs.length, s.imagePa x y (va + j) = some (pa + j)) (g lane : Nat) :
    s.Writes (s.imageWrite x y g core va bs lane) (dieOf core) pa bs := by
  have h := State.pagePieces_writes (g := g) (lane := lane) (bs := bs) (bs.length / 8192 + 2) (s := s) (va := va) (off := 0) (n := bs.length) (pa := pa)
    (.inr (by omega)) (by omega) (fun u hu => by rw [hs] at hu; cases hu) hd hpa
  rw [List.drop_zero, List.take_length, ← State.imageWrite_eq] at h
  exact h

/-! ### A line -/

theorem leBytes_length (n v : Nat) : (leBytes n v).length = n := by
  induction n generalizing v with
  | zero => rfl
  | succ n ih => simp [leBytes, ih]

theorem Group.lineBytes_length (z : Group) (n : Nat) : (z.lineBytes n).length = 3072 := by
  simp [Group.lineBytes, leBytes_length, allLanes]

theorem State.shown_of_seen {z : Group} (h : z.unseen = []) (s : State) (x : Launch) : s.shown x z = z := by simp [State.shown, h]

/-- The image of a line that is spilled holds the line's registers, at the view of its group's die. -/
theorem State.spillLine_writes {s : State} {x : Launch} {y : Block} {z : Group} {n pa : Nat} (hu : z.unseen = []) (hs : s.transit = [])
    (hd : dieOf z.core < s.dies.length) (hpa : ∀ j < 3072, s.imagePa x y (x.header.ctxOf y.slot z.index + lineOff n + j) = some (pa + j)) :
    s.Writes (s.spillLine x y z n) (dieOf z.core) pa (z.lineBytes n) := by
  obtain ⟨os, po, h⟩ := s.spillLine_eq x y z n
  have hl : s.Writes (s.lineOut x y z n) (dieOf z.core) pa (z.lineBytes n) := by
    rw [State.lineOut, State.shown_of_seen hu]
    exact State.imageWrite_writes hs hd (by rw [Group.lineBytes_length]; exact hpa) z.index 97
  rw [h]
  exact hl.congr rfl

end Sys2Proof.Machine
end

section
/-! SUPPORT. The window pump: a refill brings a line in, a spill writes one out (R53, R58, R60, R362). -/

namespace Sys2Proof.Machine

theorem State.keys_of_group? {s : State} {x : Launch} {y : Block} {z : Group} {l b g : Nat} (hx : s.launch? l = some x) (hy : s.block? l b = some y)
    (hz : s.group? l b g = some z) : x.seq = l ∧ y.index = b ∧ z.index = g := by
  rw [State.group?, hy, Option.bind_some] at hz
  rw [State.block?, hx, Option.bind_some] at hy
  exact ⟨by simpa using List.find?_some hx, by simpa using List.find?_some hy, by simpa using List.find?_some hz⟩

/-! ### A refill -/

theorem Sparse.get_puts_words {w : Nat} (ws : List (BitVec w)) (m : Sparse w) (base i : Nat) (hi : i < ws.length) :
    (m.puts (ws.zipIdx.map fun e => (base + e.2, e.1))).get (base + i) = ws.getD i 0 := by
  induction ws using List.reverseRecOn with
  | nil => cases hi
  | append_singleton r v ih =>
    have hputs : m.puts (((r ++ [v]).zipIdx).map fun e => (base + e.2, e.1)) =
        (m.puts (r.zipIdx.map fun e => (base + e.2, e.1))).put (base + r.length) v := by
      simp [Sparse.puts, List.zipIdx_append]
    rw [hputs, Sparse.get_put]
    rw [List.length_append, List.length_singleton] at hi
    by_cases h : i = r.length
    · subst h
      simp
    · rw [if_neg (by omega), ih (by omega)]
      simp [List.getD_eq_getElem?_getD, List.getElem?_append_left (show i < r.length by omega)]

theorem bytesWords_length (n : Nat) (bs : List Byte) : (bytesWords n bs).length = n := by
  induction n generalizing bs with
  | zero => rfl
  | succ n ih => simp [bytesWords, ih]

/-- A path whose wait for line `n` is over. -/
def Path.withLine (p : Path) (n : Nat) : Path :=
  match p.status with
  | .waiting (.pump ls) => if ls.contains n then { p with status := .ready } else p
  | _ => p

theorem Path.withLine_served {p : Path} {ls : List Nat} {n : Nat} (hw : p.status = .waiting (.pump ls)) (hn : n ∈ ls) :
    p.withLine n = { p with status := .ready } := by
  simp [Path.withLine, hw, hn]

theorem Path.withLine_other {p : Path} {n : Nat} (h : ∀ ls, p.status = .waiting (.pump ls) → n ∉ ls) : p.withLine n = p := by
  unfold Path.withLine
  split
  next ls hw => rw [if_neg (by simpa using h ls hw)]
  next => rfl

/-- A group that line `n` enters, clean: as zeros, or as its image holds it. -/
def Group.withLine (z : Group) (n : Nat) (back bad : Bool) (bytes : List Byte) : Group :=
  { z with
    lines := z.lines ++ [⟨n, false, bad⟩]
    stack := if back then (z.stack.clear (768 * n) (768 * n + 768)).puts (lineEntries n bytes) else z.stack.clear (768 * n) (768 * n + 768)
    paths := z.paths.map fun p => p.withLine n }

theorem lineEntries_eq (n : Nat) (bs : List Byte) : lineEntries n bs = (bytesWords 768 bs).zipIdx.map fun e => (768 * n + e.2, e.1) := by
  have h : 96 * 8 * n = 768 * n := by omega
  unfold lineEntries
  rw [h]

theorem Group.withLine_stack_none (z : Group) (n : Nat) (bad : Bool) (bs : List Byte) :
    (z.withLine n false bad bs).stack = z.stack.clear (768 * n) (768 * n + 768) := by
  simp only [Group.withLine, Bool.false_eq_true, if_false]

theorem Group.withLine_stack_some (z : Group) (n : Nat) (bad : Bool) (bs : List Byte) : (z.withLine n true bad bs).stack =
    (z.stack.clear (768 * n) (768 * n + 768)).puts ((bytesWords 768 bs).zipIdx.map fun e => (768 * n + e.2, e.1)) := by
  have h := lineEntries_eq n bs
  simp only [Group.withLine, if_true, h]

/-- The registers of other lines stand. -/
theorem Group.withLine_stack_other (z : Group) {n : Nat} (back bad : Bool) (bs : List Byte) {k : Nat} (hk : k < 768 * n ∨ 768 * n + 768 ≤ k) :
    (z.withLine n back bad bs).stack.get k = z.stack.get k := by
  have hclear : (z.stack.clear (768 * n) (768 * n + 768)).get k = z.stack.get k := by rw [Sparse.get_clear, if_neg (by omega)]
  cases back with
  | false => rw [Group.withLine_stack_none, hclear]
  | true =>
    rw [Group.withLine_stack_some, Sparse.get_puts_other, hclear]
    intro e he
    obtain ⟨⟨v, i⟩, hi, rfl⟩ := List.mem_map.mp he
    have hlt := (List.mem_zipIdx hi).2.1
    rw [bytesWords_length] at hlt
    dsimp only
    omega

/-- A line that was never spilled enters as zeros (R58). -/
theorem Group.withLine_stack_zero (z : Group) (n : Nat) (bad : Bool) (bs : List Byte) {i : Nat} (hi : i < 768) :
    (z.withLine n false bad bs).stack.get (768 * n + i) = 0 := by
  rw [Group.withLine_stack_none, Sparse.get_clear, if_pos (by omega)]

/-- A line that was spilled enters as its image holds it (R58). -/
theorem Group.withLine_stack_back (z : Group) (n : Nat) (bad : Bool) (bs : List Byte) {i : Nat} (hi : i < 768) :
    (z.withLine n true bad bs).stack.get (768 * n + i) = (bytesWords 768 bs).getD i 0 := by
  rw [Group.withLine_stack_some, Sparse.get_puts_words _ _ _ _ (by rw [bytesWords_length]; exact hi)]

theorem State.chargeLine_eq (s : State) (x : Launch) (y : Block) (z : Group) (n : Nat) : ∃ os, s.chargeLine x y z n = { s with owners := os } := by
  have h : ∃ os, s.chargeImage x y x.owner (x.header.ctxOf y.slot z.index + lineOff n) 3072 = { s with owners := os } := by
    refine List.foldlRecOn (motive := fun u : State => ∃ os, u = { s with owners := os }) _ _ ⟨s.owners, rfl⟩ fun u hu pc _ => ?_
    obtain ⟨os, rfl⟩ := hu
    split
    · exact ⟨_, rfl⟩
    · exact ⟨os, rfl⟩
  obtain ⟨os, h⟩ := h
  rw [State.chargeLine, h]
  exact ⟨_, rfl⟩

theorem State.bringLine_eq (s : State) (x : Launch) (y : Block) (z : Group) (n : Nat) : ∃ os, s.bringLine x y z n =
    ({ s with owners := os } : State).updGroup x.seq y.index z.index fun u =>
      u.withLine n (z.spilled.contains n) (z.spilled.contains n && s.linePoisoned x y z n)
        (s.imageRead x y z.core (x.header.ctxOf y.slot z.index + lineOff n) 3072) := by
  obtain ⟨os, ho⟩ := s.chargeLine_eq x y z n
  have h : ∃ os, (if z.spilled.contains n then s.chargeLine x y z n else s) = { s with owners := os } := by
    split
    · exact ⟨os, ho⟩
    · exact ⟨s.owners, rfl⟩
  obtain ⟨os', ho'⟩ := h
  unfold State.bringLine
  extract_lets back bad bytes u
  have hu : ∃ os, u = { s with owners := os } := by
    have hc := congrArg (fun v : State => v.updOwner x.owner fun o => o.event 6 1) ho'
    exact ⟨os'.modify x.owner fun o => o.event 6 1, hc⟩
  clear_value u
  obtain ⟨os, rfl⟩ := hu
  exact ⟨os, rfl⟩

end Sys2Proof.Machine
end

section
/-! SUPPORT. The window pump's two events (R53, R58, R60, R362). -/

namespace Sys2Proof.Machine

section
variable {s : State} {x : Launch} {y : Block} {z : Group} {l b g : Nat} (hx : s.launch? l = some x) (hy : s.block? l b = some y)
  (hz : s.group? l b g = some z) (hr : y.cluster.isSome = true) (hf : z.freed = false)
include hx hy hz

theorem State.group?_updGroup_self {h : Group → Group} (hi : ∀ u, (h u).index = u.index) {t : State} (ht : t.launches = s.launches) :
    (t.updGroup x.seq y.index z.index h).group? l b g = some (h z) := by
  obtain ⟨hl, hb, hg⟩ := State.keys_of_group? hx hy hz
  rw [State.group?_updGroup t x.seq y.index z.index h hi, State.group?_congr ht, hz, Option.map_some, if_pos ⟨hl.symm, hb.symm, hg.symm⟩]

/-- A tier cap holds the refill of a line that was spilled (R53, R358). -/
theorem windowRefill_held {line : Nat} (hp : s.pumpHeld x = true) (hs : line ∈ z.spilled) : exec (.windowRefill l b g line) s = .next s := by
  change execWindowRefill l b g line s = _
  have hm : s.refillMoves z x.header.stack line = true := by simp [State.refillMoves, hs]
  simp [execWindowRefill, hx, hy, hz, hp, hm]

/-- What the pump leaves once it has brought a line. -/
theorem bringLine_spec (line : Nat) :
    ∃ z', (s.bringLine x y z line).group? l b g = some z' ∧ s.SameMemory (s.bringLine x y z line) ∧
      z' = z.withLine line (z.spilled.contains line) (z.spilled.contains line && s.linePoisoned x y z line)
        (s.imageRead x y z.core (x.header.ctxOf y.slot z.index + lineOff line) 3072) := by
  obtain ⟨os, h⟩ := s.bringLine_eq x y z line
  rw [h]
  refine ⟨_, State.group?_updGroup_self hx hy hz (h := fun u => u.withLine line _ _ _) (fun _ => rfl) rfl, State.sameMemory_of_view fun v => rfl, rfl⟩

include hr hf

/-- A line that is needed, or lies in the window, comes into a free place. -/
theorem windowRefill_brings {line : Nat} (hn : ∀ e ∈ z.lines, e.n ≠ line) (hstack : line < x.header.stack)
    (hp : s.pumpHeld x = false ∨ line ∉ z.spilled) (hd : z.done = false) (ha : z.lines.length < z.allot) (hroom : s.linesHeld z.core < Config.storeLines)
    (hw : z.needs line = true ∨ z.inWindow line = true) : exec (.windowRefill l b g line) s = .next (s.bringLine x y z line) := by
  change execWindowRefill l b g line s = _
  have hgives : z.gives x.header.stack line = none := if_pos ha
  have hmoves : (s.pumpHeld x && s.refillMoves z x.header.stack line) = false := by
    rcases hp with hp | hs
    · rw [hp, Bool.false_and]
    · simp [State.refillMoves, hgives, hs, hroom]
  have hany : (z.lines.any fun r => r.n == line) = false := by simpa using hn
  have hwant : (z.needs line || z.inWindow line) = true := by simpa using hw
  have hstore : s.storeRoom z.core x.owner = s := if_pos hroom
  unfold execWindowRefill
  simp only [hx, hy, hz]
  rw [if_neg (by simp only [Option.isNone_eq_false_iff.mpr hr, hf, hd, hany, hwant, hmoves, decide_eq_false (Nat.not_le.mpr hstack)]; decide)]
  simp only [hgives, hstore, hx, hy, hz]
  rw [if_neg fun h => absurd h.1 (Nat.not_le.mpr ha)]

end

/-- The registers of a line that has come in. -/
theorem Group.withLine_getReg (z : Group) (n : Nat) (bad : Bool) (bs : List Byte) {j lane : Nat} (hj : j < 8) (hl : lane < 96) :
    (z.withLine n (z.spilled.contains n) bad bs).getReg 0 0 0 (.stack (8 * n + j)) lane =
      if z.spilled.contains n then (bytesWords 768 bs).getD (96 * j + lane) 0 else 0 := by
  have hi : 96 * (8 * n + j) + lane = 768 * n + (96 * j + lane) := by omega
  show (z.withLine n (z.spilled.contains n) bad bs).stack.get (96 * (8 * n + j) + lane) = _
  rw [hi]
  cases z.spilled.contains n with
  | false => exact Group.withLine_stack_zero z n bad bs (by omega)
  | true => exact Group.withLine_stack_back z n bad bs (by omega)

theorem Group.withLine_getReg_other (z : Group) {n k lane : Nat} (back bad : Bool) (bs : List Byte) (hk : k / 8 ≠ n) (hl : lane < 96) :
    (z.withLine n back bad bs).getReg 0 0 0 (.stack k) lane = z.getReg 0 0 0 (.stack k) lane :=
  Group.withLine_stack_other z back bad bs (by omega)

/-! ### A spill -/

/-- The line that the pump spills ahead is the lowest dirty line below the window, once the next call could overflow the allotment (R59). -/
theorem Group.spillAhead_eq_some_iff (z : Group) (stack n : Nat) : z.spillAhead stack = some n ↔
    z.allot < z.lines.length + 8 ∧ n < stack ∧ n < z.depth ∧ (∃ e ∈ z.lines, e.n = n ∧ e.dirty = true) ∧ ∀ m < n, ¬∃ e ∈ z.lines, e.n = m ∧ e.dirty = true := by
  unfold Group.spillAhead Group.heldLines
  split
  next h => simp; omega
  next h =>
    rw [List.find?_filter, List.find?_range_eq_some]
    have hdirty (m : Nat) : (decide (m < z.depth) && z.lines.any fun r => r.n == m && r.dirty) = true ↔
        m < z.depth ∧ ∃ e ∈ z.lines, e.n = m ∧ e.dirty = true := by simp
    have hheld (m : Nat) : (z.lines.any fun r => r.n == m) = true ↔ ∃ e ∈ z.lines, e.n = m := by simp
    simp only [decide_eq_true_eq, Bool.not_eq_true', decide_eq_false_iff_not, List.mem_range, hheld, hdirty]
    constructor
    · rintro ⟨⟨-, hd, he⟩, hs, hmin⟩
      refine ⟨by omega, hs, hd, he, fun m hm ⟨e, hz, hn, hx⟩ => hmin m hm ⟨⟨e, hz, hn⟩, by omega, e, hz, hn, hx⟩⟩
    · rintro ⟨-, hs, hd, ⟨e, hz, hn, hx⟩, hmin⟩
      exact ⟨⟨⟨e, hz, hn⟩, hd, e, hz, hn, hx⟩, hs, fun m hm h => hmin m hm h.2.2⟩

theorem Group.spill_lines (z : Group) (n : Nat) : (z.spill n).lines = z.lines.map fun e => { e with dirty := e.dirty && e.n != n } := by
  refine List.map_congr_left fun e _ => ?_
  by_cases h : e.n = n
  · simp [h]
  · rw [if_neg h, bne_iff_ne.mpr h, Bool.and_true]

theorem Group.mem_spill_spilled (z : Group) (n : Nat) : n ∈ (z.spill n).spilled := by
  unfold Group.spill
  dsimp only
  split
  next h => simpa using h
  next h => simp

section
variable {s : State} {x : Launch} {y : Block} {z : Group} {l b g line : Nat} (hx : s.launch? l = some x) (hy : s.block? l b = some y)
  (hz : s.group? l b g = some z)
include hx hy hz

/-- The pump writes out no line while the next call fits, no line of the window or past it, no clean one, no other than the lowest dirty one, and none
while a tier cap holds it. -/
theorem windowSpill_idle (h : z.lines.length + 8 ≤ z.allot ∨ z.depth ≤ line ∨ (∀ e ∈ z.lines, e.n = line → e.dirty = false) ∨
    (∃ e ∈ z.lines, e.dirty = true ∧ e.n < line) ∨ s.pumpHeld x = true) : exec (.windowSpill l b g line) s = .next s := by
  change execWindowSpill l b g line s = _
  have hor : s.pumpHeld x = true ∨ z.spillAhead x.header.stack ≠ some line := by
    rcases h with h | h | h | ⟨e, he, hd, hn⟩ | h
    · exact .inr fun hs => absurd ((Group.spillAhead_eq_some_iff _ _ _).mp hs).1 (by omega)
    · exact .inr fun hs => absurd ((Group.spillAhead_eq_some_iff _ _ _).mp hs).2.2.1 (by omega)
    · refine .inr fun hs => ?_
      obtain ⟨-, -, -, ⟨e, he, hn, hd⟩, -⟩ := (Group.spillAhead_eq_some_iff _ _ _).mp hs
      rw [h e he hn] at hd
      cases hd
    · refine .inr fun hs => ?_
      obtain ⟨-, -, -, -, hmin⟩ := (Group.spillAhead_eq_some_iff _ _ _).mp hs
      exact hmin e.n hn ⟨e, he, rfl, hd⟩
    · exact .inl h
  have hcond : (z.freed || z.done || y.cluster.isNone || s.pumpHeld x || z.spillAhead x.header.stack != some line) = true := by
    rcases hor with h | h <;> simp [h]
  simp only [execWindowSpill, hx, hy, hz, hcond, if_true]

/-- The lowest dirty line below the window is written out once the next call could overflow the allotment. -/
theorem windowSpill_spills (hr : y.cluster.isSome = true) (hf : z.freed = false) (hdirty : ∃ e ∈ z.lines, e.n = line ∧ e.dirty = true)
    (hstack : line < x.header.stack) (hdepth : line < z.depth) (ha : z.allot < z.lines.length + 8)
    (hmin : ∀ e ∈ z.lines, e.dirty = true → line ≤ e.n) (hp : s.pumpHeld x = false) (hd : z.done = false) :
    exec (.windowSpill l b g line) s = .next (s.spillLine x y z line) := by
  change execWindowSpill l b g line s = _
  have hs : z.spillAhead x.header.stack = some line := (Group.spillAhead_eq_some_iff _ _ _).mpr
    ⟨ha, hstack, hdepth, hdirty, fun m hm ⟨e, he, hn, hed⟩ => absurd (hmin e he hed) (by omega)⟩
  simp [execWindowSpill, hx, hy, hz, hs, hf, hd, hp, Option.isNone_eq_false_iff.mpr hr]

/-- What a spill leaves of the group. -/
theorem spillLine_spec (n : Nat) : ∃ z', (s.spillLine x y z n).group? l b g = some z' ∧ n ∈ z'.spilled ∧
    z'.lines = z.lines.map (fun e => { e with dirty := e.dirty && e.n != n }) ∧ ∀ r lane, z'.getReg 0 0 0 r lane = z.getReg 0 0 0 r lane := by
  obtain ⟨os, po, h⟩ := s.spillLine_eq x y z n
  obtain ⟨hl, hb, hg⟩ := State.keys_of_group? hx hy hz
  have hout := (State.SameGroups.imageWrite s x y z.index z.core (x.header.ctxOf y.slot z.index + lineOff n) ((s.shown x z).lineBytes n) 97).2 l b g
  rw [hz, Option.map_some] at hout
  obtain ⟨u, hu, huz⟩ := Option.map_eq_some_iff.mp hout
  have hlines : u.lines = z.lines := by simpa [Group.unlinked] using congrArg Group.lines huz
  have hsame : u.unspilled = z.unspilled := congrArg (fun e : Group => { e with lines := [], spilled := [] }) huz
  refine ⟨u.spill n, ?_, u.mem_spill_spilled n, by rw [Group.spill_lines, hlines], fun r lane => Group.getReg_unspilled hsame 0 0 0 r lane⟩
  have hu' : ({ s.lineOut x y z n with owners := os, poison := po } : State).group? l b g = some u := (State.group?_congr rfl l b g).trans hu
  rw [h, State.group?_updGroup _ _ _ _ (fun z => z.spill n) fun _ => rfl, hu', Option.map_some, if_pos ⟨hl.symm, hb.symm, hg.symm⟩]

end

end Sys2Proof.Machine
end

section
/-! SUPPORT. The end of a group: its one write in transit reaches every die, its launch is stamped, and no member of a gang is left waiting (R159, R259,
R291). -/

namespace Sys2Proof.Machine

/-! ### One write in transit is carried -/

theorem State.transitOf_one {s : State} {w t : Transit} (ht : s.transit = [w]) (hid : w.id = t.id) : s.transitOf t = w := by
  simp [State.transitOf, ht, hid]

/-- What the one write in transit becomes, and what memory holds, once it is applied at the views of `vs`. -/
structure State.Carried (s u : State) (w : Transit) (vs : List Nat) : Prop where
  transit : ∃ a, u.transit = [{ w with applied := a }] ∧ (∀ v ∈ w.applied, v ∈ a) ∧ ∀ v ∈ vs, v ∈ a
  length : u.dies.length = s.dies.length
  bytes : ∀ view q, Sparse.get (w := 8) (u.view view).mem q =
    if (view ∈ vs ∧ view ∉ w.applied) ∧ w.addr ≤ q ∧ q < w.addr + w.bytes.length then w.bytes.getD (q - w.addr) 0
    else Sparse.get (w := 8) (s.view view).mem q

theorem State.applyAt_of_applied {s : State} {t : Transit} {v : Nat} (m : Nat) (h : v ∈ t.applied) : s.applyAt m t v = s :=
  if_pos (List.contains_iff_mem.mpr h)

theorem State.applyAt_transit_one {s : State} {w : Transit} {v : Nat} (m : Nat) (ht : s.transit = [w]) (h : v ∉ w.applied) :
    (s.applyAt m w v).transit = [{ w with applied := w.applied ++ [v] }] := by
  unfold State.applyAt
  rw [if_neg (mt List.contains_iff_mem.mp h)]
  simp [ht]

theorem State.applyAll_carried (k : Nat) (t : Transit) (vs : List Nat) : ∀ {s : State} {w : Transit}, s.transit = [w] → w.id = t.id →
    w.atomic = false → (∀ v ∈ vs, v < s.dies.length) → s.Carried (s.applyAll k vs t) w vs := by
  induction vs with
  | nil => exact fun ht _ _ _ => ⟨⟨_, ht, fun v hv => hv, fun v hv => by cases hv⟩, rfl, fun view q => by simp [State.applyAll]⟩
  | cons v vs ih =>
    intro s w ht hid ha hv
    obtain ⟨hv0, hvs⟩ := List.forall_mem_cons.mp hv
    have hstep : s.applyAll k (v :: vs) t = (s.applyAt k w v).applyAll k vs t := by
      rw [State.applyAll, List.foldl_cons, State.transitOf_one ht hid]
      rfl
    rw [hstep]
    by_cases hin : v ∈ w.applied
    · rw [State.applyAt_of_applied k hin]
      obtain ⟨⟨a, htr, hsub, hall⟩, hlen, hbytes⟩ := ih ht hid ha hvs
      refine ⟨⟨a, htr, hsub, List.forall_mem_cons.mpr ⟨hsub v hin, hall⟩⟩, hlen, fun view q => ?_⟩
      rw [hbytes view q]
      congr 1
      grind
    · have hlen1 := s.applyAt_dies_length k w v
      obtain ⟨⟨a, htr, hsub, hall⟩, hlen, hbytes⟩ := ih (s := s.applyAt k w v) (State.applyAt_transit_one k ht hin) hid ha
        fun u hu => hlen1 ▸ hvs u hu
      have hw := State.applyAt_writes k ha hin hv0
      refine ⟨⟨a, htr, fun u hu => hsub u (List.mem_append_left _ hu), List.forall_mem_cons.mpr ⟨hsub v (by simp), hall⟩⟩, hlen.trans hlen1,
        fun view q => ?_⟩
      rw [hbytes view q, hw view q]
      dsimp only
      grind

/-- The one write in transit is carried to every die, and is in transit no more (R259). -/
theorem State.carry_one {s : State} {w : Transit} {sel : Transit → Bool} (ht : s.transit = [w]) (hs : sel w = true) (ha : w.atomic = false)
    (hd : s.dies.length = 5) : (s.carry sel).transit = [] ∧ ∀ view q, Sparse.get (w := 8) ((s.carry sel).view view).mem q =
      if (view < 5 ∧ view ∉ w.applied) ∧ w.addr ≤ q ∧ q < w.addr + w.bytes.length then w.bytes.getD (q - w.addr) 0
      else Sparse.get (w := 8) (s.view view).mem q := by
  have hids : w.id ∈ s.closed [w.id] := by simp [State.closed, ht]
  have hcarry : s.carry sel = { (s.applyAll s.moment [0, 1, 2, 3, 4] w).settle with moment := s.moment + 1 } := by
    rw [State.carry, State.carryTo_eq, ht]
    simp [hs, hids]
  obtain ⟨⟨a, htr, -, hall⟩, -, hbytes⟩ := State.applyAll_carried s.moment w [0, 1, 2, 3, 4] ht rfl ha (by rw [hd]; decide)
  rw [hcarry]
  generalize s.applyAll s.moment [0, 1, 2, 3, 4] w = u at htr hbytes
  have hdone : ∀ v < 5, v ∈ a := fun v hv => hall v (by simp; omega)
  refine ⟨by simpa [State.settle, htr] using hdone, fun view q => ?_⟩
  have hmem : view ∈ [0, 1, 2, 3, 4] ↔ view < 5 := by simp; omega
  have hq := hbytes view q
  simp only [hmem] at hq
  exact hq

end Sys2Proof.Machine
end

section
/-! SUPPORT. GROUP_END: the group's residency is freed, its launch is stamped, and nothing waits for it (R159, R240, R319, R347). -/

namespace Sys2Proof.Machine

/-- A group that has ended, its lines and its residency freed. -/
def Group.ended (z : Group) : Group :=
  { z with freed := true, lines := [], stack := [], hazards := [], flagHazards := [], reaches := [], logFix := [], unseen := [], unseenTiles := [] }

/-- A launch that is stamped if its last group has ended. -/
def Launch.endStamped (x : Launch) (t : Nat) : Launch := if x.allEnded then x.stamp 6 t else x

/-- A block without its pump mappings, if its last group has ended (R360). -/
def Block.endUnmapped (y : Block) : Block := if y.groups.all (·.freed) then { y with images := [] } else y

/-- The state once a group has ended, before reports and waiting partners. -/
def State.groupEnded (s : State) (l b g : Nat) : State :=
  (((s.carry (ofGroup ⟨l, b, g, 0⟩)).updGroup l b g Group.ended).updLaunch l fun x => x.endStamped s.cycle).updBlock l b Block.endUnmapped

theorem Launch.endStamped_spec (x : Launch) (t : Nat) : (x.endStamped t).seq = x.seq ∧ (x.endStamped t).blocks = x.blocks ∧
    (x.endStamped t).allEnded = x.allEnded ∧ (x.endStamped t).stamps = if x.allEnded then x.stamps.set 6 t else x.stamps := by
  unfold Launch.endStamped
  split
  · exact ⟨rfl, rfl, rfl, rfl⟩
  · exact ⟨rfl, rfl, rfl, rfl⟩

theorem Block.endUnmapped_spec (y : Block) : y.endUnmapped.index = y.index ∧ y.endUnmapped.groups = y.groups ∧
    y.endUnmapped.violation = y.violation := by
  unfold Block.endUnmapped
  split <;> exact ⟨rfl, rfl, rfl⟩

theorem Launch.allEnded_updBlock (x : Launch) (b : Nat) {f : Block → Block} (hf : ∀ y, (f y).groups = y.groups) :
    (x.updBlock b f).allEnded = x.allEnded := by
  unfold Launch.allEnded Launch.updBlock
  dsimp only
  rw [List.all_map]
  congr 2
  funext y
  simp only [Function.comp]
  split
  · rw [hf]
  · rfl

/-- No waiting member loses its gang where the same groups have ended. -/
theorem Block.orphan_congr {y y' : Block} {z z' : Group} (h : ∀ k, (y'.group? k).map Group.done = (y.group? k).map Group.done)
    (hg : z'.gang = z.gang) (hi : z'.index = z.index) (p : Path) : y'.orphan z' p = y.orphan z p := by
  have hp : z'.partners = z.partners := by rw [Group.partners, hg, hi, Group.partners]
  have hd (k : Nat) : (y'.group? k).elim true (·.done) = (y.group? k).elim true (·.done) := by
    have := h k
    cases h1 : y'.group? k <;> cases h2 : y.group? k <;> simp_all
  unfold Block.orphan
  simp only [hp, hd]

theorem groupEnded_group {s : State} {z : Group} {l b g : Nat} (hz : s.group? l b g = some z) : (s.groupEnded l b g).group? l b g = some z.ended := by
  have hcl : (s.carry (ofGroup ⟨l, b, g, 0⟩)).launches = s.launches := (s.carryTo_launches _ _).2
  rw [State.groupEnded, State.group?_updBlock _ _ _ _ (fun y => y.endUnmapped_spec.1) fun y => y.endUnmapped_spec.2.1,
    State.group?_updLaunch _ _ _ (fun x => (x.endStamped_spec s.cycle).1) fun x => (x.endStamped_spec s.cycle).2.1,
    State.group?_updGroup _ _ _ _ Group.ended fun _ => rfl, State.group?_congr hcl, hz, Option.map_some, if_pos ⟨rfl, rfl, rfl⟩]

/-- Where no member waits for one that has ended, there is nothing to release. -/
theorem State.releaseOrphans_of_none {s : State} {y : Block} {l b : Nat} (hy : s.block? l b = some y)
    (ho : ∀ e ∈ y.groups, ∀ p ∈ e.paths, y.orphan e p = false) : s.releaseOrphans l b = s := by
  have hnil : (y.groups.flatMap fun z => z.paths.zipIdx.filterMap fun e =>
      if y.orphan z e.1 then some (⟨l, b, z.index, e.2⟩ : PathRef) else none) = [] := by
    refine List.flatMap_eq_nil_iff.mpr fun e he => List.filterMap_eq_nil_iff.mpr fun p hp => ?_
    rw [ho e he p.1 (List.fst_mem_of_mem_zipIdx hp), if_neg Bool.false_ne_true]
  unfold State.releaseOrphans
  rw [hy]
  dsimp only
  rw [hnil, List.foldl_nil]

section
variable {s : State} {x : Launch} {y : Block} {z : Group} {l b g : Nat} (hx : s.launch? l = some x) (hy : s.block? l b = some y)
  (hz : s.group? l b g = some z)
include hx hy

theorem groupEnded_spec : ∃ x' y', (s.groupEnded l b g).launch? l = some x' ∧ (s.groupEnded l b g).block? l b = some y' ∧
    x'.stamps = (if x'.allEnded then x.stamps.set 6 s.cycle else x.stamps) ∧ y'.violation = y.violation ∧
    y'.groups = (y.updGroup g Group.ended).groups := by
  have hcl : (s.carry (ofGroup ⟨l, b, g, 0⟩)).launches = s.launches := (s.carryTo_launches _ _).2
  have hcx : (s.carry (ofGroup ⟨l, b, g, 0⟩)).launch? l = some x := by rw [State.launch?, hcl]; exact hx
  have hxy : x.block? b = some y := by rw [State.block?, hx] at hy; exact hy
  generalize hx1 : x.updBlock b (fun y => y.updGroup g Group.ended) = x1
  have hl1 : ((s.carry (ofGroup ⟨l, b, g, 0⟩)).updGroup l b g Group.ended).launch? l = some x1 := by
    have h := State.launch?_updLaunch_same (s.carry (ofGroup ⟨l, b, g, 0⟩)) l (fun x => x.updBlock b fun y => y.updGroup g Group.ended) fun _ h => h
    rw [hcx, Option.map_some, hx1] at h
    exact h
  obtain ⟨hseq, hblocks, hended, hstamps⟩ := x1.endStamped_spec s.cycle
  have hl2 : (((s.carry (ofGroup ⟨l, b, g, 0⟩)).updGroup l b g Group.ended).updLaunch l fun x => x.endStamped s.cycle).launch? l =
      some (x1.endStamped s.cycle) := by
    rw [State.launch?_updLaunch_same _ l _ fun x h => (x.endStamped_spec s.cycle).1.trans h, hl1, Option.map_some]
  have hl3 : (s.groupEnded l b g).launch? l = some ((x1.endStamped s.cycle).updBlock b Block.endUnmapped) := by
    have h := State.launch?_updLaunch_same (((s.carry (ofGroup ⟨l, b, g, 0⟩)).updGroup l b g Group.ended).updLaunch l fun x => x.endStamped s.cycle) l
      (fun x => x.updBlock b Block.endUnmapped) fun _ h => h
    rw [hl2, Option.map_some] at h
    exact h
  have hy1 : x1.block? b = some (y.updGroup g Group.ended) := by
    rw [← hx1, Launch.block?_updBlock_same x b (fun y => y.updGroup g Group.ended) fun _ h => h, hxy, Option.map_some]
  have hy2 : (x1.endStamped s.cycle).block? b = some (y.updGroup g Group.ended) := by
    rw [Launch.block?, hblocks]
    exact hy1
  obtain ⟨-, hgroups, hvio⟩ := (y.updGroup g Group.ended).endUnmapped_spec
  refine ⟨_, (y.updGroup g Group.ended).endUnmapped, hl3, ?_, ?_, hvio, hgroups⟩
  · rw [State.block?, hl3, Option.bind_some, Launch.block?_updBlock_same _ b _ fun y h => y.endUnmapped_spec.1.trans h, hy2, Option.map_some]
  · rw [Launch.allEnded_updBlock _ _ fun y => y.endUnmapped_spec.2.1, hended, ← hx1]
    rw [← hx1] at hstamps
    exact hstamps

include hz

/-- A group without a present lane ends once its counters read zero. -/
theorem exec_groupEnd_ends (hd : z.done = true) (hf : z.freed = false) (hs : ∀ n ∈ z.sb, n = 0) (hv : y.violation = none)
    (ho : ∀ e ∈ y.groups, ∀ p ∈ e.paths, y.orphan e p = false) : exec (.groupEnd l b g) s = .next (s.groupEnded l b g) := by
  obtain ⟨x', y', hx', hy', -, hvio, hgroups⟩ := groupEnded_spec hx hy (g := g)
  have hsb : z.sb.any (· != 0) = false := by simpa using hs
  have hseq : x.seq = l := (State.keys_of_group? hx hy hz).1
  have hreport : (s.groupEnded l b g).reportViolation x b = s.groupEnded l b g := by
    rw [State.reportViolation, hseq, hy']
    simp only [hvio, hv]
  have hdone (k : Nat) : (y'.group? k).map Group.done = (y.group? k).map Group.done := by
    rw [Block.group?, hgroups]
    refine (congrArg (Option.map Group.done) (Block.group?_updGroup y g Group.ended (fun _ => rfl) k)).trans ?_
    rw [Option.map_map]
    congr 1
    funext e
    simp only [Function.comp]
    split <;> rfl
  have horphan : ∀ e ∈ y'.groups, ∀ p ∈ e.paths, y'.orphan e p = false := by
    intro e he p hp
    rw [hgroups] at he
    obtain ⟨e0, he0, rfl⟩ := List.mem_map.mp he
    have hsame : (if e0.index = g then e0.ended else e0).gang = e0.gang ∧ (if e0.index = g then e0.ended else e0).index = e0.index ∧
        (if e0.index = g then e0.ended else e0).paths = e0.paths := by split <;> exact ⟨rfl, rfl, rfl⟩
    obtain ⟨hgang, hidx, hpaths⟩ := hsame
    rw [Block.orphan_congr hdone hgang hidx]
    exact ho e0 he0 p (hpaths ▸ hp)
  change execGroupEnd l b g s = _
  have h : execGroupEnd l b g s = .next (((s.groupEnded l b g).reportViolation x b).releaseOrphans l b) := by
    unfold execGroupEnd
    simp only [hx, hy, hz]
    rw [if_neg (by simp [hf, hd, hsb])]
    rfl
  rw [h, hreport, State.releaseOrphans_of_none hy' horphan]

end

end Sys2Proof.Machine
end

section
/-! SUPPORT. The obligation about the pump, held paths and ended groups. -/

namespace Sys2Proof.Machine

theorem State.groupEnded_memory (s : State) (l b g : Nat) : (s.groupEnded l b g).dies = (s.carry (ofGroup ⟨l, b, g, 0⟩)).dies ∧
    (s.groupEnded l b g).transit = (s.carry (ofGroup ⟨l, b, g, 0⟩)).transit := ⟨rfl, rfl⟩

/-- The one write in transit of a group that ends reaches every die, and no other byte changes (R259). -/
theorem State.groupEnded_carries {s : State} {l b g : Nat} {w : Transit} (ht : s.transit = [w]) (hw : ofGroup ⟨l, b, g, 0⟩ w = true)
    (ha : w.atomic = false) (hd : s.dies.length = 5) : (s.groupEnded l b g).transit = [] ∧
      (∀ view < 5, view ∉ w.applied → (s.groupEnded l b g).readPhys view w.addr w.bytes.length = w.bytes) ∧
      ∀ view q, q < w.addr ∨ w.addr + w.bytes.length ≤ q → (s.groupEnded l b g).readPhys view q 1 = s.readPhys view q 1 := by
  obtain ⟨hdies, htransit⟩ := s.groupEnded_memory l b g
  obtain ⟨hnil, hbytes⟩ := State.carry_one ht hw ha hd
  have hview (view q : Nat) : Sparse.get (w := 8) ((s.groupEnded l b g).view view).mem q = _ := (State.view_congr hdies view).symm ▸ hbytes view q
  refine ⟨htransit.trans hnil, fun view hv hn => State.readPhys_of_bytes fun q hlo hhi => ?_, fun view q hq => ?_⟩
  · rw [hview, if_pos ⟨⟨hv, hn⟩, hlo, hhi⟩]
  · rw [State.readPhys_one, State.readPhys_one, hview, if_neg (by omega)]

/-- A group with a present lane, one that has ended, or one whose counters do not read zero does not end. -/
theorem exec_groupEnd_idle {s : State} {x : Launch} {y : Block} {z : Group} {l b g : Nat} (hx : s.launch? l = some x) (hy : s.block? l b = some y)
    (hz : s.group? l b g = some z) (h : z.done = false ∨ z.freed = true ∨ ∃ n ∈ z.sb, n ≠ 0) : exec (.groupEnd l b g) s = .next s := by
  have hc : (z.freed || !z.done || z.sb.any (· != 0)) = true := by
    rcases h with h | h | h <;> simp [h]
  change execGroupEnd l b g s = _
  simp only [execGroupEnd, hx, hy, hz, hc, if_true]

/-- Settles O46: the pump's events change the lines that they name, a held path goes on once what it waits for is done, and a group's end carries its
writes. -/
theorem pumpAndGroups : Obligations.PumpAndGroups := by
  refine ⟨fun s x y z l b g line hx hy hz hr hf => ⟨fun _ hp hs => ?_, fun hn hstack hp hd ha hroom hw => ?_, fun h => ?_,
    fun hdirty hstack hdepth ha hmin hp hd hu ht _ => ?_⟩, fun s c hc ha => exec_pathHoldRelease_away hc ha, fun s c hc hr => ⟨fun k hw => ?_,
    fun ls hw => ?_, fun lo n areas hw => wspill_released hc hr hw, fun ids hw => ?_, fun k hw => mwait_released hc hr hw,
    fun m hw => accFree_released hc hr hw, fun m hw ho => exec_pathHoldRelease_latch hc hr hw ho, fun hw => clauseWait_released hc hw⟩,
    fun s x y z l b g hx hy hz => ⟨fun h => exec_groupEnd_idle hx hy hz h, fun hd hf hs hv ho => ?_⟩⟩
  · exact windowRefill_held hx hy hz hp hs
  · -- a line comes in
    obtain ⟨z', hz', hmem, rfl⟩ := bringLine_spec hx hy hz line
    refine ⟨_, _, windowRefill_brings hx hy hz hr hf hn hstack hp hd ha hroom hw, hz', hmem, rfl,
      fun n lane hne hl => Group.withLine_getReg_other z _ _ _ hne hl, fun j hj lane hl => Group.withLine_getReg z line _ _ hj hl, fun k p hk => ?_⟩
    refine ⟨p.withLine line, ?_, fun ls hw hin => Path.withLine_served hw hin, fun hno => Path.withLine_other hno⟩
    exact (List.getElem?_map ..).trans (congrArg (Option.map fun p => p.withLine line) hk)
  · exact windowSpill_idle hx hy hz h
  · -- a line goes out
    obtain ⟨z', hz', hspilled, hlines, hregs⟩ := spillLine_spec hx hy hz line
    refine ⟨_, z', windowSpill_spills hx hy hz hr hf hdirty hstack hdepth ha hmin hp hd, hz', hspilled, hlines, hregs, fun pa hpa hdie => ?_⟩
    have hw := State.spillLine_writes hu ht hdie hpa
    have hsame := hw.read_same
    rw [Group.lineBytes_length] at hsame
    refine ⟨hsame, fun view q hq => hw.read_other ?_⟩
    rw [Group.lineBytes_length]
    exact hq
  · exact exec_pathHoldRelease_counter hc hr hw
  · exact exec_pathHoldRelease_pump hc hr hw
  · exact exec_pathHoldRelease_drain hc hr hw
  · -- a group ends
    obtain ⟨x', y', hx', -, hstamps, -, -⟩ := groupEnded_spec hx hy (g := g)
    refine ⟨_, x', z.ended, exec_groupEnd_ends hx hy hz hd hf hs hv ho, hx', groupEnded_group hz, rfl, rfl, hstamps, fun ht => ?_,
      fun w ht hw ha h5 => State.groupEnded_carries ht hw ha h5⟩
    refine State.sameMemory_of_view fun v => congrArg Die.mem (State.view_congr ?_ v)
    exact (s.groupEnded_memory l b g).1.trans (State.carry_dies_of_transit_nil ht _)

end Sys2Proof.Machine
end

section
/-! SUPPORT. One rounding of a magnitude to a multiple of a step (R78): which of the two neighbours each mode picks. -/

namespace Sys2Proof.Machine

/-- The mode never moves a value of sign `s` away from zero (R78). -/
def Rnd.inward : Rnd → Bool → Bool
  | .rtz, _ => true
  | .rup, s => s
  | .rdn, s => !s
  | .rne, _ | .rna, _ => false

/-- Mode `r` takes a magnitude `a` of sign `s`, at least `q` and less than `q + 1` steps of `g`, to `n` steps (R78). -/
structure Rnd.Picks (r : Rnd) (s : Bool) (q : Nat) (g a : ℝ) (n : Nat) : Prop where
  lo_le : q * g ≤ a
  lt_hi : a < (q + 1) * g
  side : n = q ∨ q * g < a ∧ n = q + 1
  inward : r.inward s = true → n = q
  outward : r.inward s = false → r ≠ .rne → r ≠ .rna → a ≤ n * g
  nearest : r = .rne ∨ r = .rna → (a - q * g < (q + 1) * g - a → n = q) ∧ ((q + 1) * g - a < a - q * g → n = q + 1)
  tie : a - q * g = (q + 1) * g - a → (r = .rne → n % 2 = 0) ∧ (r = .rna → n = q + 1)

/-- The numbers that a magnitude stands for. -/
def Mag.Holds (x : Mag) (a : ℝ) : Prop :=
  if x.st then x.m * 2 ^ x.e < a ∧ a < (x.m + 1) * 2 ^ x.e else a = x.m * 2 ^ x.e

/-- Whether `roundBits` adds one to the quotient `q` of an inexact value: `rem` was dropped, `half` is half a step. -/
def Rnd.up (r : Rnd) (s : Bool) (q rem half : Nat) (st : Bool) : Bool :=
  match r with
  | .rtz => false
  | .rup => !s
  | .rdn => s
  | .rna => decide (half ≤ rem)
  | .rne => decide (half < rem) || (rem == half && (st || q % 2 == 1))

theorem roundBits_exact (r : Rnd) (s : Bool) {m k : Nat} (h : m % 2 ^ k = 0) : roundBits r s m k false = (m / 2 ^ k, false) := by
  simp [roundBits, h]

theorem roundBits_inexact (r : Rnd) (s : Bool) {m k : Nat} {st : Bool} (hk : k ≠ 0) (h : ¬ (m % 2 ^ k = 0 ∧ st = false)) :
    roundBits r s m k st = (if r.up s (m / 2 ^ k) (m % 2 ^ k) (2 ^ k / 2) st then m / 2 ^ k + 1 else m / 2 ^ k, true) := by
  cases r <;> simp [roundBits, Rnd.up, h, hk] <;> rfl

theorem Rnd.up_of_inward {r : Rnd} {s : Bool} (h : r.inward s = true) (q rem half : Nat) (st : Bool) : r.up s q rem half st = false := by
  cases r <;> simp_all [inward, up]

theorem Rnd.up_of_outward {r : Rnd} {s : Bool} (h : r.inward s = false) (hne : r ≠ .rne) (hna : r ≠ .rna) (q rem half : Nat) (st : Bool) :
    r.up s q rem half st = true := by
  cases r <;> simp_all [inward, up]

theorem Rnd.up_of_nearest {r : Rnd} (h : r = .rne ∨ r = .rna) (s : Bool) (q : Nat) {rem half : Nat} (st : Bool) :
    (rem < half → r.up s q rem half st = false) ∧ (half < rem ∨ rem = half ∧ st = true → r.up s q rem half st = true) := by
  rcases h with rfl | rfl
  · cases st <;> simp [up] <;> omega
  · simp [up]; omega

theorem Rnd.picks_self (r : Rnd) (s : Bool) (q : Nat) {g : ℝ} (hg : 0 < g) : r.Picks s q g (q * g) q where
  lo_le := le_rfl
  lt_hi := by linarith
  side := .inl rfl
  inward _ := rfl
  outward _ _ _ := le_rfl
  nearest _ := ⟨fun _ => rfl, fun h => by linarith⟩
  tie h := by linarith

/-- A value strictly between two neighbours, where comparing what was dropped with `half` tells which is nearer. -/
theorem Rnd.picks_of_up (r : Rnd) (s : Bool) {q rem half : Nat} {st : Bool} {g a : ℝ} (hlo : q * g < a) (hhi : a < (q + 1) * g)
    (hlt : a - q * g < (q + 1) * g - a ↔ rem < half) (hgt : (q + 1) * g - a < a - q * g ↔ half < rem ∨ rem = half ∧ st = true) :
    r.Picks s q g a (if r.up s q rem half st then q + 1 else q) where
  lo_le := hlo.le
  lt_hi := hhi
  side := by split <;> simp [hlo]
  inward h := by simp [up_of_inward h]
  outward h hne hna := by simpa [up_of_outward h hne hna] using hhi.le
  nearest h := by
    obtain ⟨hdown, hup⟩ := up_of_nearest h s q (rem := rem) (half := half) st
    exact ⟨fun h => by simp [hdown (hlt.mp h)], fun h => by simp [hup (hgt.mp h)]⟩
  tie h := by
    have hl := mt hlt.mpr h.not_lt
    have hg := mt hgt.mpr h.not_gt
    obtain ⟨rfl, rfl⟩ : rem = half ∧ st = false := by
      cases st <;> simp at hg ⊢ <;> omega
    refine ⟨?_, ?_⟩ <;> rintro rfl <;> simp [up]
    split <;> omega

theorem dropped_compare_half {rem : Nat} {st : Bool} {g t : ℝ} (hg : 0 < g) (half : Nat)
    (ht : if st then rem * g < t ∧ t < (rem + 1) * g else t = rem * g) :
    (t < half * g ↔ rem < half) ∧ (half * g < t ↔ half < rem ∨ rem = half ∧ st = true) := by
  cases st with
  | false =>
    obtain rfl : t = rem * g := ht
    simp [hg]
  | true =>
    obtain ⟨hlo, hhi⟩ : rem * g < t ∧ t < (rem + 1) * g := ht
    have below (h : rem < half) : t < half * g := hhi.trans_le (by gcongr; exact_mod_cast h)
    have above (h : half ≤ rem) : half * g < t := lt_of_le_of_lt (by gcongr) hlo
    have hiff : half * g < t ↔ half ≤ rem := ⟨fun h => not_lt.mp fun h' => h.not_gt (below h'), above⟩
    refine ⟨⟨fun h => not_le.mp fun h' => h.not_gt (above h'), below⟩, hiff.trans ?_⟩
    simp [le_iff_lt_or_eq, eq_comm]

theorem dropped_between {rem size : Nat} {st : Bool} {g t : ℝ} (hg : 0 < g) (hsome : ¬ (rem = 0 ∧ st = false)) (hrem : rem < size)
    (ht : if st then rem * g < t ∧ t < (rem + 1) * g else t = rem * g) : 0 < t ∧ t < size * g := by
  cases st with
  | false =>
    obtain rfl : t = rem * g := ht
    have : 0 < rem := by simp at hsome; omega
    exact ⟨by positivity, by gcongr⟩
  | true =>
    obtain ⟨hlo, hhi⟩ : rem * g < t ∧ t < (rem + 1) * g := ht
    exact ⟨lt_of_le_of_lt (by positivity) hlo, hhi.trans_le (by gcongr; exact_mod_cast hrem)⟩

/-- What was dropped, `rem` units of `g` and perhaps more, tells where between two neighbours a value lies. -/
theorem Rnd.picks_of_dropped (r : Rnd) (s : Bool) {q rem half : Nat} {st : Bool} {g a : ℝ} (hg : 0 < g) (hsome : ¬ (rem = 0 ∧ st = false))
    (hrem : rem < 2 * half)
    (ht : if st then rem * g < a - q * (2 * half * g) ∧ a - q * (2 * half * g) < (rem + 1) * g else a - q * (2 * half * g) = rem * g) :
    r.Picks s q (2 * half * g) a (if r.up s q rem half st then q + 1 else q) ∧
      (if r.up s q rem half st then q + 1 else q : ℕ) * (2 * half * g) ≠ a := by
  obtain ⟨hlt, hgt⟩ := dropped_compare_half hg half ht
  obtain ⟨hpos, htop⟩ := dropped_between hg hsome hrem ht
  push_cast at htop
  have hlo : q * (2 * half * g) < a := by linarith
  have hhi : a < (q + 1) * (2 * half * g) := by linarith
  have hlt' : a - q * (2 * half * g) < (q + 1) * (2 * half * g) - a ↔ rem < half := by
    rw [← hlt]
    constructor <;> intro <;> linarith
  have hgt' : (q + 1) * (2 * half * g) - a < a - q * (2 * half * g) ↔ half < rem ∨ rem = half ∧ st = true := by
    rw [← hgt]
    constructor <;> intro <;> linarith
  refine ⟨r.picks_of_up s hlo hhi hlt' hgt', ?_⟩
  split
  · exact_mod_cast hhi.ne'
  · exact hlo.ne

/-- `roundBits` rounds to a multiple of `2^k` steps of `g`, and says inexact where that moves the value. -/
theorem roundBits_picks (r : Rnd) (s : Bool) (m k : Nat) (st : Bool) {g a : ℝ} (hg : 0 < g)
    (ha : if st then m * g < a ∧ a < (m + 1) * g else a = m * g) (hk : st = true → k ≠ 0) :
    r.Picks s (m / 2 ^ k) (2 ^ k * g) a (roundBits r s m k st).1 ∧
      ((roundBits r s m k st).2 = true ↔ (roundBits r s m k st).1 * (2 ^ k * g) ≠ a) := by
  have hm : (m : ℝ) = 2 ^ k * ↑(m / 2 ^ k) + ↑(m % 2 ^ k) := by exact_mod_cast (Nat.div_add_mod m (2 ^ k)).symm
  by_cases h : m % 2 ^ k = 0 ∧ st = false
  · obtain ⟨h0, rfl⟩ := h
    obtain rfl : a = ↑(m / 2 ^ k) * (2 ^ k * g) := by
      rw [show a = m * g from ha, hm, h0]
      push_cast
      ring
    simpa [roundBits_exact r s h0] using r.picks_self s (m / 2 ^ k) (g := 2 ^ k * g) (by positivity)
  · have hk' : k ≠ 0 := by
      rintro rfl
      exact h ⟨Nat.mod_one m, by simpa using hk⟩
    obtain ⟨half, hhalf⟩ : ∃ half, 2 ^ k = 2 * half := dvd_pow_self 2 hk'
    have hd : (2 : ℝ) ^ k = 2 * half := by exact_mod_cast hhalf
    have hrem : m % 2 ^ k < 2 * half := hhalf ▸ Nat.mod_lt m (by positivity)
    rw [roundBits_inexact r s hk' h, show 2 ^ k / 2 = half by omega, hd]
    rw [hd] at hm
    refine (r.picks_of_dropped s hg h hrem ?_).imp_right (iff_of_true rfl)
    rw [hm] at ha
    cases st with
    | false => rw [if_neg Bool.false_ne_true] at ha ⊢; linarith
    | true =>
      rw [if_pos rfl] at ha ⊢
      constructor <;> linarith

theorem two_pow_toNat_mul {d e : Int} (h : d ≤ e) : (2 : ℝ) ^ (e - d).toNat * 2 ^ d = 2 ^ e := by
  rw [← zpow_natCast, Int.toNat_of_nonneg (by omega), ← zpow_add₀ two_ne_zero, sub_add_cancel]

/-- `Mag.roundAt` rounds to a multiple of `2^q`; a magnitude that is not exact has a bit below the quantum. -/
theorem Mag.roundAt_picks {x : Mag} {a : ℝ} (ha : x.Holds a) (r : Rnd) (s : Bool) {q : Int} (hst : x.st = true → x.e < q) :
    (∃ n, r.Picks s n (2 ^ q) a (x.roundAt r s q).1) ∧ ((x.roundAt r s q).2 = true ↔ (x.roundAt r s q).1 * (2 : ℝ) ^ q ≠ a) := by
  rcases le_or_gt q x.e with h | h
  · have hexact : x.st = false := by
      by_contra hne
      exact (hst (by simpa using hne)).not_ge h
    have hval : a = ↑(x.m * 2 ^ (x.e - q).toNat) * 2 ^ q := by
      rw [Holds, hexact, if_neg Bool.false_ne_true] at ha
      push_cast
      rw [mul_assoc, two_pow_toNat_mul h, ha]
    have := roundBits_picks r s (x.m * 2 ^ (x.e - q).toNat) 0 false (g := 2 ^ q) (by positivity) hval (by simp)
    simp only [pow_zero, one_mul] at this
    rw [roundAt, if_pos h, hexact]
    exact ⟨⟨_, this.1⟩, this.2⟩
  · have := roundBits_picks r s x.m (q - x.e).toNat x.st (g := 2 ^ x.e) (by positivity) ha (by omega)
    rw [two_pow_toNat_mul h.le] at this
    rw [roundAt, if_neg h.not_ge]
    exact ⟨⟨_, this.1⟩, this.2⟩

theorem bitLen_bounds {m : Nat} (h : 0 < m) : ∃ k, bitLen m = k + 1 ∧ 2 ^ k ≤ m ∧ m < 2 ^ (k + 1) :=
  ⟨m.log2, if_neg h.ne', Nat.log2_self_le h.ne', Nat.lt_log2_self⟩

/-- The exponent of the first bit of a magnitude. -/
def Mag.top (x : Mag) : Int := (bitLen x.m : Int) - 1 + x.e

theorem Mag.Holds.top_bounds {x : Mag} {a : ℝ} (ha : x.Holds a) (h : 0 < x.m) : 2 ^ x.top ≤ a ∧ a < 2 ^ (x.top + 1) := by
  obtain ⟨k, hlen, hlo, hhi⟩ := bitLen_bounds h
  have hbetween : x.m * 2 ^ x.e ≤ a ∧ a < (x.m + 1) * 2 ^ x.e := by
    unfold Holds at ha
    split at ha
    · exact ⟨ha.1.le, ha.2⟩
    · subst ha
      exact ⟨le_rfl, by gcongr; linarith⟩
  have htop : x.top = k + x.e := by rw [top, hlen]; push_cast; ring
  constructor
  · calc (2 : ℝ) ^ x.top = 2 ^ k * 2 ^ x.e := by rw [htop, zpow_add₀ two_ne_zero, zpow_natCast]
      _ ≤ x.m * 2 ^ x.e := by gcongr; exact_mod_cast hlo
      _ ≤ a := hbetween.1
  · calc a < (x.m + 1) * 2 ^ x.e := hbetween.2
      _ ≤ 2 ^ (k + 1) * 2 ^ x.e := by gcongr; exact_mod_cast hhi
      _ = 2 ^ (x.top + 1) := by rw [htop, add_right_comm, zpow_add₀ two_ne_zero]; norm_cast

/-- The magnitude of `u` is not strictly between `q` and `q + 1` steps of `g`. -/
def OutsideStep (q : Nat) (g u : ℝ) : Prop := |u| ≤ q * g ∨ (q + 1) * g ≤ |u|

section
variable {r : Rnd} {s : Bool} {q n : Nat} {g a u : ℝ}

theorem outsideStep_neg : OutsideStep q g (-u) ↔ OutsideStep q g u := by
  rw [OutsideStep, abs_neg, OutsideStep]

theorem outsideStep_abs : OutsideStep q g |u| ↔ OutsideStep q g u := by
  rw [OutsideStep, abs_abs, OutsideStep]

namespace Rnd.Picks

theorem step_pos (h : r.Picks s q g a n) : 0 < g := by
  linarith [h.lo_le, h.lt_hi]

theorem base_nonneg (h : r.Picks s q g a n) : 0 ≤ q * g :=
  mul_nonneg q.cast_nonneg h.step_pos.le

theorem outside (h : r.Picks s q g a n) (hu : OutsideStep q g u) : u ≤ q * g ∨ (q + 1) * g ≤ u := by
  rcases hu with hu | hu
  · exact .inl ((le_abs_self u).trans hu)
  · refine (le_abs.mp hu).symm.imp_left fun hneg => ?_
    linarith [h.base_nonneg, h.step_pos]

theorem abs_le_gaps (h : r.Picks s q g a n) (hr : r = .rne ∨ r = .rna) : |n * g - a| ≤ a - q * g ∧ |n * g - a| ≤ (q + 1) * g - a := by
  obtain ⟨hdown, hup⟩ := h.nearest hr
  have hlo := h.lo_le
  have hhi := h.lt_hi
  rcases h.side with rfl | ⟨-, rfl⟩
  · have : a - n * g ≤ (n + 1) * g - a := not_lt.mp fun hlt => by simpa using hup hlt
    rw [abs_sub_comm, abs_of_nonneg (by linarith)]
    exact ⟨le_rfl, this⟩
  · have : (q + 1) * g - a ≤ a - q * g := not_lt.mp fun hlt => by simpa using hdown hlt
    push_cast
    rw [abs_of_nonneg (by linarith)]
    exact ⟨this, le_rfl⟩

theorem abs_le_of_nearest (h : r.Picks s q g a n) (hr : r = .rne ∨ r = .rna) (hu : OutsideStep q g u) :
    |n * g - a| ≤ |u - a| := by
  obtain ⟨hlo, hhi⟩ := h.abs_le_gaps hr
  rcases h.outside hu with hu | hu
  · linarith [neg_le_abs (u - a)]
  · linarith [le_abs_self (u - a)]

/-- Another value as near as the one that a nearest mode picks is the other neighbour, and the magnitude is half way. -/
theorem other_neighbour (h : r.Picks s q g a n) (hr : r = .rne ∨ r = .rna) (hu : OutsideStep q g u) (hne : u ≠ n * g)
    (heq : |n * g - a| = |u - a|) : a - q * g = (q + 1) * g - a ∧ (n = q + 1 → u = q * g) := by
  obtain ⟨hlo, hhi⟩ := h.abs_le_gaps hr
  have hle := h.lo_le
  have hlt := h.lt_hi
  rcases h.outside hu with hu | hu
  · rw [heq, abs_of_nonpos (by linarith)] at hlo hhi
    rw [abs_of_nonpos (by linarith : u - a ≤ 0)] at heq
    obtain rfl : u = q * g := by linarith
    rcases h.side with rfl | ⟨-, rfl⟩
    · exact absurd rfl hne
    · push_cast at heq
      rw [abs_of_nonneg (by linarith)] at heq
      exact ⟨by linarith, fun _ => rfl⟩
  · rw [heq, abs_of_nonneg (by linarith)] at hlo hhi
    rw [abs_of_nonneg (by linarith : 0 ≤ u - a)] at heq
    obtain rfl : u = (q + 1) * g := by linarith
    rcases h.side with rfl | ⟨-, rfl⟩
    · rw [abs_of_nonpos (by linarith)] at heq
      exact ⟨by linarith, by simp⟩
    · exact absurd (by push_cast; rfl) hne

theorem tie_broken (h : r.Picks s q g a n) (hu : OutsideStep q g u) (hne : u ≠ n * g) (heq : |n * g - a| = |u - a|) :
    (r = .rne → n % 2 = 0) ∧ (r = .rna → |u| < n * g) := by
  refine ⟨fun hr => (h.tie (h.other_neighbour (.inl hr) hu hne heq).1).1 hr, fun hr => ?_⟩
  obtain ⟨htie, hother⟩ := h.other_neighbour (.inr hr) hu hne heq
  have hn := (h.tie htie).2 hr
  rw [hother hn, abs_of_nonneg h.base_nonneg, hn]
  push_cast
  linarith [h.step_pos]

theorem le_of_inward (h : r.Picks s q g a n) (hr : r.inward s = true) : n * g ≤ a := by
  rw [h.inward hr]
  exact h.lo_le

theorem none_between_of_inward (h : r.Picks s q g a n) (hr : r.inward s = true) (hu : OutsideStep q g u) :
    ¬ (n * g < u ∧ u ≤ a) := by
  rw [h.inward hr]
  rintro ⟨hlo, hhi⟩
  rcases h.outside hu with hu | hu <;> linarith [h.lt_hi]

theorem none_between_of_outward (h : r.Picks s q g a n) (hu : OutsideStep q g u) : ¬ (a ≤ u ∧ u < n * g) := by
  rintro ⟨hlo, hhi⟩
  have hle := h.lo_le
  rcases h.side with rfl | ⟨hlt, rfl⟩
  · linarith
  · push_cast at hhi
    rcases h.outside hu with hu | hu <;> linarith

/-- A value below the one picked is below the magnitude too. -/
theorem lt_of_lt (h : r.Picks s q g a n) (hu : OutsideStep q g u) (hlt : u < n * g) : u < a :=
  not_le.mp fun hle => h.none_between_of_outward hu ⟨hle, hlt⟩

end Rnd.Picks
end

end Sys2Proof.Machine
end

section
/-! SUPPORT. The finite encodings of a format as multiples of its least value (R76), and the one rounding to a format (R77, R78). -/

namespace Sys2Proof.Machine

/-! ### Encodings -/

/-- The exponent of the least positive value of a format. -/
def Fmt.leastExp (f : Fmt) : Int := 1 - (f.bias : Int) - f.fb

/-- The magnitude of an encoding with exponent field `x` and fraction field `m`, in least positive values. -/
def Fmt.steps (f : Fmt) (x m : Nat) : Nat := (if x = 0 then m else 2 ^ f.fb + m) * 2 ^ (x - 1)

/-- The fields of an infinity or a NaN, or fields past those of the format. -/
abbrev Fmt.Beyond (f : Fmt) (x m : Nat) : Prop := 2 ^ f.eb - 1 < x ∨ (x = 2 ^ f.eb - 1 ∧ (f ≠ .e4m3 ∨ m = 7))

theorem Fmt.two_le_fields (f : Fmt) : 2 ≤ 2 ^ f.eb := by
  cases f <;> decide

theorem Fmt.two_dvd_fracs (f : Fmt) : 2 ∣ 2 ^ f.fb := by
  cases f <;> decide

theorem Fmt.frac_lt (f : Fmt) (b : Nat) : f.frac b < 2 ^ f.fb := Nat.mod_lt _ (by positivity)

theorem Fmt.read_not_beyond {f : Fmt} {b : Nat} (h : ¬ f.Beyond (f.field b) (f.frac b)) :
    f.read b = .fin (f.sign b) ⟨if f.field b = 0 then f.frac b else 2 ^ f.fb + f.frac b, f.leastExp + (f.field b - 1 : ℕ), false⟩ := by
  obtain ⟨-, h⟩ := not_or.mp h
  rw [read, if_neg fun h' => h ⟨h'.1, .inl h'.2⟩, if_neg fun h' => h ⟨h'.1, .inr h'.2⟩]
  split
  · simp [*, leastExp]
  · simp only [*, leastExp, FVal.fin.injEq, Mag.mk.injEq, true_and, and_true]
    omega

theorem Fmt.read_beyond {f : Fmt} {b : Nat} (h : f.Beyond (f.field b) (f.frac b)) (s : Bool) (x : Mag) : f.read b ≠ .fin s x := by
  have hlt : f.field b < 2 ^ f.eb := Nat.mod_lt _ (by positivity)
  obtain ⟨htop, h⟩ := h.resolve_left (by omega)
  by_cases hf : f = .e4m3
  · have hm := h.resolve_left (not_not_intro hf)
    rw [read, if_neg fun h' => h'.2 hf, if_pos ⟨htop, hm⟩]
    simp
  · rw [read, if_pos ⟨htop, hf⟩]
    split <;> simp

theorem Spec.value_eq_some_iff {f : Fmt} {b : Nat} {u : ℚ} : Spec.value f b = some u ↔
    ¬ f.Beyond (f.field b) (f.frac b) ∧ u = (if f.sign b then -1 else 1) * (f.steps (f.field b) (f.frac b) * 2 ^ f.leastExp) := by
  by_cases h : f.Beyond (f.field b) (f.frac b)
  · have : Spec.value f b = none := by
      unfold Spec.value
      split
      · exact absurd ‹_› (Fmt.read_beyond h _ _)
      · rfl
    simp [this, h]
  · simp only [Spec.value, Fmt.read_not_beyond h, Option.some.injEq, h, not_false_eq_true, true_and, eq_comm (a := u)]
    rw [zpow_add₀ two_ne_zero, zpow_natCast, Fmt.steps]
    push_cast
    ring_nf

section
variable {f : Fmt} {s : Bool} {x m : Nat}

theorem Fmt.pack_eq (f : Fmt) (s : Bool) (x m : Nat) : f.pack s x m = 2 ^ f.fb * ((if s then 2 ^ f.eb else 0) + x) + m := by
  rw [pack, mul_add, mul_comm x]
  cases s <;> simp [pow_add, mul_comm]

theorem Fmt.field_pack (hx : x < 2 ^ f.eb) (hm : m < 2 ^ f.fb) : f.field (f.pack s x m) = x := by
  have hpos : 0 < 2 ^ f.fb := by positivity
  have hdiv : f.pack s x m / 2 ^ f.fb = (if s then 2 ^ f.eb else 0) + x := by
    rw [pack_eq, Nat.mul_add_div hpos, Nat.div_eq_of_lt hm, add_zero]
  rw [field, hdiv]
  cases s <;> simp [Nat.mod_eq_of_lt hx]

theorem Fmt.frac_pack (hm : m < 2 ^ f.fb) : f.frac (f.pack s x m) = m := by
  rw [frac, pack_eq, Nat.mul_add_mod, Nat.mod_eq_of_lt hm]

theorem Fmt.sign_pack (hx : x < 2 ^ f.eb) (hm : m < 2 ^ f.fb) : f.sign (f.pack s x m) = s := by
  have hlow : x * 2 ^ f.fb + m < 2 ^ (f.eb + f.fb) := by
    rw [pow_add]
    calc x * 2 ^ f.fb + m < (x + 1) * 2 ^ f.fb := by linarith
      _ ≤ _ := Nat.mul_le_mul_right _ hx
  rw [sign, pack, add_assoc]
  cases s
  · simpa using Nat.testBit_lt_two_pow hlow
  · simpa [Nat.testBit_two_pow_add_eq] using Nat.testBit_lt_two_pow hlow

theorem Fmt.pack_mod_two : f.pack s x m % 2 = m % 2 := by
  obtain ⟨k, hk⟩ := f.two_dvd_fracs
  rw [pack_eq, hk, mul_assoc, Nat.mul_add_mod]

theorem Fmt.steps_lt_of_field_lt {x' m' : Nat} (hx : x < x') (hm : m < 2 ^ f.fb) : f.steps x m < f.steps x' m' := by
  obtain ⟨y, rfl⟩ : ∃ y, x' = y + 1 := ⟨x' - 1, by omega⟩
  have hsig : (if x = 0 then m else 2 ^ f.fb + m) * 2 ^ (x - 1) < 2 ^ f.fb * 2 ^ y := by
    rcases Nat.eq_zero_or_pos x with rfl | hx0
    · simpa using hm.trans_le (Nat.le_mul_of_pos_right _ (by positivity))
    · obtain ⟨z, rfl⟩ : ∃ z, x = z + 1 := ⟨x - 1, by omega⟩
      calc (if z + 1 = 0 then m else 2 ^ f.fb + m) * 2 ^ z < (2 ^ f.fb + 2 ^ f.fb) * 2 ^ z := by simpa using hm
        _ = 2 ^ f.fb * 2 ^ (z + 1) := by ring
        _ ≤ 2 ^ f.fb * 2 ^ y := by gcongr <;> omega
  exact hsig.trans_le (Nat.mul_le_mul_right _ (by simp))

/-- No finite magnitude lies strictly between neighbouring multiples of `2^j`, where these have full significands or `j` is 0. -/
theorem Fmt.steps_le_or_ge {n j : Nat} (hn : j = 0 ∨ 2 ^ f.fb ≤ n) (hm : m < 2 ^ f.fb) :
    f.steps x m ≤ n * 2 ^ j ∨ (n + 1) * 2 ^ j ≤ f.steps x m := by
  rcases lt_or_ge (x - 1) j with hlt | hge
  · have hfield : x < j + 1 := by omega
    have htop := steps_lt_of_field_lt (m' := 0) hfield hm
    left
    calc f.steps x m ≤ f.steps (j + 1) 0 := htop.le
      _ = 2 ^ f.fb * 2 ^ j := by simp [steps]
      _ ≤ n * 2 ^ j := Nat.mul_le_mul_right _ (hn.resolve_left (by omega))
  · obtain ⟨k, hk⟩ : 2 ^ j ∣ f.steps x m := (Nat.pow_dvd_pow 2 hge).mul_left _
    rw [hk, mul_comm (2 ^ j) k]
    exact (Nat.lt_or_ge n k).symm.imp (Nat.mul_le_mul_right _) (Nat.mul_le_mul_right _)

theorem Fmt.steps_largest_lt (h : f.Beyond x m) (hm : m < 2 ^ f.fb) :
    f.steps (f.field (f.largest false)) (f.frac (f.largest false)) < f.steps x m := by
  by_cases hf : f = .e4m3
  · subst hf
    rw [show Fmt.field .e4m3 (Fmt.largest .e4m3 false) = 15 by decide, show Fmt.frac .e4m3 (Fmt.largest .e4m3 false) = 6 by decide]
    rcases h with h | ⟨rfl, h⟩
    · exact steps_lt_of_field_lt h (by decide)
    · obtain rfl : m = 7 := by simpa using h
      decide
  · have heb := f.two_le_fields
    have hfb : 2 ^ f.fb - 1 < 2 ^ f.fb := Nat.sub_one_lt (by positivity)
    rw [largest, if_neg hf, field_pack (by omega) hfb, frac_pack hfb]
    refine steps_lt_of_field_lt ?_ hfb
    rcases h with h | ⟨h, -⟩ <;> omega
end

/-! ### The rounding -/

/-- How often the quantum of a magnitude doubles the least positive value of the format. -/
def Fmt.doublings (f : Fmt) (x : Mag) : Nat := (x.top - f.fb - f.leastExp).toNat

/-- The quantum at which `Fmt.round` rounds is the least positive value, doubled. -/
theorem Fmt.quantum_eq (f : Fmt) (x : Mag) : max (x.top - f.fb) (1 - (f.bias : Int) - f.fb) = f.leastExp + f.doublings x := by
  unfold doublings leastExp
  omega

/-- Either the quantum is the least positive value, or it leaves a full significand. -/
theorem Fmt.doublings_cases (f : Fmt) (x : Mag) : f.doublings x = 0 ∨ f.leastExp + f.doublings x = x.top - f.fb := by
  unfold doublings
  omega

/-- Exponent and fraction field of `n` quanta. -/
def Fmt.fieldsOf (f : Fmt) (n j : Nat) : Nat × Nat :=
  if n = 2 ^ (f.fb + 1) then (j + 2, 0) else if n < 2 ^ f.fb then (0, n) else (j + 1, n - 2 ^ f.fb)

theorem Fmt.fieldsOf_frac_mod_two (f : Fmt) (n j : Nat) : (f.fieldsOf n j).2 % 2 = n % 2 := by
  obtain ⟨k, hk⟩ := f.two_dvd_fracs
  rw [fieldsOf, pow_succ]
  split_ifs <;> simp <;> omega

section
variable {f : Fmt} {n j : Nat} (hle : n ≤ 2 ^ (f.fb + 1)) (hfull : j = 0 ∨ 2 ^ f.fb ≤ n)
include hle

theorem Fmt.fieldsOf_frac_lt : (f.fieldsOf n j).2 < 2 ^ f.fb := by
  rw [pow_succ] at hle
  unfold fieldsOf
  split_ifs <;> simp <;> omega

include hfull

theorem Fmt.steps_fieldsOf : f.steps (f.fieldsOf n j).1 (f.fieldsOf n j).2 = n * 2 ^ j := by
  unfold fieldsOf
  split_ifs with hcarry hlow
  · subst hcarry
    simp [steps]
    ring
  · obtain rfl := hfull.resolve_right hlow.not_ge
    simp [steps]
  · simp [steps, Nat.add_sub_cancel' (not_lt.mp hlow)]
end

/-- What overflow delivers (R78). -/
def Fmt.overflowed (f : Fmt) (r : Rnd) (s : Bool) : FRes := ⟨if r.inward s then f.largest s else f.infinity false s, flagOF ||| flagNX⟩

/-- The result with these fields, an overflow where the format has no finite value with them. -/
def Fmt.encode (f : Fmt) (r : Rnd) (s : Bool) (x m : Nat) (fl : Flags) : FRes := if f.Beyond x m then f.overflowed r s else ⟨f.pack s x m, fl⟩

theorem Fmt.not_beyond_zero (f : Fmt) (m : Nat) : ¬ f.Beyond 0 m := by
  have heb := f.two_le_fields
  rintro (h | ⟨h, -⟩) <;> omega

/-- Tiny after rounding with an unbounded exponent (R83). -/
def Fmt.tiny (f : Fmt) (r : Rnd) (s : Bool) (x : Mag) : Bool :=
  decide (x.top < 1 - (f.bias : Int)) &&
    !(decide ((x.roundAt r s (x.top - f.fb)).1 = 2 ^ (f.fb + 1)) && decide (x.top + 1 = 1 - (f.bias : Int)))

/-- What `Fmt.round` delivers without saturation or flushing, from the number `n` of quanta. -/
theorem Fmt.round_eq_encode (f : Fmt) (r : Rnd) (s : Bool) (x : Mag) {n : Nat} {inexact : Bool}
    (hx : x.roundAt r s (f.leastExp + f.doublings x) = (n, inexact)) :
    f.round ⟨r, false, false⟩ s x = f.encode r s (f.fieldsOf n (f.doublings x)).1 (f.fieldsOf n (f.doublings x)).2
      ((if inexact then flagNX else 0) ||| if f.tiny r s x = true ∧ inexact = true then flagUF else 0) := by
  have hfield (k : Nat) : (f.leastExp + f.doublings x + k + f.fb + f.bias).toNat = f.doublings x + (k + 1) := by
    unfold leastExp
    omega
  have h0 := hfield 0
  have h1 := hfield 1
  simp only [Nat.cast_zero, Nat.cast_one, add_zero] at h0 h1
  have hq : max ((bitLen x.m : Int) - 1 + x.e - f.fb) (1 - (f.bias : Int) - f.fb) = f.leastExp + f.doublings x := f.quantum_eq x
  simp only [round, tiny, Mag.top, hq, hx, Bool.false_eq_true, false_and, and_false, if_false, false_or]
  by_cases hcarry : n = 2 ^ (f.fb + 1)
  · simp only [fieldsOf, hcarry, if_true, lt_irrefl, if_false, h1, Nat.sub_self]
    cases r <;> cases s <;> rfl
  · by_cases hlow : n < 2 ^ f.fb
    · simp only [fieldsOf, hcarry, if_false, hlow, if_true, encode, not_beyond_zero] <;> rfl
    · simp only [fieldsOf, hcarry, if_false, hlow, h0]
      cases r <;> cases s <;> rfl

end Sys2Proof.Machine
end

section
/-! SUPPORT. The obligation about rounding: `Fmt.round` rounds once, for every format, mode and magnitude. -/

namespace Sys2Proof.Machine

/-! ### The picked multiple under a sign -/

/-- A real number with a sign put before it. -/
def signed (s : Bool) (a : ℝ) : ℝ := (if s then -1 else 1) * a

@[simp] theorem signed_false (a : ℝ) : signed false a = a := one_mul a
@[simp] theorem signed_true (a : ℝ) : signed true a = -a := neg_one_mul a

@[simp] theorem abs_signed (s : Bool) (a : ℝ) : |signed s a| = |a| := by
  cases s <;> simp

theorem abs_sub_signed (s : Bool) (u a : ℝ) : |u - signed s a| = |signed s u - a| := by
  cases s
  · simp
  · rw [signed_true, signed_true, sub_neg_eq_add, ← abs_neg, neg_add']

@[simp] theorem signed_signed (s : Bool) (a : ℝ) : signed s (signed s a) = a := by
  cases s <;> simp

section
variable {s : Bool} {q n : Nat} {g a u : ℝ}

theorem outsideStep_signed : OutsideStep q g (signed s u) ↔ OutsideStep q g u := by
  rw [OutsideStep, abs_signed, OutsideStep]

theorem Rnd.Picks.signed_rup (h : Rnd.rup.Picks s q g a n) : signed s a ≤ signed s (n * g) ∧
    ∀ u, OutsideStep q g u → ¬ (signed s a ≤ u ∧ u < signed s (n * g)) := by
  cases s with
  | false => exact ⟨by simpa using h.outward rfl nofun nofun, fun u hu => by simpa using h.none_between_of_outward hu⟩
  | true =>
    refine ⟨by simpa using h.le_of_inward rfl, fun u hu hbetween => ?_⟩
    rw [signed_true, signed_true] at hbetween
    exact h.none_between_of_inward rfl (outsideStep_neg.mpr hu) ⟨lt_neg_of_lt_neg hbetween.2, neg_le.mp hbetween.1⟩

theorem Rnd.Picks.signed_rdn (h : Rnd.rdn.Picks s q g a n) : signed s (n * g) ≤ signed s a ∧
    ∀ u, OutsideStep q g u → ¬ (signed s (n * g) < u ∧ u ≤ signed s a) := by
  cases s with
  | false => exact ⟨by simpa using h.le_of_inward rfl, fun u hu => by simpa using h.none_between_of_inward rfl hu⟩
  | true =>
    refine ⟨by simpa using h.outward rfl nofun nofun, fun u hu hbetween => ?_⟩
    rw [signed_true, signed_true] at hbetween
    exact h.none_between_of_outward (outsideStep_neg.mpr hu) ⟨le_neg_of_le_neg hbetween.2, neg_lt.mp hbetween.1⟩

end

/-! ### The results of a rounding -/

theorem Fmt.field_lt_of_not_beyond {f : Fmt} {x m : Nat} (h : ¬ f.Beyond x m) : x < 2 ^ f.eb := by
  have hpos : 0 < 2 ^ f.eb := by positivity
  have hle := (not_or.mp h).1
  omega

theorem Fmt.sign_largest (f : Fmt) (s : Bool) : f.sign (f.largest s) = s := by
  rw [largest]
  split_ifs with hf
  · exact sign_pack (hf ▸ by decide) (hf ▸ by decide)
  · exact sign_pack (Nat.sub_lt (by positivity) two_pos) (Nat.sub_one_lt (by positivity))

theorem Fmt.sign_infinity (f : Fmt) (s : Bool) : f.sign (f.infinity false s) = s := by
  rw [infinity, if_neg Bool.false_ne_true]
  split_ifs with hf
  · exact sign_pack (hf ▸ by decide) (hf ▸ by decide)
  · exact sign_pack (Nat.sub_one_lt (by positivity)) (by positivity)

theorem Fmt.sign_overflowed (f : Fmt) (r : Rnd) (s : Bool) : f.sign (f.overflowed r s).v = s := by
  unfold overflowed
  split
  · exact f.sign_largest s
  · exact f.sign_infinity s

theorem Spec.value_pack {f : Fmt} (s : Bool) {x m : Nat} (h : ¬ f.Beyond x m) (hm : m < 2 ^ f.fb) :
    Spec.value f (f.pack s x m) = some ((if s then -1 else 1) * ((f.steps x m : ℚ) * 2 ^ f.leastExp)) := by
  have hx := Fmt.field_lt_of_not_beyond h
  rw [Spec.value_eq_some_iff, Fmt.field_pack hx hm, Fmt.frac_pack hm, Fmt.sign_pack hx hm]
  exact ⟨h, rfl⟩

theorem Spec.abs_value {f : Fmt} {b : Nat} {u : ℚ} (h : Spec.value f b = some u) :
    |(u : ℝ)| = f.steps (f.field b) (f.frac b) * 2 ^ f.leastExp := by
  obtain ⟨-, rfl⟩ := Spec.value_eq_some_iff.mp h
  push_cast
  rw [abs_mul, abs_of_nonneg (by positivity : (0 : ℝ) ≤ f.steps (f.field b) (f.frac b) * 2 ^ f.leastExp)]
  split <;> simp

theorem two_zpow_add_natCast (e : Int) (j : Nat) : (2 : ℝ) ^ (e + j) = 2 ^ j * 2 ^ e := by
  rw [zpow_add₀ two_ne_zero, zpow_natCast, mul_comm]

/-- `Fmt.steps_le_or_ge` for the values of encodings. -/
theorem Spec.value_outside {f : Fmt} {b q j : Nat} {u : ℚ} (h : Spec.value f b = some u) (hq : j = 0 ∨ 2 ^ f.fb ≤ q) :
    OutsideStep q (2 ^ (f.leastExp + j)) u := by
  rw [OutsideStep, Spec.abs_value h, two_zpow_add_natCast, ← mul_assoc, ← mul_assoc]
  refine (Fmt.steps_le_or_ge (x := f.field b) hq (f.frac_lt b)).imp (fun hle => ?_) fun hge => ?_
  · gcongr
    exact_mod_cast hle
  · gcongr
    exact_mod_cast hge

/-- The quotient of a magnitude by its quantum is a full significand, but at the least quantum. -/
theorem Fmt.quotient_bounds {f : Fmt} {x : Mag} {a : ℝ} (hm : 0 < x.m) (ha : x.Holds a) {q : Nat}
    (hlo : q * 2 ^ (f.leastExp + f.doublings x) ≤ a) (hhi : a < (q + 1) * 2 ^ (f.leastExp + f.doublings x)) :
    q < 2 ^ (f.fb + 1) ∧ (f.doublings x = 0 ∨ 2 ^ f.fb ≤ q) := by
  obtain ⟨hbot, htop⟩ := ha.top_bounds hm
  have hexp : x.top + 1 ≤ f.leastExp + f.doublings x + (f.fb + 1 : ℕ) := by
    have := f.quantum_eq x
    push_cast
    omega
  have hpos : (0 : ℝ) < 2 ^ (f.leastExp + f.doublings x) := by positivity
  constructor
  · have : q * (2 : ℝ) ^ (f.leastExp + f.doublings x) < 2 ^ (f.fb + 1) * 2 ^ (f.leastExp + f.doublings x) := by
      rw [← two_zpow_add_natCast]
      exact (hlo.trans_lt htop).trans_le (zpow_le_zpow_right₀ one_le_two hexp)
    exact_mod_cast lt_of_mul_lt_mul_right this hpos.le
  · refine (f.doublings_cases x).imp_right fun hquantum => ?_
    have : (2 : ℝ) ^ f.fb * 2 ^ (f.leastExp + f.doublings x) < (q + 1) * 2 ^ (f.leastExp + f.doublings x) := by
      rw [← two_zpow_add_natCast, hquantum, sub_add_cancel, ← hquantum]
      exact hbot.trans_lt hhi
    have : 2 ^ f.fb < q + 1 := by exact_mod_cast lt_of_mul_lt_mul_right this hpos.le
    omega

theorem round_flags : ∀ inexact tiny : Bool,
    let fl : Flags := (if inexact then flagNX else 0) ||| if tiny = true ∧ inexact = true then flagUF else 0
    fl.getLsbD 2 = false ∧ fl.getLsbD 4 = inexact := by
  decide

/-- What `Fmt.round` delivers: the fields of the multiple of the quantum that the mode picks, with NX where it is not the magnitude. -/
theorem Fmt.round_picks (f : Fmt) (r : Rnd) (s : Bool) {x : Mag} {a : ℝ} (hm : 0 < x.m) (ha : x.Holds a)
    (hst : x.st = true → x.e < f.leastExp + f.doublings x) :
    ∃ q n fl, r.Picks s q (2 ^ (f.leastExp + f.doublings x)) a n ∧ n ≤ 2 ^ (f.fb + 1) ∧ (f.doublings x = 0 ∨ 2 ^ f.fb ≤ q) ∧
      f.round ⟨r, false, false⟩ s x = f.encode r s (f.fieldsOf n (f.doublings x)).1 (f.fieldsOf n (f.doublings x)).2 fl ∧
      fl.getLsbD 2 = false ∧ (fl.getLsbD 4 = true ↔ n * (2 : ℝ) ^ (f.leastExp + f.doublings x) ≠ a) := by
  obtain ⟨⟨q, hpicks⟩, hinexact⟩ := Mag.roundAt_picks ha r s hst
  obtain ⟨hlt, hfull⟩ := f.quotient_bounds hm ha hpicks.lo_le hpicks.lt_hi
  have hle : (x.roundAt r s (f.leastExp + f.doublings x)).1 ≤ 2 ^ (f.fb + 1) := by
    rcases hpicks.side with h | ⟨-, h⟩ <;> omega
  obtain ⟨hof, hnx⟩ := round_flags (x.roundAt r s (f.leastExp + f.doublings x)).2 (f.tiny r s x)
  exact ⟨q, _, _, hpicks, hle, hfull, f.round_eq_encode r s x rfl, hof, (Bool.eq_iff_iff.mp hnx).trans hinexact⟩

theorem Fmt.encode_of_beyond {f : Fmt} {x m : Nat} (h : f.Beyond x m) (r : Rnd) (s : Bool) (fl : Flags) : f.encode r s x m fl = f.overflowed r s :=
  if_pos h

theorem Fmt.encode_of_not_beyond {f : Fmt} {x m : Nat} (h : ¬ f.Beyond x m) (r : Rnd) (s : Bool) (fl : Flags) :
    f.encode r s x m fl = ⟨f.pack s x m, fl⟩ :=
  if_neg h

theorem Fmt.overflowed_fl (f : Fmt) (r : Rnd) (s : Bool) : (f.overflowed r s).fl = flagOF ||| flagNX := rfl

theorem Fmt.overflowed_v (f : Fmt) (r : Rnd) (s : Bool) : (f.overflowed r s).v =
    if r = .rne ∨ r = .rna ∨ (r = .rup ∧ s = false) ∨ (r = .rdn ∧ s = true) then f.infinity false s else f.largest s := by
  cases r <;> cases s <;> rfl

theorem signed_neg_iff {s : Bool} {a : ℝ} (ha : 0 < a) : signed s a < 0 ↔ s = true := by
  cases s <;> simp [ha, ha.le]

theorem signed_pos_iff {s : Bool} {a : ℝ} (ha : 0 < a) : 0 < signed s a ↔ s = false := by
  cases s <;> simp [ha, ha.le]

section
variable {f : Fmt} {r : Rnd} {s : Bool} {q n j : Nat} {a : ℝ} {fl : Flags}

/-- Rounding without overflow. -/
theorem Fmt.roundedOnce_finite (h : r.Picks s q (2 ^ (f.leastExp + j)) a n) {b : Nat} {v : ℚ}
    (hv : Spec.value f b = some v) (hval : (v : ℝ) = signed s (n * 2 ^ (f.leastExp + j))) (hfull : j = 0 ∨ 2 ^ f.fb ≤ q) (heven : b % 2 = n % 2)
    (hfl : fl.getLsbD 2 = false) (hnx : fl.getLsbD 4 = true ↔ n * (2 : ℝ) ^ (f.leastExp + j) ≠ a) (hsign : f.sign b = true ↔ signed s a < 0) :
    Spec.RoundedOnce f r (signed s a) ⟨b, fl⟩ := by
  have hinj (y z : ℝ) : signed s y = signed s z ↔ y = z := ⟨fun h => by simpa using congrArg (signed s) h, fun h => h ▸ rfl⟩
  have habs : |(v : ℝ)| = n * 2 ^ (f.leastExp + j) := by
    rw [hval, abs_signed, abs_of_nonneg (by positivity)]
  have ha : |a| = a := abs_of_nonneg (h.base_nonneg.trans h.lo_le)
  have hdist : |(v : ℝ) - signed s a| = |n * 2 ^ (f.leastExp + j) - a| := by
    rw [abs_sub_signed, hval, signed_signed]
  refine ⟨fun _ => ⟨v, hv, ?_, ?_, ?_, ?_, fun b' u hu => ?_⟩, fun hof => ?_, hsign⟩
  · rw [hval, hnx, not_iff_not, hinj]
  · rintro rfl
    rw [habs, abs_signed, ha]
    exact h.le_of_inward rfl
  · rintro rfl
    exact hval ▸ h.signed_rup.1
  · rintro rfl
    exact hval ▸ h.signed_rdn.1
  · have hout := Spec.value_outside hu hfull
    have hout' : OutsideStep q (2 ^ (f.leastExp + j)) (signed s u) := outsideStep_signed.mpr hout
    rw [hdist, abs_sub_signed s u]
    refine ⟨fun hr => h.abs_le_of_nearest hr hout', fun hne heq => ?_, ?_, ?_, ?_⟩
    · have hne' : signed s u ≠ n * 2 ^ (f.leastExp + j) := fun h' => hne (by
        have : (u : ℝ) = v := by rw [hval, ← h', signed_signed]
        exact_mod_cast this)
      obtain ⟨heven', haway⟩ := h.tie_broken hout' hne' heq
      refine ⟨fun hr => heven.trans (heven' hr), fun hr => ?_⟩
      have := haway hr
      rw [abs_signed, ← habs] at this
      exact_mod_cast this
    · rintro rfl ⟨hlt, hle, -⟩
      refine h.none_between_of_inward rfl (outsideStep_abs.mpr hout) ⟨?_, ?_⟩
      · rw [← habs]
        exact_mod_cast hlt
      · rwa [abs_signed, ha] at hle
    · rintro rfl ⟨hle, hlt⟩
      refine h.signed_rup.2 u hout ⟨hle, ?_⟩
      rw [← hval]
      exact_mod_cast hlt
    · rintro rfl ⟨hlt, hle⟩
      refine h.signed_rdn.2 u hout ⟨?_, hle⟩
      rw [← hval]
      exact_mod_cast hlt
  · exact absurd hof (by rw [hfl]; decide)

/-- Rounding with overflow: the multiple picked is past the largest finite value, and so is the magnitude. -/
theorem Fmt.roundedOnce_overflow (h : r.Picks s q (2 ^ (f.leastExp + j)) a n) (hpos : 0 < a) {x m : Nat} (hx : f.Beyond x m) (hm : m < 2 ^ f.fb)
    (hsteps : f.steps x m = n * 2 ^ j) (hfull : j = 0 ∨ 2 ^ f.fb ≤ q) : Spec.RoundedOnce f r (signed s a) (f.overflowed r s) := by
  refine ⟨fun hfl => absurd hfl (by rw [overflowed_fl]; decide), fun _ => ⟨by rw [overflowed_fl]; decide, fun v hv => ?_, ?_⟩, ?_⟩
  · have hlt : |(v : ℝ)| < n * 2 ^ (f.leastExp + j) := by
      rw [Spec.abs_value hv, two_zpow_add_natCast, ← mul_assoc]
      gcongr
      exact_mod_cast (steps_largest_lt hx hm).trans_eq hsteps
    rw [abs_signed, abs_of_pos hpos]
    exact h.lt_of_lt (Spec.value_outside hv hfull) ((le_abs_self _).trans_lt hlt)
  · rw [sign_overflowed]
    simp only [overflowed_v, signed_pos_iff hpos, signed_neg_iff hpos]
  · rw [sign_overflowed, signed_neg_iff hpos]

end

/-- A magnitude is rounded once. Where bits follow it, it has at least one bit below the quantum. -/
theorem Fmt.round_roundedOnce (f : Fmt) (r : Rnd) (s : Bool) {x : Mag} {a : ℝ} (hm : 0 < x.m) (ha : x.Holds a)
    (hst : x.st = true → x.e < f.leastExp + f.doublings x) : Spec.RoundedOnce f r (signed s a) (f.round ⟨r, false, false⟩ s x) := by
  obtain ⟨q, n, fl, hpicks, hle, hfull, hround, hof, hnx⟩ := f.round_picks r s hm ha hst
  have hpos : 0 < a := (by positivity : (0 : ℝ) < 2 ^ x.top).trans_le (ha.top_bounds hm).1
  have hn : f.doublings x = 0 ∨ 2 ^ f.fb ≤ n := hfull.imp_right fun h => by rcases hpicks.side with h' | ⟨-, h'⟩ <;> omega
  have hfrac := fieldsOf_frac_lt (f := f) (j := f.doublings x) hle
  have hsteps := steps_fieldsOf hle hn
  rw [hround]
  by_cases hx : f.Beyond (f.fieldsOf n (f.doublings x)).1 (f.fieldsOf n (f.doublings x)).2
  · rw [encode_of_beyond hx]
    exact roundedOnce_overflow hpicks hpos hx hfrac hsteps hfull
  · rw [encode_of_not_beyond hx]
    refine roundedOnce_finite hpicks (Spec.value_pack s hx hfrac) ?_ hfull (pack_mod_two.trans (fieldsOf_frac_mod_two ..)) hof hnx ?_
    · rw [hsteps, two_zpow_add_natCast, ← mul_assoc]
      cases s <;> simp [mul_assoc]
    · rw [sign_pack (field_lt_of_not_beyond hx) hfrac, signed_neg_iff hpos]

/-- Where OF is set, the result is the overflow's. -/
theorem Fmt.round_eq_overflowed (f : Fmt) (r : Rnd) (s : Bool) {x : Mag} {a : ℝ} (hm : 0 < x.m) (ha : x.Holds a)
    (hst : x.st = true → x.e < f.leastExp + f.doublings x) (hof : (f.round ⟨r, false, false⟩ s x).fl.getLsbD 2 = true) :
    f.round ⟨r, false, false⟩ s x = f.overflowed r s := by
  obtain ⟨q, n, fl, -, -, -, hround, hfl, -⟩ := f.round_picks r s hm ha hst
  rw [hround] at hof ⊢
  by_cases hx : f.Beyond (f.fieldsOf n (f.doublings x)).1 (f.fieldsOf n (f.doublings x)).2
  · exact encode_of_beyond hx r s fl
  · rw [encode_of_not_beyond hx] at hof
    exact absurd hof (by rw [hfl]; decide)

/-- Settles O33: the rational of the statement is the real number that its magnitude holds, and `Fmt.round` rounds that once. -/
theorem correctRounding : Obligations.CorrectRounding := by
  unfold Obligations.CorrectRounding
  intro f r sg m e hm value res
  have hvalue : (value : ℝ) = signed sg (m * 2 ^ e) := by
    cases sg <;> simp [value]
  have ha : Mag.Holds ⟨m, e, false⟩ (m * 2 ^ e) := rfl
  obtain ⟨hfinite, hoverflow, hsign⟩ := f.round_roundedOnce r sg hm ha nofun
  rw [signed_neg_iff (by positivity)] at hsign
  rw [← hvalue] at hfinite hoverflow
  refine ⟨fun hof => ?_, fun hof => ?_⟩
  · obtain ⟨v, hv, hnx, hrtz, hrup, hrdn, hothers⟩ := hfinite hof
    exact ⟨v, hv, by exact_mod_cast hnx, Bool.eq_iff_iff.mpr hsign, by exact_mod_cast hrtz, by exact_mod_cast hrup, by exact_mod_cast hrdn,
      fun b u hu => by exact_mod_cast hothers b u hu⟩
  · obtain ⟨-, hlargest, -⟩ := hoverflow hof
    have hres : res = f.overflowed r sg := f.round_eq_overflowed r sg hm ha nofun hof
    exact ⟨congrArg FRes.fl hres, fun v hv => by exact_mod_cast hlargest v hv, (congrArg FRes.v hres).trans (f.overflowed_v r sg)⟩

end Sys2Proof.Machine
end

section
/-! SUPPORT. The encoding of an instruction word and its decoding are inverse to each other: fields of a word, bytes of a word, one word, and
then the bytes that a decoder is given. -/

open Sys2Proof.Machine

namespace Sys2Proof

/-! ### Fields of a word

`no_index` lets `simp` find these lemmas where a word of 32 bits is written as a sum of field widths. -/

@[simp] theorem extractLsb'_append_high {m n s l : Nat} (x : BitVec m) (y : BitVec n) (h : n ≤ s) :
    BitVec.extractLsb' s l (@HAppend.hAppend _ _ (no_index (BitVec (m + n))) _ x y) = x.extractLsb' (s - n) l :=
  BitVec.extractLsb'_append_eq_of_le h

@[simp] theorem extractLsb'_append_low {m n s l : Nat} (x : BitVec m) (y : BitVec n) (h : s + l ≤ n) :
    BitVec.extractLsb' s l (@HAppend.hAppend _ _ (no_index (BitVec (m + n))) _ x y) = y.extractLsb' s l :=
  BitVec.extractLsb'_append_eq_of_add_le h

theorem append_eq_iff {m n : Nat} (x : BitVec m) (y : BitVec n) (w : BitVec (m + n)) :
    @Eq (no_index (BitVec (m + n))) (@HAppend.hAppend _ _ (no_index (BitVec (m + n))) _ x y) w ↔
      x = w.extractLsb' n m ∧ y = w.extractLsb' 0 n := by
  constructor
  · rintro rfl
    exact ⟨BitVec.extractLsb'_append_eq_left.symm, BitVec.extractLsb'_append_eq_right.symm⟩
  · rintro ⟨rfl, rfl⟩
    exact (BitVec.extractLsb'_append_extractLsb'_eq_extractLsb' (by omega)).trans BitVec.extractLsb'_eq_self

theorem extractLsb'_extractLsb'_of_le {w s l s' l' : Nat} (x : BitVec w) (h : s' + l' ≤ l) :
    (x.extractLsb' s l).extractLsb' s' l' = x.extractLsb' (s + s') l' := by
  ext k hk
  simp [show s' + k < l by omega, Nat.add_assoc]

theorem zeros_eq_ok {zs : List Nat} {i j : Instr} : zeros zs i = .ok j ↔ i = j ∧ ∀ z ∈ zs, z = 0 := by
  have hall : zs.all (· == 0) = true ↔ ∀ z ∈ zs, z = 0 := by simp
  rw [← hall]
  cases h : zs.all (· == 0) <;> simp only [zeros, h] <;> simp

theorem reserved_eq_ok {r : Nat} {i j : Instr} : reserved r i = .ok j ↔ i = j ∧ r = 0 := by
  by_cases h : r = 0 <;> simp [reserved, h]

/-- R121: the opcodes with a trailing word. -/
theorem hasTrailing_eq (w : Word) : hasTrailing w =
    (decide ((w.extractLsb' 23 7).toNat ∈ [0x11, 0x1A, 0x60, 0x61, 0x62, 0x63, 0x64, 0x65, 0x78, 0x7A, 0x7B]) ||
      ((w.extractLsb' 23 7).toNat == 0x7D && decide ((w.extractLsb' 19 4).toNat ≤ 1))) := by
  rw [Bool.eq_iff_iff]
  simp only [hasTrailing, bits_eq_extractLsb']
  simp
  omega

/-! ### One word -/

/-- The decoder reads each field of an encoded word as it was encoded: the opcode, where the opcode has SUB values the one in its field, and
then the operands. The words fall into groups by what the decoder asks of the bits that are neither. What follows a word without a trailing word
does not matter. -/
theorem decodeWord_of_encode {i : Instr} {w : Word} {xs : List Word} (h : encode i = w :: xs) (x : Word) : decodeWord w (xs.headD x) = .ok i := by
  obtain ⟨v, hw⟩ : ∃ v, v = w := ⟨w, rfl⟩
  rw [← hw] at h
  cases i <;> cases h <;> have hop := congrArg (BitVec.extractLsb' 23 7) hw <;>
    simp only [extractLsb'_append_high, extractLsb'_append_low, Nat.reduceLeDiff, Nat.reduceAdd, Nat.reduceSub, BitVec.extractLsb'_eq_self] at hop <;>
    unfold decodeWord <;> rw [← hop]
  case mov | not | abs | neg | clz | popc | mmov | mnot | mpop | movVector | notVector | absVectorInt | negVectorInt | clzVector | popcVector
    | absFloat | negFloat =>
    have hsub := congrArg (BitVec.extractLsb' 0 7) hw
    simp only [extractLsb'_append_low, Nat.reduceLeDiff, Nat.reduceAdd, BitVec.extractLsb'_eq_self] at hsub
    rw [← hsub]
    subst hw
    refine congrArg Except.ok ?_
    simp only [extractLsb'_append_high, extractLsb'_append_low, Nat.reduceLeDiff, Nat.reduceAdd, Nat.reduceSub, BitVec.extractLsb'_eq_self]
  case nop | ret | exit | sleep | rdmode | wrmode | gang | opres | opready | oprel | mwait | accAlloc | accFree | cpyk | dzk | coll | wellAdd
    | wellTake | quiet | tlbw | tlbinv | orig | hret | trap | ctr | wspill =>
    have hsub := congrArg (BitVec.extractLsb' 19 4) hw
    simp only [extractLsb'_append_high, extractLsb'_append_low, Nat.reduceLeDiff, Nat.reduceAdd, Nat.reduceSub, BitVec.extractLsb'_eq_self] at hsub
    rw [← hsub]
    subst hw
    refine zeros_eq_ok.2 ?_
    simp only [extractLsb'_append_high, extractLsb'_append_low, Nat.reduceLeDiff, Nat.reduceAdd, Nat.reduceSub, BitVec.extractLsb'_eq_self, List.headD_cons,
      List.forall_mem_cons, BitVec.toNat_ofNat, Nat.zero_mod, true_and, List.not_mem_nil, false_imp_iff, implies_true]
  case movk | fork | join | trip | sqrt | rsq | rcp | matchKeys | redAdd | redMin | redMax | scanAdd | ld | st | stStrong | gather | scatter
    | atom | fence | barArrive | barWait | waita | mma | accSt | accLd | pfx =>
    subst hw
    refine zeros_eq_ok.2 ?_
    simp only [extractLsb'_append_high, extractLsb'_append_low, Nat.reduceLeDiff, Nat.reduceAdd, Nat.reduceSub, BitVec.extractLsb'_eq_self, List.headD_cons,
      List.forall_mem_cons, BitVec.toNat_ofNat, Nat.zero_mod, true_and, List.not_mem_nil, false_imp_iff, implies_true]
  case cvtF64 | cvtF32 | cvtF16 | cvtBf16 | cvtE4m3 | cvtE5m2 | cvtL32 | cvtInt =>
    subst hw
    refine reserved_eq_ok.2 ?_
    simp only [extractLsb'_append_high, extractLsb'_append_low, Nat.reduceLeDiff, Nat.reduceAdd, Nat.reduceSub, BitVec.extractLsb'_eq_self, BitVec.toNat_ofNat,
      Nat.zero_mod, true_and]
  all_goals
    subst hw
    refine congrArg Except.ok ?_
    simp only [extractLsb'_append_high, extractLsb'_append_low, Nat.reduceLeDiff, Nat.reduceAdd, Nat.reduceSub, BitVec.extractLsb'_eq_self]

/-- Every bit of a word that decodes is a field of the instruction, a bit of its opcode, or a must-be-zero bit: one case for each row of the
decoder, in which the fields put together again are the word. -/
theorem encode_of_decodeWord {w x : Word} : ∀ {i : Instr}, decodeWord w x = .ok i → encode i = w :: if hasTrailing w then [x] else [] := by
  rw [hasTrailing_eq]
  fun_cases decodeWord w x <;>
    simp only [zeros_eq_ok, reserved_eq_ok, Except.ok.injEq, reduceCtorEq, and_imp, forall_eq', false_imp_iff, implies_true]
  all_goals
    simp [encode, append_eq_iff, extractLsb'_extractLsb'_of_le, *, -BitVec.extractLsb'_toNat, -BitVec.reduceAppend]
    simp_all [BitVec.toNat_eq, -BitVec.extractLsb'_toNat]

/-- R136: an unassigned opcode. -/
theorem decodeWord_unassigned {op : BitVec 7}
    (h : op.toNat ∈ [0x1F, 0x49, 0x4A, 0x4B, 0x4C, 0x4D, 0x4E, 0x4F, 0x5F, 0x66, 0x67, 0x68, 0x69, 0x6A, 0x6B, 0x6C, 0x6D, 0x6E, 0x6F, 0x76, 0x77])
    (st : BitVec 2) (low : BitVec 23) (x : Word) : decodeWord (st ++ op ++ low) x = .error .unassigned := by
  have hop : BitVec.extractLsb' 23 7 (st ++ op ++ low : Word) = op := by simp
  rw [decodeWord, hop]
  generalize op.toNat = n at h ⊢
  fin_cases h <;> rfl

/-- R136: a SUB value past the last of its opcode. -/
theorem decodeWord_reservedSub {op : BitVec 7} {sub : BitVec 4}
    (h : (op.toNat = 0x1D ∧ 4 ≤ sub.toNat) ∨ (op.toNat = 0x1E ∧ 2 ≤ sub.toNat) ∨ (op.toNat = 0x79 ∧ 7 ≤ sub.toNat) ∨
      (op.toNat = 0x7C ∧ 3 ≤ sub.toNat) ∨ (op.toNat = 0x7D ∧ 3 ≤ sub.toNat) ∨ (op.toNat = 0x7E ∧ 7 ≤ sub.toNat))
    (st : BitVec 2) (low : BitVec 19) (x : Word) : decodeWord (st ++ op ++ sub ++ low) x = .error .reservedSub := by
  have hop : BitVec.extractLsb' 23 7 (st ++ op ++ sub ++ low : Word) = op := by simp
  have hsub : BitVec.extractLsb' 19 4 (st ++ op ++ sub ++ low : Word) = sub := by simp
  rw [decodeWord, hop, hsub]
  generalize sub.toNat = k at h ⊢
  rcases h with ⟨hop, h⟩ | ⟨hop, h⟩ | ⟨hop, h⟩ | ⟨hop, h⟩ | ⟨hop, h⟩ | ⟨hop, h⟩ <;>
    obtain ⟨m, rfl⟩ := Nat.exists_eq_add_of_le' h <;> rw [hop] <;> rfl

/-- R136: a SUB value that the opcode does not have, for the opcodes whose SUB lies in B. -/
theorem decodeWord_reservedB {op b : BitVec 7}
    (h : (op.toNat = 0x10 ∧ 9 ≤ b.toNat) ∨ (op.toNat = 0x30 ∧ 6 ≤ b.toNat) ∨ (op.toNat = 0x3D ∧ b.toNat ≠ 2 ∧ b.toNat ≠ 3))
    (st : BitVec 2) (da : BitVec 16) (x : Word) : decodeWord (st ++ op ++ da ++ b) x = .error .reservedSub := by
  have hop : BitVec.extractLsb' 23 7 (st ++ op ++ da ++ b : Word) = op := by simp
  have hb : BitVec.extractLsb' 0 7 (st ++ op ++ da ++ b : Word) = b := by simp
  rw [decodeWord, hop, hb]
  generalize b.toNat = k at h ⊢
  rcases h with ⟨hop, h⟩ | ⟨hop, h⟩ | ⟨hop, h2, h3⟩ <;> rw [hop]
  · obtain ⟨m, rfl⟩ := Nat.exists_eq_add_of_le' h
    rfl
  · obtain ⟨m, rfl⟩ := Nat.exists_eq_add_of_le' h
    rfl
  · obtain _ | _ | _ | _ | k := k
    case zero | succ.zero => rfl
    case succ.succ.zero => exact absurd rfl h2
    case succ.succ.succ.zero => exact absurd rfl h3
    case succ.succ.succ.succ => rfl

/-! ### Bytes -/

theorem leNat_leBytes (n v : Nat) : leNat (leBytes n v) = v % 256 ^ n := by
  induction n generalizing v with
  | zero => simp [leBytes, leNat, Nat.mod_one]
  | succ n ih =>
    rw [leBytes, leNat, ih, BitVec.toNat_ofNat, Nat.pow_succ' (n := n)]
    exact (Nat.mod_mul (a := 256) (b := 256 ^ n)).symm

theorem leNat_lt (bs : List Byte) : leNat bs < 256 ^ bs.length := by
  induction bs with
  | nil => simp [leNat]
  | cons b bs ih =>
    have := b.isLt
    rw [leNat, List.length_cons, Nat.pow_succ]
    omega

theorem leBytes_leNat (bs : List Byte) : leBytes bs.length (leNat bs) = bs := by
  induction bs with
  | nil => rfl
  | cons b bs ih =>
    have := b.isLt
    have hb : BitVec.ofNat 8 (b.toNat + 256 * leNat bs) = b := by
      apply BitVec.eq_of_toNat_eq
      rw [BitVec.toNat_ofNat]
      omega
    rw [leNat, List.length_cons, leBytes, hb, show (b.toNat + 256 * leNat bs) / 256 = leNat bs by omega, ih]

@[simp] theorem ofNat_leNat_leBytes (w : Word) : BitVec.ofNat 32 (leNat (leBytes 4 w.toNat)) = w := by
  apply BitVec.eq_of_toNat_eq
  rw [leNat_leBytes, BitVec.toNat_ofNat]
  omega

/-- Four bytes or more begin with the bytes of a word. -/
theorem exists_word_append {bs : List Byte} (h : 4 ≤ bs.length) : ∃ (w : Word) (r : List Byte), bs = leBytes 4 w.toNat ++ r := by
  have hlen : (bs.take 4).length = 4 := by simpa
  have hlt := leNat_lt (bs.take 4)
  have hbytes := leBytes_leNat (bs.take 4)
  rw [hlen] at hlt hbytes
  refine ⟨BitVec.ofNat 32 (leNat (bs.take 4)), bs.drop 4, ?_⟩
  rw [BitVec.toNat_ofNat, Nat.mod_eq_of_lt (by omega), hbytes, List.take_append_drop]

theorem decode_append_of_trailing {w : Word} (h : hasTrailing w = true) (x : Word) (r : List Byte) :
    decode (leBytes 4 w.toNat ++ (leBytes 4 x.toNat ++ r)) = (decodeWord w x).map fun i => (i, r) := by
  have hlen : ¬ 4 + (4 + r.length) < 8 := by omega
  have hdrop : (leBytes 4 w.toNat).drop 8 = [] := List.drop_eq_nil_of_le (by simp [leBytes_length])
  simp [decode, leBytes_length, h, List.drop_append, hlen, hdrop]

theorem decode_append_of_not_trailing {w : Word} (h : hasTrailing w = false) (r : List Byte) :
    decode (leBytes 4 w.toNat ++ r) = (decodeWord w 0).map fun i => (i, r) := by
  simp [decode, leBytes_length, h]

theorem decode_short_of_trailing {w : Word} (h : hasTrailing w = true) {r : List Byte} (hr : r.length < 4) :
    decode (leBytes 4 w.toNat ++ r) = .error .short := by
  simp [decode, leBytes_length, h, show 4 + r.length < 8 by omega]

theorem decode_short {bs : List Byte} (h : bs.length < 4) : decode bs = .error .short := if_pos h

theorem encodeBytes_of_trailing {i : Instr} {w x : Word} (h : encode i = [w, x]) (r : List Byte) :
    encodeBytes i ++ r = leBytes 4 w.toNat ++ (leBytes 4 x.toNat ++ r) := by
  simp [encodeBytes, wordBytes, h]

theorem encodeBytes_of_not_trailing {i : Instr} {w : Word} (h : encode i = [w]) (r : List Byte) :
    encodeBytes i ++ r = leBytes 4 w.toNat ++ r := by
  simp [encodeBytes, wordBytes, h]

theorem map_pair_eq_ok {α β ε : Type} {e : Except ε α} {i : α} {r r' : β} :
    (e.map fun i => (i, r)) = .ok (i, r') ↔ e = .ok i ∧ r = r' := by
  cases e <;> simp [Except.map]

/-- Settles O18. -/
theorem encodingRoundTrip : Obligations.EncodingRoundTrip := by
  unfold Obligations.EncodingRoundTrip
  intro i rest hwords
  obtain ⟨w, xs, h⟩ := List.exists_cons_of_ne_nil hwords
  have hdec := decodeWord_of_encode h 0
  have henc := encode_of_decodeWord hdec
  cases ht : hasTrailing w
  case true =>
    rw [ht, if_pos rfl] at henc
    rw [encodeBytes_of_trailing henc, decode_append_of_trailing ht, hdec]
    rfl
  case false =>
    rw [ht, if_neg Bool.false_ne_true] at henc
    obtain rfl : xs = [] := (List.cons.inj (h.symm.trans henc)).2
    rw [encodeBytes_of_not_trailing henc, decode_append_of_not_trailing ht]
    exact map_pair_eq_ok.2 ⟨hdec, rfl⟩

/-- Bytes that decode are the encoding of what they decode to, and what is left over. -/
theorem eq_encodeBytes_of_decode {bs rest : List Byte} {i : Instr} (h : decode bs = .ok (i, rest)) : bs = encodeBytes i ++ rest := by
  obtain hlt | hlen := Nat.lt_or_ge bs.length 4
  · rw [decode_short hlt] at h
    cases h
  obtain ⟨w, r, rfl⟩ := exists_word_append hlen
  cases ht : hasTrailing w
  case false =>
    rw [decode_append_of_not_trailing ht, map_pair_eq_ok] at h
    obtain ⟨h, rfl⟩ := h
    exact (encodeBytes_of_not_trailing (by simpa [ht] using encode_of_decodeWord h) r).symm
  case true =>
    obtain hlt | hlen := Nat.lt_or_ge r.length 4
    · rw [decode_short_of_trailing ht hlt] at h
      cases h
    obtain ⟨x, r, rfl⟩ := exists_word_append hlen
    rw [decode_append_of_trailing ht, map_pair_eq_ok] at h
    obtain ⟨h, rfl⟩ := h
    exact (encodeBytes_of_trailing (by simpa [ht] using encode_of_decodeWord h) r).symm

/-- Settles O19. -/
theorem decodingIsUnique : Obligations.DecodingIsUnique :=
  ⟨fun _ _ _ => eq_encodeBytes_of_decode, fun _ st low x h => ⟨decodeWord_unassigned h st low x, rfl⟩,
    fun _ st _ low x h => ⟨decodeWord_reservedSub h st low x, rfl⟩, fun _ st da _ x h => decodeWord_reservedB h st da x⟩

end Sys2Proof
end

section
/-! SUPPORT. The instruction at the place of a path: the words of a clause read as bytes, with the fields that the word before gives them, and the move that runs it. -/

namespace Sys2Proof.Machine

/-! ### Words that give their fields to the next -/

theorem isPrefixWord_iff (w : Word) : isPrefixWord w = true ↔ (w.extractLsb' 23 7).toNat = 0x7F := by
  rw [isPrefixWord, decide_eq_true_iff, bits_eq_extractLsb']

theorem decodeWord_of_prefix {w x : Word} {i : Instr} (hw : isPrefixWord w = true) (h : decodeWord w x = .ok i) :
    ∃ m r z f e b, i = .pfx m r z f e b := by
  rw [decodeWord, (isPrefixWord_iff w).1 hw] at h
  exact ⟨_, _, _, _, _, _, (zeros_eq_ok.1 h).1.symm⟩

theorem isPrefixWord_of_decodeWord {w x : Word} {m r : BitVec 3} {z : BitVec 1} {f : BitVec 8} {e : BitVec 4} {b : BitVec 1}
    (h : decodeWord w x = .ok (.pfx m r z f e b)) : isPrefixWord w = true ∧ hasTrailing w = false := by
  obtain ⟨rfl, ht⟩ := List.cons.inj (encode_of_decodeWord h)
  refine ⟨(isPrefixWord_iff _).2 (by simp [-BitVec.extractLsb'_toNat]), ?_⟩
  simpa using ht

theorem isPrefixWord_eq_false {w x : Word} {i : Instr} (h : decodeWord w x = .ok i) (hi : ∀ m r z f e b, i ≠ .pfx m r z f e b) :
    isPrefixWord w = false := by
  rw [Bool.eq_false_iff]
  intro hw
  obtain ⟨m, r, z, f, e, b, he⟩ := decodeWord_of_prefix hw h
  exact hi m r z f e b he

/-- What follows a word without a trailing word does not matter. -/
theorem decodeWord_of_not_trailing {w x : Word} {i : Instr} (ht : hasTrailing w = false) (h : decodeWord w x = .ok i) (y : Word) :
    decodeWord w y = .ok i :=
  decodeWord_of_encode (xs := []) (by simpa [ht] using encode_of_decodeWord h) y

theorem readPrefix_of_decodeWord {w x : Word} {m r : BitVec 3} {z : BitVec 1} {f : BitVec 8} {e : BitVec 4} {b : BitVec 1}
    (h : decodeWord w x = .ok (.pfx m r z f e b)) : readPrefix w = (some ⟨m.toNat, r.toNat, z == 1, f, e.toNat, b == 1⟩, false) := by
  rw [readPrefix, decodeWord_of_not_trailing (isPrefixWord_of_decodeWord h).2 h]
  rfl

/-! ### Words as bytes -/

theorem wordBytes_cons (w : Word) (ws : List Word) : wordBytes (w :: ws) = leBytes 4 w.toNat ++ wordBytes ws := rfl

/-- The words that bytes decode from, and the words left over. -/
theorem decode_wordBytes {ws : List Word} {i : Instr} {rest : List Byte} (h : decode (wordBytes ws) = .ok (i, rest)) :
    decodeWord (ws.getD 0 0) (ws.getD 1 0) = .ok i ∧ rest = wordBytes (ws.drop (if hasTrailing (ws.getD 0 0) then 2 else 1)) := by
  obtain _ | ⟨w, ws⟩ := ws
  · cases h
  rw [wordBytes_cons] at h
  cases ht : hasTrailing w
  case false =>
    rw [decode_append_of_not_trailing ht, map_pair_eq_ok] at h
    exact ⟨decodeWord_of_not_trailing ht h.1 _, by simp [ht, h.2]⟩
  case true =>
    obtain _ | ⟨x, ws⟩ := ws
    · rw [decode_short_of_trailing ht (by decide)] at h
      cases h
    · rw [wordBytes_cons, decode_append_of_trailing ht, map_pair_eq_ok] at h
      exact ⟨h.1, by simp [ht, h.2]⟩

theorem getD_drop (ws : List Word) (k j : Nat) : (ws.drop k).getD j 0 = ws.getD (k + j) 0 := by
  simp [List.getD_eq_getElem?_getD]

theorem hereAt_of_decode {ws : List Word} {k : Nat} {i : Instr} {rest : List Byte} (h : decode (wordBytes (ws.drop k)) = .ok (i, rest))
    (hi : ∀ m r z f e b, i ≠ .pfx m r z f e b) : hereAt ws k = ⟨none, .ok i⟩ := by
  obtain ⟨hd, -⟩ := decode_wordBytes h
  simp only [getD_drop, Nat.add_zero] at hd
  simp only [hereAt, isPrefixWord_eq_false hd hi, hd, Bool.false_eq_true, if_false]

theorem hereAt_of_decode_prefix {ws : List Word} {k : Nat} {m r : BitVec 3} {z : BitVec 1} {f : BitVec 8} {e : BitVec 4} {b : BitVec 1} {i : Instr}
    {mid rest : List Byte} (hp : decode (wordBytes (ws.drop k)) = .ok (.pfx m r z f e b, mid)) (h : decode mid = .ok (i, rest))
    (hi : ∀ m r z f e b, i ≠ .pfx m r z f e b) : hereAt ws k = ⟨some ⟨m.toNat, r.toNat, z == 1, f, e.toNat, b == 1⟩, .ok i⟩ := by
  obtain ⟨hd, rfl⟩ := decode_wordBytes hp
  obtain ⟨hw, ht⟩ := isPrefixWord_of_decodeWord hd
  rw [ht, if_neg Bool.false_ne_true, List.drop_drop] at h
  obtain ⟨hv, -⟩ := decode_wordBytes h
  simp only [getD_drop, Nat.add_zero, Nat.add_assoc, Nat.reduceAdd] at hd hw hv
  simp only [hereAt, prefixed, hw, readPrefix_of_decodeWord hd, isPrefixWord_eq_false hv hi, hv, Bool.false_eq_true, if_true, if_false]

/-! ### The move that runs the word of a path -/

theorem State.isReady_of_offered {s : State} {c : Ctx} (h : s.offered c = true) : c.path.isReady = true := by
  simp only [State.offered, State.couldIssue, State.wouldIssue, Bool.and_eq_true] at h
  obtain ⟨⟨⟨⟨⟨⟨⟨-, hready⟩, -⟩, -⟩, -⟩, -⟩, -⟩, -⟩ := h
  exact hready

/-- In a launch that is not replayed no word differs from a log. -/
theorem State.divergesHere_of_not_replayed {s : State} {c : Ctx} {x : Launch} (hx : s.launch? c.ref.launch = some x) (hr : x.replay = none) (i : Instr) :
    s.divergesHere c i = false := by
  simp [State.divergesHere, State.diverges, hx, hr]

theorem State.pickWord_eq {s : State} {c : Ctx} {p : Option Pfx} {i : Instr} (hc : s.ctx? c.ref = some c) (hs : s.stopCause c = none)
    (hr : c.launch.replay = none) (hh : c.path.here = ⟨p, .ok i⟩) :
    s.pickWord c = ((s.chargeTest c).updPath c.ref fun q => { q with pfx := p }, some i) := by
  have hc' : (s.chargeTest c).ctx? c.ref = some c := (State.ctx?_congr (s.chargeTest_launches c).1 c.ref).trans hc
  have hd := State.divergesHere_of_not_replayed (c := { c with path := { c.path with pfx := p } }) (State.ctx?_parts hc').2.1 hr i
  simp [State.pickWord, hs, hh, Here.instr, hd]

/-- In a clause that has begun, a path that is offered issue takes the word at its place. -/
theorem State.takeTurn_begun {s : State} {r : PathRef} {c : Ctx} (hc : s.ctx? r = some c) (ho : s.offered c = true) (hi : c.path.idx ≠ 0) :
    s.takeTurn r = s.pickWord c := by
  simp [State.takeTurn, hc, ho, hi, State.isReady_of_offered ho]

theorem State.nextMove_turn {s s1 : State} {r : PathRef} {dt : Nat}
    (h : (s.agenda = [] ∧ r = s.cur ∧ dt = 1 ∧ s1 = s) ∨ ∃ rest, s.agenda = .issue dt r :: rest ∧ s1 = { s with agenda := rest }) :
    s.nextMove = State.takeTurn { (s1.advance (s1.waitFor r dt)).openCycle with cur := r } r := by
  unfold State.nextMove
  obtain ⟨ha, rfl, rfl, rfl⟩ | ⟨rest, ha, rfl⟩ := h <;> rw [ha] <;> rfl

theorem step_of_nextMove {s t : State} {i : Instr} (h : s.nextMove = (t, some i)) : step s = exec i t := by rw [step, h]

theorem step_of_nextMove_none {s t : State} (h : s.nextMove = (t, none)) : step s = .next t := by rw [step, h]

/-- Settles O21. -/
theorem stepRunsDecoded : Obligations.StepRunsDecoded := by
  unfold Obligations.StepRunsDecoded
  intro s s1 r dt hturn u c hc ho hi hs hr
  obtain ⟨rfl, -⟩ := State.ctx?_parts hc
  have hmove : s.nextMove = u.pickWord c := (State.nextMove_turn hturn).trans (State.takeTurn_begun hc ho hi)
  exact ⟨fun i rest h hni => step_of_nextMove (hmove.trans (State.pickWord_eq hc hs hr (hereAt_of_decode h hni))),
    fun m rd z f e b i mid rest hp h hni => step_of_nextMove (hmove.trans (State.pickWord_eq hc hs hr (hereAt_of_decode_prefix hp h hni)))⟩

end Sys2Proof.Machine
end

section
/-! SUPPORT. Words whose encoding has a cause of the illegal-instruction trap, and words that give their fields on. -/

namespace Sys2Proof.Machine

theorem State.known_pfx (s : State) (c : Ctx) : (s.known c).path.pfx = c.path.pfx := by
  unfold State.known
  dsimp only
  split <;> rfl

/-- Only words that are checked against their encoding have a cause of the trap; their meaning is that of a word. -/
theorem exec_eq_word {i : Instr} {p : Option Pfx} {d : Nat} (h : encDetail p i = some d) (s : State) : ∃ eff, exec i s = s.word i eff := by
  cases i with
  | add | sub | mul | mulh | div | rem | and | or | xor | shl | shr | sar | min | max | sel | cmp | mov | not | abs | neg | clz | popc | mmov |
  mnot | mpop | movk | mand | mor | mxor | mandn | bra | brz | brnz | call | fork | join | trip | nop | ret | exit | sleep | rdmode | wrmode |
  addVectorInt | subVectorInt | mulVectorInt | mulhVectorInt | divVectorInt | remVectorInt | andVector | orVector | xorVector | shlVector | shrVector
  | sarVector | minVectorInt | maxVectorInt | selVector | cmpVectorInt | movVector | notVector | absVectorInt | negVectorInt | clzVector | popcVector
  | addFloat | subFloat | mulFloat | fmaFloat | divFloat | sqrt | rsq | rcp | minFloat | maxFloat | cmpFloat | classify | absFloat | negFloat | addF64
  | subF64 | mulF64 | fmaF64 | shfl | bcast | matchKeys | redAdd | redMin | redMax | scanAdd | cvtF64 | cvtF32 | cvtF16 | cvtBf16 | cvtE4m3 | cvtE5m2
  | cvtL32 | cvtInt | cvtCode | cvtb | lnsmul | lnsdiv | lnsadd | lnsroot | lnspow | ld | gather | st | stStrong | scatter | atom | fence | barInit |
  barArrive | barArrivec | barWait | waita | mma | gang | opres | opready | oprel | mwait | accAlloc | accFree | accSt | accLd | cpyk | dzk | coll |
  wellAdd | wellTake | quiet | tlbw | tlbinv | orig | hret | trap | ctr | wspill => exact ⟨_, rfl⟩
  | _ => cases h

theorem State.word_illegal {s : State} {c : Ctx} {i : Instr} {d : Nat} (hr : s.running? = some c) (hd : encDetail c.path.pfx i = some d)
    (eff : Ctx → State → State) : s.word i eff = .next (s.illegal (s.known c) d) := by
  simp only [State.word, State.gate, hr, State.known_pfx, hd]

/-- Settles O13: every word asks the gate first, which asks the encoding first; `pfx` changes one field of its path. -/
theorem encodingTraps : Obligations.EncodingTraps := by
  unfold Obligations.EncodingTraps
  refine ⟨fun s c i d hr hd => ?_, fun s c d hr => ?_, fun s c m r z f e b hr => ?_⟩
  · obtain ⟨eff, heff⟩ := exec_eq_word hd s
    exact heff.trans (State.word_illegal hr hd eff)
  · simp only [exec, execIllegalInstruction, hr]
  · obtain ⟨hc, -⟩ := State.running?_ctx hr
    obtain ⟨href, -, -, -, -, hv⟩ := State.ctx?_parts hc
    rw [← href] at hc
    have hx : exec (.pfx m r z f e b) s =
        .next (s.updPath c.ref fun q => { q with pfx := some ⟨m.toNat, r.toNat, z == 1, f, e.toNat, b == 1⟩ }) := by
      simp only [exec, execPfx, hr]
    exact ⟨_, _, hx, State.ctx?_updPath hc _ hv, rfl, rfl, fun k hk => Group.updPath_other c.group hk _⟩

end Sys2Proof.Machine
end

section
/-! SUPPORT. What an operand gives: registers, inline constants, mask triples and the specials of a lane. -/

namespace Sys2Proof.Machine

/-! ### Registers with no result under way -/

theorem Ctx.stored_scal (c : Ctx) (n lane : Nat) : c.stored (.scal n) lane = c.reg (.scal n) lane := rfl

theorem Ctx.stored_oper (c : Ctx) (n lane : Nat) : c.stored (.oper n) lane = c.reg (.oper n) lane := rfl

theorem Ctx.stored_stack {c : Ctx} (h : c.path.served = []) (n lane : Nat) : c.stored (.stack n) lane = c.reg (.stack n) lane := by
  simp [Ctx.stored, h, Ctx.reg, Group.getReg]

section
variable {s : State} {c : Ctx} (hu : c.group.unseen = []) (hh : c.group.hazards = [])
include hu hh

/-- A scalar gives its one value in every lane. -/
theorem State.readReg_scal (n lane slot at_ : Nat) : s.readReg c (.scal n) lane slot at_ = c.reg (.scal n) 0 := by
  simp [State.readReg, hu, hh, seenAt, Ctx.stored_scal]

theorem State.readReg_oper (n lane slot at_ : Nat) : s.readReg c (.oper n) lane slot at_ = c.reg (.oper n) lane := by
  simp [State.readReg, hu, hh, seenAt, Ctx.stored_oper]

theorem State.readReg_stack (hs : c.path.served = []) (n lane slot at_ : Nat) : s.readReg c (.stack n) lane slot at_ = c.reg (.stack n) lane := by
  simp [State.readReg, hu, hh, seenAt, Ctx.stored_stack hs]

end

/-! ### The registers of a specifier -/

theorem isConst_eq_false {v : Nat} (h : v < 0xD0) : isConst v = false := by
  simp [isConst]
  omega

theorem isConst_add {n : Nat} (h : n < 32) : isConst (0xD0 + n) = true := by
  simp [isConst]
  omega

theorem isW_lt {v : Nat} (h : isW v = true) : v < 0x40 := of_decide_eq_true h

theorem isS_iff {v : Nat} : isS v = true ↔ 0x40 ≤ v ∧ v < 0xC0 := by simp [isS]

theorem isO_iff {v : Nat} : isO v = true ↔ 0xC0 ≤ v ∧ v < 0xC8 := by simp [isO]

theorem fieldRegs_of_isW {v : Nat} (h : isW v = true) (d n : Nat) : fieldRegs d v n = (List.range n).map fun j => .stack (8 * d + v + j) := by
  simp [fieldRegs, h]

theorem fieldRegs_of_isS {v : Nat} (h : isS v = true) (d n : Nat) : fieldRegs d v n = (List.range n).map fun j => .scal (v - 0x40 + j) := by
  have hw : isW v = false := by simpa [isW] using (isS_iff.1 h).1
  simp [fieldRegs, h, hw]

theorem fieldRegs_of_isO {v : Nat} (h : isO v = true) (d n : Nat) : fieldRegs d v n = (List.range n).map fun j => .oper (v - 0xC0 + j) := by
  obtain ⟨h1, -⟩ := isO_iff.1 h
  have hw : isW v = false := by simp [isW]; omega
  have hs : isS v = false := by simp [isS]; omega
  simp [fieldRegs, h, hw, hs]

/-- The specifiers past the registers name none. -/
theorem fieldRegs_eq_nil {v : Nat} (h : 0xC8 ≤ v) (d n : Nat) : fieldRegs d v n = [] := by
  have hw : isW v = false := by simp [isW]; omega
  have hs : isS v = false := by simp [isS]; omega
  have ho : isO v = false := by simp [isO]; omega
  simp [fieldRegs, hw, hs, ho]

/-- The bits of one register. -/
theorem State.rawLane_one {s : State} {c : Ctx} {v : Nat} {r : LaneReg} (h : fieldRegs c.group.depth v 1 = [r]) (slot at_ lane : Nat) :
    s.rawLane c v 1 slot at_ lane = (s.readReg c r lane slot at_).setWidth 64 := by
  simp only [State.rawLane, h]

/-! ### Scalar and mask operands -/

theorem toNat_setWidth_mod {w : Nat} (hw : w ≤ 32) (x : BitVec w) : (x.setWidth 64).toNat % 2 ^ 32 = x.toNat := by
  have hx : x.toNat < 2 ^ 32 := x.isLt.trans_le (Nat.pow_le_pow_right (by decide) hw)
  rw [BitVec.toNat_setWidth, Nat.mod_mod_of_dvd _ (by decide), Nat.mod_eq_of_lt hx]

theorem constBits_int_small : ∀ n < 16, ∀ w ∈ [8, 16, 32, 64], constBits (.int w) n = n := by decide

theorem constBits_int_negative : ∀ n < 4, ∀ w ∈ [32, 64], constBits (.int w) (16 + n) = 2 ^ w - 2 ^ n := by decide

theorem constBits_int_large : ∀ n < 6, ∀ w ∈ [32, 64], constBits (.int w) (20 + n) = [16, 32, 64, 96, 128, 255].getD n 0 := by decide

theorem constBits_half : constBits (.flt .f32) 26 = 0x3F000000 ∧ constBits (.flt .f16) 26 = 0x3800 ∧ constBits (.flt .f64) 26 = 0x3FE0000000000000 := by
  decide +kernel

theorem State.operand_of_lt {v : Nat} (h : v < 0xD0) (s : State) (c : Ctx) (i : Instr) (slot : Nat) (k : NumKind) (lane : Nat) :
    s.operand c i v slot k lane = (s.rawLane c v (if k.width = 64 then 2 else 1) slot
      (beatCycle s.cycle c.path.selected (if wide64 c.path.pfx i then 2 else 1) lane) lane).toNat % 2 ^ k.width := by
  simp [State.operand, isConst_eq_false h]

theorem State.operand_const (s : State) (c : Ctx) (i : Instr) {n : Nat} (h : n < 32) (slot : Nat) (k : NumKind) (lane : Nat) :
    s.operand c i (0xD0 + n) slot k lane = constBits k n := by
  simp [State.operand, isConst_add h]

theorem State.scalarOperand_const (s : State) (c : Ctx) {n : Nat} (h : n < 32) (slot w : Nat) :
    s.scalarOperand c (0xD0 + n) slot w = constBits (.int w) n := by
  simp [State.scalarOperand, isConst_add h]

section
variable {s : State} {c : Ctx} (hu : c.group.unseen = []) (hh : c.group.hazards = [])
include hu hh

theorem State.scalarOperand_32 {v : Nat} (h : isS v = true) (slot : Nat) : s.scalarOperand c v slot 32 = (c.reg (.scal (v - 0x40)) 0).toNat := by
  have hc := isConst_eq_false ((isS_iff.1 h).2.trans (by decide))
  have hf : fieldRegs c.group.depth v 1 = [.scal (v - 0x40)] := fieldRegs_of_isS h _ _
  rw [State.scalarOperand, hc, if_neg Bool.false_ne_true, if_neg (by decide), State.rawLane_one hf, State.readReg_scal hu hh,
    toNat_setWidth_mod le_rfl]

theorem State.scalarOperand_64 {v : Nat} (h : isS v = true) (slot : Nat) :
    s.scalarOperand c v slot 64 = (c.reg (.scal (v - 0x40 + 1)) 0 ++ c.reg (.scal (v - 0x40)) 0).toNat := by
  have hc := isConst_eq_false ((isS_iff.1 h).2.trans (by decide))
  have hf : fieldRegs c.group.depth v 2 = [.scal (v - 0x40), .scal (v - 0x40 + 1)] := fieldRegs_of_isS h _ _
  simp only [State.scalarOperand, hc, Bool.false_eq_true, if_false, if_true, State.rawLane, hf, State.readReg_scal hu hh]
  exact Nat.mod_eq_of_lt (BitVec.isLt _)

/-- Each word of a mask operand is the scalar at its place of the triple. -/
theorem State.maskOperand_word {v j : Nat} (hj : j < 3) (h : isS v = true) (hvj : isS (v + j) = true) (slot : Nat) :
    (s.maskOperand c v slot).extractLsb' (32 * j) 32 = c.reg (.scal (v - 0x40 + j)) 0 := by
  have hc := isConst_eq_false ((isS_iff.1 h).2.trans (by decide))
  have hf : fieldRegs c.group.depth (v + j) 1 = [.scal (v - 0x40 + j)] := by
    rw [fieldRegs_of_isS hvj, Nat.sub_add_comm (isS_iff.1 h).1]
    rfl
  have hw : ((s.rawLane c (v + j) 1 (slot + j) s.cycle 0).setWidth 32 : Word) = c.reg (.scal (v - 0x40 + j)) 0 := by
    rw [State.rawLane_one hf, State.readReg_scal hu hh, BitVec.setWidth_setWidth_of_le _ (by decide), BitVec.setWidth_eq]
  rw [← hw, State.maskOperand, hc, ofMaskWords_eq_append]
  interval_cases j <;> simp

end

theorem State.maskOperand_const (s : State) (c : Ctx) {n : Nat} (h : n < 32) (slot : Nat) {x : Word} (hx : BitVec.ofNat 32 (constBits (.int 32) n) = x) :
    s.maskOperand c (0xD0 + n) slot = x ++ (x ++ x : BitVec 64) := by
  rw [State.maskOperand, isConst_add h, ofMaskWords_eq_append]
  simp [hx]

/-! ### Operands of vector words -/

section
variable {s : State} {c : Ctx}

theorem State.operand_int {v : Nat} {r : LaneReg} (hv : v < 0xD0) (hf : fieldRegs c.group.depth v 1 = [r]) {lane : Nat} {x : Word}
    (hr : ∀ slot at_, s.readReg c r lane slot at_ = x) (i : Instr) (slot : Nat) : s.operand c i v slot (.int 32) lane = x.toNat := by
  rw [State.operand_of_lt hv]
  simp only [NumKind.width, Nat.reduceEqDiff, if_false]
  rw [State.rawLane_one hf, hr, toNat_setWidth_mod le_rfl]

/-- An operand is the bits of its specifier at its width, where those do not depend on the number of registers and the cycle. -/
theorem State.operand_of_rawLane {v : Nat} (hv : v < 0xD0) {lane slot : Nat} {x : DWord}
    (hx : ∀ n at_, s.rawLane c v n slot at_ lane = x) (i : Instr) (k : NumKind) : s.operand c i v slot k lane = x.toNat % 2 ^ k.width := by
  rw [State.operand_of_lt hv, hx]

theorem State.rawLane_lastResult (h : c.path.l0Def = true) (n slot at_ lane : Nat) : s.rawLane c 0xC8 n slot at_ lane = c.path.l0.get lane := by
  simp [State.rawLane, fieldRegs_eq_nil, h]

theorem State.rawLane_laneNumber (n slot at_ lane : Nat) : s.rawLane c 0xCA n slot at_ lane = BitVec.ofNat 64 lane := by
  simp [State.rawLane, fieldRegs_eq_nil]

/-- With no flag result under way a lane's flags are those it holds. -/
theorem State.rawLane_flags (hf : c.group.flagHazards = []) {lane : Nat} (hd : s.flagsDue c.ref (laneSet [lane]) = []) (n slot at_ : Nat) :
    s.rawLane c 0xCB n slot at_ lane = (c.group.flags.get lane).setWidth 64 := by
  simp [State.rawLane, fieldRegs_eq_nil, State.flagsOf, hd, Group.flagsSeen, hf]

end

/-- Settles O5. -/
theorem operands : Obligations.Operands := by
  unfold Obligations.Operands
  refine ⟨fun s c v slot hu hh => ⟨(State.scalarOperand_32 hu hh · slot), (State.scalarOperand_64 hu hh · slot), ?_, ?_, ?_, ?_, ?_, ?_,
    fun j hj h hvj => State.maskOperand_word hu hh hj h hvj slot, ?_, ?_⟩,
    fun s c i v slot lane hu hh hf hl => ⟨fun h hs => ?_, fun h => ?_, fun h => ?_, ?_, ?_, ?_, ?_, ?_, ?_⟩⟩
  · rintro n hn rfl w hw
    rw [State.scalarOperand_const s c (by omega), constBits_int_small n hn w (List.mem_of_mem_drop (i := 2) hw)]
  · rintro n hn rfl w hw
    rw [show 0xE0 + n = 0xD0 + (16 + n) by omega, State.scalarOperand_const s c (by omega), constBits_int_negative n hn w hw]
  · rintro n hn rfl w hw
    rw [show 0xE4 + n = 0xD0 + (20 + n) by omega, State.scalarOperand_const s c (by omega), constBits_int_large n hn w hw]
  · rintro rfl w -
    exact State.scalarOperand_const s c (n := 29) (by decide) slot w
  · rintro rfl w -
    exact State.scalarOperand_const s c (n := 30) (by decide) slot w
  · rintro rfl w -
    exact State.scalarOperand_const s c (n := 31) (by decide) slot w
  · rintro rfl
    exact (State.maskOperand_const s c (n := 31) (by decide) slot rfl).trans (by decide)
  · rintro rfl
    exact (State.maskOperand_const s c (n := 0) (by decide) slot rfl).trans (by decide)
  · exact State.operand_int ((isW_lt h).trans (by decide)) (fieldRegs_of_isW h _ _) (State.readReg_stack hu hh hs _ _) i slot
  · exact State.operand_int ((isO_iff.1 h).2.trans (by decide)) (by simp [fieldRegs_of_isO h]) (State.readReg_oper hu hh _ _) i slot
  · exact State.operand_int ((isS_iff.1 h).2.trans (by decide)) (fieldRegs_of_isS h _ _) (State.readReg_scal hu hh _ _) i slot
  · rintro rfl h0
    rw [State.operand_of_rawLane (by decide) (fun n at_ => State.rawLane_lastResult h0 n slot at_ lane) i]
    rfl
  · rintro rfl h0
    rw [State.operand_of_rawLane (by decide) (fun n at_ => State.rawLane_lastResult h0 n slot at_ lane) i]
    exact Nat.mod_eq_of_lt (BitVec.isLt _)
  · rintro rfl
    rw [State.operand_of_rawLane (by decide) (fun n at_ => State.rawLane_laneNumber n slot at_ lane) i]
    simp only [NumKind.width, BitVec.toNat_ofNat]
    omega
  · rintro rfl hd
    rw [State.operand_of_rawLane (by decide) (fun n at_ => State.rawLane_flags hf hd n slot at_) i]
    exact toNat_setWidth_mod (by decide) _
  · rintro n hn rfl w hw
    rw [State.operand_const s c i (by omega), constBits_int_small n hn w hw]
  · rintro rfl
    obtain ⟨h32, h16, h64⟩ := constBits_half
    have hk (k : NumKind) : s.operand c i 0xEA slot k lane = constBits k 26 := State.operand_const s c i (n := 26) (by decide) slot k lane
    exact ⟨(hk _).trans h32, (hk _).trans h16, (hk _).trans h64⟩

end Sys2Proof.Machine
end

section
/-! SUPPORT. The turn of a path before its clause: what it does as it begins the clause, the checks of a clause, and what a fetch gives. -/

namespace Sys2Proof.Machine

/-! ### Beginning a clause -/

/-- The state in which the path of `c` has fetched the clause of header `h` and words `ws`. -/
def State.withClause (s : State) (c : Ctx) (h : Word) (ws : List Word) : State :=
  (s.chargeCode c.launch.owner c.path.pc (4 * (ws.length + 1))).updPath c.ref fun p => { p with fetched := h :: ws }

/-- The context of the path of `c` that has fetched the clause. -/
def Ctx.withClause (c : Ctx) (h : Word) (ws : List Word) : Ctx :=
  c.withGroup (fun z => z.updPath c.ref.path fun p => { p with fetched := h :: ws }) { c.path with fetched := h :: ws }

theorem State.beginClause_capped {s : State} {c : Ctx} (h0 : c.path.fetched = []) (hp : s.pumpHeld c.launch = true) :
    s.beginClause c = s.heldByCap c.ref := by
  simp [State.beginClause, h0, hp]

section
variable {s : State} {c : Ctx} {h : Word} {ws : List Word}

theorem State.withClause_ctx (hc : s.ctx? c.ref = some c) : (s.withClause c h ws).ctx? c.ref = some (c.withClause h ws) := by
  have hc' := (State.ctx?_congr (s.chargeCode_launches c.launch.owner c.path.pc (4 * (ws.length + 1))).1 c.ref).trans hc
  obtain ⟨-, -, -, -, -, hv⟩ := State.ctx?_parts hc
  exact State.ctx?_updPath hc' _ hv

variable (h0 : c.path.fetched = []) (hp : s.pumpHeld c.launch = false) (hf : s.fetchClause c = .ok (h :: ws))
include h0 hp hf

theorem State.beginClause_illegal {d : Nat} (hd : clauseDetail h.toNat ws = some d) :
    s.beginClause c = (s.withClause c h ws).faultPath { c with path := { c.path with fetched := h :: ws } } ⟨4, d, 0, 3⟩ false := by
  simp [State.beginClause, State.withClause, h0, hp, hf, hd]

variable (hd : clauseDetail h.toNat ws = none)
include hd

theorem State.beginClause_waits (hw : c.group.waitClear h.toNat = false) :
    s.beginClause c = (s.withClause c h ws).setStatus c.ref (.waiting .clause) := by
  simp [State.beginClause, State.withClause, h0, hp, hf, hd, hw]

/-- A clause that no check and no counter holds begins: its path stands at its first word. -/
theorem State.beginClause_begins (hw : c.group.waitClear h.toNat = true) :
    s.beginClause c = (s.withClause c h ws).updPathGroup c.ref fun z => (z.waitSeen h.toNat).updPath c.ref.path fun p => { p with idx := 1 } := by
  simp [State.beginClause, State.withClause, h0, hp, hf, hd, hw]

theorem State.beginClause_ctx (hc : s.ctx? c.ref = some c) (hw : c.group.waitClear h.toNat = true) :
    ∃ c1, (s.beginClause c).ctx? c.ref = some c1 ∧ c1.ref = c.ref ∧ c1.path = { c.path with fetched := h :: ws, idx := 1 } ∧
      c1.launch.owner = c.launch.owner ∧ c1.launch.handler = c.launch.handler ∧ c1.launch.replay = c.launch.replay := by
  have hc2 := State.withClause_ctx (h := h) (ws := ws) hc
  obtain ⟨-, -, -, -, hat, hv⟩ := State.ctx?_parts hc2
  rw [State.beginClause_begins h0 hp hf hd hw]
  have hc3 := State.ctx?_updPathGroup hc2 (fun z => (z.waitSeen h.toNat).updPath c.ref.path fun p => { p with idx := 1 }) (fun _ hz => hz)
    (Group.updPath_at (z := (c.withClause h ws).group.waitSeen h.toNat) hat fun p => { p with idx := 1 }) hv
  exact ⟨_, hc3, rfl, rfl, rfl, rfl, rfl⟩

end

theorem State.chargeTest_congr (s : State) {c d : Ctx} (ho : d.launch.owner = c.launch.owner) (hh : d.launch.handler = c.launch.handler) :
    s.chargeTest d = s.chargeTest c := by
  simp only [State.chargeTest, ho, hh]

/-! ### The turn of a path before its clause -/

section
variable {s : State} {r : PathRef} {c : Ctx} (hc : s.ctx? r = some c) (ho : s.offered c = true) (hi : c.path.idx = 0) (hs : s.stopCause c = none)
include hc ho hi hs

theorem State.takeTurn_begins {c1 : Ctx} (hc1 : (s.beginClause c).ctx? r = some c1) (hr : c1.path.isReady = true) (hi1 : c1.path.idx ≠ 0) :
    s.takeTurn r = (s.beginClause c).pickWord c1 := by
  simp [State.takeTurn, hc, ho, hi, hs, hc1, hr, hi1]

/-- A path that is still before its clause runs no word. -/
theorem State.takeTurn_before (h1 : ∀ c1, (s.beginClause c).ctx? r = some c1 → c1.path.idx = 0) : s.takeTurn r = (s.beginClause c, none) := by
  cases hc1 : (s.beginClause c).ctx? r with
  | none => simp [State.takeTurn, hc, ho, hi, hs, hc1]
  | some c1 => simp [State.takeTurn, hc, ho, hi, hs, hc1, h1 c1 hc1]

theorem State.takeTurn_capped (h0 : c.path.fetched = []) (hp : s.pumpHeld c.launch = true) : s.takeTurn r = (s.heldByCap c.ref, none) := by
  obtain ⟨rfl, -, -, -, -, hv⟩ := State.ctx?_parts hc
  rw [State.takeTurn_before hc ho hi hs, State.beginClause_capped h0 hp]
  intro c1 hc1
  rw [State.beginClause_capped h0 hp] at hc1
  cases hc1.symm.trans (State.ctx?_updPath hc _ hv)
  exact hi

section
variable {h : Word} {ws : List Word} (h0 : c.path.fetched = []) (hp : s.pumpHeld c.launch = false) (hf : s.fetchClause c = .ok (h :: ws))
include h0 hp hf

theorem State.takeTurn_illegal {d : Nat} (hd : clauseDetail h.toNat ws = some d) :
    s.takeTurn r = ((s.withClause c h ws).faultPath { c with path := { c.path with fetched := h :: ws } } ⟨4, d, 0, 3⟩ false, none) := by
  obtain ⟨rfl, -⟩ := State.ctx?_parts hc
  have hb := State.beginClause_illegal h0 hp hf hd
  have hq := State.path?_of_ctx? (State.withClause_ctx (h := h) (ws := ws) hc)
  rw [State.takeTurn_before hc ho hi hs, hb]
  intro c1 hc1
  rw [hb] at hc1
  exact State.faultPath_idx (c := { c with path := { c.path with fetched := h :: ws } }) hq hi hc1

theorem State.takeTurn_waits (hd : clauseDetail h.toNat ws = none) (hw : c.group.waitClear h.toNat = false) :
    s.takeTurn r = ((s.withClause c h ws).setStatus c.ref (.waiting .clause), none) := by
  obtain ⟨rfl, -⟩ := State.ctx?_parts hc
  have hb := State.beginClause_waits h0 hp hf hd hw
  rw [State.takeTurn_before hc ho hi hs, hb]
  intro c1 hc1
  rw [hb] at hc1
  exact (State.awaitClause_idx (State.path?_of_ctx? (State.withClause_ctx hc)) (State.path?_of_ctx? hc1)).trans hi

/-- A clause that begins runs the instruction at its first word. -/
theorem State.takeTurn_first (hd : clauseDetail h.toNat ws = none) (hw : c.group.waitClear h.toNat = true) (hr : c.launch.replay = none)
    (hs1 : ∀ c1, (s.beginClause c).ctx? r = some c1 → (s.beginClause c).stopCause c1 = none) {p : Option Pfx} {i : Instr}
    (hh : hereAt (h :: ws) 1 = ⟨p, .ok i⟩) :
    s.takeTurn r = (((s.beginClause c).chargeTest c).updPath r fun q => { q with pfx := p }, some i) := by
  obtain ⟨rfl, -⟩ := State.ctx?_parts hc
  obtain ⟨c1, hc1, href, hpath, howner, hhandler, hreplay⟩ := State.beginClause_ctx h0 hp hf hd hc hw
  have hready : c1.path.isReady = true := by
    rw [hpath]
    exact State.isReady_of_offered ho
  have hhere : c1.path.here = ⟨p, .ok i⟩ := by
    rw [hpath]
    exact hh
  rw [State.takeTurn_begins hc ho hi hs hc1 hready (by simp [hpath]), State.pickWord_eq (href ▸ hc1) (hs1 c1 hc1) (hreplay.trans hr) hhere,
    State.chargeTest_congr _ howner hhandler, href]

end
end

end Sys2Proof.Machine
end

section
/-! SUPPORT. The checks of a clause: its causes, and the items that its words are cut into. -/

namespace Sys2Proof.Machine

/-! ### The lowest cause -/

theorem lowestDetail_eq_some_iff {l : List Nat} {d : Nat} : lowestDetail l = some d ↔ d ∈ l ∧ ∀ b ∈ l, d ≤ b := by
  have hmin : lowestDetail l = l.min? := by cases l <;> rfl
  rw [hmin, List.min?_eq_some_iff]

/-- The causes of the words of a clause, one by one. -/
theorem mem_clauseCauses {h : Nat} {items : List SWord} {d : Nat} : d ∈ clauseCauses h items ↔
    ((∃ k, (∃ w ∈ items, wordKind w.main = some k) ∧ classPermits (h / 16 % 8) k = false) ∧ d = 5) ∨
    ((h / 16 % 8 = 5 ∧ 1 < (items.filterMap fun w => wordKind w.main).count .system) ∧ d = 6) ∨
    ((∃ w ∈ items.dropLast, wordKind w.main = some .control) ∧ d = 7) ∨
    (((∃ w ∈ items, w.cutShort = true) ∨ items.getLast?.elim false (fun w => isPrefixWord w.main) = true) ∧ d = 8) ∨
    ((h.testBit 17 = true ∧ ∃ w ∈ items, wordKind w.main = some .vector ∨ w.names.any isPerLane = true) ∧ d = 9) := by
  have hcls : bits h 6 4 = h / 16 % 8 := rfl
  simp only [clauseCauses, hcls, List.mem_append, List.mem_ite_nil_right, List.mem_singleton, List.any_eq_true, List.mem_filterMap, Bool.not_eq_true',
    Bool.or_eq_true, beq_iff_eq, or_assoc]

theorem le_of_mem_clauseCauses {h : Nat} {items : List SWord} {d : Nat} (hd : d ∈ clauseCauses h items) : 5 ≤ d := by
  obtain ⟨-, rfl⟩ | ⟨-, rfl⟩ | ⟨-, rfl⟩ | ⟨-, rfl⟩ | ⟨-, rfl⟩ := mem_clauseCauses.1 hd <;> decide

/-- The causes of a clause: those of its header first. -/
theorem clauseDetail_eq_some_iff {h : Nat} {ws : List Word} {d : Nat} : clauseDetail h ws = some d ↔
    let causes (e : Nat) : Prop := (h % 16 = 0 ∧ e = 1) ∨ (6 ≤ h / 16 % 8 ∧ e = 2) ∨ (h / 2 ^ 20 ≠ 0 ∧ e = 3) ∨ (h / 2 ^ 16 % 4 = 1 ∧ e = 4) ∨
      e ∈ clauseCauses h (cutWords 16 1 ws)
    causes d ∧ ∀ e, causes e → d ≤ e := by
  have hstart : (h.testBit 16 = true ∧ (!h.testBit 17) = true) ↔ h / 2 ^ 16 % 4 = 1 := by
    simp only [Nat.testBit_eq_decide_div_mod_eq, decide_eq_true_eq, Bool.not_eq_true', decide_eq_false_iff_not]
    omega
  have hcount : bits h 3 0 = h % 16 := by simp [bits]
  have hcls : bits h 6 4 = h / 16 % 8 := rfl
  simp only [clauseDetail, lowestDetail_eq_some_iff, List.mem_append, List.mem_ite_nil_right, List.mem_singleton, hstart, hcount, hcls, or_assoc]

/-- With no cause in its header a clause raises the lowest cause of its words. -/
theorem clauseDetail_eq_some {h : Nat} {ws : List Word} (h1 : h % 16 ≠ 0) (h2 : h / 16 % 8 < 6) (h3 : h < 2 ^ 20) (h4 : h / 2 ^ 16 % 4 ≠ 1) {d : Nat}
    (hd : d ∈ clauseCauses h (cutWords 16 1 ws)) (hlow : ∀ e ∈ clauseCauses h (cutWords 16 1 ws), d ≤ e) : clauseDetail h ws = some d := by
  rw [clauseDetail_eq_some_iff]
  refine ⟨by simp [hd], fun e he => ?_⟩
  obtain ⟨h, -⟩ | ⟨h, -⟩ | ⟨h, -⟩ | ⟨h, -⟩ | h := he
  · exact absurd h h1
  · omega
  · exact absurd (Nat.div_eq_of_lt h3) h
  · exact absurd h h4
  · exact hlow e h

theorem clauseDetail_header {h : Nat} (ws : List Word) {d : Nat} (h5 : d < 5)
    (hd : (h % 16 = 0 ∧ d = 1) ∨ (h % 16 ≠ 0 ∧ 6 ≤ h / 16 % 8 ∧ d = 2) ∨ (h % 16 ≠ 0 ∧ h / 16 % 8 < 6 ∧ 2 ^ 20 ≤ h ∧ d = 3) ∨
      (h % 16 ≠ 0 ∧ h / 16 % 8 < 6 ∧ h < 2 ^ 20 ∧ h / 2 ^ 16 % 4 = 1 ∧ d = 4)) : clauseDetail h ws = some d := by
  rw [clauseDetail_eq_some_iff]
  refine ⟨by omega, fun e he => ?_⟩
  have h5' (hm : e ∈ clauseCauses h (cutWords 16 1 ws)) : d ≤ e := h5.le.trans (le_of_mem_clauseCauses hm)
  by_cases hm : e ∈ clauseCauses h (cutWords 16 1 ws)
  · exact h5' hm
  · simp only [hm, or_false] at he
    omega

/-! ### The items of a clause -/

/-- The item of one word that gives no fields on (not `pfx`). -/
def plainItem (i : Nat) (w : Word) (r : List Word) : SWord :=
  ⟨i, (w :: r).take (if hasTrailing w then 2 else 1), none, (decodeWord w (r.headD 0)).toOption⟩

theorem cutWords_nil (n i : Nat) : cutWords n i [] = [] := by cases n <;> rfl

theorem cutWords_plain (n i : Nat) {w : Word} (h : isPrefixWord w = false) (r : List Word) : cutWords (n + 1) i (w :: r) =
    plainItem i w r :: cutWords n (i + if hasTrailing w then 2 else 1) ((w :: r).drop (if hasTrailing w then 2 else 1)) := by
  simp [cutWords, h, plainItem]

theorem plainItem_main (i : Nat) {w : Word} (h : isPrefixWord w = false) (r : List Word) : (plainItem i w r).main = w := by
  cases ht : hasTrailing w <;> simp [plainItem, SWord.main, ht, h]

theorem plainItem_cutShort (i : Nat) {w : Word} (h : isPrefixWord w = false) {r : List Word} (hr : hasTrailing w = true → r ≠ []) :
    (plainItem i w r).cutShort = false := by
  rw [SWord.cutShort, plainItem_main i h]
  cases ht : hasTrailing w <;> simp [plainItem, ht, h]
  exact hr ht

/-- The item of a `pfx` word that nothing follows. -/
theorem cutWords_prefix_last (n i : Nat) {w : Word} (h : isPrefixWord w = true) : cutWords (n + 1) i [w] = [⟨i, [w], none, none⟩] := by
  simp [cutWords, h]

/-! ### Instruction words as items -/

/-- The words of an instruction begin with a word of kind `k`, not of `pfx`. -/
def EncodesKind (i : Instr) (k : Kind) : Prop :=
  ∃ w r, encode i = w :: r ∧ wordKind w = some k ∧ isPrefixWord w = false ∧ r.length = if hasTrailing w then 1 else 0

/-- A whole instruction word of kind `k`, not `pfx`. -/
structure SWord.Whole (x : SWord) (k : Kind) : Prop where
  kind : wordKind x.main = some k
  plain : isPrefixWord x.main = false
  whole : x.cutShort = false

theorem EncodesKind.cutWords {i : Instr} {k : Kind} (h : EncodesKind i k) (n j : Nat) (t : List Word) :
    ∃ x j', Machine.cutWords (n + 1) j (encode i ++ t) = x :: Machine.cutWords n j' t ∧ x.Whole k := by
  obtain ⟨w, r, he, hk, hp, hr⟩ := h
  have hrest : (w :: r ++ t).drop (if hasTrailing w then 2 else 1) = t := by
    refine List.drop_left' ?_
    rw [List.length_cons, hr]
    split <;> rfl
  have hne (ht : hasTrailing w = true) : r ++ t ≠ [] := by
    rw [ht, if_pos rfl] at hr
    simp [← List.length_eq_zero_iff, hr]
  have hmain := plainItem_main j hp (r ++ t)
  refine ⟨plainItem j w (r ++ t), j + (if hasTrailing w then 2 else 1), ?_, by rw [hmain, hk], by rw [hmain, hp], plainItem_cutShort j hp hne⟩
  rw [he, List.cons_append, cutWords_plain n j hp, ← List.cons_append, hrest]

theorem encodesKind_ld (st : BitVec 2) (d a : BitVec 8) (b : BitVec 7) (sb : BitVec 3) (ty : BitVec 5) (sc : BitVec 3) (sp : BitVec 1) (op : BitVec 4) :
    EncodesKind (.ld st d a b sb ty sc sp op) .memory := by
  refine ⟨_, _, rfl, ?_, ?_, ?_⟩ <;> simp [wordKind, isPrefixWord, hasTrailing, bits_eq_extractLsb', -BitVec.extractLsb'_toNat]

theorem encodesKind_ctr (st : BitVec 2) (d : BitVec 8) (n : BitVec 6) : EncodesKind (.ctr st d n) .system := by
  refine ⟨_, _, rfl, ?_, ?_, ?_⟩ <;> simp [wordKind, isPrefixWord, hasTrailing, bits_eq_extractLsb', -BitVec.extractLsb'_toNat]

theorem encodesKind_bra (st : BitVec 2) (o : BitVec 23) : EncodesKind (.bra st o) .control := by
  refine ⟨_, _, rfl, ?_, ?_, ?_⟩ <;> simp [wordKind, isPrefixWord, hasTrailing, bits_eq_extractLsb', -BitVec.extractLsb'_toNat]

theorem encodesKind_nop (st : BitVec 2) : EncodesKind (.nop st) .scalar := by
  refine ⟨_, _, rfl, ?_, ?_, ?_⟩ <;> simp [wordKind, isPrefixWord, hasTrailing, bits_eq_extractLsb', -BitVec.extractLsb'_toNat]

theorem encodesKind_addVectorInt (st : BitVec 2) (d a : BitVec 8) (b : BitVec 7) : EncodesKind (.addVectorInt st d a b) .vector := by
  refine ⟨_, _, rfl, ?_, ?_, ?_⟩ <;> simp [wordKind, isPrefixWord, hasTrailing, bits_eq_extractLsb', -BitVec.extractLsb'_toNat]

theorem EncodesKind.cutWords_one {i : Instr} {k : Kind} (h : EncodesKind i k) : ∃ x, Machine.cutWords 16 1 (encode i) = [x] ∧ x.Whole k := by
  obtain ⟨x, j, hc, hx⟩ := h.cutWords 15 1 []
  rw [List.append_nil, cutWords_nil] at hc
  exact ⟨x, hc, hx⟩

theorem EncodesKind.cutWords_two {i j : Instr} {k l : Kind} (h : EncodesKind i k) (h' : EncodesKind j l) :
    ∃ x y, Machine.cutWords 16 1 (encode i ++ encode j) = [x, y] ∧ x.Whole k ∧ y.Whole l := by
  obtain ⟨x, m, hc, hx⟩ := h.cutWords 15 1 (encode j)
  obtain ⟨y, n, hc', hy⟩ := h'.cutWords 14 m []
  rw [List.append_nil, cutWords_nil] at hc'
  exact ⟨x, y, hc.trans (congrArg _ hc'), hx, hy⟩

/-! ### The causes of words -/

section
variable {h : Nat} (h1 : h % 16 ≠ 0) (h2 : h / 16 % 8 < 6) (h3 : h < 2 ^ 20) (h4 : h / 2 ^ 16 % 4 ≠ 1)
include h1 h2 h3 h4

theorem clauseDetail_memory {i : Instr} (hi : EncodesKind i .memory) (hc : h / 16 % 8 ≠ 1) : clauseDetail h (encode i) = some 5 := by
  obtain ⟨x, hx, hk⟩ := hi.cutWords_one
  refine clauseDetail_eq_some h1 h2 h3 h4 ?_ fun e he => le_of_mem_clauseCauses he
  rw [hx, mem_clauseCauses]
  exact .inl ⟨⟨.memory, ⟨x, List.mem_singleton_self x, hk.kind⟩, decide_eq_false hc⟩, rfl⟩

theorem clauseDetail_system {i j : Instr} (hi : EncodesKind i .system) (hj : EncodesKind j .system) (hc : h / 16 % 8 = 5) :
    clauseDetail h (encode i ++ encode j) = some 6 := by
  obtain ⟨x, y, hxy, hx, hy⟩ := hi.cutWords_two hj
  refine clauseDetail_eq_some h1 h2 h3 h4 ?_ fun e he => ?_
  · rw [hxy, mem_clauseCauses]
    exact .inr (.inl ⟨⟨hc, by simp [hx.kind, hy.kind]⟩, rfl⟩)
  · rw [hxy, mem_clauseCauses] at he
    simp [hx.kind, hy.kind, hc, classPermits] at he
    omega

theorem clauseDetail_control {i j : Instr} (hi : EncodesKind i .control) (hj : EncodesKind j .scalar) :
    clauseDetail h (encode i ++ encode j) = some 7 := by
  obtain ⟨x, y, hxy, hx, hy⟩ := hi.cutWords_two hj
  refine clauseDetail_eq_some h1 h2 h3 h4 ?_ fun e he => ?_
  · rw [hxy, mem_clauseCauses]
    exact .inr (.inr (.inl ⟨⟨x, by simp, hx.kind⟩, rfl⟩))
  · rw [hxy, mem_clauseCauses] at he
    simp [hx.kind, hy.kind, classPermits] at he
    omega

/-- A `pfx` word that ends its clause lacks the word it precedes. -/
theorem clauseDetail_prefix {w : Word} (hw : isPrefixWord w = true) : clauseDetail h [w] = some 8 := by
  have hmain : SWord.main ⟨1, [w], none, none⟩ = 0#32 := by simp [SWord.main, hw]
  have hcut : SWord.cutShort ⟨1, [w], none, none⟩ = true := by
    rw [SWord.cutShort, hmain]
    simp [hw]
    split <;> decide
  have hkind : wordKind 0#32 = some .scalar := by decide
  refine clauseDetail_eq_some h1 h2 h3 h4 ?_ fun e he => ?_
  · rw [cutWords_prefix_last _ _ hw, mem_clauseCauses]
    exact .inr (.inr (.inr (.inl ⟨.inl ⟨_, List.mem_singleton_self _, hcut⟩, rfl⟩)))
  · rw [cutWords_prefix_last _ _ hw, mem_clauseCauses] at he
    simp [hmain, hkind, classPermits] at he
    omega

theorem clauseDetail_vector {i : Instr} (hi : EncodesKind i .vector) (hc : h / 16 % 8 ≠ 4) (hu : h / 2 ^ 17 % 2 = 1) :
    clauseDetail h (encode i) = some 9 := by
  obtain ⟨x, hx, hk⟩ := hi.cutWords_one
  have hbit : h.testBit 17 = true := by simpa [Nat.testBit_eq_decide_div_mod_eq] using hu
  refine clauseDetail_eq_some h1 h2 h3 h4 ?_ fun e he => ?_
  · rw [hx, mem_clauseCauses]
    exact .inr (.inr (.inr (.inr ⟨⟨hbit, x, List.mem_singleton_self x, .inl hk.kind⟩, rfl⟩)))
  · rw [hx, mem_clauseCauses] at he
    simp [hk.kind, hk.plain, hk.whole, classPermits, hc] at he
    omega

end

end Sys2Proof.Machine
end

section
/-! SUPPORT. What a fetch gives, and the turn of a path before its clause as one statement. -/

namespace Sys2Proof.Machine

/-! ### Fetching -/

theorem mapM_option_eq_some {α β : Type} {f : α → Option β} {g : α → β} {l : List α} (h : ∀ a ∈ l, f a = some (g a)) : l.mapM f = some (l.map g) := by
  induction l with
  | nil => rfl
  | cons a l ih => simp [h a, ih fun b hb => h b (List.mem_cons_of_mem a hb)]

/-- An address map that is one range gives the bytes of that range. -/
theorem State.readMap_range (s : State) (view : Nat) {f : Nat → Option Nat} {va pa n : Nat} (h : ∀ k < n, f (va + k) = some (pa + k)) :
    s.readMap view f va n = some (s.readPhys view pa n) :=
  mapM_option_eq_some fun k hk => by rw [h k (List.mem_range.1 hk), Option.map_some]

theorem State.readPhys_length (s : State) (view pa n : Nat) : (s.readPhys view pa n).length = n := by
  simp [State.readPhys, Memory.read]

theorem State.fetchFault_unaligned {s : State} {o va : Nat} (h : va % 4 ≠ 0) (n : Nat) : s.fetchFault o va n = some ⟨8, 1, va, 0⟩ := by
  simp [State.fetchFault, h]

theorem State.fetchFault_miss {s : State} {o va n : Nat} (h : va % 4 = 0) (he : (s.owner o).entry? va = none) :
    s.fetchFault o va (n + 1) = some ⟨1, 0, va, 0⟩ := by
  simp [State.fetchFault, h, List.range_succ_eq_map, Owner.translate, he]

section
variable {s : State} {o va pa n : Nat}
  (h : ∀ k < n, (s.owner o).translate (va + k) false = .ok (pa + k) ∧ s.portUp (pa + k) = true ∧ s.poisoned (pa + k) 1 = false)
include h

theorem State.fetchFault_eq_none (ha : va % 4 = 0) : s.fetchFault o va n = none := by
  rw [State.fetchFault, if_neg (not_not.2 ha), List.findSome?_eq_none_iff]
  intro k hk
  obtain ⟨ht, hport, hclean⟩ := h k (List.mem_range.1 hk)
  simp [ht, hport, hclean]

/-- The words of a fetch are the bytes of the range, as the die reads them. -/
theorem State.codeWords_range {m : Nat} (hm : 4 * m ≤ n) (die : Nat) : s.codeWords o die va m = bytesWords m (s.readPhys die pa (4 * m)) := by
  have hread : s.readMap die (s.vaRead o) va (4 * m) = some (s.readPhys die pa (4 * m)) :=
    State.readMap_range s die fun k hk => by
      rw [State.vaRead, (h k (by omega)).1]
      rfl
  rw [State.codeWords, hread, Option.getD_some]

end

theorem State.fetchClause_range {s : State} {c : Ctx} {pa n : Nat} (ha : c.path.pc % 4 = 0)
    (hn : (BitVec.ofNat 32 (leNat (s.readPhys (dieOf c.group.core) pa 4))).toNat % 16 + 1 = n)
    (h : ∀ k < 4 * n, (s.owner c.launch.owner).translate (c.path.pc + k) false = .ok (pa + k) ∧ s.portUp (pa + k) = true ∧ s.poisoned (pa + k) 1 = false) :
    s.fetchClause c = .ok (bytesWords n (s.readPhys (dieOf c.group.core) pa (4 * n))) := by
  have h4 : ∀ k < 4, (s.owner c.launch.owner).translate (c.path.pc + k) false = .ok (pa + k) ∧ s.portUp (pa + k) = true ∧ s.poisoned (pa + k) 1 = false :=
    fun k hk => h k (by omega)
  have hhead : (s.codeWords c.launch.owner (dieOf c.group.core) c.path.pc 1).headD 0 = BitVec.ofNat 32 (leNat (s.readPhys (dieOf c.group.core) pa 4)) := by
    rw [State.codeWords_range h4 le_rfl, bytesWords, List.headD_cons, List.take_of_length_le (State.readPhys_length ..).le]
  have hcount : 1 + bits (BitVec.ofNat 32 (leNat (s.readPhys (dieOf c.group.core) pa 4))).toNat 3 0 = n := by
    rw [← hn, Nat.add_comm]
    simp [bits]
  simp only [State.fetchClause, State.fetchFault_eq_none h4 ha, hhead, hcount, State.fetchFault_eq_none h ha, State.codeWords_range h le_rfl]

theorem State.fetchClause_unaligned {s : State} {c : Ctx} (h : c.path.pc % 4 ≠ 0) : s.fetchClause c = .error ⟨8, 1, c.path.pc, 0⟩ := by
  simp only [State.fetchClause, State.fetchFault_unaligned h]

theorem State.fetchClause_miss {s : State} {c : Ctx} (h : c.path.pc % 4 = 0) (he : (s.owner c.launch.owner).entry? c.path.pc = none) :
    s.fetchClause c = .error ⟨1, 0, c.path.pc, 0⟩ := by
  simp only [State.fetchClause, State.fetchFault_miss h he]

/-! ### The statement -/

/-- With an empty agenda the current path has the next turn, in the next cycle. -/
theorem State.nextMove_idle {s : State} (h : s.agenda = []) :
    s.nextMove = State.takeTurn { (s.advance (s.waitFor s.cur 1)).openCycle with cur := s.cur } s.cur :=
  State.nextMove_turn (.inl ⟨h, rfl, rfl, rfl⟩)

/-- The lowest cause of a clause, cause by cause. -/
theorem clauseDetail_cases (h : Word) (ws : List Word) :
    (h.toNat % 16 = 0 → clauseDetail h.toNat ws = some 1) ∧
    (h.toNat % 16 ≠ 0 → 6 ≤ h.toNat / 16 % 8 → clauseDetail h.toNat ws = some 2) ∧
    (h.toNat % 16 ≠ 0 → h.toNat / 16 % 8 < 6 → 2 ^ 20 ≤ h.toNat → clauseDetail h.toNat ws = some 3) ∧
    (h.toNat % 16 ≠ 0 → h.toNat / 16 % 8 < 6 → h.toNat < 2 ^ 20 → h.toNat / 2 ^ 16 % 4 = 1 → clauseDetail h.toNat ws = some 4) :=
  ⟨fun h1 => clauseDetail_header ws (by decide) (.inl ⟨h1, rfl⟩),
    fun h1 h2 => clauseDetail_header ws (by decide) (.inr (.inl ⟨h1, h2, rfl⟩)),
    fun h1 h2 h3 => clauseDetail_header ws (by decide) (.inr (.inr (.inl ⟨h1, h2, h3, rfl⟩))),
    fun h1 h2 h3 h4 => clauseDetail_header ws (by decide) (.inr (.inr (.inr ⟨h1, h2, h3, h4, rfl⟩)))⟩

/-- Settles O22: the turn of a path before its clause by what holds or begins it, the causes of a clause in their order, and the fetch. -/
theorem stepBeginsClause : Obligations.StepBeginsClause := by
  unfold Obligations.StepBeginsClause
  refine ⟨?_, ?_, fun h ws => ?_, fun s c => ?_⟩
  · intro s c ws h i rest hag u hc ho hi h0 hs hp hf hd hw hr hs1
    have hmove {p : Option Pfx} (hh : hereAt (h :: ws) 1 = ⟨p, .ok i⟩) :=
      step_of_nextMove ((State.nextMove_idle hag).trans (State.takeTurn_first hc ho hi hs h0 hp hf hd hw hr hs1 hh))
    exact ⟨fun hdec hni => hmove (hereAt_of_decode (ws := h :: ws) hdec hni),
      fun m rd z f e b mid hpfx hdec hni => hmove (hereAt_of_decode_prefix (ws := h :: ws) hpfx hdec hni)⟩
  · intro s c hag u hc ho hi h0 hs
    have hmove {t : State} (ht : u.takeTurn s.cur = (t, none)) : step s = .next t := step_of_nextMove_none ((State.nextMove_idle hag).trans ht)
    exact ⟨fun hp => hmove (State.takeTurn_capped hc ho hi hs h0 hp), fun hp h ws hf =>
      ⟨fun d hd => hmove (State.takeTurn_illegal hc ho hi hs h0 hp hf hd), fun hd hw => hmove (State.takeTurn_waits hc ho hi hs h0 hp hf hd hw)⟩⟩
  · obtain ⟨hd1, hd2, hd3, hd4⟩ := clauseDetail_cases h ws
    refine ⟨hd1, hd2, hd3, hd4, fun h1 h2 h3 h4 => ⟨?_, ?_, ?_, ?_, ?_⟩⟩
    · exact fun _ _ _ _ _ _ _ _ _ hc => clauseDetail_memory h1 h2 h3 h4 (encodesKind_ld ..) hc
    · exact fun _ _ _ _ _ _ hc => clauseDetail_system h1 h2 h3 h4 (encodesKind_ctr ..) (encodesKind_ctr ..) hc
    · exact fun _ _ _ => clauseDetail_control h1 h2 h3 h4 (encodesKind_bra ..) (encodesKind_nop ..)
    · exact fun _ _ _ _ _ _ => clauseDetail_prefix h1 h2 h3 h4 ((isPrefixWord_iff _).2 (by simp [-BitVec.extractLsb'_toNat]))
    · exact fun _ _ _ _ hc hu => clauseDetail_vector h1 h2 h3 h4 (encodesKind_addVectorInt ..) hc hu
  · exact ⟨State.fetchClause_unaligned, State.fetchClause_miss, fun pa h ha hh hmap =>
      State.fetchClause_range ha (by rw [hh, Nat.add_comm]) hmap⟩

end Sys2Proof.Machine
end

section
/-! SUPPORT. Words that write several scalars: what each of them reads afterwards (R125, R139, R146). -/

namespace Sys2Proof.Machine

/-! ### Scalar results in a row -/

/-- Results of path `k` in scalars, one after the other, which exist from cycle `ready` on. -/
def Group.produceScalars (z : Group) (l b k ready : Nat) (ws : List (Nat × Word)) : Group :=
  ws.foldl (fun z e => z.produce l b k (.scal e.1) [(0, e.2)] ready false) z

/-- No other path's write to the shared scalar `n` completes later than cycle `ready`, or in it from a higher path (R125). -/
def Group.WritesLast (z : Group) (k n ready : Nat) : Prop :=
  (LaneReg.scal n).shared = true → ∀ h ∈ z.hazards, h.path ≠ k → h.reg = .scal n → h.ready < ready ∨ (h.ready = ready ∧ h.path < k)

theorem mem_produceUnder {h : Hazard} {k : Nat} {r : LaneReg} {v : Word} {ready : Nat} {covered : Bool} {hs : List Hazard}
    (hm : h ∈ produceUnder k r v ready covered hs) : h ∈ hs ∨ h.path = k ∨ h.reg = r := by
  induction hs with
  | nil => exact absurd hm List.not_mem_nil
  | cons a hs ih =>
    unfold produceUnder at hm
    split at hm
    next ha =>
      simp only [List.mem_cons] at hm
      rcases hm with rfl | rfl | hm
      · exact .inr (.inl rfl)
      · exact .inr (.inr ha.2.1)
      · exact .inl (List.mem_cons_of_mem _ hm)
    next =>
      rcases List.mem_cons.mp hm with rfl | hm
      · exact .inl List.mem_cons_self
      · exact (ih hm).imp_left (List.mem_cons_of_mem _)

/-- A result adds to the hazards of its own path, or of its own register, alone. -/
theorem Group.mem_produce_hazards {z : Group} (hz : z.reaches = []) {l b k n ready : Nat} {v : Word} {covered : Bool} {h : Hazard}
    (hm : h ∈ (z.produce l b k (.scal n) [(0, v)] ready covered).hazards) : h ∈ z.hazards ∨ h.path = k ∨ h.reg = .scal n := by
  unfold Group.produce at hm
  dsimp only at hm
  split at hm
  · exact mem_produceUnder hm
  · rw [Group.reachInto_nil (by simpa using hz)] at hm
    simp only [List.foldl_cons, List.foldl_nil, Group.putReg_hazards, List.mem_append, List.mem_singleton] at hm
    exact hm.imp_right fun e => .inl (by rw [e])

theorem Group.WritesLast.produce {z : Group} {k n ready : Nat} (h : z.WritesLast k n ready) (hz : z.reaches = []) {m : Nat} (hm : m ≠ n)
    (l b : Nat) (v : Word) (r : Nat) (covered : Bool) : (z.produce l b k (.scal m) [(0, v)] r covered).WritesLast k n ready := by
  intro hs x hx hk hr
  rcases Group.mem_produce_hazards hz hx with hx | hx | hx
  · exact h hs x hx hk hr
  · exact absurd hx hk
  · exact absurd (LaneReg.scal.inj (hx.symm.trans hr)) hm

@[simp] theorem Group.produceScalars_nil (z : Group) (l b k ready : Nat) : z.produceScalars l b k ready [] = z := rfl

theorem Group.produceScalars_cons (z : Group) (l b k ready : Nat) (e : Nat × Word) (ws : List (Nat × Word)) : z.produceScalars l b k ready (e :: ws) =
    (z.produce l b k (.scal e.1) [(0, e.2)] ready false).produceScalars l b k ready ws := rfl

theorem Group.produceScalars_index (z : Group) (l b k ready : Nat) (ws : List (Nat × Word)) : (z.produceScalars l b k ready ws).index = z.index := by
  induction ws generalizing z with
  | nil => rfl
  | cons e ws ih => rw [Group.produceScalars_cons, ih, Group.produce_index]

theorem Group.RegisterChange.produceScalars {z : Group} (hz : z.reaches = []) (l b k ready : Nat) (ws : List (Nat × Word)) :
    Group.RegisterChange k z (z.produceScalars l b k ready ws) := by
  induction ws generalizing z with
  | nil => exact .rfl' k z
  | cons e ws ih =>
    have h := Group.ScalarWrite.produce hz l b k e.1 e.2 ready false
    exact h.toRegisterChange.trans (ih (h.reaches.trans hz))

/-- Results leave every register that they do not name as it reads. -/
theorem Group.getReg_produceScalars_other {z : Group} (hz : z.reaches = []) (l b k ready : Nat) {q : LaneReg} {i : Nat} (hi : i < 96)
    {ws : List (Nat × Word)} (hq : ∀ e ∈ ws, q ≠ .scal e.1) : (z.produceScalars l b k ready ws).getReg l b k q i = z.getReg l b k q i := by
  induction ws generalizing z with
  | nil => rfl
  | cons e ws ih =>
    rw [Group.produceScalars_cons, ih ((Group.ScalarWrite.produce hz ..).reaches.trans hz) fun x hx => hq x (List.mem_cons_of_mem _ hx)]
    exact Group.getReg_produce_other hz _ _ _ _ _ _ _ _ _ hi (by simp) (.inl (hq e List.mem_cons_self))

theorem LaneReg.kept_congr {p q : Path} (h : q.present = p.present) (r : LaneReg) (v old : Word) : r.kept q v old = r.kept p v old := by
  unfold LaneReg.kept
  rw [h]

/-- Each of several results in different scalars reads back (R125). -/
theorem Group.getReg_produceScalars {z : Group} (hz : z.reaches = []) (l b : Nat) {k ready : Nat} {p : Path} (hp : z.paths[k]? = some p)
    {ws : List (Nat × Word)} (hn : (ws.map (·.1)).Nodup) {e : Nat × Word} (he : e ∈ ws) (hw : z.WritesLast k e.1 ready) :
    (z.produceScalars l b k ready ws).getReg l b k (.scal e.1) 0 = (LaneReg.scal e.1).kept p e.2 (z.getReg l b k (.scal e.1) 0) := by
  induction ws generalizing z p with
  | nil => exact absurd he List.not_mem_nil
  | cons a ws ih =>
    obtain ⟨ha, hws⟩ := List.nodup_cons.mp hn
    have hz' := (Group.ScalarWrite.produce hz l b k a.1 a.2 ready false).reaches.trans hz
    rw [Group.produceScalars_cons]
    rcases List.mem_cons.mp he with rfl | he
    · rw [Group.getReg_produceScalars_other hz' _ _ _ _ (by decide) fun x hx hr => ha (List.mem_map.mpr ⟨x, hx, (LaneReg.scal.inj hr).symm⟩)]
      exact Group.getReg_produce_same hz _ _ _ _ _ _ _ _ _ hp hw
    · have hne : a.1 ≠ e.1 := fun h => ha (List.mem_map.mpr ⟨e, he, h.symm⟩)
      obtain ⟨f, hf, hpaths⟩ := (Group.ScalarWrite.produce hz l b k a.1 a.2 ready false).paths
      rw [ih (p := f p) hz' (by rw [hpaths, List.getElem?_modify, hp]; simp) hws he (hw.produce hz hne _ _ _ _ _),
        LaneReg.kept_congr (hf p).present]
      congr 1
      exact Group.getReg_produce_other hz _ _ _ _ _ _ _ _ _ (by decide) (by simp) (.inl fun h => hne (LaneReg.scal.inj h).symm)

/-! ### The words that write them -/

theorem State.foldl_writeScalarReg (s : State) (c : Ctx) (ready : Nat) (ws : List (Nat × Word)) :
    ws.foldl (fun s e => s.writeScalarReg c e.1 e.2 ready false) s =
      s.updPathGroup c.ref fun z => z.produceScalars c.ref.launch c.ref.block c.ref.path ready ws := by
  induction ws generalizing s with
  | nil => exact (s.updPathGroup_id c.ref).symm
  | cons e ws ih =>
    rw [List.foldl_cons, ih, State.writeScalarReg, State.updPathGroup_twice _ _ _ _ fun z => z.produce_index ..]
    rfl

/-- The words of a value of width `w`, in consecutive scalars. -/
def scalarWords (r w x : Nat) : List (Nat × Word) := (List.range (w / 32)).map fun j => (r + j, BitVec.ofNat 32 (x / 2 ^ (32 * j)))

/-- The three words of a mask, in consecutive scalars. -/
def tripleWords (r : Nat) (m : Lanes) : List (Nat × Word) := (List.range 3).map fun j => (r + j, maskWord m j)

theorem State.writeScalars_eq (s : State) (c : Ctx) (d : Nat) {w : Nat} (hw : w = 32 ∨ w = 64) (x ready : Nat) : s.writeScalars c d w x ready false =
    s.updPathGroup c.ref fun z => z.produceScalars c.ref.launch c.ref.block c.ref.path ready (scalarWords (d - 0x40) w x) := by
  rw [← State.foldl_writeScalarReg]
  rcases hw with rfl | rfl
  · simp [State.writeScalars, scalarWords]
  · simp [State.writeScalars, scalarWords, List.range_succ]

theorem State.writeTriple_eq (s : State) (c : Ctx) (r : Nat) (m : Lanes) (ready : Nat) : s.writeTriple c r m ready =
    s.updPathGroup c.ref fun z => z.produceScalars c.ref.launch c.ref.block c.ref.path ready (tripleWords r m) := by
  rw [← State.foldl_writeScalarReg, State.writeTriple, tripleWords, List.foldl_map]

theorem scalarWords_nodup (r w x : Nat) : ((scalarWords r w x).map (·.1)).Nodup := by
  rw [scalarWords, List.map_map]
  exact List.nodup_range.map fun a b h => Nat.add_left_cancel h

theorem tripleWords_nodup (r : Nat) (m : Lanes) : ((tripleWords r m).map (·.1)).Nodup := by
  rw [tripleWords, List.map_map]
  exact List.nodup_range.map fun a b h => Nat.add_left_cancel h

section
variable {s : State} {c : Ctx} {i : Instr} (h : s.Issues c i)
include h

/-- A word that issues and writes scalars, which exist from the next cycle on. -/
theorem State.Issues.scalarWord {ws : List (Nat × Word)} (hn : (ws.map (·.1)).Nodup)
    (hx : exec i s = .next (s.completes c i 0 fun s1 =>
      s1.updPathGroup c.ref fun z => z.produceScalars c.ref.launch c.ref.block c.ref.path (s.cycle + 1) ws)) :
    ∃ t c', s.RegisterWord c i (ws.map fun e => .scal e.1) t c' ∧ c.SameFlags c' ∧ c.path.SameLast c'.path ∧
      ∀ e ∈ ws, c.ScalarReads s c' e.1 e.2 := by
  obtain ⟨t, c', hw, hf, hl, hr⟩ := h.registerWord _ (ws.map fun e => .scal e.1) hx (fun z => z.produceScalars_index ..)
    (fun z hz => .produceScalars hz ..) fun z r lane hz hl hr =>
      Group.getReg_produceScalars_other hz _ _ _ _ hl fun e he hre => hr (hre ▸ List.mem_map_of_mem he)
  refine ⟨t, c', hw, hf, hl, fun e he hlast => ?_⟩
  rw [hr, Group.getReg_produceScalars (h.noted_reaches 0) _ _ (Ctx.noted_path h.ctx i 0) hn he (Ctx.writesLast_noted hlast s i 0), Ctx.noted_getReg]
  exact LaneReg.kept_congr rfl _ _ _

/-- A word that issues and writes a value of width 32 or 64 to a scalar or a pair (R139). -/
theorem State.Issues.writesScalars {w : Nat} (hw : w = 32 ∨ w = 64) {d x : Nat} {v : BitVec w} (hv : BitVec.ofNat w x = v)
    (hx : exec i s = .next (s.completes c i 0 fun s1 => s1.writeScalars c d w x (s.cycle + 1) false)) :
    ∃ t c', s.RegisterWord c i ((List.range (w / 32)).map fun j => .scal (d - 0x40 + j)) t c' ∧ c.SameFlags c' ∧ c.path.SameLast c'.path ∧
      ∀ j < w / 32, c.ScalarReads s c' (d - 0x40 + j) (v.extractLsb' (32 * j) 32) := by
  simp only [State.writeScalars_eq _ _ _ hw] at hx
  obtain ⟨t, c', hreg, hf, hl, hr⟩ := h.scalarWord (scalarWords_nodup ..) hx
  rw [scalarWords, List.map_map] at hreg
  refine ⟨t, c', hreg, hf, hl, fun j hj => ?_⟩
  have hword : v.extractLsb' (32 * j) 32 = BitVec.ofNat 32 (x / 2 ^ (32 * j)) := by
    apply BitVec.eq_of_toNat_eq
    rw [← hv, BitVec.extractLsb'_toNat, BitVec.toNat_ofNat, BitVec.toNat_ofNat, Nat.shiftRight_eq_div_pow]
    rcases hw with rfl | rfl
    · obtain rfl : j = 0 := by omega
      omega
    · obtain rfl | rfl : j = 0 ∨ j = 1 := by omega
      · omega
      · omega
  rw [hword]
  exact hr (_, _) (List.mem_map_of_mem (f := fun j => (d - 0x40 + j, BitVec.ofNat 32 (x / 2 ^ (32 * j)))) (List.mem_range.mpr hj))

/-- A word that issues and writes a mask to a triple (R146). -/
theorem State.Issues.writesTriple {r : Nat} {m : Lanes}
    (hx : exec i s = .next (s.completes c i 0 fun s1 => s1.writeTriple c r m (s.cycle + 1))) :
    ∃ t c', s.RegisterWord c i [.scal r, .scal (r + 1), .scal (r + 2)] t c' ∧ c.SameFlags c' ∧ c.path.SameLast c'.path ∧
      ∀ j < 3, c.ScalarReads s c' (r + j) (m.extractLsb' (32 * j) 32) := by
  simp only [State.writeTriple_eq] at hx
  obtain ⟨t, c', hreg, hf, hl, hr⟩ := h.scalarWord (tripleWords_nodup ..) hx
  refine ⟨t, c', hreg, hf, hl, fun j hj => ?_⟩
  have hword : m.extractLsb' (32 * j) 32 = maskWord m j := by rw [maskWord, BitVec.extractLsb', Nat.shiftRight_eq_div_pow]
  rw [hword]
  exact hr (_, _) (List.mem_map_of_mem (f := fun j => (r + j, maskWord m j)) (List.mem_range.mpr hj))

end

end Sys2Proof.Machine
end

section
/-! SUPPORT. The integer operations of the model give the results of the manual's tables (R119, R140, R141, R144), at every width. -/

namespace Sys2Proof.Machine

/-! ### Types -/

theorem codeWidth_eq (code : Nat) : codeWidth code = Spec.width code := by
  rcases lt_or_ge code 15 with h | h
  · interval_cases code <;> rfl
  · rw [codeWidth, if_neg (by omega), if_neg (by omega), if_neg (by omega)]
    unfold Spec.width
    split <;> omega

theorem intTy_w (code : Nat) : (intTy code).w = Spec.width code := codeWidth_eq code

theorem intTy_signed (code : Nat) : (intTy code).signed = Spec.signed code := by
  rw [Bool.eq_iff_iff]
  simp only [intTy, Spec.signed, Bool.and_eq_true, Bool.or_eq_true, decide_eq_true_eq, beq_iff_eq]
  omega

/-! ### Numbers and patterns -/

theorem intOf_eq_num (signed : Bool) {w : Nat} (x : Nat) : intOf signed w x = Spec.num signed (BitVec.ofNat w x) := by
  cases signed
  · simp [intOf, Spec.num]
  · simp only [intOf, Spec.num, true_and, if_true, BitVec.toInt_eq_toNat_cond, BitVec.toNat_ofNat]
    cases w with
    | zero => simp [Nat.mod_one]
    | succ w =>
      have hp : 2 ^ (w + 1) = 2 * 2 ^ w := by rw [pow_succ, Nat.mul_comm]
      rw [Nat.add_sub_cancel]
      generalize x % 2 ^ (w + 1) = y
      by_cases h : 2 ^ w ≤ y
      · rw [if_pos h, if_neg (by omega)]
        norm_cast
      · rw [if_neg h, if_pos (by omega)]

theorem ofNat_wrapInt (w : Nat) (e : Int) : BitVec.ofNat w (wrapInt w e) = BitVec.ofInt w e := by
  apply BitVec.eq_of_toNat_eq
  rw [BitVec.toNat_ofNat, BitVec.toNat_ofInt, Nat.mod_eq_of_lt (wrapInt_lt w e)]
  simp [wrapInt]

theorem ofNat_close (t : IntTy) (sat : Bool) (e : Int) : BitVec.ofNat t.w (t.close sat e) = Spec.close t.w t.signed sat e := by
  rw [IntTy.close, ofNat_wrapInt]
  cases sat
  · rfl
  · cases ht : t.signed <;> simp [Spec.close, clampInt, intLow, intHigh, min_comm]

theorem ofInt_num {w : Nat} (signed : Bool) (x : BitVec w) : BitVec.ofInt w (Spec.num signed x) = x := by
  cases signed <;> simp [Spec.num]

theorem num_eq_zero_iff {w : Nat} (signed : Bool) (x : BitVec w) : Spec.num signed x = 0 ↔ x = 0 := by
  cases signed
  · simp [Spec.num, ← BitVec.toNat_inj]
  · simp [Spec.num, ← BitVec.toInt_inj]

/-! ### The operations with three operands (R140, R141) -/

/-- `f` gives the results of the three-operand operation `op` of the tables. -/
def GivesInt3 (op : Nat) (f : IntTy → Bool → Nat → Nat → Nat) : Prop := ∀ (t : IntTy) (sat : Bool) (x y : Nat), x < 2 ^ t.w → y < 2 ^ t.w →
  BitVec.ofNat t.w (f t sat x y) = Spec.int3 op t.w t.signed sat (BitVec.ofNat t.w x) (BitVec.ofNat t.w y)

theorem intAdd_gives : GivesInt3 0 intAdd := fun t sat x y _ _ => by
  rw [intAdd, ofNat_close, intOf_eq_num, intOf_eq_num]
  rfl

theorem intSub_gives : GivesInt3 1 intSub := fun t sat x y _ _ => by
  rw [intSub, ofNat_close, intOf_eq_num, intOf_eq_num]
  rfl

theorem intMul_gives : GivesInt3 2 intMul := fun t sat x y _ _ => by
  rw [intMul, ofNat_close, intOf_eq_num, intOf_eq_num]
  rfl

theorem intMulh_gives : GivesInt3 3 fun t _ x y => intMulh t x y := fun t sat x y _ _ => by
  simp only [intMulh, ofNat_wrapInt, intOf_eq_num]
  rfl

theorem intDiv_gives : GivesInt3 4 intDiv := fun t sat x y _ _ => by
  simp only [intDiv, intOf_eq_num, num_eq_zero_iff, Spec.int3]
  split
  · apply BitVec.eq_of_toNat_eq
    simp
  · exact ofNat_close ..

/-- The remainder that goes with the quotient rounded toward zero (R141). -/
theorem tmod_eq (n m : Int) : n.tmod m = n - n.tdiv m * m := by
  rw [Int.tmod_def, Int.mul_comm]

theorem intRem_gives : GivesInt3 5 fun t _ x y => intRem t x y := fun t sat x y _ _ => by
  simp only [intRem, intOf_eq_num, num_eq_zero_iff, Spec.int3, tmod_eq]
  split
  · rw [ofNat_wrapInt, ofInt_num]
  · exact ofNat_wrapInt ..

theorem intAnd_gives : GivesInt3 6 fun _ _ x y => intAnd x y := fun _ _ _ _ _ _ => BitVec.ofNat_and ..

theorem intOr_gives : GivesInt3 7 fun _ _ x y => intOr x y := fun _ _ _ _ _ _ => BitVec.ofNat_or ..

theorem intXor_gives : GivesInt3 8 fun _ _ x y => intXor x y := fun _ _ _ _ _ _ => BitVec.ofNat_xor ..

theorem intShl_gives : GivesInt3 9 fun t _ x y => intShl t x y := fun t sat x y hx hy => by
  apply BitVec.eq_of_toNat_eq
  simp [intShl, Spec.int3, Nat.mod_eq_of_lt hx, Nat.mod_eq_of_lt hy, Nat.shiftLeft_eq]

theorem intShr_gives : GivesInt3 10 fun t _ x y => intShr t x y := fun t sat x y hx hy => by
  apply BitVec.eq_of_toNat_eq
  have hlt : x / 2 ^ (y % t.w) < 2 ^ t.w := (Nat.div_le_self ..).trans_lt hx
  simp [intShr, Spec.int3, Nat.mod_eq_of_lt hx, Nat.mod_eq_of_lt hy, Nat.shiftRight_eq_div_pow, Nat.mod_eq_of_lt hlt]

theorem intSar_gives : GivesInt3 11 fun t _ x y => intSar t x y := fun t sat x y hx hy => by
  simp only [intSar, ofNat_wrapInt, intOf_eq_num, Spec.int3, BitVec.toNat_ofNat, Nat.mod_eq_of_lt hy]
  rw [BitVec.sshiftRight, Int.shiftRight_eq_div_pow]
  rfl

theorem intMin_gives : GivesInt3 12 fun t _ x y => intMin t x y := fun t sat x y _ _ => by
  simp only [intMin, intOf_eq_num, Spec.int3]
  split <;> rfl

theorem intMax_gives : GivesInt3 13 fun t _ x y => intMax t x y := fun t sat x y _ _ => by
  simp only [intMax, intOf_eq_num, Spec.int3]
  split <;> rfl

/-! ### The operations with two operands (R144) -/

/-- `f` gives the results of the unary operation `op` of the tables. -/
def GivesInt2 (op : Nat) (f : IntTy → Bool → Nat → Nat) : Prop := ∀ (t : IntTy) (sat : Bool) (x : Nat), x < 2 ^ t.w →
  BitVec.ofNat t.w (f t sat x) = Spec.int2 op t.w t.signed sat (BitVec.ofNat t.w x)

theorem intMov_gives : GivesInt2 0 fun _ _ x => x := fun _ _ _ _ => rfl

theorem intNot_gives : GivesInt2 1 fun t _ x => intNot t x := fun t sat x hx => by
  have hlt : 2 ^ t.w - 1 - x < 2 ^ t.w := by omega
  apply BitVec.eq_of_toNat_eq
  simp only [Spec.int2, BitVec.toNat_not, BitVec.toNat_ofNat, Nat.mod_eq_of_lt hx]
  exact Nat.mod_eq_of_lt hlt

theorem intAbs_gives : GivesInt2 2 intAbs := fun t sat x hx => by
  simp only [intAbs, ofNat_close, intOf_eq_num, Spec.int2]
  cases t.signed
  · have hhigh : (x : Int) ≤ 2 ^ t.w - 1 := by
      have hlt : (x : Int) < (2 ^ t.w : Nat) := by exact_mod_cast hx
      push_cast at hlt
      omega
    cases sat <;> simp [Spec.num, Spec.close, Nat.mod_eq_of_lt hx, hhigh]
  · simp [Spec.num]

theorem intNeg_gives : GivesInt2 3 intNeg := fun t sat x _ => by
  rw [intNeg, ofNat_close, intOf_eq_num]
  rfl

/-- Counted from the top of a width, the first one bit of `x` stands after `w - bitLen x` zeros. -/
theorem findIdx_leadingOne {w x : Nat} (hx : x < 2 ^ w) :
    ((List.range (w + 1)).findIdx fun k => decide (k = w) || x.testBit (w - 1 - k)) = w - bitLen x := by
  rw [List.findIdx_eq (by simp)]
  rcases Nat.eq_zero_or_pos x with rfl | hpos
  · simp [bitLen]
    omega
  have hx0 := hpos.ne'
  have hlog : x.log2 < w := (Nat.log2_lt hx0).mpr hx
  simp only [bitLen, if_neg hx0, List.getElem_range, Bool.or_eq_true, Bool.or_eq_false_iff, decide_eq_true_eq, decide_eq_false_iff_not]
  refine ⟨.inr ?_, fun j hj => ⟨by omega, Nat.testBit_eq_false_of_lt (Nat.lt_log2_self.trans_le ?_)⟩⟩
  · rw [show w - 1 - (w - (x.log2 + 1)) = x.log2 by omega]
    exact Nat.testBit_log2 hx0
  · exact Nat.pow_le_pow_right (by omega) (by omega)

theorem intClz_gives : GivesInt2 4 fun t _ x => intClz t x := fun t sat x hx => by
  simp only [intClz, Spec.int2, ← findIdx_leadingOne hx]
  congr 2
  funext k
  rcases Nat.eq_zero_or_pos t.w with h0 | hpos
  · simp [h0] at hx
    simp [hx]
  · rw [BitVec.getLsbD_ofNat, decide_eq_true (show t.w - 1 - k < t.w by omega), Bool.true_and]

theorem intPopc_gives : GivesInt2 5 fun t _ x => intPopc t x := fun t sat x hx => by
  simp only [intPopc, Spec.int2]
  congr 1
  refine List.countP_congr fun k hk => ?_
  rw [BitVec.getLsbD_ofNat, decide_eq_true (List.mem_range.mp hk), Bool.true_and]

/-! ### At a type code -/

theorem intTy_eq (code : Nat) : intTy code = ⟨Spec.width code, Spec.signed code⟩ := by rw [← intTy_w, ← intTy_signed]

theorem GivesInt3.at_code {op : Nat} {f : IntTy → Bool → Nat → Nat → Nat} (hf : GivesInt3 op f) {code : Nat} {sat : Bool} {x y : Nat}
    (hx : x < 2 ^ Spec.width code) (hy : y < 2 ^ Spec.width code) :
    BitVec.ofNat (Spec.width code) (f (intTy code) sat x y) =
      Spec.int3 op (Spec.width code) (Spec.signed code) sat (BitVec.ofNat _ x) (BitVec.ofNat _ y) := by
  rw [intTy_eq]
  exact hf ⟨Spec.width code, Spec.signed code⟩ sat x y hx hy

theorem GivesInt2.at_code {op : Nat} {f : IntTy → Bool → Nat → Nat} (hf : GivesInt2 op f) {code : Nat} {sat : Bool} {x : Nat}
    (hx : x < 2 ^ Spec.width code) :
    BitVec.ofNat (Spec.width code) (f (intTy code) sat x) = Spec.int2 op (Spec.width code) (Spec.signed code) sat (BitVec.ofNat _ x) := by
  rw [intTy_eq]
  exact hf ⟨Spec.width code, Spec.signed code⟩ sat x hx

/-! ### Conditions (R119, R142) -/

theorem intCond_iff (t : IntTy) (cond x y : Nat) :
    intCond t cond x y = true ↔ Spec.holds cond t.signed (BitVec.ofNat t.w x) (BitVec.ofNat t.w y) := by
  simp only [intCond, intOf_eq_num, Spec.holds]
  split <;> simp

theorem intCond_iff_code (code cond x y : Nat) : intCond (intTy code) cond x y = true ↔
    Spec.holds cond (Spec.signed code) (BitVec.ofNat (Spec.width code) x) (BitVec.ofNat (Spec.width code) y) := by
  rw [intTy_eq]
  exact intCond_iff ..

end Sys2Proof.Machine
end

section
/-! SUPPORT. The proofs of the statements about scalar, mask and mode words. -/

namespace Sys2Proof.Machine

/-! ### Operands and width of the integer words (R127, R139) -/

theorem constBits_int_lt {w : Nat} (hw : 0 < w) (n : Nat) : constBits (.int w) n < 2 ^ w := by
  have hhalf : 2 ^ (w - 1) < 2 ^ w := Nat.pow_lt_pow_right (by norm_num) (by omega)
  have hpos : 0 < 2 ^ w := by positivity
  simp only [constBits, NumKind.width]
  split
  · exact hhalf
  · split
    · omega
    · split
      · omega
      · split
        · exact wrapInt_lt ..
        · exact Nat.mod_lt _ hpos

theorem State.scalarOperand_lt (s : State) (c : Ctx) (v slot : Nat) {w : Nat} (hw : 0 < w) : s.scalarOperand c v slot w < 2 ^ w := by
  rw [State.scalarOperand]
  split
  · exact constBits_int_lt hw _
  · exact Nat.mod_lt _ (by positivity)

/-- A scalar arithmetic word whose encoding is accepted has width 32 or 64 (R139). -/
theorem width_of_scalarAccept {p : Option Pfx} (h : scalarAccept.causes p = []) : Spec.width (typeOf 7 p) = 32 ∨ Spec.width (typeOf 7 p) = 64 := by
  obtain _ | p := p
  · decide
  obtain ⟨-, hext⟩ := List.append_eq_nil_iff.mp h
  have hmem : p.ext = 0 ∨ p.ext ∈ [3, 4, 7, 8] := by
    by_contra hno
    simp only [scalarAccept, if_neg hno] at hext
    exact List.cons_ne_nil _ _ hext
  have hcode : ∀ e : Nat, e = 0 ∨ e ∈ [3, 4, 7, 8] → Spec.width (if e = 0 then 7 else e) = 32 ∨ Spec.width (if e = 0 then 7 else e) = 64 := by
    simp only [List.mem_cons, List.not_mem_nil, or_false]
    rintro e (rfl | rfl | rfl | rfl | rfl)
    · decide
    · decide
    · decide
    · decide
    · decide
  exact hcode p.ext hmem

theorem encCauses_of_encDetail {p : Option Pfx} {i : Instr} (h : encDetail p i = none) : encCauses p i = [] := by
  rw [encDetail] at h
  cases hl : encCauses p i with
  | nil => rfl
  | cons a l => simp [hl, lowestDetail] at h

/-- The encoding of a word that issues is accepted (R129). -/
theorem State.Issues.accepted {s : State} {c : Ctx} {i : Instr} (h : s.Issues c i) {fs : List Field} {codes : List Nat} {acc : PfxAccept}
    (hs : shapeOf c.path.pfx i = .fields fs codes acc) : acc.causes c.path.pfx = [] := by
  have hnil := encCauses_of_encDetail h.encoded
  rw [encCauses, hs] at hnil
  exact (List.append_eq_nil_iff.mp hnil).2

/-! ### The integer words -/

section
variable {s : State} {c : Ctx} {i : Instr} {d a : BitVec 8} (h : s.Issues c i)
include h

/-- A three-operand integer word gives its table's result. -/
theorem State.Issues.int3 {b : BitVec 7} {op : Nat} {f : IntTy → Bool → Nat → Nat → Nat} (hf : GivesInt3 op f)
    (hs : shapeOf c.path.pfx i = shapeScalar3 c.path.pfx d a b) (hx : exec i s = s.scalar3 i d a b f) :
    let ty := typeOf 7 c.path.pfx
    let w := Spec.width ty
    let r := d.toNat - 0x40
    let v := Spec.int3 op w (Spec.signed ty) c.sat (BitVec.ofNat w (s.scalarOperand c a.toNat 0 w)) (BitVec.ofNat w (s.scalarOperand c (wide7 b) 2 w))
    ∃ t c', s.RegisterWord c i ((List.range (w / 32)).map fun j => .scal (r + j)) t c' ∧ c.SameFlags c' ∧ c.path.SameLast c'.path ∧
      ∀ j < w / 32, c.ScalarReads s c' (r + j) (v.extractLsb' (32 * j) 32) := by
  intro ty w r v
  have hw : w = 32 ∨ w = 64 := width_of_scalarAccept (h.accepted hs)
  have hpos : 0 < w := by omega
  rw [State.scalar3, h.word] at hx
  simp only [Ctx.scalarTy, intTy_w] at hx
  exact h.writesScalars hw (hf.at_code (s.scalarOperand_lt c a.toNat 0 hpos) (s.scalarOperand_lt c (wide7 b) 2 hpos)) hx

/-- A unary integer word gives its table's result. -/
theorem State.Issues.int2 {op : Nat} {f : IntTy → Bool → Nat → Nat} (hf : GivesInt2 op f)
    (hs : shapeOf c.path.pfx i = shapeScalar2 c.path.pfx d a) (hx : exec i s = s.scalar2 i d a f) :
    let ty := typeOf 7 c.path.pfx
    let w := Spec.width ty
    let r := d.toNat - 0x40
    let v := Spec.int2 op w (Spec.signed ty) c.sat (BitVec.ofNat w (s.scalarOperand c a.toNat 0 w))
    ∃ t c', s.RegisterWord c i ((List.range (w / 32)).map fun j => .scal (r + j)) t c' ∧ c.SameFlags c' ∧ c.path.SameLast c'.path ∧
      ∀ j < w / 32, c.ScalarReads s c' (r + j) (v.extractLsb' (32 * j) 32) := by
  intro ty w r v
  have hw : w = 32 ∨ w = 64 := width_of_scalarAccept (h.accepted hs)
  have hpos : 0 < w := by omega
  rw [State.scalar2, h.word] at hx
  simp only [Ctx.scalarTy, intTy_w] at hx
  exact h.writesScalars hw (hf.at_code (s.scalarOperand_lt c a.toNat 0 hpos)) hx

end

/-- Settles O1: each word is its place in the table, and the model's integer functions give the table's results at both widths. -/
theorem scalarArithmetic : Obligations.ScalarArithmetic := by
  unfold Obligations.ScalarArithmetic
  refine ⟨fun s c st d a b op mk hm h => ?_, fun s c st d a b h => ?_, fun s c st d a op mk hm h => ?_⟩
  · simp only [List.mem_cons, Prod.mk.injEq, List.not_mem_nil, or_false] at hm
    obtain ⟨rfl, rfl⟩ | ⟨rfl, rfl⟩ | ⟨rfl, rfl⟩ | ⟨rfl, rfl⟩ | ⟨rfl, rfl⟩ | ⟨rfl, rfl⟩ | ⟨rfl, rfl⟩ | ⟨rfl, rfl⟩ | ⟨rfl, rfl⟩ | ⟨rfl, rfl⟩ |
      ⟨rfl, rfl⟩ | ⟨rfl, rfl⟩ | ⟨rfl, rfl⟩ | ⟨rfl, rfl⟩ := hm
    · exact h.int3 intAdd_gives rfl rfl
    · exact h.int3 intSub_gives rfl rfl
    · exact h.int3 intMul_gives rfl rfl
    · exact h.int3 intMulh_gives rfl rfl
    · exact h.int3 intDiv_gives rfl rfl
    · exact h.int3 intRem_gives rfl rfl
    · exact h.int3 intAnd_gives rfl rfl
    · exact h.int3 intOr_gives rfl rfl
    · exact h.int3 intXor_gives rfl rfl
    · exact h.int3 intShl_gives rfl rfl
    · exact h.int3 intShr_gives rfl rfl
    · exact h.int3 intSar_gives rfl rfl
    · exact h.int3 intMin_gives rfl rfl
    · exact h.int3 intMax_gives rfl rfl
  · have hx : exec (.sel st d a b) s = _ := h.word _
    simp only [Ctx.scalarTy, intTy_w] at hx
    exact h.writesScalars (width_of_scalarAccept (h.accepted rfl)) rfl hx
  · simp only [List.mem_cons, Prod.mk.injEq, List.not_mem_nil, or_false] at hm
    obtain ⟨rfl, rfl⟩ | ⟨rfl, rfl⟩ | ⟨rfl, rfl⟩ | ⟨rfl, rfl⟩ | ⟨rfl, rfl⟩ | ⟨rfl, rfl⟩ := hm
    · exact h.int2 intMov_gives rfl rfl
    · exact h.int2 intNot_gives rfl rfl
    · exact h.int2 intAbs_gives rfl rfl
    · exact h.int2 intNeg_gives rfl rfl
    · exact h.int2 intClz_gives rfl rfl
    · exact h.int2 intPopc_gives rfl rfl

/-- Settles O2: the triple holds all ones or zeros, as the condition of the table says. -/
theorem scalarCompare : Obligations.ScalarCompare := by
  unfold Obligations.ScalarCompare
  intro s c st k d a b h ty w x y
  have hx : exec (.cmp st k d a b) s = _ := h.word _
  have hcond := intCond_iff_code (typeOf 7 c.path.pfx) k.toNat (s.scalarOperand c a.toNat 0 w) (s.scalarOperand c (wide7 b) 2 w)
  simp only [Ctx.scalarTy, intTy_w] at hx
  obtain ⟨t, c', hreg, hf, hl, hr⟩ := h.writesTriple hx
  refine ⟨t, c', hreg, hf, hl, fun j hj hyes => ?_, fun j hj hno => ?_⟩
  · have hv := hr j hj
    rw [if_pos (hcond.mpr hyes)] at hv
    have hones : (BitVec.allOnes 96).extractLsb' (32 * j) 32 = BitVec.allOnes 32 := by interval_cases j <;> decide
    rwa [hones] at hv
  · have hv := hr j hj
    rw [if_neg fun hyes => hno (hcond.mp hyes)] at hv
    have hzero : (0 : Lanes).extractLsb' (32 * j) 32 = 0 := by interval_cases j <;> decide
    rwa [hzero] at hv

/-! ### Words that write one scalar -/

theorem laneCount_eq (m : Lanes) : laneCount m = (List.range 96).countP fun k => m.getLsbD k := by
  rw [laneCount, laneList, List.countP_eq_length_filter]

/-- A word that issues and writes one word to a scalar. -/
theorem State.Issues.writesOne {s : State} {c : Ctx} {i : Instr} (h : s.Issues c i) {d x : Nat} {v : Word} (hv : BitVec.ofNat 32 x = v)
    (hx : exec i s = .next (s.completes c i 0 fun s1 => s1.writeScalars c d 32 x (s.cycle + 1) false)) :
    ∃ t c', s.RegisterWord c i [.scal (d - 0x40)] t c' ∧ c.SameFlags c' ∧ c.path.SameLast c'.path ∧ c.ScalarReads s c' (d - 0x40) v := by
  obtain ⟨t, c', hreg, hf, hl, hr⟩ := h.writesScalars (.inl rfl) hv hx
  exact ⟨t, c', hreg, hf, hl, by simpa using hr 0 (by decide)⟩

/-- Settles O3: each word writes its value to its triple or scalar. -/
theorem Scalar.maskWords : Obligations.MaskWords := by
  unfold Obligations.MaskWords
  refine ⟨fun s c i d v hi h => ?_, fun s c i d v hi h => ?_⟩
  · obtain ⟨st, a, b, ⟨rfl, rfl⟩ | ⟨rfl, rfl⟩ | ⟨rfl, rfl⟩ | ⟨rfl, rfl⟩ | ⟨rfl, rfl⟩ | ⟨rfl, rfl⟩⟩ := hi
    · exact h.writesTriple (h.word _)
    · exact h.writesTriple (h.word _)
    · exact h.writesTriple (h.word _)
    · exact h.writesTriple (h.word _)
    · exact h.writesTriple (h.word _)
    · exact h.writesTriple (h.word _)
  · obtain ⟨st, a, rfl | ⟨rfl, hv⟩ | ⟨rfl, hv⟩ | ⟨rfl, hv⟩⟩ := hi
    · exact h.writesOne (BitVec.ofNat_toNat ..) (h.word _)
    · refine h.writesOne ?_ (h.word _)
      rw [laneCount_eq, ← hv]
      exact BitVec.ofNat_toNat ..
    · exact h.writesOne hv.symm (h.word _)
    · refine h.writesOne ?_ (h.word _)
      rw [hv]
      exact BitVec.ofNat_toNat ..

end Sys2Proof.Machine
end

section
/-! SUPPORT. The proofs of the statements about `nop`, `wrmode`, the branches and `sleep`: words that move their path and leave its registers. -/

namespace Sys2Proof.Machine

/-! ### A group that has accounted for a word and moved its path -/

/-- A group that accounts for a word of `c`, with fields changed that hold no register, and whose path has moved on. -/
theorem Ctx.SameGroup.of_noted {c c' : Ctx} {s : State} {i : Instr} {extra : Nat} {y : Group} {f : Path → Path}
    (hg : c'.group = y.updPath c.ref.path f) (hy : y.paths = (c.noted s i extra).paths)
    (hr : (y.scalars, y.oper, y.stack, y.depth) = (c.group.scalars, c.group.oper, c.group.stack, c.group.depth))
    (hf : ∀ p : Path, (f p).priv = p.priv ∧ (f p).mask = p.mask) (hp : c'.path.standing = c.path.standing) : c.SameGroup c' [] where
  paths k hk := by
    rw [hg, Group.updPath_other _ hk, hy, Group.noteIssue_paths, List.getElem?_modify]
    simp [hk.symm]
  registers r lane _ _ := by
    obtain ⟨h1, h2, h3, h4⟩ : _ ∧ _ ∧ _ ∧ _ := by simpa only [Prod.mk.injEq] using hr
    rw [hg, Group.getReg_updPath _ _ _ hf, ← c.noted_getReg s i extra]
    exact Group.getReg_congr (y := y) (z := c.noted s i extra) h1 h2 h3 h4 (by rw [hy]) (by rw [hy]) r lane
  path := hp

theorem Path.advance_regs (p : Path) (n : Nat) : (p.advance n).priv = p.priv ∧ (p.advance n).mask = p.mask := by
  unfold Path.advance
  split
  · exact ⟨rfl, rfl⟩
  · exact ⟨rfl, rfl⟩

theorem Path.advance_sameLast (p : Path) (n : Nat) : p.SameLast (p.advance n) := by
  unfold Path.advance
  split
  · exact ⟨rfl, rfl, rfl, rfl⟩
  · exact ⟨rfl, rfl, rfl, rfl⟩

/-- The path of `c` that has issued `i`, `extra` cycles late, stands past it. -/
theorem Ctx.Past.of_advance {s : State} {c c' : Ctx} {i : Instr} {extra free : Nat} (hv : c.path.valid = true)
    (h : c'.path = (c.path.noteIssue (issueOf c i extra) s.cycle free).advance (c.path.spanOf i)) : c.Past s i extra c' where
  place := by
    rw [h, Path.advance_place]
    rfl
  next := by
    rw [h, Path.advance_nextIssue]
    rfl
  prefixed := by rw [h, Path.advance_pfx]
  live := by
    rw [h, Path.advance_valid]
    exact hv

theorem State.SameUnits.goesOn (s : State) (c : Ctx) (i : Instr) (extra : Nat) : s.SameUnits (s.completes c i extra fun s1 => s1) :=
  (State.SameUnits.noteIssue s c i _).trans (.finish _ c i)

section
variable {s : State} {c : Ctx} {i : Instr} (h : s.Issues c i)
include h

theorem State.Issues.live : c.path.valid = true := (State.ctx?_parts h.ctx).2.2.2.2.2

/-- A word that only issues, `extra` cycles late. -/
theorem State.Issues.goesOn (extra : Nat) : ∃ c' lf, s.Within c (s.completes c i extra fun s1 => s1) c' ∧
    c'.group = { c.noted s i extra with logFix := lf }.updPath c.ref.path (fun q => q.advance (c.path.spanOf i)) ∧
    c'.path = (c.path.noteIssue (issueOf c i extra) s.cycle (s.owner c.launch.owner).free).advance (c.path.spanOf i) := by
  obtain ⟨d, hd, hdg, hdp⟩ := State.Within.noteIssue h.ctx i extra
  obtain ⟨c', lf, he, heg, hep⟩ := State.Within.finish hd.here hd.ref.symm i
  exact ⟨c', lf, hd.trans he, by rw [heg, hdg, hd.ref], by rw [hep, hdp]⟩

/-- A word that only issues is finished, and changes no register. -/
theorem State.Issues.plainWord (hx : exec i s = .next (s.completes c i 0 fun s1 => s1)) :
    ∃ t c', s.RegisterWord c i [] t c' ∧ c.SameFlags c' ∧ c.path.SameLast c'.path := by
  obtain ⟨c', lf, hw, hg, hp⟩ := h.goesOn 0
  refine ⟨_, c', ⟨hx, hw.ctx, .of_advance h.live hp, hw.elsewhere (.goesOn s c i 0), .of_noted hg rfl rfl (fun p => p.advance_regs _) ?_, ?_⟩, ?_, ?_⟩
  · rw [hp, Path.advance_standing]
    rfl
  · rw [hg]
    rfl
  · rw [Ctx.SameFlags, hg]
    rfl
  · rw [hp]
    exact Path.advance_sameLast ..

/-- A word that issues and moves its path to a clause header. -/
theorem State.Issues.jumps (extra target : Nat) : ∃ c', s.Within c (s.jumps c i extra target) c' ∧ c.Jumped s i extra (target % 2 ^ 64) c' ∧
    c'.group = (c.noted s i extra).updPath c.ref.path (fun p => p.goto target) ∧
    c'.path = (c.path.noteIssue (issueOf c i extra) s.cycle (s.owner c.launch.owner).free).goto target := by
  obtain ⟨d, hd, hdg, hdp⟩ := State.Within.noteIssue h.ctx i extra
  have hv : (d.path.goto target).valid = true := (State.ctx?_parts hd.ctx).2.2.2.2.2
  have he := State.Within.updPath hd.here (fun p => p.goto target) hv
  rw [hd.ref] at he
  have hp : (d.withGroup (fun z => z.updPath c.ref.path fun p => p.goto target) (d.path.goto target)).path = _ := congrArg (Path.goto · target) hdp
  refine ⟨_, hd.trans he, ⟨⟨?_, ?_⟩, ?_, ?_, hv⟩, congrArg (Group.updPath · c.ref.path fun p => p.goto target) hdg, hp⟩
  · rw [hp]; rfl
  · rw [hp]; rfl
  · rw [hp]; rfl
  · rw [hp]; rfl

/-- A branch, taken or not (R148, R149). -/
theorem State.Issues.branch {taken : Bool} {n : Nat} {ofs : BitVec n}
    (hx : exec i s = .next (s.branch c i taken (c.path.target ofs))) :
    ∃ t c', exec i s = .next t ∧ t.ctx? c.ref = some c' ∧ s.SameElsewhere t c c' ∧ c.SameGroup c' [] ∧ c'.group.standing = c.group.standing ∧
      c.SameFlags c' ∧ c.path.SameLast c'.path ∧
      (taken = true → c.Jumped s i 2 (c.path.headerAt ofs.toInt) c') ∧ (taken = false → c.Past s i 0 c') := by
  cases taken with
  | false =>
    obtain ⟨t, c', hw, hf, hl⟩ := h.plainWord hx
    exact ⟨t, c', hw.answers, hw.ctx, hw.elsewhere, hw.group, hw.standing, hf, hl, by simp, fun _ => hw.past⟩
  | true =>
    obtain ⟨c', hw, hj, hg, hp⟩ := h.jumps 2 (c.path.target ofs)
    rw [Path.target_mod] at hj
    refine ⟨_, c', hx, hw.ctx, hw.elsewhere ((State.SameUnits.noteIssue s c i _).trans (.updPathGroup _ _ _)),
      .of_noted hg rfl rfl (fun p => ⟨rfl, rfl⟩) ?_, ?_, ?_, ?_, fun _ => hj, by simp⟩
    · rw [hp]; rfl
    · rw [hg]; rfl
    · rw [Ctx.SameFlags, hg]; rfl
    · rw [hp]; exact ⟨rfl, rfl, rfl, rfl⟩

end

/-! ### The mode word (R80, R160) -/

/-- The group once it has the mode word `v`, in force from the cycle after `t` on. -/
def Group.withMode (z : Group) (v : Word) (t : Nat) : Group := { z with mode := modeBits v, modePrev := z.modeInForce t, modeAt := t }

theorem modeRnd_reserved_iff (v : Word) : modeRnd v = 0 ∨ 6 ≤ modeRnd v ↔ v.toNat % 8 ∈ [0, 6, 7] := by
  have h : modeRnd v = v.toNat % 8 := by simp [modeRnd, bits]
  rw [h]
  simp only [List.mem_cons, List.not_mem_nil, or_false]
  omega

/-- A word that issues and sets the mode word. -/
theorem State.Issues.writesMode {s : State} {c : Ctx} {i : Instr} (h : s.Issues c i) (v : Word)
    (hx : exec i s = .next (s.completes c i 0 fun s1 => s1.updPathGroup c.ref fun z => z.withMode v s.cycle)) :
    ∃ t c', exec i s = .next t ∧ t.ctx? c.ref = some c' ∧ c.Past s i 0 c' ∧
      s.SameElsewhere t c c' ∧ c.SameGroup c' [] ∧ c.SameFlags c' ∧ c.path.SameLast c'.path ∧
      c'.group.mode = modeBits v ∧ c'.group.modeInForce s.cycle = c.group.modeInForce s.cycle ∧ ∀ n, s.cycle < n → c'.group.modeInForce n = modeBits v := by
  obtain ⟨c', lf, hc, -, hg, hp, he⟩ := State.completes_group h.ctx i 0 (fun z => z.withMode v s.cycle) (fun _ => rfl)
    (p := c.path.noteIssue (issueOf c i 0) s.cycle (s.owner c.launch.owner).free) (Ctx.noted_path h.ctx i 0) h.live
  refine ⟨_, c', hx, hc, .of_advance h.live hp, he, .of_noted hg rfl rfl (fun p => p.advance_regs _) ?_, ?_, ?_, ?_, ?_, fun n hn => ?_⟩
  · rw [hp, Path.advance_standing]
    rfl
  · rw [Ctx.SameFlags, hg]
    rfl
  · rw [hp]
    exact Path.advance_sameLast ..
  · rw [hg]
    rfl
  · rw [hg]
    exact if_pos le_rfl
  · rw [hg]
    exact if_neg (Nat.not_le.mpr hn)

/-! ### Sleeping paths (R157) -/

/-- The path with another status. -/
def Path.withStatus (p : Path) (st : PathStatus) : Path := { p with status := st }

/-- A path that takes a status which is no wait. -/
theorem State.setStatus_eq_updPath (s : State) (r : PathRef) {st : PathStatus} (h : ∀ w, st ≠ .waiting w) :
    s.setStatus r st = s.updPath r (·.withStatus st) := by
  cases st with
  | waiting w => exact absurd rfl (h w)
  | _ => rfl

/-- A path that goes on, and then sleeps until `deadline`. -/
theorem State.Issues.sleeps {s : State} {c : Ctx} {i : Instr} (h : s.Issues c i) (extra deadline : Nat) :
    ∃ c', s.Within c ((s.completes c i extra fun s1 => s1).setStatus c.ref (.sleeping deadline)) c' ∧ c.Past s i extra c' ∧
      (∀ r lane, c'.reg r lane = c.reg r lane) ∧ c'.group.standing = c.group.standing ∧ c.SameFlags c' ∧ c'.path.status = .sleeping deadline := by
  obtain ⟨d, lf, hd, hg, hp⟩ := h.goesOn extra
  have hpast := Ctx.Past.of_advance (c' := d) h.live hp
  have he := State.Within.updPath hd.here (·.withStatus (.sleeping deadline)) hpast.live
  rw [hd.ref, ← State.setStatus_eq_updPath _ c.ref (by simp)] at he
  refine ⟨_, hd.trans he, ⟨hpast.place, hpast.next, hpast.prefixed, hpast.live⟩, fun r lane => ?_, ?_, ?_, rfl⟩
  · show (d.group.updPath c.ref.path _).getReg d.ref.launch d.ref.block d.ref.path r lane = _
    rw [hd.ref, Group.getReg_updPath _ _ (·.withStatus (.sleeping deadline)) fun _ => ⟨rfl, rfl⟩, hg, Group.getReg_advance, Group.getReg_logFix, Ctx.noted_getReg]
    rfl
  · show d.group.standing = _
    rw [hg]
    rfl
  · show d.group.flags = _
    rw [hg]
    rfl

end Sys2Proof.Machine
end

section
/-! SUPPORT. The statements about `nop`, `wrmode`, the branches and `sleep`. -/

namespace Sys2Proof.Machine

/-- Settles O4: `nop` only issues; `wrmode` asks the rounding mode first. -/
theorem modeAndNop : Obligations.ModeAndNop := by
  unfold Obligations.ModeAndNop
  refine ⟨fun s c st h => h.plainWord (h.word _), fun s c st a h => ?_⟩
  intro v
  refine ⟨fun hv => ?_, fun hv => ?_⟩
  · have hx : exec (.wrmode st a) s = _ := h.word _
    rw [hx]
    exact congrArg _ (if_pos ((modeRnd_reserved_iff v).mpr hv))
  · refine h.writesMode v ((h.word _).trans ?_)
    exact congrArg _ (if_neg fun hr => hv ((modeRnd_reserved_iff v).mp hr))

/-- Settles O6: `bra` is a branch that is always taken. -/
theorem branches : Obligations.Branches := by
  unfold Obligations.Branches
  rintro s c i taken ofs ⟨st, a, ⟨o, rfl, rfl, rfl⟩ | ⟨o, rfl, ht, rfl⟩ | ⟨o, rfl, ht, rfl⟩⟩ h
  · exact h.branch (h.word _)
  · obtain rfl : taken = (s.maskOperand c a.toNat 0 == 0) := by rw [Bool.eq_iff_iff, ht, beq_iff_eq]
    exact h.branch (h.word _)
  · obtain rfl : taken = (s.maskOperand c a.toNat 0 != 0) := by rw [Bool.eq_iff_iff, ht, bne_iff_ne]
    exact h.branch (h.word _)

/-- Settles O11: the word goes on first, and takes the status then; SLEEP_EXPIRE asks the deadline alone. -/
theorem sleep : Obligations.Sleep := by
  unfold Obligations.Sleep
  refine ⟨fun s c st a h => ?_, fun s r p deadline hp hv hs => ⟨fun hd => ⟨?_, ?_⟩, fun hd => ?_⟩⟩
  · intro v
    have hx : exec (.sleep st a) s = .next (if v = 0 then _ else _) := h.word _
    by_cases hv : v = 0
    · rw [if_pos hv, show s.scalarOperand c a.toNat 0 32 = 0 from hv] at hx
      obtain ⟨t, c', hw, hf, -⟩ := h.plainWord hx
      have hregs (r : LaneReg) (lane : Nat) (hl : lane < 96) : c'.reg r lane = c.reg r lane := by
        rw [Ctx.reg, (State.ctx?_parts hw.ctx).1]
        exact hw.group.registers r lane hl (by simp)
      have hstatus : c'.path.status = c.path.status := (congrArg Path.status hw.group.path :)
      exact ⟨t, c', hw.answers, hw.ctx, hv ▸ hw.past, hw.elsewhere, hregs, hw.standing, hf, by rw [if_pos hv, hstatus]⟩
    · rw [if_neg hv] at hx
      obtain ⟨c', hw, hpast, hregs, hst, hf, hstatus⟩ := h.sleeps v (s.cycle + v)
      exact ⟨_, c', hx, hw.ctx, hpast, hw.elsewhere ((State.SameUnits.goesOn s c _ v).trans (.updPathGroup _ _ _)), fun r lane _ => hregs r lane,
        hst, hf, by rw [if_neg hv, hstatus]⟩
  · show execSleepExpire r s = _
    simp [execSleepExpire, hp, hv, hs, hd]
  · rw [State.setStatus_eq_updPath _ _ (by simp), State.path?_updPath, hp, Option.map_some, if_pos rfl]
    rfl
  · show execSleepExpire r s = _
    simp [execSleepExpire, hp, hv, hs, Nat.not_le.mpr hd]

/-- Settles O20: the decoder on fixed words. -/
theorem decodedWords : Obligations.DecodedWords := by
  unfold Obligations.DecodedWords
  decide

end Sys2Proof.Machine
end

section
/-! SUPPORT. The leaving of lanes in a group without join records (R24, R32, R158), and the proof of the statement about `exit`. -/

namespace Sys2Proof.Machine

/-! ### A path that leaves the table -/

theorem Group.dropPath_getD (z : Group) (k j : Nat) :
    (z.dropPath k).paths.getD j Path.dead = if j = k then Path.dead else z.paths.getD j Path.dead := by
  simp only [Group.dropPath, List.getD_eq_getElem?_getD]
  by_cases hj : j = k
  · subst hj
    rw [List.getElem?_set_self', if_pos rfl]
    cases z.paths[j]? <;> rfl
  · rw [List.getElem?_set_ne (Ne.symm hj), if_neg hj]

/-- The lowest live path but `k`, which the lanes of path `k` count to once it leaves (R24). -/
def Group.heir (z : Group) (k : Nat) : Option Nat := (List.range 4).find? fun j => j != k && (z.paths.getD j Path.dead).valid

theorem Group.find_dropPath (z : Group) (k : Nat) :
    ((List.range 4).find? fun j => ((z.dropPath k).paths.getD j Path.dead).valid) = z.heir k := by
  unfold Group.heir
  congr 1
  funext j
  rw [Group.dropPath_getD]
  by_cases hj : j = k
  · simp [hj, Path.dead]
  · simp [hj]

theorem Group.heir_ne {z : Group} {k j : Nat} (h : z.heir k = some j) : j ≠ k := by
  have hj := List.find?_some h
  rw [Bool.and_eq_true, bne_iff_ne] at hj
  exact hj.1

/-- What a path's leaving does to the group: the entry is dead, and its lanes count to the heir. -/
theorem Group.vacate_eq (z : Group) (k : Nat) : z.vacate k =
    match z.heir k with
    | none => z.dropPath k
    | some j => (z.dropPath k).updPath j fun p => { p with member := p.member ||| (z.paths.getD k Path.dead).member } := by
  rw [← Group.find_dropPath]
  rfl

theorem Group.vacate_self {z : Group} {k : Nat} {p : Path} (h : z.paths[k]? = some p) : (z.vacate k).paths[k]? = some Path.dead := by
  have hdead : (z.dropPath k).paths[k]? = some Path.dead := by
    rw [Group.dropPath, List.getElem?_set_self', h]
    rfl
  rw [Group.vacate_eq]
  split
  · exact hdead
  · next j hj => rw [Group.updPath_other _ (Group.heir_ne hj).symm, hdead]

theorem Group.vacate_other (z : Group) {k n : Nat} (h : n ≠ k) : (z.vacate k).paths[n]? =
    (z.paths[n]?).map fun p => if z.heir k = some n then { p with member := p.member ||| (z.paths.getD k Path.dead).member } else p := by
  have hdrop : (z.dropPath k).paths[n]? = z.paths[n]? := by rw [Group.dropPath, List.getElem?_set_ne h.symm]
  rw [Group.vacate_eq]
  split
  · next hj =>
    rw [hdrop, hj]
    simp
  · next j hj =>
    rw [hj, Group.updPath, List.getElem?_modify, hdrop]
    simp only [Option.some.injEq]
    cases z.paths[n]? <;> rfl

/-! ### Without join records nothing settles -/

theorem Group.settle_of_noJoins {z : Group} (h : z.NoJoins) (t : Nat) : z.settle t = z := by
  refine List.foldlRecOn (motive := fun y : Group => y = z) _ _ rfl fun y hy _ _ => ?_
  refine List.foldlRecOn (motive := fun y : Group => y = z) _ _ hy fun w hw r hr => ?_
  subst hw
  have hfree := h r (List.mem_range.mp hr)
  simp only [Group.mergeable, hfree, Bool.false_and, Bool.false_eq_true, if_false]

theorem Group.NoJoins.dropPath {z : Group} (h : z.NoJoins) (k : Nat) : (z.dropPath k).NoJoins := by
  intro q hq
  rw [← h q hq]
  simp only [Group.dropPath, List.getD_eq_getElem?_getD, List.getElem?_map]
  cases z.joins[q]? <;> rfl

theorem Group.NoJoins.vacate {z : Group} (h : z.NoJoins) (k : Nat) : (z.vacate k).NoJoins := by
  rw [Group.vacate_eq]
  split
  · exact h.dropPath k
  · exact h.dropPath k

section
variable {k : Nat} {gone : Lanes} {z : Group} {p : Path} (hz : z.NoJoins) (hp : z.paths[k]? = some p) (t : Nat)
include hz hp

/-- Lanes leave, and the path keeps some. -/
theorem Group.without_keeps (hg : p.present &&& ~~~gone ≠ 0) :
    z.without k gone t = { z.thinned k gone with done := (z.thinned k gone).paths.all fun p => p.present == 0 } := by
  have hk : ((z.thinned k gone).paths.getD k Path.dead).present ≠ 0 := by
    rw [List.getD_eq_getElem?_getD, Group.thinned, Group.updPath_at hp]
    exact hg
  have hj : (z.thinned k gone).NoJoins := hz
  simp only [Group.without, if_neg hk, Group.settle_of_noJoins hj]

/-- Lanes leave, and the path keeps none. -/
theorem Group.without_vacates (hg : p.present &&& ~~~gone = 0) :
    z.without k gone t = { (z.thinned k gone).vacate k with done := ((z.thinned k gone).vacate k).paths.all fun p => p.present == 0 } := by
  have hk : ((z.thinned k gone).paths.getD k Path.dead).present = 0 := by
    rw [List.getD_eq_getElem?_getD, Group.thinned, Group.updPath_at hp]
    exact hg
  have hj : (z.thinned k gone).NoJoins := hz
  simp only [Group.without, if_pos hk, Group.settle_of_noJoins (hj.vacate k)]

theorem Group.without_items : (z.without k gone t).items = z.items &&& ~~~gone := by
  by_cases hg : p.present &&& ~~~gone = 0
  · rw [Group.without_vacates hz hp t hg, Group.vacate_eq]
    split <;> rfl
  · rw [Group.without_keeps hz hp t hg]
    rfl

end

/-! ### What the leaving of lanes does to their block -/

theorem State.updBlock_twice (s : State) (l b : Nat) {f : Block → Block} (hf : ∀ y : Block, (f y).index = y.index) (g : Block → Block) :
    (s.updBlock l b f).updBlock l b g = s.updBlock l b fun y => g (f y) := by
  simp only [State.updBlock, State.updLaunch, List.map_map, State.mk.injEq, true_and, and_true]
  refine List.map_congr_left fun x _ => ?_
  by_cases hx : x.seq = l
  · simp only [Function.comp, if_pos hx, Launch.updBlock, List.map_map, Launch.mk.injEq, true_and, and_true]
    refine List.map_congr_left fun y _ => ?_
    by_cases hy : y.index = b
    · simp [Function.comp, hy, hf]
    · simp [Function.comp, hy]
  · simp [Function.comp, hx]

/-- The block once `n` more of its lanes have ended (R42). -/
def Block.countExits (n : Nat) (y : Block) : Block := { y with exits := (y.exits + n) % 2 ^ 15 }

/-- Lanes leave: their exits count in the block, and their group is without them. -/
theorem State.leave_eq_updBlock (s : State) (c : Ctx) (gone : Lanes) : ∃ f : Block → Block,
    (∀ y, (f y).index = y.index ∧ (f y).groups = y.groups ∧ (f y).exits = (y.exits + laneCount gone) % 2 ^ 15) ∧
    s.leave c gone = s.updBlock c.ref.launch c.ref.block fun y => (f y).updGroup c.ref.group (Group.without c.ref.path gone s.cycle) := by
  unfold State.leave
  extract_lets late s1 s2
  have hs1 : ∃ f : Block → Block, (∀ y, (f y).index = y.index ∧ (f y).groups = y.groups ∧ (f y).exits = y.exits) ∧
      s1 = s.updBlock c.ref.launch c.ref.block f ∧ s1.cycle = s.cycle := by
    unfold s1
    cases late with
    | nil =>
      refine ⟨id, fun _ => ⟨rfl, rfl, rfl⟩, ?_, rfl⟩
      simp [State.updBlock, State.updLaunch, Launch.updBlock]
    | cons l _ =>
      refine ⟨_, ?_, rfl, rfl⟩
      exact fun _ => ⟨rfl, rfl, rfl⟩
  obtain ⟨f, hf, he, ht⟩ := hs1
  refine ⟨fun y => (f y).countExits (laneCount gone), fun y => ?_, ?_⟩
  · obtain ⟨h1, h2, h3⟩ := hf y
    exact ⟨h1, h2, congrArg (fun n => (n + laneCount gone) % 2 ^ 15) h3⟩
  · show (s1.updBlock c.ref.launch c.ref.block (Block.countExits (laneCount gone))).updBlock c.ref.launch c.ref.block
      (fun y => y.updGroup c.ref.group (Group.without c.ref.path gone s1.cycle)) = _
    rw [ht, he, State.updBlock_twice s _ _ fun y => (hf y).1]
    exact State.updBlock_twice s _ _ (f := fun y => (f y).countExits (laneCount gone)) (fun y => (hf y).1) _

/-- The launch and the block of a context after a change of the block. -/
theorem State.updBlock_parts {s : State} {c : Ctx} (h : s.ctx? c.ref = some c) {F : Block → Block} (hF : ∀ y : Block, (F y).index = y.index) :
    (s.updBlock c.ref.launch c.ref.block F).launch? c.ref.launch = some (c.launch.updBlock c.ref.block F) ∧
      (c.launch.updBlock c.ref.block F).block? c.ref.block = some (F c.block) := by
  obtain ⟨-, hx, hy, -⟩ := State.ctx?_parts h
  refine ⟨?_, ?_⟩
  · exact (State.launch?_updLaunch_same s _ (·.updBlock c.ref.block F) fun _ hx => hx).trans (by rw [hx]; rfl)
  · exact (Launch.block?_updBlock_same c.launch _ F fun y hy => (hF y).trans hy).trans (by rw [hy]; rfl)

/-- `exit` of a path that has live lanes, in a group without join records. -/
theorem State.Issues.leaves {s : State} {c : Ctx} {i : Instr} (h : s.Issues c i) (hj : c.group.NoJoins)
    (hx : exec i s = .next ((s.completes c i 0 fun s1 => s1).leave c c.path.mask)) :
    ∃ t y z, exec i s = .next t ∧ (c.launch.replay = none → s.SameMemory t) ∧ s.SameUnits t ∧
      t.block? c.ref.launch c.ref.block = some y ∧ y.group? c.ref.group = some z ∧
      y.exits = (c.block.exits + laneCount c.path.mask) % 2 ^ 15 ∧
      z.items = c.group.items &&& ~~~c.path.mask ∧
      (c.path.present &&& ~~~c.path.mask ≠ 0 → (∀ k, k ≠ c.ref.path → z.paths[k]? = c.group.paths[k]?) ∧
        ∃ c', t.ctx? c.ref = some c' ∧ c.Past s i 0 c' ∧ c'.path.present = c.path.present &&& ~~~c.path.mask ∧ c'.path.mask = 0 ∧
          c'.path.member = c.path.member) ∧
      (c.path.present &&& ~~~c.path.mask = 0 → z.paths[c.ref.path]? = some Path.dead ∧
        ∀ k, k ≠ c.ref.path → z.paths[k]? = (c.group.paths[k]?).map fun p =>
          if c.group.heir c.ref.path = some k then { p with member := p.member ||| c.path.member } else p) := by
  obtain ⟨d, lf, hd, hdg, hdp⟩ := h.goesOn 0
  obtain ⟨-, -, -, hdz, hdp0, hdv⟩ := State.ctx?_parts hd.ctx
  obtain ⟨f, hf, he⟩ := State.leave_eq_updBlock (s.completes c i 0 fun s1 => s1) c c.path.mask
  generalize (s.completes c i 0 fun s1 => s1).cycle = t at he
  -- what the word leaves of the group
  have hkeeps : d.path.present = c.path.present ∧ d.path.mask = c.path.mask ∧ d.path.member = c.path.member := by
    rw [hdp]
    have hst := Path.advance_standing (c.path.noteIssue (issueOf c i 0) s.cycle (s.owner c.launch.owner).free) (c.path.spanOf i)
    exact ⟨(congrArg Path.present hst :), Path.advance_mask .., (congrArg Path.member hst :)⟩
  obtain ⟨hpresent, hmask, hmember⟩ := hkeeps
  have hdj : d.group.NoJoins := by rw [hdg]; exact hj
  have hdpaths (k : Nat) (hk : k ≠ c.ref.path) : d.group.paths[k]? = c.group.paths[k]? := by
    rw [hdg, Group.updPath_other _ hk, Group.noteIssue_paths, List.getElem?_modify]
    simp [hk.symm]
  -- where the state holds it
  have hparts := State.updBlock_parts hd.here (F := fun y => (f y).updGroup c.ref.group (Group.without c.ref.path c.path.mask t)) fun y => (hf y).1
  rw [hd.ref, ← he] at hparts
  obtain ⟨hl, hb⟩ := hparts
  have hz : ((f d.block).updGroup c.ref.group (Group.without c.ref.path c.path.mask t)).group? c.ref.group =
      some (d.group.without c.ref.path c.path.mask t) := by
    rw [Block.group?_updGroup_same _ _ _ fun z hz => (Group.without_index ..).trans hz, Block.group?, (hf d.block).2.1]
    exact congrArg (Option.map _) hdz
  have hblock : ((s.completes c i 0 fun s1 => s1).leave c c.path.mask).block? c.ref.launch c.ref.block =
      some ((f d.block).updGroup c.ref.group (Group.without c.ref.path c.path.mask t)) := by
    rw [State.block?, hl]
    exact hb
  refine ⟨_, _, _, hx, fun hr v pa => ?_, ?_, hblock, hz, ?_, ?_, fun hg => ?_, fun hg => ?_⟩
  · rw [he]
    exact State.readPhys_congr (hd.dies hr) v pa 1
  · rw [he]
    exact (State.SameUnits.goesOn s c i 0).trans ⟨_, _, _, _, _, rfl⟩
  · have hexits : d.block.exits = c.block.exits := (congrArg Block.exits hd.beyond.block :)
    rw [← hexits]
    exact (hf d.block).2.2
  · rw [Group.without_items hdj hdp0, hdg]
    rfl
  · rw [← hpresent] at hg
    have hw := Group.without_keeps hdj hdp0 t hg
    refine ⟨fun k hk => ?_, ?_⟩
    · rw [hw, ← hdpaths k hk]
      exact Group.updPath_other _ hk _
    · have hp : (d.group.without c.ref.path c.path.mask t).paths[c.ref.path]? =
          some { d.path with present := d.path.present &&& ~~~c.path.mask, mask := d.path.mask &&& ~~~c.path.mask } := by
        rw [hw]
        exact Group.updPath_at hdp0 _
      have hpast := Ctx.Past.of_advance (c' := d) h.live hdp
      refine ⟨_, State.ctx?_of_parts hl hb hz hp hdv, ⟨hpast.place, hpast.next, hpast.prefixed, hpast.live⟩, ?_, ?_, hmember⟩
      · exact congrArg (· &&& ~~~c.path.mask) hpresent
      · exact (congrArg (· &&& ~~~c.path.mask) hmask).trans (BitVec.and_not_self ..)
  · rw [← hpresent] at hg
    have hw := Group.without_vacates hdj hdp0 t hg
    rw [hw]
    have hat : (d.group.thinned c.ref.path c.path.mask).paths[c.ref.path]? =
        some { d.path with present := d.path.present &&& ~~~c.path.mask, mask := d.path.mask &&& ~~~c.path.mask } := Group.updPath_at hdp0 _
    have hother (k : Nat) (hk : k ≠ c.ref.path) : (d.group.thinned c.ref.path c.path.mask).paths[k]? = c.group.paths[k]? :=
      (Group.updPath_other _ hk _).trans (hdpaths k hk)
    have hheir : (d.group.thinned c.ref.path c.path.mask).heir c.ref.path = c.group.heir c.ref.path := by
      unfold Group.heir
      congr 1
      funext j
      by_cases hk : j = c.ref.path
      · simp [hk]
      · simp only [List.getD_eq_getElem?_getD, hother j hk]
    refine ⟨Group.vacate_self hat, fun k hk => ?_⟩
    rw [Group.vacate_other _ hk, hother k hk, hheir, List.getD_eq_getElem?_getD, hat, Option.getD_some, hmember]

/-- Settles O12: the word goes on first; then its lanes leave, and with the last of them the path. -/
theorem exit : Obligations.Exit := by
  unfold Obligations.Exit
  intro s c st h
  have hx : exec (.exit st) s = .next (if c.path.mask = 0 then _ else _) := h.word _
  refine ⟨fun hm => h.plainWord (by rw [hx, if_pos hm]), fun hm hj => ?_⟩
  rw [if_neg hm] at hx
  obtain ⟨t, y, z, he, hmem, hu, hy, hz, hexits, hitems, hkeeps, hgone⟩ := h.leaves hj hx
  rw [laneCount_eq] at hexits
  exact ⟨t, y, z, he, hmem, hu, hy, hz, hexits, hitems, hkeeps, fun hg => ⟨⟨_, (hgone hg).1, rfl, rfl⟩, (hgone hg).2⟩⟩

end Sys2Proof.Machine
end

section
/-! SUPPORT. The merge of the paths that meet at a join record (R32), in a group with one record in use, and the proof of the statement about `join`. -/

namespace Sys2Proof.Machine

/-! ### Bits of unions and intersections -/

theorem foldl_or_getLsbD {w : Nat} (f : Path → BitVec w) (ps : List Path) (m : BitVec w) (i : Nat) :
    (ps.foldl (fun m q => m ||| f q) m).getLsbD i = (m.getLsbD i || ps.any fun q => (f q).getLsbD i) := by
  induction ps generalizing m with
  | nil => simp
  | cons q ps ih => rw [List.foldl_cons, ih, BitVec.getLsbD_or, List.any_cons, Bool.or_assoc]

theorem foldl_and_getLsbD {w : Nat} (f : Path → BitVec w) (ps : List Path) (m : BitVec w) (i : Nat) :
    (ps.foldl (fun m q => m &&& f q) m).getLsbD i = (m.getLsbD i && ps.all fun q => (f q).getLsbD i) := by
  induction ps generalizing m with
  | nil => simp
  | cons q ps ih => rw [List.foldl_cons, ih, BitVec.getLsbD_and, List.all_cons, Bool.and_assoc]

theorem getLsbD_entryBit : ∀ n < 4, ∀ k < 4, (BitVec.ofNat 4 (2 ^ n)).getLsbD k = decide (k = n) := by decide

/-! ### Settling the records -/

/-- What settling does at record `r`. -/
def Group.settleAt (t : Nat) (z : Group) (r : Nat) : Group :=
  if z.mergeable r then z.merge r t
  else if (z.joins.getD r ⟨0, false, 0⟩).alloc && (z.holders r).isEmpty then z.freeJoin r
  else z

theorem Group.settle_eq (z : Group) (t : Nat) :
    z.settle t = (List.range 8).foldl (fun z _ => (List.range 4).foldl (Group.settleAt t) z) z := rfl

theorem Group.settleAt_free {z : Group} {r : Nat} (h : (z.joins.getD r ⟨0, false, 0⟩).alloc = false) (t : Nat) : z.settleAt t r = z := by
  simp only [Group.settleAt, Group.mergeable, h, Bool.false_and, Bool.false_eq_true, if_false]

theorem Group.settleAt_waits {z : Group} {r : Nat} (hm : z.mergeable r = false) (hh : z.holders r ≠ []) (t : Nat) : z.settleAt t r = z := by
  have he : (z.holders r).isEmpty = false := by simpa using hh
  simp only [Group.settleAt, hm, he, Bool.and_false, Bool.false_eq_true, if_false]

/-- A group in which only record `r` may be in use. -/
def Group.OnlyJoin (z : Group) (r : Nat) : Prop := ∀ q < 4, q ≠ r → (z.joins.getD q ⟨0, false, 0⟩).alloc = false

section
variable {z : Group} {r : Nat} (ho : z.OnlyJoin r)
include ho

/-- While a holder of the record has not arrived, nothing settles. -/
theorem Group.settle_waits (hm : z.mergeable r = false) (hh : z.holders r ≠ []) (t : Nat) : z.settle t = z := by
  rw [Group.settle_eq]
  refine List.foldlRecOn (motive := fun y : Group => y = z) _ _ rfl fun y hy _ _ => ?_
  refine List.foldlRecOn (motive := fun y : Group => y = z) _ _ hy fun w hw q hq => ?_
  subst hw
  by_cases hqr : q = r
  · exact hqr ▸ Group.settleAt_waits hm hh t
  · exact Group.settleAt_free (ho q (List.mem_range.mp hq) hqr) t

/-- Once the last holder has arrived, they merge. -/
theorem Group.settle_merges (hr : r < 4) (hm : z.mergeable r = true) (t : Nat) (hn : (z.merge r t).NoJoins) : z.settle t = z.merge r t := by
  have hround (l : List Nat) (hl : ∀ q ∈ l, q < 4) : (r ∈ l → l.foldl (Group.settleAt t) z = z.merge r t) := by
    induction l with
    | nil => simp
    | cons q l ih =>
      intro hmem
      rw [List.foldl_cons]
      by_cases hqr : q = r
      · have hq : z.settleAt t q = z.merge r t := by rw [hqr, Group.settleAt, if_pos hm]
        rw [hq]
        exact List.foldlRecOn (motive := fun y : Group => y = z.merge r t) _ _ rfl fun y hy q hq' =>
          hy ▸ Group.settleAt_free (hy.symm ▸ hn q (hl q (List.mem_cons_of_mem _ hq'))) t
      · rw [Group.settleAt_free (ho q (hl q List.mem_cons_self) hqr)]
        exact ih (fun q hq => hl q (List.mem_cons_of_mem _ hq)) ((List.mem_cons.mp hmem).resolve_left (Ne.symm hqr))
  rw [Group.settle_eq, show List.range 8 = 0 :: [1, 2, 3, 4, 5, 6, 7] from rfl, List.foldl_cons,
    hround (List.range 4) (fun q => List.mem_range.mp) (List.mem_range.mpr hr)]
  refine List.foldlRecOn (motive := fun y : Group => y = z.merge r t) _ _ rfl fun y hy _ _ => ?_
  subst hy
  refine List.foldlRecOn (motive := fun y : Group => y = z.merge r t) _ _ rfl fun w hw q hq => ?_
  rw [hw]
  exact Group.settleAt_free (hn q (List.mem_range.mp hq)) t

end

/-! ### The merge -/

/-- The path that the paths `ps` become at record `r` in cycle `t`, from the lowest of them, `p` (R32). -/
def Path.merged (r t : Nat) (ps : List Path) (p : Path) : Path :=
  { p.advance p.rawSpan with
    member := ps.foldl (fun m q => m ||| q.member) 0
    present := ps.foldl (fun m q => m ||| q.present) 0
    mask := ps.foldl (fun m q => m ||| q.mask) 0
    tokens := ps.foldl (fun m q => m &&& q.tokens) (BitVec.allOnes 4) &&& ~~~(BitVec.ofNat 4 (2 ^ r))
    before := (ps.flatMap (·.before)).dedup
    own := ps.flatMap (·.own)
    horizon := (ps.map (·.horizon)).foldl max 0
    l0Def := false
    l1Def := false
    status := .ready
    nextIssue := max p.nextIssue (t + 1) + 2 }

theorem Group.merge_eq {z : Group} {r k : Nat} {rest : List Nat} (h : z.holders r = k :: rest) (t : Nat) : z.merge r t =
    (rest.foldl Group.dropPath (z.updPath k (Path.merged r t ((z.holders r).map fun i => z.paths.getD i Path.dead)))).freeJoin r := by
  rw [h]
  unfold Group.merge
  rw [h]
  rfl

theorem Group.foldl_dropPath_paths (l : List Nat) (z : Group) (n : Nat) :
    (l.foldl Group.dropPath z).paths[n]? = if n ∈ l then (z.paths[n]?).map fun _ => Path.dead else z.paths[n]? := by
  induction l generalizing z with
  | nil => simp
  | cons k l ih =>
    rw [List.foldl_cons, ih, Group.dropPath]
    by_cases hn : n = k
    · subst hn
      simp only [List.getElem?_set_self', List.mem_cons_self, if_true]
      cases z.paths[n]? <;> simp
    · simp only [List.getElem?_set_ne (Ne.symm hn), List.mem_cons, hn, false_or]

theorem Group.foldl_dropPath_alloc (l : List Nat) (z : Group) (q : Nat) :
    ((l.foldl Group.dropPath z).joins.getD q ⟨0, false, 0⟩).alloc = (z.joins.getD q ⟨0, false, 0⟩).alloc := by
  induction l generalizing z with
  | nil => rfl
  | cons k l ih =>
    rw [List.foldl_cons, ih]
    simp only [Group.dropPath, List.getD_eq_getElem?_getD, List.getElem?_map]
    cases z.joins[q]? <;> rfl

theorem Group.mem_holders {z : Group} {r k : Nat} :
    k ∈ z.holders r ↔ k < 4 ∧ ∃ p, z.paths[k]? = some p ∧ p.valid = true ∧ p.tokens.getLsbD r = true := by
  rw [Group.holders, List.mem_filter, List.mem_range]
  cases z.paths[k]? <;> simp

theorem Group.holders_nodup (z : Group) (r : Nat) : (z.holders r).Nodup := List.nodup_range.filter _

theorem Group.holders_congr {y z : Group} (h : ∀ k : Nat, (y.paths[k]?).map (fun p : Path => (p.valid, p.tokens)) =
    (z.paths[k]?).map fun p : Path => (p.valid, p.tokens)) (r : Nat) : y.holders r = z.holders r := by
  have hread (z : Group) (k : Nat) : (match z.paths[k]? with | some p => p.valid && p.tokens.getLsbD r | none => false) =
      ((z.paths[k]?).map fun p : Path => (p.valid, p.tokens)).elim false fun e => e.1 && e.2.getLsbD r := by
    cases z.paths[k]? <;> rfl
  unfold Group.holders
  congr 1
  funext k
  exact ((hread y k).trans (by rw [h k])).trans (hread z k).symm

section
variable {z : Group} {r k : Nat} {rest : List Nat} (h : z.holders r = k :: rest) (t : Nat)
include h

theorem Group.merge_noJoins (ho : z.OnlyJoin r) : (z.merge r t).NoJoins := by
  intro q hq
  rw [Group.merge_eq h, Group.freeJoin, List.getD_eq_getElem?_getD, List.getElem?_modify]
  have hq' := Group.foldl_dropPath_alloc rest (z.updPath k (Path.merged r t ((z.holders r).map fun i => z.paths.getD i Path.dead))) q
  rw [List.getD_eq_getElem?_getD] at hq'
  by_cases hqr : r = q
  · cases (rest.foldl Group.dropPath (z.updPath k (Path.merged r t ((z.holders r).map fun i => z.paths.getD i Path.dead)))).joins[q]? <;> simp [hqr]
  · simp only [hqr, if_false, Option.map_eq_map, Option.map_id']
    exact hq'.trans (ho q hq (Ne.symm hqr))

/-- The lowest holder is the merged path. -/
theorem Group.merge_lowest {p : Path} (hp : z.paths[k]? = some p) :
    (z.merge r t).paths[k]? = some (p.merged r t ((z.holders r).map fun i => z.paths.getD i Path.dead)) := by
  have hk : k ∉ rest := (List.nodup_cons.mp (h ▸ z.holders_nodup r)).1
  rw [Group.merge_eq h]
  show (rest.foldl Group.dropPath _).paths[k]? = _
  rw [Group.foldl_dropPath_paths, if_neg hk, Group.updPath_at hp]

/-- The other holders leave the table. -/
theorem Group.merge_rest {m : Nat} (hm : m ∈ rest) : (z.merge r t).paths[m]? = some Path.dead := by
  have hmk : m ≠ k := fun e => (List.nodup_cons.mp (h ▸ z.holders_nodup r)).1 (e ▸ hm)
  obtain ⟨-, p, hp, -⟩ := Group.mem_holders.mp (h.symm ▸ List.mem_cons_of_mem _ hm : m ∈ z.holders r)
  rw [Group.merge_eq h]
  show (rest.foldl Group.dropPath _).paths[m]? = _
  rw [Group.foldl_dropPath_paths, if_pos hm, Group.updPath_other _ hmk, hp]
  rfl

/-- Every other path stands as it was. -/
theorem Group.merge_other {m : Nat} (hm : m ∉ z.holders r) : (z.merge r t).paths[m]? = z.paths[m]? := by
  rw [h, List.mem_cons, not_or] at hm
  rw [Group.merge_eq h]
  show (rest.foldl Group.dropPath _).paths[m]? = _
  rw [Group.foldl_dropPath_paths, if_neg hm.2, Group.updPath_other _ hm.1]

end

/-! ### Arrival at a record -/

/-- Path `k` arrives at record `r` and waits there (R155). -/
def Group.arrives (z : Group) (k r : Nat) : Group :=
  { z with joins := z.joins.modify r fun j => { j with arrived := j.arrived ||| BitVec.ofNat 4 (2 ^ k) } }.updPath k
    (·.withStatus (.waiting (.join r)))

/-- What `join` does to its group: path `k` arrives, and the records settle. -/
def Group.joinsAt (z : Group) (k r t : Nat) : Group :=
  let y := (z.arrives k r).settle t
  if (y.paths.getD k Path.dead).status = .waiting (.join r) then y.settled k else y

section
variable {z : Group} {k r : Nat}

theorem Group.arrives_at {p : Path} (hp : z.paths[k]? = some p) : (z.arrives k r).paths[k]? = some (p.withStatus (.waiting (.join r))) :=
  Group.updPath_at (z := { z with joins := _ }) hp _

theorem Group.arrives_other {m : Nat} (hm : m ≠ k) : (z.arrives k r).paths[m]? = z.paths[m]? :=
  Group.updPath_other { z with joins := _ } hm _

theorem Group.arrives_holders (q : Nat) : (z.arrives k r).holders q = z.holders q := by
  refine Group.holders_congr (fun m => ?_) q
  by_cases hm : m = k
  · subst hm
    cases hp : z.paths[m]? with
    | none => simp [Group.arrives, Group.updPath, hp]
    | some p => rw [Group.arrives_at hp]; rfl
  · rw [Group.arrives_other hm]

theorem Group.arrives_onlyJoin (ho : z.OnlyJoin r) : (z.arrives k r).OnlyJoin r := by
  intro q hq hqr
  refine Eq.trans ?_ (ho q hq hqr)
  simp [Group.arrives, Group.updPath, List.getD_eq_getElem?_getD, Ne.symm hqr]

theorem Group.arrives_record (hr : r < z.joins.length) : (z.arrives k r).joins.getD r ⟨0, false, 0⟩ =
    { z.joins.getD r ⟨0, false, 0⟩ with arrived := (z.joins.getD r ⟨0, false, 0⟩).arrived ||| BitVec.ofNat 4 (2 ^ k) } := by
  simp [Group.arrives, Group.updPath, List.getD_eq_getElem?_getD, List.getElem?_eq_getElem hr]

theorem Group.arrives_mergeable (hr : r < z.joins.length) (hk : k < 4) (ha : (z.joins.getD r ⟨0, false, 0⟩).alloc = true) (hh : z.holders r ≠ []) :
    (z.arrives k r).mergeable r = true ↔ ∀ m ∈ z.holders r, m ≠ k → (z.joins.getD r ⟨0, false, 0⟩).arrived.getLsbD m = true := by
  have he : (z.holders r).isEmpty = false := by simpa using hh
  rw [Group.mergeable, Group.arrives_holders, Group.arrives_record hr, ha, he, Bool.not_false, Bool.and_true, Bool.true_and, List.all_eq_true]
  refine forall₂_congr fun m hm => ?_
  rw [BitVec.getLsbD_or, getLsbD_entryBit k hk m (Group.mem_holders.mp hm).1, Bool.or_eq_true, decide_eq_true_eq]
  tauto

section
variable (ho : z.OnlyJoin r) (hr : r < z.joins.length) (hk : k < 4) (ha : (z.joins.getD r ⟨0, false, 0⟩).alloc = true) {p : Path}
  (hp : z.paths[k]? = some p) (hh : k ∈ z.holders r) (t : Nat)
include ho hr hk ha hp hh

/-- A holder has not arrived: the path waits. -/
theorem Group.joinsAt_waits (hm : ∃ m ∈ z.holders r, m ≠ k ∧ (z.joins.getD r ⟨0, false, 0⟩).arrived.getLsbD m = false) :
    z.joinsAt k r t = (z.arrives k r).settled k := by
  have hne : z.holders r ≠ [] := List.ne_nil_of_mem hh
  have hno : (z.arrives k r).mergeable r = false := by
    rw [Bool.eq_false_iff, ne_eq, Group.arrives_mergeable hr hk ha hne]
    obtain ⟨m, hm, hmk, hn⟩ := hm
    exact fun hall => Bool.eq_false_iff.mp hn (hall m hm hmk)
  have hs := Group.settle_waits (Group.arrives_onlyJoin ho (k := k)) hno (by rwa [Group.arrives_holders]) t
  have hst : ((z.arrives k r).paths.getD k Path.dead).status = .waiting (.join r) := by
    rw [List.getD_eq_getElem?_getD, Group.arrives_at hp]
    rfl
  simp only [Group.joinsAt, hs, if_pos hst]

/-- The last holder arrives: they merge. -/
theorem Group.joinsAt_merges (hm : ∀ m ∈ z.holders r, m ≠ k → (z.joins.getD r ⟨0, false, 0⟩).arrived.getLsbD m = true) {i : Nat} {rest : List Nat}
    (hi : z.holders r = i :: rest) : z.joinsAt k r t = (z.arrives k r).merge r t := by
  have hne : z.holders r ≠ [] := List.ne_nil_of_mem hh
  have hi' : (z.arrives k r).holders r = i :: rest := (Group.arrives_holders r).trans hi
  have ho' : (z.arrives k r).OnlyJoin r := Group.arrives_onlyJoin ho
  have hr4 : r < 4 := by
    by_contra hge
    have hzero : p.tokens.getLsbD r = false := BitVec.getLsbD_of_ge _ _ (Nat.not_lt.mp hge)
    obtain ⟨-, q, hq, -, ht⟩ := Group.mem_holders.mp hh
    rw [hp] at hq
    cases hq
    simp [hzero] at ht
  have hs := Group.settle_merges ho' hr4 ((Group.arrives_mergeable hr hk ha hne).mpr hm) t (Group.merge_noJoins hi' t ho')
  have hst : (((z.arrives k r).merge r t).paths.getD k Path.dead).status ≠ .waiting (.join r) := by
    rw [List.getD_eq_getElem?_getD]
    obtain rfl | hrest := List.mem_cons.mp (hi ▸ hh)
    · rw [Group.merge_lowest hi' t (Group.arrives_at hp)]
      exact fun e => nomatch e
    · rw [Group.merge_rest hi' t hrest]
      exact fun e => nomatch e
  simp only [Group.joinsAt, hs, if_neg hst]

end

end

/-- What the paths of a group are once the last of them has arrived: the lowest holder is one path with the others (R32, steps 2 to 5). -/
theorem Path.merged_spec (r t : Nat) (ps : List Path) (p : Path) :
    (p.merged r t ps).valid = p.valid ∧ (p.merged r t ps).status = .ready ∧
      ((p.merged r t ps).pc, (p.merged r t ps).idx) = p.placeAfter p.rawSpan ∧ (p.merged r t ps).priv = p.priv ∧
      (p.merged r t ps).nextIssue = max p.nextIssue (t + 1) + 2 :=
  ⟨Path.advance_valid .., rfl, Path.advance_place .., Path.advance_priv .., rfl⟩

theorem Path.merged_tokens {r : Nat} (hr : r < 4) (t : Nat) (ps : List Path) (p : Path) {q : Nat} (hq : q < 4) :
    (p.merged r t ps).tokens.getLsbD q = (decide (q ≠ r) && ps.all fun p => p.tokens.getLsbD q) := by
  show (ps.foldl (fun m q => m &&& q.tokens) (BitVec.allOnes 4) &&& ~~~(BitVec.ofNat 4 (2 ^ r))).getLsbD q = _
  rw [BitVec.getLsbD_and, foldl_and_getLsbD, BitVec.getLsbD_not, getLsbD_entryBit r hr q hq, BitVec.getLsbD_allOnes, decide_eq_true hq,
    Bool.true_and, Bool.true_and, Bool.and_comm, decide_not]

theorem Path.merged_lanes (r t : Nat) (ps : List Path) (p : Path) (lane : Nat) :
    (p.merged r t ps).member.getLsbD lane = (ps.any fun p => p.member.getLsbD lane) ∧
      (p.merged r t ps).present.getLsbD lane = (ps.any fun p => p.present.getLsbD lane) ∧
      (p.merged r t ps).mask.getLsbD lane = ps.any fun p => p.mask.getLsbD lane := by
  refine ⟨?_, ?_, ?_⟩
  · exact (foldl_or_getLsbD Path.member ps 0 lane).trans (by simp)
  · exact (foldl_or_getLsbD Path.present ps 0 lane).trans (by simp)
  · exact (foldl_or_getLsbD Path.mask ps 0 lane).trans (by simp)

/-! ### The word -/

theorem State.group?_updPathGroup (s : State) (r : PathRef) {f : Group → Group} (hf : ∀ z : Group, (f z).index = z.index) :
    (s.updPathGroup r f).group? r.launch r.block r.group = (s.group? r.launch r.block r.group).map f := by
  rw [State.updPathGroup, State.group?_updGroup _ _ _ _ _ hf]
  simp

theorem Group.settled_index (z : Group) (k : Nat) : (z.settled k).index = z.index := rfl

theorem Group.joinsAt_index (z : Group) (k r t : Nat) : (z.joinsAt k r t).index = z.index := by
  have hs : ((z.arrives k r).settle t).index = z.index := Group.settle_index _ t
  unfold Group.joinsAt
  dsimp only
  split
  · rw [Group.settled_index, hs]
  · exact hs

/-- A word that arrives at a record issues, and then its group settles. -/
theorem State.Issues.joins {s t : State} {c : Ctx} {i : Instr} (h : s.Issues c i) {r : Nat}
    (ht : t = (s.noteIssue c i (issueOf c i 0)).updPathGroup c.ref fun z => z.joinsAt c.ref.path r s.cycle) :
    t.group? c.ref.launch c.ref.block c.ref.group = some ((c.noted s i 0).joinsAt c.ref.path r s.cycle) ∧
      (c.launch.replay = none → s.SameMemory t) ∧ s.SameUnits t := by
  subst ht
  obtain ⟨d, hd, hdg, -⟩ := State.Within.noteIssue h.ctx i 0
  refine ⟨?_, fun hn v pa => State.readPhys_congr (hd.dies hn :) v pa 1, (State.SameUnits.noteIssue s c i _).trans (.updPathGroup _ _ _)⟩
  rw [State.group?_updPathGroup _ _ fun z => z.joinsAt_index .., State.group?_of_ctx? hd.ctx, hdg, Option.map_some]

/-- The path that has issued a word in its entry, and the others as they were. -/
theorem Ctx.noted_other (c : Ctx) (s : State) (i : Instr) (extra : Nat) {m : Nat} (hm : m ≠ c.ref.path) :
    (c.noted s i extra).paths[m]? = c.group.paths[m]? := by
  rw [Group.noteIssue_paths, List.getElem?_modify]
  simp [hm.symm]

/-- A path that arrives keeps all but its status and its issue accounting. -/
def Path.KeptByArrival {α : Type} (f : Path → α) : Prop := ∀ (p : Path) (w : Issue) (t free : Nat) (st : PathStatus),
  f ((p.noteIssue w t free).withStatus st) = f p

theorem State.Issues.arrives_getD {s : State} {c : Ctx} {i : Instr} (h : s.Issues c i) (r m : Nat) :
    ((c.noted s i 0).arrives c.ref.path r).paths.getD m Path.dead =
      if m = c.ref.path then (c.path.noteIssue (issueOf c i 0) s.cycle (s.owner c.launch.owner).free).withStatus (.waiting (.join r))
      else c.group.paths.getD m Path.dead := by
  simp only [List.getD_eq_getElem?_getD]
  split
  · next hm => rw [hm, Group.arrives_at (Ctx.noted_path h.ctx i 0), Option.getD_some]
  · next hm => rw [Group.arrives_other hm, Ctx.noted_other _ _ _ _ hm]

theorem State.Issues.arrives_keeps {s : State} {c : Ctx} {i : Instr} (h : s.Issues c i) (r : Nat) {α : Type} (f : Path → α)
    (hf : Path.KeptByArrival f) (m : Nat) :
    f (((c.noted s i 0).arrives c.ref.path r).paths.getD m Path.dead) = f (c.group.paths.getD m Path.dead) := by
  rw [h.arrives_getD]
  split
  · next hm => rw [hf, hm, List.getD_eq_getElem?_getD, (State.ctx?_parts h.ctx).2.2.2.2.1, Option.getD_some]
  · rfl

/-- The bits that some of the paths `l` have, read once one of them has arrived. -/
theorem State.Issues.any_arrived {s : State} {c : Ctx} {i : Instr} (h : s.Issues c i) (r : Nat) {w : Nat} {f : Path → BitVec w}
    (hf : Path.KeptByArrival f) (l : List Nat) (n : Nat) :
    ((l.map fun m => ((c.noted s i 0).arrives c.ref.path r).paths.getD m Path.dead).any fun p => (f p).getLsbD n) =
      l.any fun m => (f (c.group.paths.getD m Path.dead)).getLsbD n := by
  rw [List.any_map]
  congr 1
  funext m
  exact congrArg (·.getLsbD n) (h.arrives_keeps r f hf m)

/-- Settles O10: a stale token leaves `join` a word that only issues; otherwise the path arrives, and either a holder is missing or they merge. -/
theorem join : Obligations.Join := by
  unfold Obligations.Join
  refine ⟨fun s c st a h => ?_, fun s c st a h => ?_⟩
  · intro tok j hstale
    have hx : exec (.join st a) s = .next (if j.alloc ∧ j.gen.toNat = bits tok 15 8 ∧ c.path.tokens.getLsbD (tok % 4) then _ else _) := h.word _
    have hbits : bits tok 15 8 = tok / 256 % 256 := rfl
    rw [if_neg (by rw [hbits]; rintro ⟨h1, h2, h3⟩; simp [h1, h2, h3] at hstale)] at hx
    exact h.plainWord hx
  · intro tok r j hs holder ha hg htok hk hpaths hjoins ho
    have hx : exec (.join st a) s = .next (if j.alloc ∧ j.gen.toNat = bits tok 15 8 ∧ c.path.tokens.getLsbD (tok % 4) then _ else _) := h.word _
    rw [if_pos ⟨ha, hg, htok⟩] at hx
    obtain ⟨hz, hmem, hunits⟩ := h.joins (r := r) rfl
    -- the group once the word has issued
    have hlive : c.group.paths[c.ref.path]? = some c.path := (State.ctx?_parts h.ctx).2.2.2.2.1
    have hat := Ctx.noted_path h.ctx (.join st a) 0
    have hholders : (c.noted s (.join st a) 0).holders r = hs := by
      refine Group.holders_congr (fun m => ?_) r
      by_cases hm : m = c.ref.path
      · rw [hm, hat, hlive]
        rfl
      · rw [Ctx.noted_other _ _ _ _ hm]
    have hmemb : c.ref.path ∈ hs := Group.mem_holders.mpr ⟨hk, _, hlive, h.live, htok⟩
    have honly : (c.noted s (.join st a) 0).OnlyJoin r := ho
    have hlen : r < (c.noted s (.join st a) 0).joins.length := (Nat.mod_lt _ (by decide)).trans_eq hjoins.symm
    refine ⟨_, _, hx, hz, hmem, hunits, fun hwait => ?_, fun hall k rest hrest => ?_⟩
    · rw [Group.joinsAt_waits honly hlen hk ha hat (hholders ▸ hmemb) _ (hholders ▸ hwait)]
      refine ⟨⟨_, Group.arrives_at hat, rfl, rfl, rfl, rfl, ?_⟩, fun m hm => (Group.arrives_other hm).trans (Ctx.noted_other _ _ _ _ hm)⟩
      show (((c.noted s (.join st a) 0).arrives c.ref.path r).joins.getD r ⟨0, false, 0⟩).arrived.getLsbD c.ref.path = true
      rw [Group.arrives_record hlen, BitVec.getLsbD_or, getLsbD_entryBit _ hk _ hk, decide_eq_true rfl, Bool.or_true]
    · have hi : (c.noted s (.join st a) 0).holders r = k :: rest := hholders.trans hrest
      rw [Group.joinsAt_merges honly hlen hk ha hat (hholders ▸ hmemb) _ (hholders ▸ hall) hi]
      have hi' : ((c.noted s (.join st a) 0).arrives c.ref.path r).holders r = k :: rest := (Group.arrives_holders r).trans hi
      have hhs : ((c.noted s (.join st a) 0).arrives c.ref.path r).holders r = hs := (Group.arrives_holders r).trans hholders
      have hr4 : r < 4 := Nat.mod_lt _ (by decide)
      obtain ⟨-, q, hq, hqv, -⟩ := Group.mem_holders.mp (hi' ▸ List.mem_cons_self : k ∈ ((c.noted s (.join st a) 0).arrives c.ref.path r).holders r)
      obtain ⟨h1, h2, h3, h4, h5⟩ := Path.merged_spec r s.cycle
        ((((c.noted s (.join st a) 0).arrives c.ref.path r).holders r).map fun i => ((c.noted s (.join st a) 0).arrives c.ref.path r).paths.getD i Path.dead) q
      have hqD : ((c.noted s (.join st a) 0).arrives c.ref.path r).paths.getD k Path.dead = q := by
        rw [List.getD_eq_getElem?_getD, hq, Option.getD_some]
      refine ⟨Group.merge_noJoins hi' _ (Group.arrives_onlyJoin honly) r hr4, fun m hm => ⟨_, Group.merge_rest hi' _ hm, rfl⟩, fun m hm => ?_,
        _, Group.merge_lowest hi' _ hq, h1.trans hqv, h2, h3.trans ?_, h4.trans ?_, h5.trans ?_, fun n hn => ?_, fun lane _ => ?_, fun lane _ => ?_,
        fun lane _ => ?_⟩
      · have hmr : m ≠ c.ref.path := fun e => hm (e ▸ hmemb)
        exact (Group.merge_other hi' _ (hhs ▸ hm)).trans ((Group.arrives_other hmr).trans (Ctx.noted_other _ _ _ _ hmr))
      · exact hqD ▸ h.arrives_keeps r (fun p => p.placeAfter p.rawSpan) (fun _ _ _ _ _ => rfl) k
      · exact hqD ▸ h.arrives_keeps r Path.priv (fun _ _ _ _ _ => rfl) k
      · rw [← hqD, h.arrives_getD, apply_ite Path.nextIssue]
        rfl
      · rw [Path.merged_tokens hr4 _ _ _ hn, hhs, List.all_map]
        congr 2
        funext m
        exact congrArg (·.getLsbD n) (h.arrives_keeps r Path.tokens (fun _ _ _ _ _ => rfl) m)
      · rw [(Path.merged_lanes ..).1, hhs]
        exact h.any_arrived r (f := Path.member) (fun _ _ _ _ _ => rfl) hs lane
      · rw [(Path.merged_lanes ..).2.1, hhs]
        exact h.any_arrived r (f := Path.present) (fun _ _ _ _ _ => rfl) hs lane
      · rw [(Path.merged_lanes ..).2.2, hhs]
        exact h.any_arrived r (f := Path.mask) (fun _ _ _ _ _ => rfl) hs lane

end Sys2Proof.Machine
end

section
/-! SUPPORT. Metering that also writes memory, and the image bytes of which nothing is known any more (R58): where the memory of an image changes. -/

namespace Sys2Proof.Machine

/-! ### Metering -/

/-- A context after metering that may write memory. -/
theorem State.Metered.beyond {s t : State} {c : Ctx} (h : State.Metered c.ref.launch s t) (hc : s.ctx? c.ref = some c) :
    ∃ x : Launch, t.ctx? c.ref = some { c with launch := x } ∧ s.SameBeyond t c { c with launch := x } := by
  obtain ⟨x, hx, -, -, hs, -, -⟩ := h.ctx? hc
  exact ⟨x, hx, ⟨h.owners, fun l b g _ => h.group? l b g, fun l hl => h.launch?_other hl, hs, rfl⟩⟩

theorem State.Metered.imageSpoil (l : Nat) (s : State) (x : Launch) (y : Block) (va : Nat) (bs : List Byte) :
    State.Metered l s (s.imageSpoil x y va bs) := by
  refine State.Metered.foldl l _ (fun s pc => ?_) _ s
  cases s.imagePa x y pc.1 with
  | none => exact .rfl' l s
  | some pa => exact .writeAll l s _ _

theorem State.Metered.chargeImage (l : Nat) (s : State) (x : Launch) (y : Block) (o va n : Nat) : State.Metered l s (s.chargeImage x y o va n) := by
  refine State.Metered.foldl l _ (fun s pc => ?_) _ s
  cases s.imagePa x y pc.1 with
  | none => exact .rfl' l s
  | some pa => exact .charge l s _ _ _

theorem State.Metered.takeFreeOf (l : Nat) (s : State) (o n : Nat) : State.Metered l s (s.takeFreeOf o n) := .updOwner l s o _ fun _ => rfl

theorem State.chargeImage_dies (s : State) (x : Launch) (y : Block) (o va n : Nat) : (s.chargeImage x y o va n).dies = s.dies := by
  refine List.foldlRecOn (motive := fun u : State => u.dies = s.dies) _ _ rfl fun u hu pc _ => ?_
  cases u.imagePa x y pc.1 with
  | none => exact hu
  | some pa => exact hu

/-- The address tables of an owner are none of its metering. -/
theorem State.imagePa_of_owners {s t : State} (h : ∀ o, (t.owner o).unmetered = (s.owner o).unmetered) (x : Launch) (y : Block) :
    t.imagePa x y = s.imagePa x y := by
  have htlb : (t.owner x.owner).tlb = (s.owner x.owner).tlb := (congrArg Owner.tlb (h x.owner) :)
  funext va
  unfold State.imagePa State.vaRead Owner.translate Owner.entry?
  rw [htlb]

/-! ### A page of an image -/

/-- The translation entries of owner `o` cover whole pages. -/
def State.WholePages (s : State) (o : Nat) : Prop := ∀ e ∈ (s.owner o).tlb, 8192 ∣ e.va ∧ 8192 ∣ e.size

theorem find?_congr_mem {α : Type} {p q : α → Bool} {l : List α} (h : ∀ a ∈ l, p a = q a) : l.find? p = l.find? q := by
  induction l with
  | nil => rfl
  | cons a l ih => rw [List.find?_cons, List.find?_cons, h a List.mem_cons_self, ih fun b hb => h b (List.mem_cons_of_mem _ hb)]

theorem State.entry?_page {s : State} {o : Nat} (h : s.WholePages o) {va i : Nat} (hi : va % 8192 + i < 8192) :
    (s.owner o).entry? (va + i) = (s.owner o).entry? va := by
  refine find?_congr_mem fun e he => ?_
  obtain ⟨⟨m, hm⟩, n, hn⟩ := h e he
  rw [← Bool.decide_and, ← Bool.decide_and, decide_eq_decide, hm, hn]
  omega

/-- The bytes of a page of an image lie one after another. -/
theorem State.imagePa_page {s : State} {x : Launch} (h : s.WholePages x.owner) (y : Block) {va i pa : Nat} (hi : va % 8192 + i < 8192)
    (hpa : s.imagePa x y va = some pa) : s.imagePa x y (va + i) = some (pa + i) := by
  have hpage : (va + i) / 8192 = va / 8192 := by omega
  have hoff : (va + i) % 8192 = va % 8192 + i := by omega
  unfold State.imagePa at hpa ⊢
  rw [hpage, hoff]
  cases hf : y.images.find? fun e => e.1 == va / 8192 * 8192 with
  | some e =>
    rw [hf] at hpa
    simp only [Option.some.injEq] at hpa ⊢
    omega
  | none =>
    rw [hf] at hpa
    simp only [State.vaRead, Owner.translate, State.entry?_page h hi] at hpa ⊢
    cases he : (s.owner x.owner).entry? va with
    | none => simp [he, Except.toOption] at hpa
    | some e =>
      have hle : e.va ≤ va := by
        have hin := List.find?_some he
        rw [Bool.and_eq_true, decide_eq_true_eq] at hin
        exact hin.1
      simp only [he, Bool.false_and, Bool.false_eq_true, if_false, Except.toOption, Option.some.injEq] at hpa ⊢
      omega

/-- A piece of a range lies in the range and in one page. -/
theorem mem_pagePieces {k va off n : Nat} {pc : Nat × Nat × Nat} (h : pc ∈ pagePieces k va off n) :
    va ≤ pc.1 ∧ pc.1 + pc.2.2 ≤ va + n ∧ pc.1 % 8192 + pc.2.2 ≤ 8192 := by
  induction k generalizing va off n with
  | zero => cases h
  | succ k ih =>
    rw [pagePieces] at h
    split at h
    · cases h
    · obtain rfl | h := List.mem_cons.mp h
      · dsimp only
        omega
      · have := ih h
        omega

theorem State.writeAll_read_other (s : State) {pa : Nat} {bs : List Byte} {a : Nat} (h : ¬(pa ≤ a ∧ a < pa + bs.length)) (view : Nat) :
    (s.writeAll pa bs).readPhys view a 1 = s.readPhys view a 1 := by
  have hview : ((s.writeAll pa bs).view view).mem = if view < s.dies.length then (s.view view).mem.write pa bs else (s.view view).mem := by
    unfold State.view State.writeAll
    simp only [List.getD_eq_getElem?_getD, List.getElem?_map]
    split
    · next hv => rw [List.getElem?_eq_getElem hv]; rfl
    · next hv => rw [List.getElem?_eq_none (Nat.not_lt.mp hv)]; rfl
  unfold State.readPhys
  rw [hview]
  split
  · exact Memory.read_write_other _ _ _ _ _ (by omega)
  · rfl

/-- Memory changes only in the image bytes of which nothing is known any more. -/
theorem State.imageSpoil_read_other {s : State} {x : Launch} {y : Block} (hw : s.WholePages x.owner) {va : Nat} {bs : List Byte} {a : Nat}
    (ha : ∀ b < bs.length, s.imagePa x y (va + b) ≠ some a) (view : Nat) :
    (s.imageSpoil x y va bs).readPhys view a 1 = s.readPhys view a 1 := by
  refine (List.foldlRecOn (motive := fun u : State => u.owners = s.owners ∧ u.readPhys view a 1 = s.readPhys view a 1) _ _ ⟨rfl, rfl⟩
    fun u hu pc hpc => ?_).2
  obtain ⟨ho, hr⟩ := hu
  have hpa : u.imagePa x y = s.imagePa x y := State.imagePa_of_owners (fun o => by rw [State.owner, State.owner, ho]) x y
  rw [hpa]
  cases hp : s.imagePa x y pc.1 with
  | none => exact ⟨ho, hr⟩
  | some pa =>
    refine ⟨ho, (State.writeAll_read_other u ?_ view).trans hr⟩
    rintro ⟨hlo, hhi⟩
    obtain ⟨h1, h2, h3⟩ := mem_pagePieces hpc
    have hlen : ((bs.drop pc.2.1).take pc.2.2).length ≤ pc.2.2 := List.length_take_le ..
    refine ha (pc.1 - va + (a - pa)) (by omega) ?_
    have hbyte := State.imagePa_page hw y (i := a - pa) (by omega) hp
    rw [show va + (pc.1 - va + (a - pa)) = pc.1 + (a - pa) by omega, hbyte, show pa + (a - pa) = a by omega]

end Sys2Proof.Machine
end

section
/-! SUPPORT. The return from a routine (R152): the lines above the window become dead, in the store and in the image. -/

namespace Sys2Proof.Machine

theorem maskWord_and (a b : Lanes) (j : Nat) : maskWord (a &&& b) j = maskWord a j &&& maskWord b j := by
  have hword (m : Lanes) : maskWord m j = m.extractLsb' (32 * j) 32 := by rw [maskWord, BitVec.extractLsb', Nat.shiftRight_eq_div_pow]
  rw [hword, hword, hword, BitVec.extractLsb'_and]

/-! ### The group after a return -/

/-- Lines are given up: what they held is gone, and nothing else. -/
theorem Group.foldl_dropLine (dead : List Nat) (z : Group) : ∃ ls st, dead.foldl Group.dropLine z = { z with lines := ls, stack := st } ∧
    ∀ key, (∀ n ∈ dead, ¬(768 * n ≤ key ∧ key < 768 * n + 768)) → st.get key = z.stack.get key := by
  induction dead generalizing z with
  | nil => exact ⟨z.lines, z.stack, rfl, fun _ _ => rfl⟩
  | cons n dead ih =>
    obtain ⟨ls, st, he, hst⟩ := ih (z.dropLine n)
    refine ⟨ls, st, he, fun key hkey => ?_⟩
    rw [hst key fun m hm => hkey m (List.mem_cons_of_mem _ hm)]
    exact (Sparse.get_clear ..).trans (if_neg (hkey n List.mem_cons_self))

/-- The path that returns to `target` with the link and the mask of the frame record. -/
def Path.returned (target : Nat) (link : Word) (mask : Lanes) (p : Path) : Path :=
  { (p.goto target).forgetLast with priv := p.priv.put 120 link, mask := mask &&& p.present }

/-- The group once its path `k` has returned to depth `d`, with the lines `dead` given up. -/
def Group.returned (k d : Nat) (dead : List Nat) (f : Path → Path) (z : Group) : Group :=
  let lost := dead.filter z.wroteLine
  let z := dead.foldl Group.dropLine z
  { z with depth := d, spilled := (z.spilled.filter fun l => !lost.contains l) ++ lost }.updPath k f

theorem Group.returned_eq (z : Group) (k d : Nat) (dead : List Nat) (f : Path → Path) : ∃ ls st sp,
    z.returned k d dead f = { z with lines := ls, stack := st, depth := d, spilled := sp }.updPath k f ∧
      ∀ key, (∀ n ∈ dead, ¬(768 * n ≤ key ∧ key < 768 * n + 768)) → st.get key = z.stack.get key := by
  obtain ⟨ls, st, he, hst⟩ := Group.foldl_dropLine dead z
  refine ⟨ls, st, (z.spilled.filter fun l => !(dead.filter z.wroteLine).contains l) ++ dead.filter z.wroteLine, ?_, hst⟩
  unfold Group.returned
  rw [he]

theorem Group.returned_index (k d : Nat) (dead : List Nat) (f : Path → Path) (z : Group) : (z.returned k d dead f).index = z.index := by
  obtain ⟨ls, st, sp, he, -⟩ := z.returned_eq k d dead f
  rw [he]
  rfl

theorem Group.returned_at {z : Group} {k : Nat} {p : Path} (hp : z.paths[k]? = some p) (d : Nat) (dead : List Nat) (f : Path → Path) :
    (z.returned k d dead f).paths[k]? = some (f p) := by
  obtain ⟨ls, st, sp, he, -⟩ := z.returned_eq k d dead f
  rw [he]
  exact Group.updPath_at (z := { z with lines := ls, stack := st, depth := d, spilled := sp }) hp f

/-- The stack lines that a return from depth `d` over `n` lines leaves above the window. -/
def deadLines (d n : Nat) : List Nat := (List.range n).map fun j => d - n + 8 + j

theorem mem_deadLines {d n l : Nat} : l ∈ deadLines d n ↔ d - n + 8 ≤ l ∧ l < d - n + 8 + n := by
  rw [deadLines, List.mem_map]
  constructor
  · rintro ⟨j, hj, rfl⟩
    have := List.mem_range.mp hj
    omega
  · rintro ⟨h1, h2⟩
    exact ⟨l - (d - n + 8), List.mem_range.mpr (by omega), by omega⟩

/-- A return keeps the registers below and above the dead lines, the operand file, the shared scalars, and the path's own below the link. -/
theorem Group.getReg_returned {z : Group} {k d n : Nat} (hn : n ≤ d) (target : Nat) (link : Word) (mask : Lanes) (l b : Nat) {r : LaneReg} {lane : Nat}
    (hl : lane < 96) (hs : ∀ m, r = .stack m → m < 8 * (d - n + 8) ∨ 8 * (d + 8) ≤ m) (hp : ∀ m, r = .scal m → m < 120) :
    (z.returned k (d - n) (deadLines d n) (Path.returned target link mask)).getReg l b k r lane = z.getReg l b k r lane := by
  obtain ⟨ls, st, sp, he, hst⟩ := z.returned_eq k (d - n) (deadLines d n) (Path.returned target link mask)
  rw [he]
  cases r with
  | stack m =>
    refine hst _ fun line hline => ?_
    have hm := hs m rfl
    have hrange := mem_deadLines.mp hline
    omega
  | oper m => rfl
  | scal m =>
    have hm := hp m rfl
    simp only [Group.getReg, readScalar, show m < 121 by omega, if_true]
    split
    · rfl
    · simp only [Group.updPath, List.getD_eq_getElem?_getD, List.getElem?_modify]
      cases z.paths[k]? with
      | none => rfl
      | some p =>
        have hother : (p.priv.put 120 link).get m = p.priv.get m := Sparse.get_put_other _ _ (by omega)
        simpa [Path.returned] using hother

/-! ### The word -/

/-- The state in which the image lines that a return leaves above the window are dead (R58). -/
def State.killLines (s : State) (c : Ctx) (dead : List Nat) : State := dead.foldl (fun s l => s.killImageLine c l) s

theorem State.Metered.killLines (l : Nat) (s : State) (c : Ctx) (dead : List Nat) : State.Metered l s (s.killLines c dead) :=
  State.Metered.foldl l _ (fun s _ => .imageSpoil l s _ _ _ _) _ s

theorem State.killLines_read_other {s : State} {c : Ctx} (hw : s.WholePages c.launch.owner) {dead : List Nat} {a : Nat}
    (ha : ∀ n ∈ dead, ∀ b < 3072,
      s.imagePa c.launch c.block (c.launch.header.ctxOf c.block.slot c.group.index + lineOff n + b) ≠ some a) (view : Nat) :
    (s.killLines c dead).readPhys view a 1 = s.readPhys view a 1 := by
  refine (List.foldlRecOn (motive := fun u : State => (∀ o, (u.owner o).unmetered = (s.owner o).unmetered) ∧
    u.readPhys view a 1 = s.readPhys view a 1) _ _ ⟨fun _ => rfl, rfl⟩ fun u hu n hn => ?_).2
  obtain ⟨ho, hr⟩ := hu
  refine ⟨fun o => ((State.Metered.imageSpoil 0 u _ _ _ _).owners o).trans (ho o), ?_⟩
  have hwu : u.WholePages c.launch.owner := by
    have htlb : (u.owner c.launch.owner).tlb = (s.owner c.launch.owner).tlb := (congrArg Owner.tlb (ho c.launch.owner) :)
    unfold State.WholePages
    rw [htlb]
    exact hw
  refine (State.imageSpoil_read_other hwu (fun b hb => ?_) view).trans hr
  rw [State.imagePa_of_owners ho]
  exact ha n hn b (by simpa using hb)

/-- The state after `ret`, which goes to `target` with the words of the frame record. -/
def State.returns (s : State) (c : Ctx) (i : Instr) (n target : Nat) (link : Word) (mask : Lanes) : State :=
  (((((s.noteIssue c i (issueOf c i 2)).chargeImage c.launch c.block c.launch.owner (c.frame c.group.depth) 32).killLines c
    (deadLines c.group.depth n)).takeFreeOf c.launch.owner 32768).updPathGroup c.ref
      (Group.returned c.ref.path (c.group.depth - n) (deadLines c.group.depth n) (Path.returned target link mask)))

theorem State.SameUnits.toMem {s t : State} (h : s.SameUnits t) : s.SameUnitsMem t := by
  obtain ⟨ls, os, g, ds, m, rfl⟩ := h
  refine ⟨ls, os, g, ds, m, s.transit, s.nextId, s.poison, fun e => e.spoiled, ?_⟩
  simp

section
variable {s : State} {c : Ctx} {i : Instr} (h : s.Issues c i) {n target : Nat} {link : Word} {mask : Lanes}
include h

/-- What a return leaves. -/
theorem State.Issues.returns : ∃ c', (s.returns c i n target link mask).ctx? c.ref = some c' ∧ s.SameBeyond (s.returns c i n target link mask) c c' ∧
    c'.group = (c.noted s i 2).returned c.ref.path (c.group.depth - n) (deadLines c.group.depth n) (Path.returned target link mask) ∧
    c'.path = Path.returned target link mask (c.path.noteIssue (issueOf c i 2) s.cycle (s.owner c.launch.owner).free) := by
  obtain ⟨d, hd, hdg, hdp⟩ := State.Within.noteIssue h.ctx i 2
  have hm : State.Metered d.ref.launch (s.noteIssue c i (issueOf c i 2))
      ((((s.noteIssue c i (issueOf c i 2)).chargeImage c.launch c.block c.launch.owner (c.frame c.group.depth) 32).killLines c
        (deadLines c.group.depth n)).takeFreeOf c.launch.owner 32768) :=
    ((State.Metered.chargeImage ..).trans (.killLines ..)).trans (.takeFreeOf ..)
  obtain ⟨x, hx, hb⟩ := hm.beyond hd.here
  have hdat : d.group.paths[c.ref.path]? = some d.path := (State.ctx?_parts hd.ctx).2.2.2.2.1
  have hlive : d.path.valid = true := (State.ctx?_parts hd.ctx).2.2.2.2.2
  have he := State.Within.updPathGroup (c := { d with launch := x }) hx
    (Group.returned c.ref.path (c.group.depth - n) (deadLines c.group.depth n) (Path.returned target link mask))
    (fun z => z.returned_index ..) (p := Path.returned target link mask d.path) (by rw [hd.ref]; exact Group.returned_at hdat ..) hlive
  have hr : d.ref = c.ref := hd.ref
  rw [hr] at hx hb he
  refine ⟨_, he.ctx, State.SameBeyond.trans (d := ⟨c.ref, x, d.block, d.group, d.path⟩) rfl (hd.beyond.trans hd.ref hb) he.beyond, ?_, ?_⟩
  · exact congrArg (fun z => Group.returned c.ref.path _ _ _ z) hdg
  · exact congrArg (Path.returned target link mask) hdp

end

/-- The words of the frame record that the window of `c` stands on. -/
def State.frameWords (s : State) (c : Ctx) : List Word := bytesWords 8 (s.imageRead c.launch c.block c.group.core (c.frame c.group.depth) 32)

/-- The slide that the frame record names. -/
def State.frameSlide (s : State) (c : Ctx) : Nat := bits ((s.frameWords c).getD 4 0).toNat 3 0

/-- Where `ret` goes: to the link, in the region of its own clause. -/
def State.returnTarget (s : State) (c : Ctx) : Nat := c.path.pc / 2 ^ 32 * 2 ^ 32 + (s.readReg c (.scal 120) 0 0 s.cycle).toNat

/-- The mask that the frame record holds. -/
def State.frameMask (s : State) (c : Ctx) : Lanes := ofMaskWords ((s.frameWords c).getD 0 0) ((s.frameWords c).getD 1 0) ((s.frameWords c).getD 2 0)

theorem State.Issues.exec_ret {s : State} {c : Ctx} {st : BitVec 2} (h : s.Issues c (.ret st)) : exec (.ret st) s = .next (
    if 1 < c.group.livePaths then s.illegal c 32
    else if s.framePending c ≠ [] then s.setStatus c.ref (.waiting (.drain (s.framePending c)))
    else if s.pumpHeld c.launch then s.heldByCap c.ref
    else if s.frameSlide c = 0 ∨ 9 ≤ s.frameSlide c ∨ c.group.depth < s.frameSlide c then s.illegal c 34
    else s.returns c (.ret st) (s.frameSlide c) (s.returnTarget c) ((s.frameWords c).getD 3 0) (s.frameMask c)) :=
  h.word _

section
variable {s : State} {c : Ctx} {i : Instr} (h : s.Issues c i) {n target : Nat} {link : Word} {mask : Lanes}
include h

/-- A return that goes on: its path, its group, and what stands as it was. -/
theorem State.Issues.returns_spec (hn : n ≤ c.group.depth) : ∃ c', (s.returns c i n target link mask).ctx? c.ref = some c' ∧
    c.Jumped s i 2 (target % 2 ^ 64) c' ∧ s.SameBeyond (s.returns c i n target link mask) c c' ∧ c.SameFlags c' ∧
    c'.path.l0Def = false ∧ c'.path.l1Def = false ∧ c'.group.depth = c.group.depth - n ∧ c'.path.priv.get 120 = link ∧
    c'.path.mask = mask &&& c.path.present ∧ c'.path.present = c.path.present ∧
    ∀ r lane, lane < 96 → (∀ m, r = .stack m → m < 8 * (c.group.depth - n + 8) ∨ 8 * (c.group.depth + 8) ≤ m) → (∀ m, r = .scal m → m < 120) →
      c'.reg r lane = c.reg r lane := by
  obtain ⟨c', hc, hb, hg, hp⟩ := h.returns (n := n) (target := target) (link := link) (mask := mask)
  obtain ⟨ls, st, sp, he, -⟩ := (c.noted s i 2).returned_eq c.ref.path (c.group.depth - n) (deadLines c.group.depth n) (Path.returned target link mask)
  have hg' := hg.trans he
  refine ⟨c', hc, ⟨?_, ?_, ?_, ?_⟩, hb, ?_, ?_, ?_, ?_, ?_, ?_, ?_, fun r lane hl hs hr => ?_⟩
  · rw [hp]
    exact ⟨rfl, rfl⟩
  · rw [hp]
    rfl
  · rw [hp]
    rfl
  · rw [hp]
    exact h.live
  · rw [Ctx.SameFlags, hg']
    rfl
  · rw [hp]
    rfl
  · rw [hp]
    rfl
  · rw [hg']
    rfl
  · rw [hp]
    exact Sparse.get_put_same ..
  · rw [hp]
    rfl
  · rw [hp]
    rfl
  · rw [Ctx.reg, (State.ctx?_parts hc).1, hg, Group.getReg_returned hn _ _ _ _ _ hl hs hr, Ctx.noted_getReg]
    rfl

/-- Memory changes only in the image lines that become dead. -/
theorem State.Issues.returns_read_other (hr : c.launch.replay = none) (hw : s.WholePages c.launch.owner) {view a : Nat}
    (ha : ∀ l ∈ deadLines c.group.depth n, ∀ b < 3072,
      s.imagePa c.launch c.block (c.launch.header.ctxOf c.block.slot c.group.index + lineOff l + b) ≠ some a) :
    (s.returns c i n target link mask).readPhys view a 1 = s.readPhys view a 1 := by
  obtain ⟨d, hd, -, -⟩ := State.Within.noteIssue h.ctx i 2
  let u := (s.noteIssue c i (issueOf c i 2)).chargeImage c.launch c.block c.launch.owner (c.frame c.group.depth) 32
  have ho (o : Nat) : (u.owner o).unmetered = (s.owner o).unmetered := ((State.Metered.chargeImage 0 _ _ _ _ _ _).owners o).trans (hd.beyond.owners o)
  have hdies : u.dies = s.dies := (State.chargeImage_dies ..).trans (hd.dies hr)
  have htlb : (u.owner c.launch.owner).tlb = (s.owner c.launch.owner).tlb := (congrArg Owner.tlb (ho c.launch.owner) :)
  have hwu : u.WholePages c.launch.owner := by
    rw [State.WholePages, htlb]
    exact hw
  have hkill := State.killLines_read_other (s := u) (c := c) hwu (dead := deadLines c.group.depth n) (a := a)
    (by rw [State.imagePa_of_owners ho]; exact ha) view
  exact hkill.trans (State.readPhys_congr hdies view a 1)

end

theorem State.SameUnits.returns (s : State) (c : Ctx) (i : Instr) (n target : Nat) (link : Word) (mask : Lanes) : s.SameUnits (s.returns c i n target link mask) :=
  ((State.SameUnits.noteIssue s c i _).trans (((State.Metered.chargeImage 0 _ _ _ _ _ _).trans (.killLines 0 _ _ _)).trans
    (.takeFreeOf 0 _ _ _)).units).trans (.updPathGroup _ _ _)

/-- Settles O8: the refusals and the wait come first, in their order; what goes on reads the frame record as it stands before the word. -/
theorem returnWord : Obligations.Return := by
  unfold Obligations.Return
  intro s c st h d ws n
  have hn : s.frameSlide c = n := by simp [State.frameSlide, bits, n, ws, d, State.frameWords]
  rw [h.exec_ret, hn]
  refine ⟨fun h1 => congrArg _ (if_pos h1), fun h1 h2 => ?_, fun h1 h2 h3 => ?_, fun h1 h2 h3 h4 => ?_, fun h1 h2 h3 h4 h5 h6 => ?_⟩
  all_goals have hone : ¬1 < c.group.livePaths := Nat.not_lt.mpr h1
  · rw [if_neg hone, if_pos h2]
  · rw [if_neg hone, if_neg (not_not.mpr h2), if_pos h3]
  · have hslide : n = 0 ∨ 9 ≤ n ∨ c.group.depth < n := h4
    rw [if_neg hone, if_neg (not_not.mpr h2), if_neg (by simp [h3]), if_pos hslide]
  · have hslide : ¬(n = 0 ∨ 9 ≤ n ∨ c.group.depth < n) := by
      rintro (h | h | h)
      · omega
      · omega
      · exact absurd h6 (Nat.not_le.mpr h)
    rw [if_neg hone, if_neg (not_not.mpr h2), if_neg (by simp [h3]), if_neg hslide]
    obtain ⟨c', hc, hj, hb, hf, hl0, hl1, hd, hlink, hmask, hpresent, hregs⟩ := h.returns_spec (target := s.returnTarget c)
      (link := (s.frameWords c).getD 3 0) (mask := s.frameMask c) h6
    refine ⟨_, c', rfl, hc, hj, hb, (State.SameUnits.returns ..).toMem, hf, hl0, hl1, hd, hlink, fun j hj => ?_, hpresent, hregs,
      fun hrep hw view a ha => h.returns_read_other hrep hw fun l hl b hb => ?_⟩
    · rw [hmask, maskWord_and, State.frameMask, maskWord_ofMaskWords]
      obtain rfl | rfl | rfl : j = 0 ∨ j = 1 ∨ j = 2 := by omega
      · rfl
      · rfl
      · rfl
    · obtain ⟨j, hj, rfl⟩ := List.mem_map.mp hl
      exact ha j (List.mem_range.mp hj) b hb

end Sys2Proof.Machine
end

section
/-! SUPPORT. The frame record that `call` writes (R151, R153): what a store of the group leaves in its group, outside it, and in memory. -/

namespace Sys2Proof.Machine

/-! ### What the write of a store changes -/

theorem State.SameUnitsMem.trans {s t u : State} (h : s.SameUnitsMem t) (k : t.SameUnitsMem u) : s.SameUnitsMem u := by
  obtain ⟨ls, os, g, ds, m, tr, id, ps, lost, rfl⟩ := h
  obtain ⟨ls', os', g', ds', m', tr', id', ps', lost', rfl⟩ := k
  exact ⟨ls', os', g', ds', m', tr', id', ps', fun e => lost' { e with spoiled := lost e }, by simp⟩

/-- `t` differs from `s` in memory with its marks, writes in transit, the output of running job cards, and metering. -/
structure State.MemoryWrites (s t : State) : Prop where
  units : s.SameUnitsMem t
  launches : t.launches = s.launches
  owners : ∀ o, (t.owner o).unmetered = (s.owner o).unmetered

theorem State.MemoryWrites.refl (s : State) : s.MemoryWrites s := ⟨(State.Metered.rfl' 0 s).units.toMem, rfl, fun _ => rfl⟩

theorem State.MemoryWrites.trans {s t u : State} (h : s.MemoryWrites t) (k : t.MemoryWrites u) : s.MemoryWrites u :=
  ⟨h.units.trans k.units, k.launches.trans h.launches, fun o => (k.owners o).trans (h.owners o)⟩

theorem State.MemoryWrites.updOwner (s : State) (o : Nat) {f : Owner → Owner} (hf : ∀ w, (f w).unmetered = w.unmetered) :
    s.MemoryWrites (s.updOwner o f) :=
  have h := State.Metered.updOwner 0 s o f hf
  ⟨h.units.toMem, rfl, h.owners⟩

theorem State.MemoryWrites.charge (s : State) (o pa n : Nat) : s.MemoryWrites (s.charge o pa n) :=
  ⟨(State.Metered.charge 0 s o pa n).units.toMem, rfl, (State.Metered.charge 0 s o pa n).owners⟩

theorem State.MemoryWrites.writeAll (s : State) (pa : Nat) (bs : List Byte) : s.MemoryWrites (s.writeAll pa bs) :=
  ⟨(State.Metered.writeAll 0 s pa bs).units.toMem, rfl, fun _ => rfl⟩

/-- A state that differs in memory, writes in transit and their numbers. -/
theorem State.MemoryWrites.inTransit (s : State) (ds : List Die) (tr : List Transit) (m id : Nat) :
    s.MemoryWrites { s with dies := ds, transit := tr, moment := m, nextId := id } :=
  ⟨⟨s.launches, s.owners, s.governor, ds, m, tr, id, s.poison, fun e => e.spoiled, by simp⟩, rfl, fun _ => rfl⟩

theorem State.SameButMemory.memoryWrites {s t : State} (h : s.SameButMemory t) : s.MemoryWrites t := by
  obtain ⟨ds, tr, m, rfl⟩ := h
  exact .inTransit s ds tr m s.nextId

theorem State.MemoryWrites.carryTo (s : State) (vs : List Nat) (sel : Transit → Bool) : s.MemoryWrites (s.carryTo vs sel) := by
  rw [State.carryTo_eq]
  exact (((State.SameButMemory.refl s).foldl fun u t => u.sameButMemory_applyAll s.moment vs t).trans (State.sameButMemory_settle _ _)).memoryWrites

theorem State.MemoryWrites.enter (s : State) (vs : List Nat) (t : Transit) : s.MemoryWrites (s.enter vs t) :=
  (State.MemoryWrites.inTransit s s.dies (s.transit ++ [s.stamped t]) (s.moment + 1) (s.nextId + 1)).trans
    ((State.sameButMemory_applyAll _ _ _ _).trans (State.sameButMemory_settle _ _)).memoryWrites

theorem State.MemoryWrites.launchWrite (s : State) (vs : List Nat) (t : Transit) : s.MemoryWrites (s.launchWrite vs t) := by
  rw [State.launchWrite_eq]
  refine State.MemoryWrites.trans ?_ (.enter ..)
  split
  · exact .refl s
  · exact .carryTo ..

theorem State.MemoryWrites.clearPoison (s : State) (rs : List (Nat × Nat)) : s.MemoryWrites (s.clearPoison rs) :=
  ⟨⟨s.launches, s.owners, s.governor, s.dies, s.moment, s.transit, s.nextId, (s.clearPoison rs).poison, fun e => e.spoiled, by simp [State.clearPoison]⟩,
    rfl, fun _ => rfl⟩

theorem State.MemoryWrites.foldl {α : Type} {f : State → α → State} (hf : ∀ s a, State.MemoryWrites s (f s a)) (as : List α) (s : State) :
    s.MemoryWrites (as.foldl f s) :=
  List.foldlRecOn (motive := s.MemoryWrites) as f (.refl s) fun u hu a _ => hu.trans (hf u a)

/-- Output of job cards is noted as written over. -/
theorem State.MemoryWrites.spoiled (s : State) (lost : EngineRec → List Nat) :
    s.MemoryWrites { s with records := s.records.map fun e => { e with spoiled := lost e } } :=
  ⟨⟨s.launches, s.owners, s.governor, s.dies, s.moment, s.transit, s.nextId, s.poison, lost, rfl⟩, rfl, fun _ => rfl⟩

theorem State.MemoryWrites.spoilCards (s : State) (o : Op) (addr : Nat) (bs : List Byte) : s.MemoryWrites (s.spoilCards o addr bs).1 := by
  unfold State.spoilCards
  extract_lets hits bad bs' t u
  split
  · exact .refl s
  · refine State.MemoryWrites.trans (t := t) (.spoiled s _) (State.MemoryWrites.trans (t := u) ?_ (.updOwner _ _ fun _ => rfl))
    unfold u
    split
    · exact .refl t
    · exact .foldl (fun _ _ => .writeAll ..) _ t

/-- A write of device memory that meets no output of a job card spoils nothing. -/
theorem State.spoilCards_of_free {s : State} {o : Op} {addr : Nat} {bs : List Byte}
    (h : ∀ e ∈ s.records, ∀ i < bs.length, s.cardOffsets e o.sp o.path.launch o.path.block (addr + i) = []) : s.spoilCards o addr bs = (s, bs) := by
  refine if_pos (List.isEmpty_iff.mpr (List.filter_eq_nil_iff.mpr fun i hi => ?_))
  simp only [List.any_eq_true, Bool.not_eq_true', List.isEmpty_eq_false_iff, not_exists, not_and, not_not]
  exact fun e he => h e he i (List.mem_range.mp hi)

/-- A store writes bytes of device memory, before its group remembers the access. -/
def State.storeWrite (s : State) (o : Op) (lane addr : Nat) (bs : List Byte) : State :=
  let q := s.spoilCards o addr bs
  (q.1.charge o.owner addr q.2.length).writeOrdinary o.path (if o.uniform then 96 else lane) (q.1.opDie o) addr q.2
    (q.1.closed (q.1.opPreds o addr q.2.length ++ []))

theorem State.MemoryWrites.storeWrite (s : State) (o : Op) (lane addr : Nat) (bs : List Byte) : s.MemoryWrites (s.storeWrite o lane addr bs) :=
  ((State.MemoryWrites.spoilCards s o addr bs).trans (.charge ..)).trans (.launchWrite ..)

/-- An ordinary store of device memory. -/
structure Op.PlainStore (o : Op) (r : PathRef) : Prop where
  kind : o.kind = .store
  space : o.sp = false
  path : o.path = r

/-- A group remembers a write of its path `k`. -/
def Group.notesWrite (k : Nat) (d : Done) (e : Trace) (z : Group) : Group := { z with wrote := z.wrote ++ [d] }.updPath k fun p => p.traceAccess e

theorem State.opWrite_store {o : Op} {r : PathRef} (h : o.PlainStore r) (s : State) (lane addr : Nat) (bs : List Byte) :
    ∃ d e, s.opWrite o lane addr bs = (s.storeWrite o lane addr bs).updPathGroup r (Group.notesWrite r.path d e) := by
  have hn (u : State) (a n m : Nat) (read wrote : List Nat) : u.noteAccess o a n m read wrote =
      u.updPathGroup r (Group.notesWrite r.path ⟨o.id + 1, m, u.closed wrote⟩ ⟨o.sp, a, n, u.closed (read ++ wrote), m⟩) := by
    rw [State.noteAccess, h.kind, h.path]
    rfl
  unfold State.opWrite State.storeWrite
  simp only [h.kind, h.space, Bool.false_eq_true, if_false]
  exact ⟨_, _, hn ..⟩

/-! ### What a store leaves in its group -/

/-- A group without its paths, and what a store of it changes: the order of later accesses and the counters. -/
def Group.unstored (z : Group) : Group := { z with reads := [], wrote := [], sb := [], paths := [] }

/-- `t` is `s` after the group of `c` has stored, and `d` is the path's context then. -/
structure State.Stores (s : State) (c : Ctx) (t : State) (d : Ctx) : Prop where
  ctx : t.ctx? c.ref = some d
  beyond : s.SameBeyond t c d
  replay : c.launch.replay = none → d.launch.replay = none
  group : d.group.unstored = c.group.unstored
  counters : ∀ j < 6, d.group.sbCount j = c.group.sbCount j
  path : ∃ own, d.path = { c.path with own := own }

theorem State.Stores.ref {s t : State} {c d : Ctx} (h : s.Stores c t d) : d.ref = c.ref := (State.ctx?_parts h.ctx).1

theorem State.Stores.here {s t : State} {c d : Ctx} (h : s.Stores c t d) : t.ctx? d.ref = some d := h.ref.symm ▸ h.ctx

theorem State.Stores.trans {s t u : State} {c d e : Ctx} (h : s.Stores c t d) (k : t.Stores d u e) : s.Stores c u e where
  ctx := h.ref ▸ k.ctx
  beyond := h.beyond.trans h.ref k.beyond
  replay hn := k.replay (h.replay hn)
  group := k.group.trans h.group
  counters j hj := (k.counters j hj).trans (h.counters j hj)
  path := by
    obtain ⟨own, hd⟩ := h.path
    obtain ⟨own', he⟩ := k.path
    exact ⟨own', by rw [he, hd]⟩

/-- What changes no launch changes nothing of the group. -/
theorem State.Stores.ofMemory {s t : State} {c : Ctx} (hc : s.ctx? c.ref = some c) (h : s.MemoryWrites t) : s.Stores c t c where
  ctx := (State.ctx?_congr h.launches _).trans hc
  beyond := ⟨h.owners, fun l b g _ => State.group?_congr h.launches l b g, fun l _ => by rw [State.launch?, h.launches, State.launch?], rfl, rfl⟩
  replay := id
  group := rfl
  counters _ _ := rfl
  path := ⟨c.path.own, rfl⟩

/-- The group remembers an access, or counts a store. -/
theorem State.Stores.updPathGroup {s : State} {c : Ctx} (hc : s.ctx? c.ref = some c) (f : Group → Group) (hi : ∀ z : Group, (f z).index = z.index)
    {own : List Trace} (hp : (f c.group).paths[c.ref.path]? = some { c.path with own := own }) (hz : (f c.group).unstored = c.group.unstored)
    (hs : ∀ j < 6, (f c.group).sbCount j = c.group.sbCount j) :
    s.Stores c (s.updPathGroup c.ref f) (c.withGroup f { c.path with own := own }) :=
  have h := State.Within.updPathGroup hc f hi hp (State.ctx?_parts hc).2.2.2.2.2
  ⟨h.ctx, h.beyond, h.replay, hz, hs, own, rfl⟩

theorem State.Stores.opWrite {s : State} {c : Ctx} (hc : s.ctx? c.ref = some c) {o : Op} (ho : o.PlainStore c.ref) (lane addr : Nat) (bs : List Byte) :
    ∃ d, s.Stores c (s.opWrite o lane addr bs) d := by
  obtain ⟨d, e, he⟩ := State.opWrite_store ho s lane addr bs
  have hw := State.Stores.ofMemory hc (.storeWrite s o lane addr bs)
  have hp : (Group.notesWrite c.ref.path d e c.group).paths[c.ref.path]? = some (c.path.traceAccess e) :=
    Group.updPath_at (z := { c.group with wrote := c.group.wrote ++ [d] }) (State.ctx?_parts hc).2.2.2.2.1 _
  rw [he]
  exact ⟨_, hw.trans (.updPathGroup hw.ctx (Group.notesWrite c.ref.path d e) (fun _ => rfl) hp rfl fun _ _ => rfl)⟩

theorem State.SameUnitsMem.opWrite {o : Op} {r : PathRef} (ho : o.PlainStore r) (s : State) (lane addr : Nat) (bs : List Byte) :
    s.SameUnitsMem (s.opWrite o lane addr bs) := by
  obtain ⟨d, e, he⟩ := State.opWrite_store ho s lane addr bs
  rw [he]
  exact (State.MemoryWrites.storeWrite ..).units.trans (State.SameUnits.updPathGroup ..).toMem

/-- The writes of a store, in the order of its lanes. -/
def State.storeLanes (s : State) (o : Op) (es : List (Nat × Nat × DWord × DWord)) : State :=
  es.foldl (fun s e => s.opWrite o e.1 e.2.1 (leBytes o.width e.2.2.1.toNat)) s

theorem State.performStore_eq {o : Op} {r : PathRef} (h : o.PlainStore r) (s : State) :
    s.performStore o = (s.storeLanes o (lastLanes o.lanes)).clearPoison (o.lanes.map fun e => (e.2.1, o.width)) := by
  simp only [State.performStore, State.opTouched, State.opClearPoison, h.space, Bool.false_eq_true, if_false]
  rfl

theorem State.Stores.performStore {s : State} {c : Ctx} (hc : s.ctx? c.ref = some c) {o : Op} (ho : o.PlainStore c.ref) :
    ∃ d, s.Stores c (s.performStore o) d := by
  rw [State.performStore_eq ho]
  obtain ⟨d, hd⟩ : ∃ d, s.Stores c (s.storeLanes o (lastLanes o.lanes)) d := by
    refine List.foldlRecOn (motive := fun u : State => ∃ d, s.Stores c u d) _ _ ⟨c, .ofMemory hc (.refl s)⟩ fun u ⟨d, hd⟩ e _ => ?_
    obtain ⟨d', hd'⟩ := State.Stores.opWrite hd.here (hd.ref.symm ▸ ho) e.1 e.2.1 (leBytes o.width e.2.2.1.toNat)
    exact ⟨d', hd.trans hd'⟩
  exact ⟨d, hd.trans (.ofMemory hd.here (.clearPoison ..))⟩

theorem State.SameUnitsMem.performStore {o : Op} {r : PathRef} (ho : o.PlainStore r) (s : State) : s.SameUnitsMem (s.performStore o) := by
  rw [State.performStore_eq ho]
  refine State.SameUnitsMem.trans (t := s.storeLanes o (lastLanes o.lanes)) ?_ (State.MemoryWrites.clearPoison ..).units
  exact List.foldlRecOn (motive := s.SameUnitsMem) _ _ (State.MemoryWrites.refl s).units fun u hu e _ => hu.trans (.opWrite ho ..)

/-- A store of no counter that waits enters flight. -/
theorem State.Stores.startOp {s : State} {c : Ctx} (hc : s.ctx? c.ref = some c) {o : Op} (hs : o.sb = 6) :
    ∃ d, s.Stores c (s.startOp c o [] 0) d := by
  obtain ⟨f, hf, he⟩ := s.startOp_eq c o [] 0
  let u : State := { s with ops := s.ops ++ [{ o with id := s.nextId }], nextId := s.nextId + 1 }
  have hu : State.Metered 0 u (u.updOwner o.owner f) := .updOwner 0 u o.owner f hf
  have h1 : s.Stores c (u.updOwner o.owner f) c :=
    ⟨hc, ⟨hu.owners, fun _ _ _ _ => rfl, fun _ _ => rfl, rfl, rfl⟩, id, rfl, fun _ _ => rfl, c.path.own, rfl⟩
  have hp := (State.ctx?_parts hc).2.2.2.2.1
  have h2 := State.Stores.updPathGroup h1.ctx (fun z => (z.sbRise o.sb).markUnseen s.nextId c.ref.path o.sb [] 0) (fun _ => rfl) (own := c.path.own) hp
    (by simp [Group.unstored, Group.markUnseen, Group.sbRise, Group.sbSet])
    (fun j hj => by
      simp only [Group.markUnseen, Group.sbRise, Group.sbSet, Group.sbCount, hs, List.getD_eq_getElem?_getD]
      rw [List.getElem?_set_ne (by omega)])
  rw [he]
  exact ⟨_, h1.trans h2⟩

end Sys2Proof.Machine
end

section
/-! SUPPORT. A store of a group in memory (R196, R259): where it meets no output of a job card and every earlier write has reached its die, the view of
its die takes the bytes of its lanes, one after the other. -/

namespace Sys2Proof.Machine

/-! ### Writes that have reached a view -/

/-- View `v` has applied every write in transit. -/
def State.Landed (s : State) (v : Nat) : Prop := ∀ t ∈ s.transit, v ∈ t.applied

theorem State.Landed.transitOf {s : State} {v : Nat} (h : s.Landed v) {t : Transit} (ht : t ∈ s.transit) : v ∈ (s.transitOf t).applied := by
  unfold State.transitOf
  cases hf : s.transit.find? fun u => u.id == t.id with
  | none => exact h t ht
  | some u => exact h u (List.mem_of_find?_eq_some hf)

/-- Carrying writes to a view that holds them passes a moment. -/
theorem State.Landed.carryTo {s : State} {v : Nat} (h : s.Landed v) (sel : Transit → Bool) :
    s.carryTo [v] sel = { s.settle with moment := s.moment + 1 } := by
  have hf (ts : List Transit) (hts : ∀ t ∈ ts, t ∈ s.transit) : ts.foldl (fun u t => u.applyAll s.moment [v] t) s = s :=
    List.foldlRecOn (motive := fun u : State => u = s) ts _ rfl fun u hu t ht => by
      subst hu
      exact State.applyAt_of_applied _ (h.transitOf (hts t ht))
  rw [State.carryTo_eq, hf _ fun t ht => (List.mem_filter.mp ht).1]

theorem State.Landed.settle {s : State} {v : Nat} (h : s.Landed v) : s.settle.Landed v := fun t ht => h t (List.mem_filter.mp ht).1

theorem State.EndsBy.settle {s : State} {pa : Nat} (h : s.EndsBy pa) : s.settle.EndsBy pa := fun u hu => h u (List.mem_filter.mp hu).1

/-- A new write has reached the view that it enters at. -/
theorem State.Landed.enter {s : State} {v : Nat} (h : s.Landed v) (hs : ∀ u ∈ s.transit, u.id < s.nextId) (t : Transit) : (s.enter [v] t).Landed v := by
  rw [State.enter_one hs]
  refine State.Landed.settle fun u hu => ?_
  unfold State.applyAt at hu
  split at hu
  next hc =>
    obtain hu | hu := List.mem_append.mp hu
    · exact h u hu
    · exact List.mem_singleton.mp hu ▸ List.contains_iff_mem.mp hc
  next =>
    obtain ⟨w, hw, rfl⟩ := List.mem_map.mp hu
    obtain hw | hw := List.mem_append.mp hw
    · split
      · exact List.mem_append_left _ (h w hw)
      · exact h w hw
    · rw [List.mem_singleton.mp hw, if_pos rfl]
      exact List.mem_append_right _ List.mem_cons_self

theorem State.enter_dies_length {s : State} (hs : ∀ u ∈ s.transit, u.id < s.nextId) (v : Nat) (t : Transit) :
    (s.enter [v] t).dies.length = s.dies.length := by
  rw [State.enter_one hs]
  exact State.applyAt_dies_length ..

/-- View `v` of `t` has taken `bs` from `pa` on, which only writes in transit that end there follow: `s` was as `t` is, but for these bytes. -/
structure State.Takes (s t : State) (v pa : Nat) (bs : List Byte) : Prop where
  writes : s.Writes t v pa bs
  ends : t.EndsBy (pa + bs.length)
  landed : t.Landed v
  dies : t.dies.length = s.dies.length

theorem State.Takes.congr {s t u : State} {v pa : Nat} {bs : List Byte} (h : s.Takes t v pa bs) (hd : u.dies = t.dies) (ht : u.transit = t.transit)
    (hn : u.nextId = t.nextId) : s.Takes u v pa bs :=
  ⟨h.writes.congr hd, h.ends.congr ht hn, fun w hw => h.landed w (ht ▸ hw), hd ▸ h.dies⟩

theorem State.Takes.updPathGroup {s t : State} {v pa : Nat} {bs : List Byte} (h : s.Takes t v pa bs) (r : PathRef) (f : Group → Group) :
    s.Takes (t.updPathGroup r f) v pa bs := h.congr rfl rfl rfl

theorem State.Takes.since {s s' t : State} {v pa : Nat} {bs : List Byte} (h : s.Takes t v pa bs) (hd : s.dies = s'.dies) : s'.Takes t v pa bs :=
  ⟨fun view q => by rw [h.writes view q, State.view_congr hd], h.ends, h.landed, h.dies.trans (by rw [hd])⟩

theorem State.Takes.append {s t u : State} {v pa : Nat} {as bs : List Byte} (h : s.Takes t v pa as) (k : t.Takes u v (pa + as.length) bs) :
    s.Takes u v pa (as ++ bs) where
  writes := h.writes.append rfl k.writes
  ends := by rw [List.length_append, ← Nat.add_assoc]; exact k.ends
  landed := k.landed
  dies := k.dies.trans h.dies

/-- An ordinary write of the view's own die, which comes after writes that the view holds. -/
theorem State.Takes.writeOrdinary {s : State} {v pa : Nat} (hs : s.EndsBy pa) (hl : s.Landed v) (hv : v < s.dies.length) (p : PathRef) (lane : Nat)
    (bs : List Byte) (preds : List Nat) : s.Takes (s.writeOrdinary p lane v pa bs preds) v pa bs := by
  let t := blankWrite p lane v pa bs preds
  have henter {u : State} (hd : u.dies = s.dies) (hu : u.EndsBy pa) (hul : u.Landed v) : s.Takes (u.enter [v] t) v pa bs := by
    obtain ⟨hw, he⟩ := State.enter_writes (s := u) (v := v) (t := t) rfl rfl (hd ▸ hv) hu
    refine ⟨fun view q => ?_, he, hul.enter (fun w hw => (hu w hw).1) t, (State.enter_dies_length (fun w hw => (hu w hw).1) v t).trans (by rw [hd])⟩
    rw [hw view q, State.view_congr hd]
    rfl
  show s.Takes (s.launchWrite [v] t) v pa bs
  rw [State.launchWrite_eq]
  split
  · exact henter rfl hs hl
  · rw [hl.carryTo]
    exact henter (u := { s.settle with moment := s.moment + 1 }) rfl hs.settle hl.settle

/-! ### The lanes of a store -/

theorem State.SameButMemory.records {s t : State} (h : s.SameButMemory t) : t.records = s.records := by
  obtain ⟨ds, tr, m, rfl⟩ := h
  rfl

theorem State.carryTo_records (s : State) (vs : List Nat) (sel : Transit → Bool) : (s.carryTo vs sel).records = s.records := by
  rw [State.carryTo_eq]
  exact (((State.SameButMemory.refl s).foldl fun u t => u.sameButMemory_applyAll s.moment vs t).trans (State.sameButMemory_settle _ _)).records

theorem State.launchWrite_records (s : State) (vs : List Nat) (t : Transit) : (s.launchWrite vs t).records = s.records := by
  rw [State.launchWrite_eq]
  refine ((State.sameButMemory_applyAll _ _ _ _).trans (State.sameButMemory_settle _ _)).records.trans ?_
  show (if t.preds.isEmpty then s else s.carryTo vs fun u => t.preds.contains u.id).records = s.records
  split
  · rfl
  · exact State.carryTo_records ..

theorem State.storeWrite_records {s : State} {o : Op} {addr : Nat} {bs : List Byte} (h : s.spoilCards o addr bs = (s, bs)) (lane : Nat) :
    (s.storeWrite o lane addr bs).records = s.records := by
  rw [State.storeWrite, h]
  exact State.launchWrite_records (s.charge o.owner addr bs.length) _ _

theorem State.cardOffsets_of_owners {s t : State} (h : ∀ o, (t.owner o).unmetered = (s.owner o).unmetered) (e : EngineRec) (sp : Bool) (l b addr : Nat) :
    t.cardOffsets e sp l b addr = s.cardOffsets e sp l b addr := by
  have htlb : (t.owner e.owner).tlb = (s.owner e.owner).tlb := (congrArg Owner.tlb (h e.owner) :)
  unfold State.cardOffsets State.vaRead Owner.translate Owner.entry?
  rw [htlb]

/-- The group of `c` has written `bs` from `pa` on, at the view of its die: `t` is `s` but for that. -/
structure State.Records (s : State) (c : Ctx) (t : State) (pa : Nat) (bs : List Byte) : Prop where
  stores : ∃ d, s.Stores c t d
  takes : s.Takes t (dieOf c.group.core) pa bs
  records : t.records = s.records

theorem State.Records.nothing {s : State} {c : Ctx} (hc : s.ctx? c.ref = some c) (ht : s.transit = []) (pa : Nat) : s.Records c s pa [] where
  stores := ⟨c, .ofMemory hc (.refl s)⟩
  takes := ⟨.nothing _ _ rfl, fun _ hu => absurd (ht ▸ hu) List.not_mem_nil, fun _ hu => absurd (ht ▸ hu) List.not_mem_nil, rfl⟩
  records := rfl

/-- A lane of a store writes the bytes that follow. -/
theorem State.Records.opWrite {s t : State} {c : Ctx} {pa : Nat} {as : List Byte} (h : s.Records c t pa as) (hd : dieOf c.group.core < s.dies.length)
    {o : Op} (ho : o.PlainStore c.ref) (lane : Nat) {bs : List Byte}
    (hcards : ∀ e ∈ s.records, ∀ i < bs.length, s.cardOffsets e false c.ref.launch c.ref.block (pa + as.length + i) = []) :
    s.Records c (t.opWrite o lane (pa + as.length) bs) pa (as ++ bs) := by
  obtain ⟨d, hst⟩ := h.stores
  obtain ⟨d', hst'⟩ := State.Stores.opWrite hst.here (o := o) (hst.ref.symm ▸ ho) lane (pa + as.length) bs
  have hspoil : t.spoilCards o (pa + as.length) bs = (t, bs) := State.spoilCards_of_free fun e he i hi => by
    rw [ho.space, ho.path, State.cardOffsets_of_owners hst.beyond.owners]
    exact hcards e (h.records ▸ he) i hi
  have hcore : d.group.core = c.group.core := (congrArg Group.core hst.group :)
  have hdie : t.opDie o = dieOf c.group.core := by
    rw [State.opDie, ho.path, State.group?_of_ctx? hst.ctx, ← hcore]
    rfl
  let u := t.charge o.owner (pa + as.length) bs.length
  have hu : u.dies = t.dies ∧ u.transit = t.transit ∧ u.nextId = t.nextId := ⟨rfl, rfl, rfl⟩
  obtain ⟨dn, e, he⟩ := State.opWrite_store ho t lane (pa + as.length) bs
  have hw : t.storeWrite o lane (pa + as.length) bs = u.writeOrdinary o.path (if o.uniform then 96 else lane) (dieOf c.group.core) (pa + as.length) bs
      (t.closed (t.opPreds o (pa + as.length) bs.length ++ [])) := by
    rw [← hdie, State.storeWrite, hspoil]
  have hk : u.Takes (t.storeWrite o lane (pa + as.length) bs) (dieOf c.group.core) (pa + as.length) bs := by
    rw [hw]
    exact .writeOrdinary (h.takes.ends.congr hu.2.1 hu.2.2) h.takes.landed (by rw [hu.1, h.takes.dies]; exact hd) _ _ _ _
  refine ⟨⟨d', hst.trans hst'⟩, ?_, ?_⟩
  · rw [he]
    exact (h.takes.append (hk.since hu.1)).updPathGroup _ _
  · rw [he]
    rw [State.updPathGroup_records, State.storeWrite_records hspoil lane]
    exact h.records

end Sys2Proof.Machine
end

section
/-! SUPPORT. The call of a routine (R151): the frame record of the group, and the path and group that go on. -/

namespace Sys2Proof.Machine

/-! ### The store of the frame record -/

theorem State.frameOp_plain (s : State) (c : Ctx) (depth : Nat) (ws : List Word) : (s.frameOp c depth ws).PlainStore c.ref := ⟨rfl, rfl, rfl⟩

/-- What the store waits for does not depend on what it writes. -/
theorem State.frameOp_after (s : State) (c : Ctx) (depth : Nat) (ws : List Word) : (s.frameOp c depth ws).after = (s.frameOp c depth []).after := by
  have hplaces (vs : List Word) : (s.frameOp c depth vs).lanes.map (fun e => (e.2.1, 8)) =
      (List.range 4).filterMap fun j => (s.imagePa c.launch c.block (c.frame depth + 8 * j)).map fun pa => (pa, 8) := by
    simp [State.frameOp, List.map_filterMap, Function.comp_def]
  show s.conflicts c false ((s.frameOp c depth ws).lanes.map fun e => (e.2.1, 8)) = s.conflicts c false ((s.frameOp c depth []).lanes.map fun e => (e.2.1, 8))
  rw [hplaces, hplaces]

/-- On contiguous bytes the store has four lanes, one after the other. -/
theorem State.frameOp_lanes {s : State} {c : Ctx} {depth pa : Nat} (h : ∀ j < 32, s.imagePa c.launch c.block (c.frame depth + j) = some (pa + j))
    (ws : List Word) : (s.frameOp c depth ws).lanes = (List.range 4).map fun j => (j, pa + 8 * j, ws.getD (2 * j + 1) 0 ++ ws.getD (2 * j) 0, 0) := by
  refine (List.filterMap_congr fun j hj => ?_).trans (congrFun List.filterMap_eq_map _)
  have hj4 := List.mem_range.mp hj
  rw [h (8 * j) (by omega)]
  rfl

theorem leBytes_append (v : Nat) (n k : Nat) : leBytes (n + k) v = leBytes n v ++ leBytes k (v / 256 ^ n) := by
  induction n generalizing v with
  | zero => simp [leBytes]
  | succ n ih => rw [Nat.succ_add, leBytes, ih, leBytes, Nat.div_div_eq_div_mul, Nat.pow_succ', List.cons_append]

theorem leBytes_mod (v n : Nat) : leBytes n (v % 256 ^ n) = leBytes n v := by
  have h := leBytes_leNat (leBytes n v)
  rwa [leBytes_length, leNat_leBytes] at h

theorem leBytes_pair (lo hi : Word) : leBytes 8 (hi ++ lo).toNat = leBytes 4 lo.toNat ++ leBytes 4 hi.toNat := by
  have hv : (hi ++ lo).toNat = 256 ^ 4 * hi.toNat + lo.toNat := by
    rw [BitVec.toNat_append, ← Nat.shiftLeft_add_eq_or_of_lt lo.isLt, Nat.shiftLeft_eq]
    omega
  have hlo : lo.toNat < 256 ^ 4 := lo.isLt
  rw [leBytes_append _ 4 4, ← leBytes_mod, hv, Nat.mul_add_mod, Nat.mod_eq_of_lt hlo, Nat.mul_add_div (by decide), Nat.div_eq_of_lt hlo, Nat.add_zero]

theorem wordBytes_length (ws : List Word) : (wordBytes ws).length = 4 * ws.length := by
  induction ws with
  | nil => rfl
  | cons w ws ih =>
    rw [wordBytes_cons, List.length_append, leBytes_length, ih, List.length_cons]
    omega

theorem State.storeLanes_append (s : State) (o : Op) (es : List (Nat × Nat × DWord × DWord)) (lane addr : Nat) (v k : DWord) :
    s.storeLanes o (es ++ [(lane, addr, v, k)]) = (s.storeLanes o es).opWrite o lane addr (leBytes o.width v.toNat) := List.foldl_append

theorem State.Records.clearPoison {s t : State} {c : Ctx} {pa : Nat} {bs : List Byte} (h : s.Records c t pa bs) (rs : List (Nat × Nat)) :
    s.Records c (t.clearPoison rs) pa bs := by
  obtain ⟨d, hst⟩ := h.stores
  exact ⟨⟨d, hst.trans (.ofMemory hst.here (.clearPoison ..))⟩, h.takes.congr rfl rfl rfl, h.records⟩

/-- The first `n` lanes of the store write the first `2 n` words. -/
theorem State.Records.frameLanes {s : State} {c : Ctx} (hc : s.ctx? c.ref = some c) (ht : s.transit = []) (hd : dieOf c.group.core < s.dies.length)
    {o : Op} (ho : o.PlainStore c.ref) (hw : o.width = 8) {pa : Nat} {w : Nat → Word}
    (hcards : ∀ e ∈ s.records, ∀ j < 32, s.cardOffsets e false c.ref.launch c.ref.block (pa + j) = []) (n : Nat) (hn : n ≤ 4) :
    s.Records c (s.storeLanes o ((List.range n).map fun j => (j, pa + 8 * j, w (2 * j + 1) ++ w (2 * j), 0))) pa (wordBytes ((List.range (2 * n)).map w)) := by
  induction n with
  | zero => exact .nothing hc ht pa
  | succ n ih =>
    have hlen : (wordBytes ((List.range (2 * n)).map w)).length = 8 * n := by
      rw [wordBytes_length, List.length_map, List.length_range]
      omega
    have hpair : wordBytes ((List.range (2 * (n + 1))).map w) =
        wordBytes ((List.range (2 * n)).map w) ++ leBytes o.width (w (2 * n + 1) ++ w (2 * n)).toNat := by
      rw [hw, leBytes_pair, Nat.mul_add, List.range_succ, List.range_succ]
      simp [wordBytes]
    have hstep := (ih (by omega)).opWrite hd ho n (bs := leBytes o.width (w (2 * n + 1) ++ w (2 * n)).toNat) fun e he i hi => by
      rw [leBytes_length, hw] at hi
      rw [hlen, Nat.add_assoc]
      exact hcards e he _ (by omega)
    rw [hlen] at hstep
    rw [hpair, List.range_succ, List.map_append, List.map_singleton, State.storeLanes_append]
    exact hstep

/-- Where every lane has its own bytes, each lane's value remains. -/
theorem lastLanes_of_pairwise {es : List (Nat × Nat × DWord × DWord)} (h : es.Pairwise fun e f => f.2.1 ≠ e.2.1) : lastLanes es = es := by
  induction es with
  | nil => rfl
  | cons e es ih =>
    obtain ⟨he, hes⟩ := List.pairwise_cons.mp h
    rw [lastLanes, if_neg (fun h => ?_), ih hes]
    obtain ⟨f, hf, heq⟩ := List.any_eq_true.mp h
    exact he f hf (eq_of_beq heq)

/-- A frame record written at once. -/
theorem State.Records.frame {s : State} {c : Ctx} (hc : s.ctx? c.ref = some c) (ht : s.transit = []) (hd : dieOf c.group.core < s.dies.length)
    {depth pa : Nat} (hpa : ∀ j < 32, s.imagePa c.launch c.block (c.frame depth + j) = some (pa + j))
    (hcards : ∀ e ∈ s.records, ∀ j < 32, s.cardOffsets e false c.ref.launch c.ref.block (pa + j) = []) {ws : List Word} (hws : ws.length = 8) :
    s.Records c (s.performStore (s.frameOp c depth ws)) pa (wordBytes ws) := by
  have hlanes := State.frameOp_lanes hpa ws
  have hlast : lastLanes (s.frameOp c depth ws).lanes = (s.frameOp c depth ws).lanes := lastLanes_of_pairwise <| by
    rw [hlanes, List.pairwise_map]
    exact List.nodup_range.imp fun h => by simpa using Ne.symm h
  have hall : (List.range (2 * 4)).map (fun j => ws.getD j 0) = ws := List.ext_getElem (by simp [hws]) fun i h1 h2 => by
    simp [List.getD_eq_getElem?_getD, h2]
  have h := State.Records.frameLanes hc ht hd (s.frameOp_plain c depth ws) rfl hcards (w := fun j => ws.getD j 0) 4 (Nat.le_refl 4)
  rw [hall] at h
  rw [State.performStore_eq (s.frameOp_plain c depth ws), hlast, hlanes]
  exact h.clearPoison _

end Sys2Proof.Machine
end

section
/-! SUPPORT. The word `call` (R151): what it leaves of its path and group, and what stands as it was. -/

namespace Sys2Proof.Machine

/-! ### The group after a call -/

/-- The path that goes to `target` with its link at `link`. -/
def Path.called (target : Nat) (link : Word) (p : Path) : Path := { (p.goto target).forgetLast with priv := p.priv.put 120 link }

/-- The group once its path `k` has gone to a routine with the window at `depth`. -/
def Group.called (k depth : Nat) (f : Path → Path) (z : Group) : Group := { z with depth := depth }.updPath k f

theorem Group.called_at {z : Group} {k : Nat} {p : Path} (hp : z.paths[k]? = some p) (depth : Nat) (f : Path → Path) :
    (z.called k depth f).paths[k]? = some (f p) := Group.updPath_at (z := { z with depth := depth }) hp f

/-- A group that has stored stands as it did, but for its counters and the order of its later accesses. -/
theorem Group.unstored_standing {y z : Group} (h : y.unstored = z.unstored) : y.standing.unordered = { z.standing.unordered with sb := y.sb } := by
  have hy (x : Group) (sb : List Nat) : ({ x.standing.unordered with sb := sb } : Group) = { x.unstored.standing.unordered with sb := sb } := rfl
  calc y.standing.unordered = { y.unstored.standing.unordered with sb := y.sb } := hy y y.sb
    _ = { z.unstored.standing.unordered with sb := y.sb } := by rw [h]
    _ = { z.standing.unordered with sb := y.sb } := (hy z y.sb).symm

/-- A call changes the link and the depth of the window alone among the registers. -/
theorem Group.getReg_called {y z : Group} {k : Nat} {p q : Path} (hstack : y.stack = z.stack) (hoper : y.oper = z.oper) (hscal : y.scalars = z.scalars)
    (hp : z.paths[k]? = some p) (hq : y.paths[k]? = some q) (hpriv : q.priv = p.priv) (hmask : q.mask = p.mask) (depth target : Nat) (link : Word)
    (l b : Nat) {r : LaneReg} (h1 : r ≠ .scal 120) (h2 : r ≠ .scal 121) (lane : Nat) :
    (y.called k depth (Path.called target link)).getReg l b k r lane = z.getReg l b k r lane := by
  have hz : z.paths.getD k Path.dead = p := by rw [List.getD_eq_getElem?_getD, hp, Option.getD_some]
  have hy : (y.called k depth (Path.called target link)).paths.getD k Path.dead = Path.called target link q := by
    rw [List.getD_eq_getElem?_getD, Group.called_at hq, Option.getD_some]
  cases r with
  | stack m => exact congrArg (·.get (96 * m + lane)) hstack
  | oper m => exact congrArg (·.get (96 * m + lane)) hoper
  | scal m =>
    have hm : m ≠ 120 := fun e => h1 (congrArg LaneReg.scal e)
    have hm' : m ≠ 121 := fun e => h2 (congrArg LaneReg.scal e)
    have hget : (Path.called target link q).priv.get m = p.priv.get m := (Sparse.get_put_other _ _ hm).trans (by rw [hpriv])
    have hmk : (Path.called target link q).mask = p.mask := hmask
    have hsc : (y.called k depth (Path.called target link)).scalars = z.scalars := hscal
    simp only [Group.getReg, readScalar, hz, hy, hget, hmk, hsc, if_neg hm']

/-! ### The word -/

/-- The state after `call`, which slides the window to `depth` over the frame record `ws`. -/
def State.calls (s : State) (c : Ctx) (i : Instr) (depth target : Nat) (link : Word) (ws : List Word) : State :=
  ((s.storeFrame c (s.frameOp c depth ws)).noteIssue c i (issueOf c i 2)).updPathGroup c.ref (Group.called c.ref.path depth (Path.called target link))

theorem State.storeFrame_now {s : State} {c : Ctx} {o : Op} (h : o.after = []) : s.storeFrame c o = s.performStore o := if_pos (List.isEmpty_iff.mpr h)

theorem State.storeFrame_later {s : State} {c : Ctx} {o : Op} (h : o.after ≠ []) : s.storeFrame c o = s.startOp c o [] 0 :=
  if_neg (mt List.isEmpty_iff.mp h)

theorem State.Stores.storeFrame {s : State} {c : Ctx} (hc : s.ctx? c.ref = some c) (depth : Nat) (ws : List Word) :
    ∃ d, s.Stores c (s.storeFrame c (s.frameOp c depth ws)) d := by
  unfold State.storeFrame
  split
  · exact State.Stores.performStore hc (s.frameOp_plain c depth ws)
  · exact State.Stores.startOp hc rfl

theorem State.SameUnitsMem.cycle {s t : State} (h : s.SameUnitsMem t) : t.cycle = s.cycle := by
  obtain ⟨ls, os, g, ds, m, tr, id, ps, lost, rfl⟩ := h
  rfl

theorem State.startOp_parts (s : State) (c : Ctx) (o : Op) (regs : List LaneReg) (m : Lanes) : (s.startOp c o regs m).cycle = s.cycle ∧
    (s.startOp c o regs m).dies = s.dies ∧ (s.startOp c o regs m).ops = s.ops ++ [{ o with id := s.nextId }] := by
  obtain ⟨f, -, he⟩ := s.startOp_eq c o regs m
  rw [he]
  exact ⟨rfl, rfl, rfl⟩

theorem State.storeFrame_cycle (s : State) (c : Ctx) (depth : Nat) (ws : List Word) : (s.storeFrame c (s.frameOp c depth ws)).cycle = s.cycle := by
  unfold State.storeFrame
  split
  · exact (State.SameUnitsMem.performStore (s.frameOp_plain c depth ws) s).cycle
  · exact (s.startOp_parts ..).1

/-- A word of `c` issues after a store of its group. -/
theorem State.Within.noteIssue_stored {s : State} {c d : Ctx} (hd : s.ctx? d.ref = some d) (hr : d.ref = c.ref) (i : Instr) (w : Issue) :
    ∃ c' t free, s.Within d (s.noteIssue c i w) c' ∧ t = s.cycle ∧ c'.group = d.group.noteIssue c.ref.path c.path (c.path.spanOf i) w t free ∧
      c'.path = d.path.noteIssue w t free := by
  obtain ⟨r, x, y, z, p⟩ := d
  obtain rfl : r = c.ref := hr
  obtain ⟨-, -, -, -, hat, hv⟩ := State.ctx?_parts hd
  have hp : (z.noteIssue c.ref.path c.path (c.path.spanOf i) w s.cycle (s.owner c.launch.owner).free).paths[c.ref.path]? =
      some (p.noteIssue w s.cycle (s.owner c.launch.owner).free) := by
    rw [Group.noteIssue_paths, List.getElem?_modify_eq, hat]
    rfl
  have h1 := State.Within.updPathGroup hd (fun z => z.noteIssue c.ref.path c.path (c.path.spanOf i) w s.cycle (s.owner c.launch.owner).free)
    (fun _ => rfl) hp hv
  obtain ⟨l, h2⟩ := State.Within.metered h1.here (State.noteIssue_metered s c i w) fun hn => by
    have hx := (State.ctx?_parts h1.here).2.1
    cases hcn : c.path.counted
    · simp [State.noteIssue, hcn, State.logSwitch_dies (p := c.ref) hx hn]
    · simp [State.noteIssue, hcn]
  exact ⟨_, _, _, h1.trans h2, rfl, rfl, rfl⟩

/-- A frame record that is written at once changes memory alone, and its state. -/
theorem State.SameUnitsMem.calls {s : State} {c : Ctx} {depth : Nat} (ha : (s.frameOp c depth []).after = []) (i : Instr) (target : Nat) (link : Word)
    (ws : List Word) : s.SameUnitsMem (s.calls c i depth target link ws) := by
  have hstore : s.SameUnitsMem (s.storeFrame c (s.frameOp c depth ws)) := by
    rw [State.storeFrame_now ((s.frameOp_after ..).trans ha)]
    exact .performStore (s.frameOp_plain c depth ws) s
  exact (hstore.trans (State.SameUnits.noteIssue ..).toMem).trans (State.SameUnits.updPathGroup ..).toMem

theorem State.SameUnits.ops {s t : State} (h : s.SameUnits t) : t.ops = s.ops := by
  obtain ⟨ls, os, g, ds, m, rfl⟩ := h
  rfl

theorem State.calls_ops (s : State) (c : Ctx) (i : Instr) (depth target : Nat) (link : Word) (ws : List Word) :
    (s.calls c i depth target link ws).ops = (s.storeFrame c (s.frameOp c depth ws)).ops :=
  ((State.SameUnits.noteIssue ..).trans (State.SameUnits.updPathGroup ..)).ops

section
variable {s : State} {c : Ctx} {i : Instr} (h : s.Issues c i) {depth target : Nat} {link : Word} {ws : List Word}
include h

/-- What a call leaves. -/
theorem State.Issues.calls : ∃ d c' free, s.Stores c (s.storeFrame c (s.frameOp c depth ws)) d ∧
    (s.calls c i depth target link ws).ctx? c.ref = some c' ∧ s.SameBeyond (s.calls c i depth target link ws) c c' ∧
    c'.group = (d.group.noteIssue c.ref.path c.path (c.path.spanOf i) (issueOf c i 2) s.cycle free).called c.ref.path depth (Path.called target link) ∧
    c'.path = Path.called target link (d.path.noteIssue (issueOf c i 2) s.cycle free) ∧
    (c.launch.replay = none → (s.calls c i depth target link ws).dies = (s.storeFrame c (s.frameOp c depth ws)).dies) := by
  obtain ⟨d, hd⟩ := State.Stores.storeFrame h.ctx depth ws
  obtain ⟨e, t, free, he, rfl, hg, hp⟩ := State.Within.noteIssue_stored hd.here hd.ref i (issueOf c i 2)
  rw [s.storeFrame_cycle] at hg hp
  have her : e.ref = c.ref := he.ref.trans hd.ref
  have hlive := (State.ctx?_parts he.ctx).2.2.2.2
  rw [hd.ref] at hlive
  have hu := State.Within.updPathGroup he.here (Group.called c.ref.path depth (Path.called target link)) (fun _ => rfl)
    (p := Path.called target link e.path) (by rw [her]; exact Group.called_at hlive.1 ..) hlive.2
  rw [her] at hu
  have hctx := hu.ctx
  rw [her] at hctx
  refine ⟨d, _, free, hd, hctx, (hd.beyond.trans hd.ref he.beyond).trans her hu.beyond, ?_, ?_, fun hr => ?_⟩
  · exact congrArg (Group.called c.ref.path depth (Path.called target link)) hg
  · exact congrArg (Path.called target link) hp
  · exact he.dies (hd.replay hr)

/-- A call that goes on: its path, its group, and what stands as it was. -/
theorem State.Issues.calls_spec : ∃ c', (s.calls c i depth target link ws).ctx? c.ref = some c' ∧ c.Jumped s i 2 (target % 2 ^ 64) c' ∧
    s.SameBeyond (s.calls c i depth target link ws) c c' ∧ c.SameFlags c' ∧ c'.path.l0Def = false ∧ c'.path.l1Def = false ∧
    c'.group.standing.unordered = { c.group.standing.unordered with depth := depth, sb := c'.group.sb } ∧
    (∀ j < 6, c'.group.sbCount j = c.group.sbCount j) ∧ c'.path.standing.unordered = c.path.standing.unordered ∧ c'.path.mask = c.path.mask ∧
    c'.path.priv.get 120 = link ∧ (∀ r lane, lane < 96 → r ≠ .scal 120 → r ≠ .scal 121 → c'.reg r lane = c.reg r lane) ∧
    c'.reg (.scal 121) 0 = BitVec.ofNat 32 depth := by
  obtain ⟨d, c', free, hd, hc, hb, hg, hp, -⟩ := h.calls (depth := depth) (target := target) (link := link) (ws := ws)
  obtain ⟨own, hown⟩ := hd.path
  rw [hown] at hp
  have hat := (State.ctx?_parts hd.here).2.2.2.2.1
  rw [hd.ref, hown] at hat
  have hnoted : (d.group.noteIssue c.ref.path c.path (c.path.spanOf i) (issueOf c i 2) s.cycle free).paths[c.ref.path]? =
      some (({ c.path with own := own } : Path).noteIssue (issueOf c i 2) s.cycle free) := by
    rw [Group.noteIssue_paths, List.getElem?_modify_eq, hat]
    rfl
  have hflags : d.group.flags = c.group.flags := (congrArg Group.flags hd.group :)
  have hstack : d.group.stack = c.group.stack := (congrArg Group.stack hd.group :)
  have hoper : d.group.oper = c.group.oper := (congrArg Group.oper hd.group :)
  have hscal : d.group.scalars = c.group.scalars := (congrArg Group.scalars hd.group :)
  refine ⟨c', hc, ⟨?_, ?_, ?_, ?_⟩, hb, ?_, ?_, ?_, ?_, fun j hj => ?_, ?_, ?_, ?_, fun r lane _ h1 h2 => ?_, ?_⟩
  · rw [hp]
    exact ⟨rfl, rfl⟩
  · rw [hp]
    rfl
  · rw [hp]
    rfl
  · rw [hp]
    exact h.live
  · rw [Ctx.SameFlags, hg]
    exact hflags
  · rw [hp]
    rfl
  · rw [hp]
    rfl
  · rw [hg]
    exact congrArg (fun z : Group => { z with depth := depth }) (Group.unstored_standing hd.group)
  · rw [hg]
    exact hd.counters j hj
  · rw [hp]
    rfl
  · rw [hp]
    rfl
  · rw [hp]
    exact Sparse.get_put_same ..
  · rw [Ctx.reg, (State.ctx?_parts hc).1, hg]
    exact Group.getReg_called (y := d.group.noteIssue c.ref.path c.path (c.path.spanOf i) (issueOf c i 2) s.cycle free) (z := c.group) hstack hoper
      hscal (State.ctx?_parts h.ctx).2.2.2.2.1 hnoted rfl rfl _ _ _ _ _ h1 h2 _
  · rw [Ctx.reg, hg]
    rfl

/-- A frame record that waits is a store in flight. -/
theorem State.Issues.calls_later (ha : (s.frameOp c depth []).after ≠ []) :
    (c.launch.replay = none → s.SameMemory (s.calls c i depth target link ws)) ∧
    ∃ op : Op, (s.calls c i depth target link ws).ops = s.ops ++ [op] ∧ op.kind = .store ∧ op.path = c.ref ∧ op.after = (s.frameOp c depth []).after := by
  have hafter := s.frameOp_after c depth ws
  have hstore := State.storeFrame_later (s := s) (c := c) (hafter.trans_ne ha)
  obtain ⟨-, hdies, hops⟩ := s.startOp_parts c (s.frameOp c depth ws) [] 0
  obtain ⟨d, c', free, -, -, -, -, -, hd⟩ := h.calls (depth := depth) (target := target) (link := link) (ws := ws)
  rw [← hstore] at hdies hops
  exact ⟨fun hr v pa => State.readPhys_congr ((hd hr).trans hdies) v pa 1, { s.frameOp c depth ws with id := s.nextId },
    (s.calls_ops c i depth target link ws).trans hops, rfl, rfl, hafter⟩

/-- Where the record lies on contiguous bytes that no job card's output covers, and no other write is in transit, it is in memory, and nothing else. -/
theorem State.Issues.calls_record (hr : c.launch.replay = none) (hd : dieOf c.group.core < s.dies.length) (ht : s.transit = [])
    (ha : (s.frameOp c depth []).after = []) {pa : Nat} (hpa : ∀ j < 32, s.imagePa c.launch c.block (c.frame depth + j) = some (pa + j))
    (hcards : ∀ e ∈ s.records, ∀ j < 32, s.cardOffsets e false c.ref.launch c.ref.block (pa + j) = []) (hws : ws.length = 8) :
    (s.calls c i depth target link ws).readPhys (dieOf c.group.core) pa 32 = wordBytes ws ∧
      ∀ view a, ¬(view = dieOf c.group.core ∧ pa ≤ a ∧ a < pa + 32) →
        (s.calls c i depth target link ws).readPhys view a 1 = s.readPhys view a 1 := by
  obtain ⟨d, c', free, -, -, -, -, -, hdies⟩ := h.calls (depth := depth) (target := target) (link := link) (ws := ws)
  have hnow := State.storeFrame_now (s := s) (c := c) ((s.frameOp_after c depth ws).trans ha)
  have hw := (State.Records.frame h.ctx ht hd hpa hcards hws).takes.writes.congr ((hdies hr).trans (congrArg State.dies hnow))
  have hlen : (wordBytes ws).length = 32 := by rw [wordBytes_length, hws]
  have hsame := hw.read_same
  rw [hlen] at hsame
  exact ⟨hsame, fun view a hq => hw.read_other (by rw [hlen]; exact hq)⟩

end

/-- The words of the frame record that a call over `k` lines writes. -/
def State.callRecord (s : State) (c : Ctx) (k : Nat) : List Word :=
  maskWords c.path.mask ++ [s.readReg c (.scal 120) 0 0 s.cycle, BitVec.ofNat 32 k, 0, 0, 0]

theorem State.Issues.exec_call {s : State} {c : Ctx} {st : BitVec 2} {n : BitVec 3} {o : BitVec 20} (h : s.Issues c (.call st n o)) :
    exec (.call st n o) s = .next (
      if c.path.mask = 0 then s.completes c (.call st n o) 0 fun s1 => s1
      else if 1 < c.group.livePaths then s.illegal c 32
      else if c.launch.header.stack < c.group.depth + (n.toNat + 1) + 8 then s.illegal c 33
      else if s.pumpHeld c.launch then s.heldByCap c.ref
      else s.calls c (.call st n o) (c.group.depth + (n.toNat + 1)) (c.path.target o) (BitVec.ofNat 32 c.path.nextPc) (s.callRecord c (n.toNat + 1))) :=
  h.word _

/-- Settles O7: the refusals come first, in their order; what goes on writes the frame record, at once or as a store that waits. -/
theorem call : Obligations.Call := by
  unfold Obligations.Call
  intro s c st n o h i k d record
  refine ⟨fun h0 => ?_, fun h0 h1 => ?_, fun h0 h1 h2 => ?_, fun h0 h1 h2 h3 => ?_, fun h0 h1 h2 h3 => ?_⟩
  · exact h.plainWord (h.exec_call.trans (congrArg _ (if_pos h0)))
  · have htwo : 1 < c.group.livePaths := h1
    rw [h.exec_call, if_neg h0, if_pos htwo]
  all_goals
    have hone : ¬1 < c.group.livePaths := Nat.not_lt.mpr h1
    rw [h.exec_call, if_neg h0, if_neg hone]
  · rw [if_pos h2]
  · rw [if_neg (Nat.not_lt.mpr h2), if_pos h3]
  · rw [if_neg (Nat.not_lt.mpr h2), if_neg (by simp [h3])]
    obtain ⟨c', hc, hj, hb, hf, hl0, hl1, hz, hsb, hp, hm, hlink, hregs, hdepth⟩ := h.calls_spec (depth := d + k) (target := c.path.target o)
      (link := BitVec.ofNat 32 c.path.nextPc) (ws := s.callRecord c k)
    rw [Path.target_mod] at hj
    exact ⟨_, c', rfl, hc, hj, hb, hf, hl0, hl1, hz, hsb, hp, hm, hlink, hregs, hdepth, fun ha => .calls ha _ _ _ _, h.calls_later,
      fun pa hr hd ht ha hpa hcards => h.calls_record hr hd ht ha hpa hcards rfl⟩

end Sys2Proof.Machine
end
